-- ==== Sys2Proof/Word.lean ====
section
/-!
DEFINITION. The word types of the TX-6440 and their plainest arithmetic (R11, R12, R270).
-/

namespace Sys2Proof

/-- A general register or special register: 32 bits (R269). -/
abbrev Word := BitVec 32

/-- One byte of memory (R243). -/
abbrev Byte := BitVec 8

/-- A 64-bit value: a register pair, a tag, a frame number (R270, R122). -/
abbrev DWord := BitVec 64

/-- The pair value of R270: the even register holds bits [63:32]. -/
def pairOf (hi lo : Word) : DWord := hi ++ lo

/-- Bits [63:32] of a pair value. -/
def hiWord (v : DWord) : Word := v.extractLsb' 32 32

/-- Bits [31:0] of a pair value. -/
def loWord (v : DWord) : Word := v.extractLsb' 0 32

/-- `b` as one bit. -/
def bit (b : Bool) : BitVec 1 := if b then 1#1 else 0#1

end Sys2Proof
end

