-- ==== Sys2Proof/Syntax.lean ====
section
/-!
DEFINITION. The commands of the TX-6440: one constructor of `Instr` per row of spec/opcode_table.json, with the operands
the spec gives the row, and the operand types.
-/

namespace Sys2Proof

/-- A physical core, 0 to 67 (R269, R443). -/
abbrev CoreId := Fin 68
/-- A logical core, 0 to 63 (R269). -/
abbrev LogId := Fin 64
/-- A 100G port, 0 to 3 (R84). -/
abbrev PortId := Fin 4
/-- A port that takes frames: a 100G port (R84), or a field port, false for 0 and true for 1 (R485). -/
inductive NetPort where
  | eth (p : PortId)
  | field (f : Bool)
deriving DecidableEq, Repr
/-- A channel group of the NAND media, 0 to 3 (R155). -/
abbrev GroupId := Fin 4
/-- The guard field [31:28] of an instruction word (R307). -/
abbrev Guard := BitVec 4
/-- A register field: rd, rs, rt or base (R306). -/
abbrev Reg := BitVec 5
/-- A predicate number (R317). -/
abbrev PredNo := BitVec 3
/-- A 12-bit immediate (R306). -/
abbrev Imm12 := BitVec 12

/-- What a UDP checksum was found to be (R85). -/
inductive UdpSum where
  | good | bad | zero
deriving DecidableEq, Repr

/-- What the port engine's MAC and IP parser reports of a received frame, with the UDP payload (R84 to R90; log 15). -/
structure Datagram where
  port : PortId
  /-- bytes from destination address to FCS (R84) -/
  size : Nat
  fragment : Bool
  pause : Bool
  tags : Nat
  vid : BitVec 12
  udp : Bool
  ip6 : Bool
  /-- IPv4 options or an IPv6 extension header (R85) -/
  options : Bool
  ipSumGood : Bool
  udpSum : UdpSum
  mac : BitVec 48
  src : BitVec 128
  dst : BitVec 128
  udpDst : BitVec 16
  data : List Byte
deriving DecidableEq, Repr

/-- Why a frame that is not VRT is discarded (R84, R86). -/
inductive NonVrt where
  | oversize | pause | stacked | other
deriving DecidableEq, Repr

/-- The data set of an Announce message that the best master clock algorithm compares (R48; log 67). -/
structure Announce where
  priority1 : BitVec 8
  clockClass : BitVec 8
  accuracy : BitVec 8
  variance : BitVec 16
  priority2 : BitVec 8
  identity : BitVec 64
  steps : BitVec 16
  sender : BitVec 80
deriving DecidableEq, Repr

/-- What a PTP message is to the slave (R48): an Announce, the end of a sync interval with the offset measured in it, a management message, or one that
carries nothing else the device knows. -/
inductive PtpKind where
  | announce (a : Announce)
  | sync (offset : Int)
  | management
  | unknown
deriving DecidableEq, Repr

/-- A received PTP message (R48): its port, its profile (1 the default profile, 2 IEEE 802.1AS), and its domain. -/
structure PtpFacts where
  port : NetPort
  profile : BitVec 8
  domain : BitVec 8
  kind : PtpKind
deriving DecidableEq, Repr

/-- A ZDP client's source: a field port with its UDP source, or the CAN FD channel (R483). -/
inductive Client where
  | udp (field : Bool) (addr : BitVec 128) (port : BitVec 16)
  | can
deriving DecidableEq, Repr

/-- A ZDP message as it arrives: its source and its bytes, header, data and tag (R475); over UDP also the destination port and the 802.1Q tags of its
frame (R485), which a message of the CAN FD channel does not have. -/
structure ZdpMsg where
  src : Client
  bytes : List Byte
  dport : BitVec 16 := 0
  tags : Nat := 0
  vid : BitVec 12 := 0
deriving DecidableEq, Repr

/-- A write to an object at its point of service: the session that makes it (its ID) and the whole value (R470, R474). -/
structure ObjWrite where
  sid : Nat
  value : List Byte
deriving DecidableEq, Repr

/-- How far one codeword's decoding got (R203): at the default read levels, at a retry level in declared order from 1, by the soft decode, or not
at all. -/
inductive ReadTry where
  | hard
  | retry (level : Nat)
  | soft
  | fail
deriving DecidableEq, Repr

/-- What a media operation reports. -/
inductive MediaResult where
  /-- a program, erase, suspend or raw sequence that reports success, with the last status byte -/
  | done (status : Byte)
  /-- a read: its worst codeword's decoding, those of the seven other members of the parity group where it fails, and the bits corrected (R203) -/
  | read (own : ReadTry) (members : List ReadTry) (corrected : Nat)
  /-- a program or erase that reports failure (R211) -/
  | failed
deriving DecidableEq, Repr

/-- The errors that a code word has gathered since it was last written: its wrong symbols by place,
with what is wrong in each; of scratch the wrong bits (R249, R253; log 11). -/
structure EccFinding where
  wrong : List (Nat × BitVec 8)
deriving DecidableEq, Repr

/-- A LUN as discovery finds it (R196, R210): its place 4 * chip enable + LUN, whether a copy of its parameter page verifies, and its multi-plane blocks
with the factory bad-block mark. -/
structure LunFacts where
  pos : Fin 32
  verifies : Bool
  factoryBad : List Nat
deriving DecidableEq, Repr

/-- A channel as discovery finds it: what the parameter pages of its LUNs declare (R194 to R197), times in ns. -/
structure ChanFacts where
  luns : List LunFacts
  pageBytes : Nat
  planes : Nat
  pages : Nat
  blocks : Nat
  tCmd : Nat
  tProg : Nat
  tRead : Nat
  tErase : Nat
  /-- 1 NV-DDR3, 2 NV-LPDDR4, 0 neither -/
  iface : BitVec 8
  /-- the rates in MT/s of the timing modes that every LUN declares and at which training passes (R195) -/
  modes : List Nat
  bitsPerCell : Nat
  suspendProgram : Bool
  suspendErase : Bool
  /-- retry levels declared (R203) -/
  levels : Nat
  /-- chip enable and LUN of the first LUN whose geometry differs from LUN 0 of chip enable 0 (R197) -/
  mismatch : Option (Nat × Nat)
  /-- spare bytes per 4 KiB -/
  spare : Nat
  /-- program and erase cycles that the parameter page declares (R212) -/
  endurance : Nat
deriving DecidableEq, Repr

/-- One DRAM channel as training finds it (R251, R252). -/
structure DramFacts where
  rate : Nat
  capacity : Nat
  width : Nat
  ranks : Nat
deriving DecidableEq, Repr

/-- What boot finds on the board: the steps of R515 read it (log 16). -/
structure BootFacts where
  /-- PFAIL_N is asserted at the end of step 4 (R560) -/
  pfail : Bool
  /-- whether each firmware slot passes its format check, its signature check (R516) -/
  slotFormat : Bool × Bool
  slotSigned : Bool × Bool
  /-- neither copy of the configuration area verifies (R472) -/
  configLost : Bool
  /-- sequences of the entries of the log ring whose tags do not verify: of all of them where the always-on SRAM lost its power (R509) -/
  ringBad : List Nat
  /-- domains that fail to report power good (R550) -/
  deadDomains : List Nat
  chans : List ChanFacts
  /-- whether the system-area image of each of the four groups reads back and its SHA-256 verifies (R205) -/
  sysGood : List Bool
  dram : DramFacts × DramFacts
  /-- milliseconds from the start of boot to the end of step 6 (R513) -/
  bootMs : Nat
deriving DecidableEq, Repr

/-- The Carafe's samples of the ended frame: lowest and highest VHOLD_SENSE code (R168), and the frame's end facts that the
world supplies. -/
structure TickFacts where
  vlo : BitVec 16
  vhi : BitVec 16
deriving DecidableEq, Repr

/-- What the 1 ms sensor round reads (R501). -/
structure SensorFacts where
  /-- 24 temperatures in 0.1 degC -/
  temps : List Int
  /-- 8 rail voltages in mV -/
  rails : List Nat
  /-- the VHOLD_SENSE code, and the ISENSE_P/ISENSE_N difference in microvolts (R168) -/
  bankCode : BitVec 16
  isenseUV : Int
  /-- the 112 power-good bits -/
  good : BitVec 112
deriving DecidableEq, Repr

/-- A CAN FD frame (R488). -/
structure CanFrame where
  ident : BitVec 11
  data : List Byte
deriving DecidableEq, Repr

/-- The states of CAN FD fault confinement, as 0x0206.05 codes them (R486, R487). -/
inductive CanState where
  | errorActive | errorPassive | busOff
deriving DecidableEq, Repr

/-- What a read, scrub or relocation of flash names: a group's journal block by its place in the group's data space, a bulk record by
its number in the index, a block of a boot image, or the system area (R213, R235). -/
inductive FlashRef where
  | journal (group : GroupId) (block : Nat)
  | bulk (id : Nat)
  | image (num version block : Nat)
  /-- a parity unit of the journal, by its stripe and row (R201) -/
  | parity (group : GroupId) (row : Nat)
  /-- the image of a durable page (R209) -/
  | page (n : Nat)
  | system
deriving DecidableEq, Repr

/-- The areas of flash that a scrub read goes through (R213). -/
inductive FlashArea where
  /-- a group's journal: its data members, and its parity units -/
  | journal (group : GroupId)
  | parity (group : GroupId)
  /-- bulk storage: its records, the blocks of a boot image, and the images of durable pages -/
  | bulk
  | image (num : Nat)
  | pages
  | system
deriving DecidableEq, Repr

/-- What a PMBus transaction reads of the supply: STATUS_WORD, and whether VOUT_MODE is ULINEAR16 (R553, R556). -/
structure PmbusStatus where
  word : BitVec 16
  linear : Bool
deriving DecidableEq, Repr

/-- The commands. Core-instruction rows name the physical core that executes the instruction and the fields of its word
(R306); the other rows name what their rules name. -/
inductive Instr where
  -- ALU group, R312
  | add (c : CoreId) (g : Guard) (rd rs rt : Reg)
  | sub (c : CoreId) (g : Guard) (rd rs rt : Reg)
  | and (c : CoreId) (g : Guard) (rd rs rt : Reg)
  | or (c : CoreId) (g : Guard) (rd rs rt : Reg)
  | xor (c : CoreId) (g : Guard) (rd rs rt : Reg)
  | andn (c : CoreId) (g : Guard) (rd rs rt : Reg)
  | min (c : CoreId) (g : Guard) (rd rs rt : Reg)
  | max (c : CoreId) (g : Guard) (rd rs rt : Reg)
  | minu (c : CoreId) (g : Guard) (rd rs rt : Reg)
  | maxu (c : CoreId) (g : Guard) (rd rs rt : Reg)
  | neg (c : CoreId) (g : Guard) (rd rs : Reg)
  | abs (c : CoreId) (g : Guard) (rd rs : Reg)
  | mov (c : CoreId) (g : Guard) (rd rs : Reg)
  | sextb (c : CoreId) (g : Guard) (rd rs : Reg)
  | sexth (c : CoreId) (g : Guard) (rd rs : Reg)
  | zextb (c : CoreId) (g : Guard) (rd rs : Reg)
  | zexth (c : CoreId) (g : Guard) (rd rs : Reg)
  | clz (c : CoreId) (g : Guard) (rd rs : Reg)
  | popc (c : CoreId) (g : Guard) (rd rs : Reg)
  | bswap (c : CoreId) (g : Guard) (rd rs : Reg)
  | bswaph (c : CoreId) (g : Guard) (rd rs : Reg)
  -- immediates, R313, R314
  | addi (c : CoreId) (g : Guard) (rd rs : Reg) (imm : Imm12)
  | andi (c : CoreId) (g : Guard) (rd rs : Reg) (imm : Imm12)
  | ori (c : CoreId) (g : Guard) (rd rs : Reg) (imm : Imm12)
  | xori (c : CoreId) (g : Guard) (rd rs : Reg) (imm : Imm12)
  | li (c : CoreId) (g : Guard) (rd : Reg) (imm : BitVec 17)
  | lih (c : CoreId) (g : Guard) (rd : Reg) (imm : BitVec 17)
  | lil (c : CoreId) (g : Guard) (rd : Reg) (imm : BitVec 17)
  -- shifts, R315
  | shl (c : CoreId) (g : Guard) (rd rs rt : Reg)
  | shr (c : CoreId) (g : Guard) (rd rs rt : Reg)
  | sar (c : CoreId) (g : Guard) (rd rs rt : Reg)
  | ror (c : CoreId) (g : Guard) (rd rs rt : Reg)
  | rol (c : CoreId) (g : Guard) (rd rs rt : Reg)
  | shli (c : CoreId) (g : Guard) (rd rs : Reg) (imm : Imm12)
  | shri (c : CoreId) (g : Guard) (rd rs : Reg) (imm : Imm12)
  | sari (c : CoreId) (g : Guard) (rd rs : Reg) (imm : Imm12)
  | rori (c : CoreId) (g : Guard) (rd rs : Reg) (imm : Imm12)
  -- compares, R317: the rd field holds pd and the combine mode
  | cmpeq (c : CoreId) (g : Guard) (rd rs rt : Reg)
  | cmplt (c : CoreId) (g : Guard) (rd rs rt : Reg)
  | cmpltu (c : CoreId) (g : Guard) (rd rs rt : Reg)
  | cmple (c : CoreId) (g : Guard) (rd rs rt : Reg)
  | cmpleu (c : CoreId) (g : Guard) (rd rs rt : Reg)
  | tst (c : CoreId) (g : Guard) (rd rs rt : Reg)
  | cmpeqi (c : CoreId) (g : Guard) (rd rs : Reg) (imm : Imm12)
  | cmplti (c : CoreId) (g : Guard) (rd rs : Reg) (imm : Imm12)
  | cmpltui (c : CoreId) (g : Guard) (rd rs : Reg) (imm : Imm12)
  | tsti (c : CoreId) (g : Guard) (rd rs : Reg) (imm : Imm12)
  -- predicate logic, R318
  | pand (c : CoreId) (g : Guard) (pd ps pt : PredNo)
  | pandn (c : CoreId) (g : Guard) (pd ps pt : PredNo)
  | por (c : CoreId) (g : Guard) (pd ps pt : PredNo)
  | pxor (c : CoreId) (g : Guard) (pd ps pt : PredNo)
  -- multiply and divide, R319
  | mul (c : CoreId) (g : Guard) (rd rs rt : Reg)
  | mulh (c : CoreId) (g : Guard) (rd rs rt : Reg)
  | mulhu (c : CoreId) (g : Guard) (rd rs rt : Reg)
  | div (c : CoreId) (g : Guard) (rd rs rt : Reg)
  | divu (c : CoreId) (g : Guard) (rd rs rt : Reg)
  | rem (c : CoreId) (g : Guard) (rd rs rt : Reg)
  | remu (c : CoreId) (g : Guard) (rd rs rt : Reg)
  | divqr (c : CoreId) (g : Guard) (rd rs rt : Reg)
  | divqru (c : CoreId) (g : Guard) (rd rs rt : Reg)
  -- loads and stores, R322 with the addressing modes of R290
  | ldb (c : CoreId) (g : Guard) (rd base : Reg) (mode : BitVec 3) (f : BitVec 9)
  | ldbu (c : CoreId) (g : Guard) (rd base : Reg) (mode : BitVec 3) (f : BitVec 9)
  | ldh (c : CoreId) (g : Guard) (rd base : Reg) (mode : BitVec 3) (f : BitVec 9)
  | ldhu (c : CoreId) (g : Guard) (rd base : Reg) (mode : BitVec 3) (f : BitVec 9)
  | ldw (c : CoreId) (g : Guard) (rd base : Reg) (mode : BitVec 3) (f : BitVec 9)
  | ldd (c : CoreId) (g : Guard) (rd base : Reg) (mode : BitVec 3) (f : BitVec 9)
  | stb (c : CoreId) (g : Guard) (rd base : Reg) (mode : BitVec 3) (f : BitVec 9)
  | sth (c : CoreId) (g : Guard) (rd base : Reg) (mode : BitVec 3) (f : BitVec 9)
  | stw (c : CoreId) (g : Guard) (rd base : Reg) (mode : BitVec 3) (f : BitVec 9)
  | std (c : CoreId) (g : Guard) (rd base : Reg) (mode : BitVec 3) (f : BitVec 9)
  -- atomics and fences, R323, R324
  | swpw (c : CoreId) (g : Guard) (rd rs rt : Reg)
  | casw (c : CoreId) (g : Guard) (rd rs rt : Reg)
  | faddw (c : CoreId) (g : Guard) (rd rs rt : Reg)
  | fence (c : CoreId) (g : Guard)
  | fencei (c : CoreId) (g : Guard)
  -- transfers, R325
  | br (c : CoreId) (g : Guard) (disp : BitVec 22)
  | call (c : CoreId) (g : Guard) (disp : BitVec 22)
  | jr (c : CoreId) (g : Guard) (rs : Reg)
  | callr (c : CoreId) (g : Guard) (rs : Reg)
  | ret (c : CoreId) (g : Guard)
  -- loops and repeat, R326
  | loop (c : CoreId) (g : Guard) (k : BitVec 2) (rs : Reg) (imm : Imm12)
  | loopi (c : CoreId) (g : Guard) (k : BitVec 2) (count : BitVec 8) (imm : Imm12)
  | rpt (c : CoreId) (g : Guard) (rs : Reg)
  | rpti (c : CoreId) (g : Guard) (count : BitVec 16)
  -- system group, R327
  | sysc (c : CoreId) (g : Guard) (gate : BitVec 4)
  | eret (c : CoreId) (g : Guard)
  | fret (c : CoreId) (g : Guard)
  | nret (c : CoreId) (g : Guard)
  | mret (c : CoreId) (g : Guard)
  | sret (c : CoreId) (g : Guard)
  | tend (c : CoreId) (g : Guard)
  | ctxsw (c : CoreId) (g : Guard) (rs : Reg)
  | push (c : CoreId) (g : Guard) (rs : Reg)
  | pop (c : CoreId) (g : Guard) (rd : Reg)
  | mfb (c : CoreId) (g : Guard) (rd rs : Reg)
  | mtb (c : CoreId) (g : Guard) (rd rs : Reg)
  | mfs (c : CoreId) (g : Guard) (rd : Reg) (num : Imm12)
  | mts (c : CoreId) (g : Guard) (rs : Reg) (num : Imm12)
  | modeShadowApply (c : CoreId)
  -- storage keys, R416
  | krd (c : CoreId) (g : Guard) (rd rs : Reg)
  | kset (c : CoreId) (g : Guard) (rs rt : Reg)
  | krref (c : CoreId) (g : Guard) (rd rs : Reg)
  -- floating point, R332, R333: dbl is the format F
  | fadd (c : CoreId) (g : Guard) (dbl : Bool) (rd rs rt : Reg)
  | fsub (c : CoreId) (g : Guard) (dbl : Bool) (rd rs rt : Reg)
  | fmul (c : CoreId) (g : Guard) (dbl : Bool) (rd rs rt : Reg)
  | fdiv (c : CoreId) (g : Guard) (dbl : Bool) (rd rs rt : Reg)
  | fneg (c : CoreId) (g : Guard) (dbl : Bool) (rd rs : Reg)
  | fabs (c : CoreId) (g : Guard) (dbl : Bool) (rd rs : Reg)
  | fmov (c : CoreId) (g : Guard) (dbl : Bool) (rd rs : Reg)
  | fcmpeq (c : CoreId) (g : Guard) (dbl : Bool) (rd rs rt : Reg)
  | fcmplt (c : CoreId) (g : Guard) (dbl : Bool) (rd rs rt : Reg)
  | fcmple (c : CoreId) (g : Guard) (dbl : Bool) (rd rs rt : Reg)
  | fcvtf (c : CoreId) (g : Guard) (dbl : Bool) (rd rs : Reg)
  | fcvti (c : CoreId) (g : Guard) (dbl : Bool) (rd rs : Reg)
  | fcvtfi (c : CoreId) (g : Guard) (dbl : Bool) (rd rs : Reg)
  | fma (c : CoreId) (g : Guard) (dbl : Bool) (rd rs rt : Reg)
  | fms (c : CoreId) (g : Guard) (dbl : Bool) (rd rs rt : Reg)
  | fnma (c : CoreId) (g : Guard) (dbl : Bool) (rd rs rt : Reg)
  -- decimal and conversions, R359, R367: pd is func[2:0]
  | dadd (c : CoreId) (g : Guard) (pd : PredNo) (rd rs rt : Reg)
  | dsub (c : CoreId) (g : Guard) (pd : PredNo) (rd rs rt : Reg)
  | dzad (c : CoreId) (g : Guard) (pd : PredNo) (rd rs rt : Reg)
  | dcmp (c : CoreId) (g : Guard) (pd : PredNo) (rd rs rt : Reg)
  | dmul (c : CoreId) (g : Guard) (pd : PredNo) (rd rs rt : Reg)
  | ddiv (c : CoreId) (g : Guard) (pd : PredNo) (rd rs rt : Reg)
  | dsrp (c : CoreId) (g : Guard) (pd : PredNo) (rd rt : Reg)
  | dtst (c : CoreId) (g : Guard) (pd : PredNo) (rd rt : Reg)
  | cvpz (c : CoreId) (g : Guard) (pd : PredNo) (rd rs rt : Reg)
  | cvzp (c : CoreId) (g : Guard) (pd : PredNo) (rd rs rt : Reg)
  | cvpb (c : CoreId) (g : Guard) (pd : PredNo) (rd rs rt : Reg)
  | cvbp (c : CoreId) (g : Guard) (pd : PredNo) (rd rs rt : Reg)
  -- strings and edit, R370: one command runs one chunk (R357)
  | mvs (c : CoreId) (g : Guard) (rd rs : Reg)
  | mvsf (c : CoreId) (g : Guard) (rd rs rt : Reg)
  | cmps (c : CoreId) (g : Guard) (rd rs rt : Reg)
  | scns (c : CoreId) (g : Guard) (rd rt : Reg)
  | trs (c : CoreId) (g : Guard) (rd rs : Reg)
  | trts (c : CoreId) (g : Guard) (rd rs rt : Reg)
  | crcs (c : CoreId) (g : Guard) (rd : Reg)
  | edit (c : CoreId) (g : Guard) (rd rs rt : Reg)
  -- tag check and posting, R379, R385
  | tchkVerify (c : CoreId) (g : Guard) (rd rs : Reg)
  | tchkForm (c : CoreId) (g : Guard) (rd rs : Reg)
  | post (c : CoreId) (g : Guard) (m : BitVec 2) (rd rs rt : Reg)
  | post2 (c : CoreId) (g : Guard) (m : BitVec 2) (rd rs rt : Reg)
  | post4 (c : CoreId) (g : Guard) (m : BitVec 2) (rd rs rt : Reg)
  | cust (c : CoreId) (g : Guard) (n : BitVec 4) (sub : BitVec 3) (rd rs rt : Reg)
  -- core events
  | interrupt (c : CoreId)
  | fastInterrupt (c : CoreId)
  | nmi (c : CoreId)
  | frameBudgetOverrun (c : CoreId)
  | debugHalt (c : CoreId)
  | breakpoint (c : CoreId)
  | storeBufferDrain (c : CoreId)
  | spillWriteback (c : CoreId)
  | carafeWaitEnd (c : CoreId)
  | captureSlotWaitEnd (c : CoreId)
  | deferredSwapWaitEnd (c : CoreId)
  | lineLockGrant (c : CoreId)
  | lineLockTimeout (c : CoreId)
  | microcodeReloadComplete (c : CoreId)
  | egsbSubmit (c : CoreId) (value : DWord)
  | egsbWaitEnd (c : CoreId)
  | dremEmission (c : CoreId) (value : DWord)
  | derivedCopyComplete (id : Nat)
  | iraiseStore (c : CoreId) (value : Word)
  | dbginLoad (c : CoreId) (rd : Reg)
  | dbgoutStore (c : CoreId) (value : Word)
  | deviceRegisterWrite (c : CoreId) (addr : BitVec 40) (size : BitVec 4) (value : DWord)
  -- frame timer, dispatcher, plan
  | frameTick (w : TickFacts)
  | taskRelease (l : LogId)
  | planSwitch
  | imagePlacement
  | degradedSwitch
  | rotation
  | faultReplacement (l : LogId)
  | coreSelfTest (p : CoreId) (pass : Bool)
  | ptpMessage (m : PtpFacts)
  | sourceLocked
  | sourceLost
  | holdoverExpiry
  | ppsInEdge (offset : Int)
  | ppsOut
  -- ports
  | vrtDatagram (d : Datagram)
  | arpRequest (port : NetPort) (target : BitVec 32)
  | neighbourSolicitation (port : NetPort) (target : BitVec 128)
  | nonVrtFrame (port : NetPort) (why : NonVrt)
  | portLinkChange (port : NetPort) (up : Bool) (sub : Option (Fin 4))
  | replyTransmit (port : PortId) (cls : Fin 64)
  -- Percolator and media
  | percolatorUnitEnqueue (grp : GroupId)
  | mediaOpIssue (id : Nat)
  | mediaOpComplete (id : Nat) (res : MediaResult) (data : List Byte)
  | mediaOpTimeout (id : Nat)
  -- power loss
  | pfailAssert
  | vholdWarnTrigger (first second : BitVec 16)
  | holdtestDeassert
  | admissionStop
  | coreStop
  | flushBegin (mv : Nat)
  | flushComplete (mv : Nat)
  | safeAssert
  | capacitanceTestStart
  | capacitanceTestEnd (isenseNVS : Nat) (dropCodes : Nat)
  | recovery (ms : Nat)
  -- Grinder
  | foldSegment (grp : GroupId)
  | flashScrubRead (area : FlashArea) (part item : Nat)
  | relocation (ref : FlashRef)
  | journalErase (grp : GroupId) (bulk : Bool) (stripe : Nat)
  | wearLevelling (lun : Nat)
  | recordExpiry (id : Nat)
  | sramScrub (addr : BitVec 40) (found : EccFinding)
  | dramScrub (addr : BitVec 40) (found : EccFinding)
  | grinderJobMiss (job : Fin 8) (shortfallMs : Nat)
  | sramRowRepair (kind : BitVec 4) (unit : BitVec 15)
  | sramRowRepairComplete (kind : BitVec 4) (unit : BitVec 15)
  | lunRebuildComplete (lun : Nat)
  -- Barista
  | watchdogExpiry
  | sensorSample (w : SensorFacts)
  | powerGoodLost (domain : Fin 112)
  | nmiNAssert
  | logNandMirror
  | logNorMirror
  | porstAssert
  | boot (w : BootFacts)
  | bootResume
  | domainPowerTimeout (domain : Fin 112)
  | avsUpdate (targetMv : Nat)
  | pmbusRetry (ack : Bool) (status : PmbusStatus)
  -- ZDP messages
  | zdpOpen (m : ZdpMsg)
  | zdpProve (m : ZdpMsg)
  | zdpClose (m : ZdpMsg)
  | zdpNop (m : ZdpMsg)
  | zdpRead (m : ZdpMsg)
  | zdpWrite (m : ZdpMsg)
  | zdpWriteSeg (m : ZdpMsg)
  | zdpCancel (m : ZdpMsg)
  | transferTimeout (sid : Nat)
  | sessionIdleTimeout (sid : Nat)
  | openLockoutEnd (src : Client)
  | persistentStoreComplete (good : Bool)
  | canReassemblyTimeout
  | canBusOffRecovery
  -- object writes with a row of their own
  | shadowPlanWrite (w : ObjWrite)
  | planCommit (w : ObjWrite)
  | shadowDiscard (w : ObjWrite)
  | partnerConfigWrite (w : ObjWrite)
  | partnerEntryWrite (w : ObjWrite)
  | keyWrite (w : ObjWrite)
  | keyErase (w : ObjWrite)
  | orderlyShutdown (w : ObjWrite)
  | portModeWrite (port : PortId) (fec : Bool) (w : ObjWrite)
  | rawCommandStart (w : ObjWrite)
  | imageWrite (w : ObjWrite)
  | imageDelete (w : ObjWrite)
  | programImageWrite (n : BitVec 12) (set : Bool) (w : ObjWrite)
  | customerObjectWrite (n : BitVec 14) (w : ObjWrite)
  | userImageWrite (w : ObjWrite)
  | userImageLoaded
  | slotUnload (w : ObjWrite)
  | deviceRestart (w : ObjWrite)
  | updateImageWrite (w : ObjWrite)
  | updateTry (w : ObjWrite)
  | updateCommit (w : ObjWrite)
  | updateDiscard (w : ObjWrite)
  | retireCore (w : ObjWrite)
  | retireLun (w : ObjWrite)
  | domainRequest (w : ObjWrite)
  | raiseNmi (w : ObjWrite)
  | raiseBar (w : ObjWrite)
  | credentialWrite (ring : Fin 4) (w : ObjWrite)
  -- JTAG and debug
  | extest (cells : List Bool) (pins : List Bool)
  | samplePreload (cells : List Bool) (pins : List Bool)
  | clamp
  | highz
  | bypass
  | tapReset
  | debugHaltRequest (l : LogId)
  | breakpointSet (l : LogId) (n : BitVec 2) (enable : Bool) (ea : BitVec 30)
  | debugMailboxIn (l : LogId) (word : Word) (full : Bool)
  | debugMailboxOut (l : LogId)
  -- decided outcomes of what no row above spells
  | illegalInstruction (c : CoreId) (word : Word)
  | unknownCommand (m : ZdpMsg)
  | canFdFrame (f : CanFrame)
  | canFaultConfinement (st : CanState)
deriving DecidableEq, Repr

end Sys2Proof
end

