-- ==== Sys2Proof/Decode.lean ====
section
/-!
DEFINITION. The decoder. The opcode table gives its rows no bits, so `decodeTableWord` spells no command; the 32-bit words of the
ledger core (R306 to R327, R332, R333, R359, R367, R370, R379, R385, R416) are decoded by `decodeWord`, which RPT uses to judge its
target (R301) and the illegal-instruction row to tell a reserved encoding (R308).
-/

namespace Sys2Proof

/-- The command a word of the opcode table spells: no row of the table has bits. -/
def decodeTableWord (_nbits _w : Nat) : Option Instr := none

/-- Bits [hi:lo] of an instruction word. -/
def wbits (w : BitVec 32) (lo n : Nat) : Nat := (w.extractLsb' lo n).toNat

/-- What a word is: an instruction, or a reserved encoding with its vector-4 code (R308). -/
inductive Decoded where
  | instr (i : Instr)
  | reserved (code : Nat)
deriving DecidableEq, Repr

/-- The fields of a word (R306). -/
structure Fields where
  g : Guard
  rd : Reg
  rs : Reg
  rt : Reg
  func : Nat
  imm : Imm12
  mode : BitVec 3
  f : BitVec 9
  disp : BitVec 22
deriving DecidableEq, Repr

/-- Splits a word into its fields. -/
def fieldsOf (w : BitVec 32) : Fields :=
  { g := w.extractLsb' 28 4, rd := w.extractLsb' 17 5, rs := w.extractLsb' 12 5, rt := w.extractLsb' 7 5,
    func := wbits w 0 7, imm := w.extractLsb' 0 12, mode := w.extractLsb' 9 3, f := w.extractLsb' 0 9,
    disp := w.extractLsb' 0 22 }

/-- Major 0x00 (R312). -/
def decodeAlu (c : CoreId) (x : Fields) : Option Instr :=
  match x.func with
  | 0x01 => some (.add c x.g x.rd x.rs x.rt)
  | 0x02 => some (.sub c x.g x.rd x.rs x.rt)
  | 0x03 => some (.and c x.g x.rd x.rs x.rt)
  | 0x04 => some (.or c x.g x.rd x.rs x.rt)
  | 0x05 => some (.xor c x.g x.rd x.rs x.rt)
  | 0x06 => some (.andn c x.g x.rd x.rs x.rt)
  | 0x08 => some (.min c x.g x.rd x.rs x.rt)
  | 0x09 => some (.max c x.g x.rd x.rs x.rt)
  | 0x0A => some (.minu c x.g x.rd x.rs x.rt)
  | 0x0B => some (.maxu c x.g x.rd x.rs x.rt)
  | 0x0C => some (.neg c x.g x.rd x.rs)
  | 0x0D => some (.abs c x.g x.rd x.rs)
  | 0x0E => some (.mov c x.g x.rd x.rs)
  | 0x10 => some (.sextb c x.g x.rd x.rs)
  | 0x11 => some (.sexth c x.g x.rd x.rs)
  | 0x12 => some (.zextb c x.g x.rd x.rs)
  | 0x13 => some (.zexth c x.g x.rd x.rs)
  | 0x14 => some (.clz c x.g x.rd x.rs)
  | 0x15 => some (.popc c x.g x.rd x.rs)
  | 0x16 => some (.bswap c x.g x.rd x.rs)
  | 0x17 => some (.bswaph c x.g x.rd x.rs)
  | _ => none

/-- Major 0x01 (R319). -/
def decodeMul (c : CoreId) (x : Fields) : Option Instr :=
  match x.func with
  | 0x00 => some (.mul c x.g x.rd x.rs x.rt)
  | 0x01 => some (.mulh c x.g x.rd x.rs x.rt)
  | 0x02 => some (.mulhu c x.g x.rd x.rs x.rt)
  | 0x08 => some (.div c x.g x.rd x.rs x.rt)
  | 0x09 => some (.divu c x.g x.rd x.rs x.rt)
  | 0x0A => some (.rem c x.g x.rd x.rs x.rt)
  | 0x0B => some (.remu c x.g x.rd x.rs x.rt)
  | 0x0C => some (.divqr c x.g x.rd x.rs x.rt)
  | 0x0D => some (.divqru c x.g x.rd x.rs x.rt)
  | _ => none

/-- Major 0x02 (R315). -/
def decodeShift (c : CoreId) (x : Fields) : Option Instr :=
  match x.func with
  | 0x00 => some (.shl c x.g x.rd x.rs x.rt)
  | 0x01 => some (.shr c x.g x.rd x.rs x.rt)
  | 0x02 => some (.sar c x.g x.rd x.rs x.rt)
  | 0x03 => some (.ror c x.g x.rd x.rs x.rt)
  | 0x04 => some (.rol c x.g x.rd x.rs x.rt)
  | _ => none

/-- Major 0x03 (R317, R318). -/
def decodeCmp (c : CoreId) (x : Fields) : Option Instr :=
  let pd := x.rd.extractLsb' 0 3
  let ps := x.rs.extractLsb' 0 3
  let pt := x.rt.extractLsb' 0 3
  match x.func with
  | 0x00 => some (.cmpeq c x.g x.rd x.rs x.rt)
  | 0x01 => some (.cmplt c x.g x.rd x.rs x.rt)
  | 0x02 => some (.cmpltu c x.g x.rd x.rs x.rt)
  | 0x03 => some (.cmple c x.g x.rd x.rs x.rt)
  | 0x04 => some (.cmpleu c x.g x.rd x.rs x.rt)
  | 0x05 => some (.tst c x.g x.rd x.rs x.rt)
  | 0x10 => some (.pand c x.g pd ps pt)
  | 0x11 => some (.pandn c x.g pd ps pt)
  | 0x12 => some (.por c x.g pd ps pt)
  | 0x13 => some (.pxor c x.g pd ps pt)
  | _ => none

/-- Major 0x29 (R327). -/
def decodeSystem (c : CoreId) (x : Fields) : Option Instr :=
  match x.func with
  | 0x01 => some (.eret c x.g)
  | 0x02 => some (.fret c x.g)
  | 0x03 => some (.nret c x.g)
  | 0x04 => some (.mret c x.g)
  | 0x05 => some (.sret c x.g)
  | 0x08 => some (.tend c x.g)
  | 0x09 => some (.ctxsw c x.g x.rs)
  | 0x0A => some (.push c x.g x.rs)
  | 0x0B => some (.pop c x.g x.rd)
  | 0x0C => some (.mfb c x.g x.rd x.rs)
  | 0x0D => some (.mtb c x.g x.rd x.rs)
  | _ => none

/-- Major 0x30: func[6] is the format (R332). -/
def decodeFp (c : CoreId) (x : Fields) : Option Instr :=
  let d := x.func / 64 == 1
  match x.func % 64 with
  | 0x00 => some (.fadd c x.g d x.rd x.rs x.rt)
  | 0x01 => some (.fsub c x.g d x.rd x.rs x.rt)
  | 0x02 => some (.fmul c x.g d x.rd x.rs x.rt)
  | 0x03 => some (.fdiv c x.g d x.rd x.rs x.rt)
  | 0x08 => some (.fneg c x.g d x.rd x.rs)
  | 0x09 => some (.fabs c x.g d x.rd x.rs)
  | 0x0A => some (.fmov c x.g d x.rd x.rs)
  | 0x10 => some (.fcmpeq c x.g d x.rd x.rs x.rt)
  | 0x11 => some (.fcmplt c x.g d x.rd x.rs x.rt)
  | 0x12 => some (.fcmple c x.g d x.rd x.rs x.rt)
  | 0x18 => some (.fcvtf c x.g d x.rd x.rs)
  | 0x19 => some (.fcvti c x.g d x.rd x.rs)
  | 0x1A => some (.fcvtfi c x.g d x.rd x.rs)
  | _ => none

/-- Major 0x31 (R333). -/
def decodeFma (c : CoreId) (x : Fields) : Option Instr :=
  let d := x.func / 64 == 1
  match x.func % 64 with
  | 0x00 => some (.fma c x.g d x.rd x.rs x.rt)
  | 0x01 => some (.fms c x.g d x.rd x.rs x.rt)
  | 0x02 => some (.fnma c x.g d x.rd x.rs x.rt)
  | _ => none

/-- Major 0x32: func = 8 * op + pd (R359). -/
def decodeDecimal (c : CoreId) (x : Fields) : Option Instr :=
  let pd := BitVec.ofNat 3 x.func
  match x.func / 8 with
  | 0 => some (.dadd c x.g pd x.rd x.rs x.rt)
  | 1 => some (.dsub c x.g pd x.rd x.rs x.rt)
  | 2 => some (.dzad c x.g pd x.rd x.rs x.rt)
  | 3 => some (.dcmp c x.g pd x.rd x.rs x.rt)
  | 4 => some (.dmul c x.g pd x.rd x.rs x.rt)
  | 5 => some (.ddiv c x.g pd x.rd x.rs x.rt)
  | 6 => some (.dsrp c x.g pd x.rd x.rt)
  | 7 => some (.dtst c x.g pd x.rd x.rt)
  | _ => none

/-- Major 0x33 (R367). -/
def decodeConv (c : CoreId) (x : Fields) : Option Instr :=
  let pd := BitVec.ofNat 3 x.func
  match x.func / 8 with
  | 0 => some (.cvpz c x.g pd x.rd x.rs x.rt)
  | 1 => some (.cvzp c x.g pd x.rd x.rs x.rt)
  | 2 => some (.cvpb c x.g pd x.rd x.rs x.rt)
  | 3 => some (.cvbp c x.g pd x.rd x.rs x.rt)
  | _ => none

/-- Major 0x34 (R370). -/
def decodeString (c : CoreId) (x : Fields) : Option Instr :=
  match x.func with
  | 0x00 => some (.mvs c x.g x.rd x.rs)
  | 0x01 => some (.mvsf c x.g x.rd x.rs x.rt)
  | 0x02 => some (.cmps c x.g x.rd x.rs x.rt)
  | 0x03 => some (.scns c x.g x.rd x.rt)
  | 0x04 => some (.trs c x.g x.rd x.rs)
  | 0x05 => some (.trts c x.g x.rd x.rs x.rt)
  | 0x06 => some (.crcs c x.g x.rd)
  | 0x07 => some (.edit c x.g x.rd x.rs x.rt)
  | _ => none

/-- Major 0x35 (R379, R385). -/
def decodePost (c : CoreId) (x : Fields) : Option Instr :=
  let m := BitVec.ofNat 2 x.func
  if x.func < 0x04 then some (.post c x.g m x.rd x.rs x.rt)
  else if x.func < 0x08 then some (.post2 c x.g m x.rd x.rs x.rt)
  else if x.func < 0x0C then some (.post4 c x.g m x.rd x.rs x.rt)
  else if x.func = 0x10 then some (.tchkVerify c x.g x.rd x.rs)
  else if x.func = 0x11 then some (.tchkForm c x.g x.rd x.rs)
  else none

/-- The M-format majors 0x14 to 0x1D (R322). -/
def decodeMem (c : CoreId) (x : Fields) (major : Nat) : Option Instr :=
  match major with
  | 0x14 => some (.ldb c x.g x.rd x.rs x.mode x.f)
  | 0x15 => some (.ldbu c x.g x.rd x.rs x.mode x.f)
  | 0x16 => some (.ldh c x.g x.rd x.rs x.mode x.f)
  | 0x17 => some (.ldhu c x.g x.rd x.rs x.mode x.f)
  | 0x18 => some (.ldw c x.g x.rd x.rs x.mode x.f)
  | 0x19 => some (.ldd c x.g x.rd x.rs x.mode x.f)
  | 0x1A => some (.stb c x.g x.rd x.rs x.mode x.f)
  | 0x1B => some (.sth c x.g x.rd x.rs x.mode x.f)
  | 0x1C => some (.stw c x.g x.rd x.rs x.mode x.f)
  | 0x1D => some (.std c x.g x.rd x.rs x.mode x.f)
  | _ => none

/-- The I-format majors 0x04 to 0x12 (R313 to R317). -/
def decodeImm (c : CoreId) (x : Fields) (major : Nat) : Option Instr :=
  match major with
  | 0x04 => some (.addi c x.g x.rd x.rs x.imm)
  | 0x05 => some (.andi c x.g x.rd x.rs x.imm)
  | 0x06 => some (.ori c x.g x.rd x.rs x.imm)
  | 0x07 => some (.xori c x.g x.rd x.rs x.imm)
  | 0x08 => some (.shli c x.g x.rd x.rs x.imm)
  | 0x09 => some (.shri c x.g x.rd x.rs x.imm)
  | 0x0A => some (.sari c x.g x.rd x.rs x.imm)
  | 0x0B => some (.rori c x.g x.rd x.rs x.imm)
  | 0x0C => some (.cmpeqi c x.g x.rd x.rs x.imm)
  | 0x0D => some (.cmplti c x.g x.rd x.rs x.imm)
  | 0x0E => some (.cmpltui c x.g x.rd x.rs x.imm)
  | 0x0F => some (.tsti c x.g x.rd x.rs x.imm)
  | 0x10 => some (.li c x.g x.rd (x.rs ++ x.imm))
  | 0x11 => some (.lih c x.g x.rd (x.rs ++ x.imm))
  | 0x12 => some (.lil c x.g x.rd (x.rs ++ x.imm))
  | _ => none

/-- Majors 0x1E to 0x2C outside the M and I formats above (R323 to R327, R416). -/
def decodeControl (c : CoreId) (x : Fields) (major : Nat) : Option Instr :=
  match major, x.func with
  | 0x1E, 0x00 => some (.swpw c x.g x.rd x.rs x.rt)
  | 0x1E, 0x01 => some (.casw c x.g x.rd x.rs x.rt)
  | 0x1E, 0x02 => some (.faddw c x.g x.rd x.rs x.rt)
  | 0x1F, 0x00 => some (.fence c x.g)
  | 0x1F, 0x01 => some (.fencei c x.g)
  | 0x20, _ => some (.br c x.g x.disp)
  | 0x21, _ => some (.call c x.g x.disp)
  | 0x22, 0x00 => some (.jr c x.g x.rs)
  | 0x22, 0x01 => some (.callr c x.g x.rs)
  | 0x22, 0x02 => some (.ret c x.g)
  | 0x23, _ => some (.loop c x.g (x.rd.extractLsb' 0 2) x.rs x.imm)
  | 0x24, _ => some (.loopi c x.g (x.rd.extractLsb' 0 2) (x.rd.extractLsb' 2 3 ++ x.rs) x.imm)
  | 0x25, _ => some (.rpti c x.g (x.rs.extractLsb' 0 4 ++ x.imm))
  | 0x26, _ => some (.rpt c x.g x.rs)
  | 0x28, _ => some (.sysc c x.g (x.imm.extractLsb' 0 4))
  | 0x29, _ => decodeSystem c x
  | 0x2A, _ => some (.mfs c x.g x.rd x.imm)
  | 0x2B, _ => some (.mts c x.g x.rs x.imm)
  | 0x2C, 0x00 => some (.krd c x.g x.rd x.rs)
  | 0x2C, 0x01 => some (.kset c x.g x.rs x.rt)
  | 0x2C, 0x02 => some (.krref c x.g x.rd x.rs)
  | _, _ => none

/-- The instruction a word's major and func name; none for a reserved one (R308, R310). -/
def decodeMajor (c : CoreId) (x : Fields) (major : Nat) : Option Instr :=
  if major = 0x00 then decodeAlu c x
  else if major = 0x01 then decodeMul c x
  else if major = 0x02 then decodeShift c x
  else if major = 0x03 then decodeCmp c x
  else if major < 0x13 then decodeImm c x major
  else if major = 0x13 then none
  else if major < 0x1E then decodeMem c x major
  else if major < 0x2D then decodeControl c x major
  else if major = 0x30 then decodeFp c x
  else if major = 0x31 then decodeFma c x
  else if major = 0x32 then decodeDecimal c x
  else if major = 0x33 then decodeConv c x
  else if major = 0x34 then decodeString c x
  else if major = 0x35 then decodePost c x
  else if major = 0x38 then
    some (.cust c x.g (BitVec.ofNat 4 (x.func / 8)) (BitVec.ofNat 3 x.func) x.rd x.rs x.rt)
  else none

/-- Decodes a word: guard 0b0001 first, then the reserved encodings, a LOOP level of 3 among them (R308). -/
def decodeWord (c : CoreId) (w : BitVec 32) : Decoded :=
  let x := fieldsOf w
  if x.g = 1#4 then .reserved 0x02
  else match decodeMajor c x (wbits w 22 6) with
  | none => .reserved 0x01
  | some (.loop c g k rs i) => if k = 3#2 then .reserved 0x01 else .instr (.loop c g k rs i)
  | some (.loopi c g k n i) => if k = 3#2 then .reserved 0x01 else .instr (.loopi c g k n i)
  | some i => .instr i

-- ---------------------------------------------------------------- the encoder

/-- The R layout (R306). -/
def wordR (g : Guard) (major : BitVec 6) (rd rs rt : Reg) (func : BitVec 7) : BitVec 32 := g ++ major ++ rd ++ rs ++ rt ++ func

/-- The I layout (R306). -/
def wordI (g : Guard) (major : BitVec 6) (rd rs : Reg) (imm : Imm12) : BitVec 32 := g ++ major ++ rd ++ rs ++ imm

/-- The M layout (R306). -/
def wordM (g : Guard) (major : BitVec 6) (rd base : Reg) (mode : BitVec 3) (f : BitVec 9) : BitVec 32 :=
  g ++ major ++ rd ++ base ++ mode ++ f

/-- The B layout (R306). -/
def wordB (g : Guard) (major : BitVec 6) (disp : BitVec 22) : BitVec 32 := g ++ major ++ disp

/-- func of a floating-point instruction: func[6] is the format (R332). -/
def fpFunc (dbl : Bool) (n : BitVec 6) : BitVec 7 := bit dbl ++ n

/-- func of a decimal instruction or a conversion: 8 * op + pd (R359, R367). -/
def decFunc (op : BitVec 4) (pd : PredNo) : BitVec 7 := op ++ pd

/-- A predicate number in a register field; bits [4:3] are reserved (R318). -/
def predField (p : PredNo) : Reg := 0#2 ++ p

/-- The word of a core instruction, its reserved fields zero (R306 to R327, R332, R333, R359, R367, R370, R379, R385, R416); none for a
command that is no instruction of the ledger core. -/
def encodeWord : Instr → Option (BitVec 32)
  | .add _ g rd rs rt => some (wordR g 0x00#6 rd rs rt 0x01#7)
  | .sub _ g rd rs rt => some (wordR g 0x00#6 rd rs rt 0x02#7)
  | .and _ g rd rs rt => some (wordR g 0x00#6 rd rs rt 0x03#7)
  | .or _ g rd rs rt => some (wordR g 0x00#6 rd rs rt 0x04#7)
  | .xor _ g rd rs rt => some (wordR g 0x00#6 rd rs rt 0x05#7)
  | .andn _ g rd rs rt => some (wordR g 0x00#6 rd rs rt 0x06#7)
  | .min _ g rd rs rt => some (wordR g 0x00#6 rd rs rt 0x08#7)
  | .max _ g rd rs rt => some (wordR g 0x00#6 rd rs rt 0x09#7)
  | .minu _ g rd rs rt => some (wordR g 0x00#6 rd rs rt 0x0A#7)
  | .maxu _ g rd rs rt => some (wordR g 0x00#6 rd rs rt 0x0B#7)
  | .neg _ g rd rs => some (wordR g 0x00#6 rd rs 0 0x0C#7)
  | .abs _ g rd rs => some (wordR g 0x00#6 rd rs 0 0x0D#7)
  | .mov _ g rd rs => some (wordR g 0x00#6 rd rs 0 0x0E#7)
  | .sextb _ g rd rs => some (wordR g 0x00#6 rd rs 0 0x10#7)
  | .sexth _ g rd rs => some (wordR g 0x00#6 rd rs 0 0x11#7)
  | .zextb _ g rd rs => some (wordR g 0x00#6 rd rs 0 0x12#7)
  | .zexth _ g rd rs => some (wordR g 0x00#6 rd rs 0 0x13#7)
  | .clz _ g rd rs => some (wordR g 0x00#6 rd rs 0 0x14#7)
  | .popc _ g rd rs => some (wordR g 0x00#6 rd rs 0 0x15#7)
  | .bswap _ g rd rs => some (wordR g 0x00#6 rd rs 0 0x16#7)
  | .bswaph _ g rd rs => some (wordR g 0x00#6 rd rs 0 0x17#7)
  | .addi _ g rd rs imm => some (wordI g 0x04#6 rd rs imm)
  | .andi _ g rd rs imm => some (wordI g 0x05#6 rd rs imm)
  | .ori _ g rd rs imm => some (wordI g 0x06#6 rd rs imm)
  | .xori _ g rd rs imm => some (wordI g 0x07#6 rd rs imm)
  | .li _ g rd imm => some (wordI g 0x10#6 rd (imm.extractLsb' 12 5) (imm.extractLsb' 0 12))
  | .lih _ g rd imm => some (wordI g 0x11#6 rd (imm.extractLsb' 12 5) (imm.extractLsb' 0 12))
  | .lil _ g rd imm => some (wordI g 0x12#6 rd (imm.extractLsb' 12 5) (imm.extractLsb' 0 12))
  | .shl _ g rd rs rt => some (wordR g 0x02#6 rd rs rt 0x00#7)
  | .shr _ g rd rs rt => some (wordR g 0x02#6 rd rs rt 0x01#7)
  | .sar _ g rd rs rt => some (wordR g 0x02#6 rd rs rt 0x02#7)
  | .ror _ g rd rs rt => some (wordR g 0x02#6 rd rs rt 0x03#7)
  | .rol _ g rd rs rt => some (wordR g 0x02#6 rd rs rt 0x04#7)
  | .shli _ g rd rs imm => some (wordI g 0x08#6 rd rs imm)
  | .shri _ g rd rs imm => some (wordI g 0x09#6 rd rs imm)
  | .sari _ g rd rs imm => some (wordI g 0x0A#6 rd rs imm)
  | .rori _ g rd rs imm => some (wordI g 0x0B#6 rd rs imm)
  | .cmpeq _ g rd rs rt => some (wordR g 0x03#6 rd rs rt 0x00#7)
  | .cmplt _ g rd rs rt => some (wordR g 0x03#6 rd rs rt 0x01#7)
  | .cmpltu _ g rd rs rt => some (wordR g 0x03#6 rd rs rt 0x02#7)
  | .cmple _ g rd rs rt => some (wordR g 0x03#6 rd rs rt 0x03#7)
  | .cmpleu _ g rd rs rt => some (wordR g 0x03#6 rd rs rt 0x04#7)
  | .tst _ g rd rs rt => some (wordR g 0x03#6 rd rs rt 0x05#7)
  | .cmpeqi _ g rd rs imm => some (wordI g 0x0C#6 rd rs imm)
  | .cmplti _ g rd rs imm => some (wordI g 0x0D#6 rd rs imm)
  | .cmpltui _ g rd rs imm => some (wordI g 0x0E#6 rd rs imm)
  | .tsti _ g rd rs imm => some (wordI g 0x0F#6 rd rs imm)
  | .pand _ g pd ps pt => some (wordR g 0x03#6 (predField pd) (predField ps) (predField pt) 0x10#7)
  | .pandn _ g pd ps pt => some (wordR g 0x03#6 (predField pd) (predField ps) (predField pt) 0x11#7)
  | .por _ g pd ps pt => some (wordR g 0x03#6 (predField pd) (predField ps) (predField pt) 0x12#7)
  | .pxor _ g pd ps pt => some (wordR g 0x03#6 (predField pd) (predField ps) (predField pt) 0x13#7)
  | .mul _ g rd rs rt => some (wordR g 0x01#6 rd rs rt 0x00#7)
  | .mulh _ g rd rs rt => some (wordR g 0x01#6 rd rs rt 0x01#7)
  | .mulhu _ g rd rs rt => some (wordR g 0x01#6 rd rs rt 0x02#7)
  | .div _ g rd rs rt => some (wordR g 0x01#6 rd rs rt 0x08#7)
  | .divu _ g rd rs rt => some (wordR g 0x01#6 rd rs rt 0x09#7)
  | .rem _ g rd rs rt => some (wordR g 0x01#6 rd rs rt 0x0A#7)
  | .remu _ g rd rs rt => some (wordR g 0x01#6 rd rs rt 0x0B#7)
  | .divqr _ g rd rs rt => some (wordR g 0x01#6 rd rs rt 0x0C#7)
  | .divqru _ g rd rs rt => some (wordR g 0x01#6 rd rs rt 0x0D#7)
  | .ldb _ g rd base mode f => some (wordM g 0x14#6 rd base mode f)
  | .ldbu _ g rd base mode f => some (wordM g 0x15#6 rd base mode f)
  | .ldh _ g rd base mode f => some (wordM g 0x16#6 rd base mode f)
  | .ldhu _ g rd base mode f => some (wordM g 0x17#6 rd base mode f)
  | .ldw _ g rd base mode f => some (wordM g 0x18#6 rd base mode f)
  | .ldd _ g rd base mode f => some (wordM g 0x19#6 rd base mode f)
  | .stb _ g rd base mode f => some (wordM g 0x1A#6 rd base mode f)
  | .sth _ g rd base mode f => some (wordM g 0x1B#6 rd base mode f)
  | .stw _ g rd base mode f => some (wordM g 0x1C#6 rd base mode f)
  | .std _ g rd base mode f => some (wordM g 0x1D#6 rd base mode f)
  | .swpw _ g rd rs rt => some (wordR g 0x1E#6 rd rs rt 0x00#7)
  | .casw _ g rd rs rt => some (wordR g 0x1E#6 rd rs rt 0x01#7)
  | .faddw _ g rd rs rt => some (wordR g 0x1E#6 rd rs rt 0x02#7)
  | .fence _ g  => some (wordR g 0x1F#6 0 0 0 0x00#7)
  | .fencei _ g  => some (wordR g 0x1F#6 0 0 0 0x01#7)
  | .br _ g disp => some (wordB g 0x20#6 disp)
  | .call _ g disp => some (wordB g 0x21#6 disp)
  | .jr _ g rs => some (wordR g 0x22#6 0 rs 0 0x00#7)
  | .callr _ g rs => some (wordR g 0x22#6 0 rs 0 0x01#7)
  | .ret _ g  => some (wordR g 0x22#6 0 0 0 0x02#7)
  | .loop _ g k rs imm => some (wordI g 0x23#6 (0#3 ++ k) rs imm)
  | .loopi _ g k count imm => some (wordI g 0x24#6 (count.extractLsb' 5 3 ++ k) (count.extractLsb' 0 5) imm)
  | .rpti _ g count => some (wordI g 0x25#6 0 (0#1 ++ count.extractLsb' 12 4) (count.extractLsb' 0 12))
  | .rpt _ g rs => some (wordI g 0x26#6 0 rs 0)
  | .sysc _ g gate => some (wordI g 0x28#6 0 0 (0#8 ++ gate))
  | .eret _ g  => some (wordR g 0x29#6 0 0 0 0x01#7)
  | .fret _ g  => some (wordR g 0x29#6 0 0 0 0x02#7)
  | .nret _ g  => some (wordR g 0x29#6 0 0 0 0x03#7)
  | .mret _ g  => some (wordR g 0x29#6 0 0 0 0x04#7)
  | .sret _ g  => some (wordR g 0x29#6 0 0 0 0x05#7)
  | .tend _ g  => some (wordR g 0x29#6 0 0 0 0x08#7)
  | .ctxsw _ g rs => some (wordR g 0x29#6 0 rs 0 0x09#7)
  | .push _ g rs => some (wordR g 0x29#6 0 rs 0 0x0A#7)
  | .pop _ g rd => some (wordR g 0x29#6 rd 0 0 0x0B#7)
  | .mfb _ g rd rs => some (wordR g 0x29#6 rd rs 0 0x0C#7)
  | .mtb _ g rd rs => some (wordR g 0x29#6 rd rs 0 0x0D#7)
  | .mfs _ g rd num => some (wordI g 0x2A#6 rd 0 num)
  | .mts _ g rs num => some (wordI g 0x2B#6 0 rs num)
  | .krd _ g rd rs => some (wordR g 0x2C#6 rd rs 0 0x00#7)
  | .kset _ g rs rt => some (wordR g 0x2C#6 0 rs rt 0x01#7)
  | .krref _ g rd rs => some (wordR g 0x2C#6 rd rs 0 0x02#7)
  | .fadd _ g dbl rd rs rt => some (wordR g 0x30#6 rd rs rt (fpFunc dbl 0x00#6))
  | .fsub _ g dbl rd rs rt => some (wordR g 0x30#6 rd rs rt (fpFunc dbl 0x01#6))
  | .fmul _ g dbl rd rs rt => some (wordR g 0x30#6 rd rs rt (fpFunc dbl 0x02#6))
  | .fdiv _ g dbl rd rs rt => some (wordR g 0x30#6 rd rs rt (fpFunc dbl 0x03#6))
  | .fneg _ g dbl rd rs => some (wordR g 0x30#6 rd rs 0 (fpFunc dbl 0x08#6))
  | .fabs _ g dbl rd rs => some (wordR g 0x30#6 rd rs 0 (fpFunc dbl 0x09#6))
  | .fmov _ g dbl rd rs => some (wordR g 0x30#6 rd rs 0 (fpFunc dbl 0x0A#6))
  | .fcmpeq _ g dbl rd rs rt => some (wordR g 0x30#6 rd rs rt (fpFunc dbl 0x10#6))
  | .fcmplt _ g dbl rd rs rt => some (wordR g 0x30#6 rd rs rt (fpFunc dbl 0x11#6))
  | .fcmple _ g dbl rd rs rt => some (wordR g 0x30#6 rd rs rt (fpFunc dbl 0x12#6))
  | .fcvtf _ g dbl rd rs => some (wordR g 0x30#6 rd rs 0 (fpFunc dbl 0x18#6))
  | .fcvti _ g dbl rd rs => some (wordR g 0x30#6 rd rs 0 (fpFunc dbl 0x19#6))
  | .fcvtfi _ g dbl rd rs => some (wordR g 0x30#6 rd rs 0 (fpFunc dbl 0x1A#6))
  | .fma _ g dbl rd rs rt => some (wordR g 0x31#6 rd rs rt (fpFunc dbl 0x00#6))
  | .fms _ g dbl rd rs rt => some (wordR g 0x31#6 rd rs rt (fpFunc dbl 0x01#6))
  | .fnma _ g dbl rd rs rt => some (wordR g 0x31#6 rd rs rt (fpFunc dbl 0x02#6))
  | .dadd _ g pd rd rs rt => some (wordR g 0x32#6 rd rs rt (decFunc 0#4 pd))
  | .dsub _ g pd rd rs rt => some (wordR g 0x32#6 rd rs rt (decFunc 1#4 pd))
  | .dzad _ g pd rd rs rt => some (wordR g 0x32#6 rd rs rt (decFunc 2#4 pd))
  | .dcmp _ g pd rd rs rt => some (wordR g 0x32#6 rd rs rt (decFunc 3#4 pd))
  | .dmul _ g pd rd rs rt => some (wordR g 0x32#6 rd rs rt (decFunc 4#4 pd))
  | .ddiv _ g pd rd rs rt => some (wordR g 0x32#6 rd rs rt (decFunc 5#4 pd))
  | .dsrp _ g pd rd rt => some (wordR g 0x32#6 rd 0 rt (decFunc 6#4 pd))
  | .dtst _ g pd rd rt => some (wordR g 0x32#6 rd 0 rt (decFunc 7#4 pd))
  | .cvpz _ g pd rd rs rt => some (wordR g 0x33#6 rd rs rt (decFunc 0#4 pd))
  | .cvzp _ g pd rd rs rt => some (wordR g 0x33#6 rd rs rt (decFunc 1#4 pd))
  | .cvpb _ g pd rd rs rt => some (wordR g 0x33#6 rd rs rt (decFunc 2#4 pd))
  | .cvbp _ g pd rd rs rt => some (wordR g 0x33#6 rd rs rt (decFunc 3#4 pd))
  | .mvs _ g rd rs => some (wordR g 0x34#6 rd rs 0 0x00#7)
  | .mvsf _ g rd rs rt => some (wordR g 0x34#6 rd rs rt 0x01#7)
  | .cmps _ g rd rs rt => some (wordR g 0x34#6 rd rs rt 0x02#7)
  | .scns _ g rd rt => some (wordR g 0x34#6 rd 0 rt 0x03#7)
  | .trs _ g rd rs => some (wordR g 0x34#6 rd rs 0 0x04#7)
  | .trts _ g rd rs rt => some (wordR g 0x34#6 rd rs rt 0x05#7)
  | .crcs _ g rd => some (wordR g 0x34#6 rd 0 0 0x06#7)
  | .edit _ g rd rs rt => some (wordR g 0x34#6 rd rs rt 0x07#7)
  | .tchkVerify _ g rd rs => some (wordR g 0x35#6 rd rs 0 0x10#7)
  | .tchkForm _ g rd rs => some (wordR g 0x35#6 rd rs 0 0x11#7)
  | .post _ g m rd rs rt => some (wordR g 0x35#6 rd rs rt (0#5 ++ m))
  | .post2 _ g m rd rs rt => some (wordR g 0x35#6 rd rs rt (1#5 ++ m))
  | .post4 _ g m rd rs rt => some (wordR g 0x35#6 rd rs rt (2#5 ++ m))
  | .cust _ g n sub rd rs rt => some (wordR g 0x38#6 rd rs rt (n ++ sub))
  | .modeShadowApply .. | .interrupt .. | .fastInterrupt .. | .nmi .. | .frameBudgetOverrun .. | .debugHalt .. | .breakpoint ..
  | .storeBufferDrain .. | .spillWriteback .. | .carafeWaitEnd .. | .captureSlotWaitEnd .. | .deferredSwapWaitEnd .. | .lineLockGrant .. | .lineLockTimeout ..
  | .microcodeReloadComplete .. | .egsbSubmit .. | .egsbWaitEnd .. | .dremEmission .. | .derivedCopyComplete .. | .iraiseStore .. | .dbginLoad ..
  | .dbgoutStore .. | .deviceRegisterWrite .. | .frameTick .. | .taskRelease .. | .planSwitch | .imagePlacement | .degradedSwitch
  | .rotation | .faultReplacement .. | .coreSelfTest .. | .ptpMessage .. | .sourceLocked | .sourceLost | .holdoverExpiry
  | .ppsInEdge .. | .ppsOut | .vrtDatagram .. | .arpRequest .. | .neighbourSolicitation .. | .nonVrtFrame .. | .portLinkChange ..
  | .replyTransmit .. | .percolatorUnitEnqueue .. | .mediaOpIssue .. | .mediaOpComplete .. | .mediaOpTimeout .. | .pfailAssert | .vholdWarnTrigger ..
  | .holdtestDeassert | .admissionStop | .coreStop | .flushBegin .. | .flushComplete .. | .safeAssert | .capacitanceTestStart
  | .capacitanceTestEnd .. | .recovery .. | .foldSegment .. | .flashScrubRead .. | .relocation .. | .journalErase .. | .wearLevelling ..
  | .recordExpiry .. | .sramScrub .. | .dramScrub .. | .grinderJobMiss .. | .sramRowRepair .. | .sramRowRepairComplete .. | .lunRebuildComplete ..
  | .watchdogExpiry | .sensorSample .. | .powerGoodLost .. | .nmiNAssert | .logNandMirror | .logNorMirror | .porstAssert
  | .boot .. | .bootResume | .domainPowerTimeout .. | .avsUpdate .. | .pmbusRetry .. | .zdpOpen .. | .zdpProve ..
  | .zdpClose .. | .zdpNop .. | .zdpRead .. | .zdpWrite .. | .zdpWriteSeg .. | .zdpCancel .. | .transferTimeout ..
  | .sessionIdleTimeout .. | .openLockoutEnd .. | .persistentStoreComplete .. | .canReassemblyTimeout | .canBusOffRecovery | .shadowPlanWrite .. | .planCommit ..
  | .shadowDiscard .. | .partnerConfigWrite .. | .partnerEntryWrite .. | .keyWrite .. | .keyErase .. | .orderlyShutdown .. | .portModeWrite ..
  | .rawCommandStart .. | .imageWrite .. | .imageDelete .. | .programImageWrite .. | .customerObjectWrite .. | .userImageWrite .. | .userImageLoaded
  | .slotUnload .. | .deviceRestart .. | .updateImageWrite .. | .updateTry .. | .updateCommit .. | .updateDiscard .. | .retireCore ..
  | .retireLun .. | .domainRequest .. | .raiseNmi .. | .raiseBar .. | .credentialWrite .. | .extest .. | .samplePreload ..
  | .clamp | .highz | .bypass | .tapReset | .debugHaltRequest .. | .breakpointSet .. | .debugMailboxIn ..
  | .debugMailboxOut .. | .illegalInstruction .. | .unknownCommand .. | .canFdFrame .. | .canFaultConfinement .. => none

end Sys2Proof
end

