-- ==== Sys2Proof/Config.lean ====
section
/-!
DEFINITION. What an implementation fixes, and the free values: constants without a body, so that no proof can see a
value of them. A statement that mentions one holds for every value it could have.
-/

namespace Sys2Proof.Config

/-- The n-th free value the machine draws (log 6). Unlike a chosen number, nothing can be proved of it. -/
opaque freeBits : Nat → Nat

/-- The value of the i-th piece of state that the n-th undefined case leaves free (R7; log 7). -/
opaque undefinedBits : Nat → Nat → Nat

/-- The contents of the boot ROM (R243), which the spec does not give. -/
opaque bootRom : Nat → BitVec 8

/-- The set of the key cache that holds a page's entry: R255 gives 16 ways of 8,192 entries and not the mapping. -/
opaque keyCacheSet : Nat → Nat

/-- The data a decoder makes of a code word with more wrong symbols than it corrects, when it finds another code word near (R249, R253): the
memory, the true data, and the wrong symbols by place and pattern; none where it detects the error. -/
opaque eccWrong : Nat → List (BitVec 8) → List (Nat × BitVec 8) → Option (List (BitVec 8))

/-- Where the search for an arena's place begins, for the n-th arena laid out (R113 leaves the place to the device; log 12). -/
opaque arenaHint : Nat → Nat

/-- The binary32 pattern that shows the non-negative or negative rational num/den in a Carafe reading: R168 to R173 give the
real value and no rounding (log 13). -/
opaque f32Of : Int → Nat → BitVec 32

/-- The device nonce Nd of the n-th OPEN: drawn from Barista's random source (R481; log 17). -/
opaque nonce : Nat → BitVec 128

/-- Whether an update image's ECDSA P-256 signature verifies under Craend's firmware key, which the boot ROM holds and the
spec does not give (R517; log 17). -/
opaque firmwareSigned : List Byte → Bool

/-- The contents of the unpublished vendor objects (R498; log 25): index, subindex, and the value when the object is defined. -/
opaque vendorObject : Nat → Nat → Option (List Byte)

/-- Whether Craend's routine of an instruction (128 * major + func) reads a store word before its commit: store 0 micro, 1 nano, and
address (R443, R444 give the areas and not the routines; log 23). -/
opaque builtinReads : Nat → Nat → Nat → Bool

end Sys2Proof.Config
end

