-- ==== Sys2Proof/Machine/Tab.lean ====
section
/-!
DEFINITION. Sparse tables in one canonical form (keys strictly rising, no entry equal to the default), and the byte-list
helpers the machine shares.
-/

namespace Sys2Proof.Machine

/-- A sparse table: what an unlisted key reads as is the default given at each use. -/
abbrev Tab (α : Type) := List (Nat × α)

/-- The value at a key. -/
def Tab.get {α : Type} (d : α) : Tab α → Nat → α
  | [], _ => d
  | (k, v) :: t, i => if i = k then v else Tab.get d t i

/-- Removes a key. -/
def Tab.erase {α : Type} (i : Nat) : Tab α → Tab α
  | [] => []
  | (k, v) :: t => if i = k then Tab.erase i t else (k, v) :: Tab.erase i t

/-- Inserts at a key, replacing what was there, in rising key order. -/
def Tab.insert {α : Type} (i : Nat) (x : α) : Tab α → Tab α
  | [] => [(i, x)]
  | (k, v) :: t =>
    if i < k then (i, x) :: (k, v) :: t
    else if i = k then (k, x) :: t
    else (k, v) :: Tab.insert i x t

/-- Writes a key, keeping the canonical form: writing the default removes the entry. -/
def Tab.put {α : Type} [DecidableEq α] (d : α) (i : Nat) (x : α) (t : Tab α) : Tab α :=
  if x = d then Tab.erase i t else Tab.insert i x t

/-- The keys rise strictly from a lower bound and no entry holds the default. -/
def Tab.wfFrom {α : Type} [DecidableEq α] (d : α) : Nat → Tab α → Bool
  | _, [] => true
  | lo, (k, v) :: t => decide (lo ≤ k) && decide (v ≠ d) && Tab.wfFrom d (k + 1) t

/-- The canonical form. -/
def Tab.wf {α : Type} [DecidableEq α] (d : α) (t : Tab α) : Bool := Tab.wfFrom d 0 t

/-- Sum of a figure over the listed entries. -/
def Tab.sum {α : Type} (f : α → Nat) (t : Tab α) : Nat := t.foldl (fun a e => a + f e.2) 0

/-- The first key at or after `lo` (searching at most `n` keys) that is not listed. -/
def Tab.fresh {α : Type} (t : Tab α) : Nat → Nat → Nat
  | _, 0 => 0
  | lo, n + 1 => if (t.any fun e => e.1 == lo) then Tab.fresh t (lo + 1) n else lo

/-- Byte `i` (0 the least significant) of a value. -/
def byteAt (v : Nat) (i : Nat) : Byte := BitVec.ofNat 8 (v / 256 ^ i)

/-- The `n` bytes of a value in little-endian order (10: data memory is little-endian throughout). -/
def leBytes : Nat → Nat → List Byte
  | 0, _ => []
  | n + 1, v => BitVec.ofNat 8 v :: leBytes n (v / 256)

/-- The `n` bytes of a value in big-endian order (R88). -/
def beBytes (n v : Nat) : List Byte := (leBytes n v).reverse

/-- The value of bytes in little-endian order. -/
def leNat : List Byte → Nat
  | [] => 0
  | b :: t => b.toNat + 256 * leNat t

/-- The value of bytes in big-endian order. -/
def beNat (l : List Byte) : Nat := leNat l.reverse

/-- Bytes `[off, off + n)` of a list, padded with zero bytes past its end. -/
def sliceZ (l : List Byte) (off n : Nat) : List Byte :=
  let t := (l.drop off).take n
  t ++ List.replicate (n - t.length) 0#8

/-- A little-endian field of a list of bytes. -/
def leField (l : List Byte) (off n : Nat) : Nat := leNat (sliceZ l off n)

/-- A big-endian field of a list of bytes. -/
def beField (l : List Byte) (off n : Nat) : Nat := beNat (sliceZ l off n)

/-- Replaces bytes at an offset. -/
def patch (l : List Byte) (off : Nat) (b : List Byte) : List Byte :=
  l.take off ++ b ++ l.drop (off + b.length)

/-- `n` zero bytes. -/
def zeros (n : Nat) : List Byte := List.replicate n 0#8

/-- Rounds up to a multiple. -/
def ceilDiv (a b : Nat) : Nat := if b = 0 then 0 else (a + b - 1) / b

/-- The ASCII bytes of a string. -/
def ascii (s : String) : List Byte := s.toList.map fun ch => BitVec.ofNat 8 ch.toNat

/-- Bit `i` of a natural number. -/
def natBit (v i : Nat) : Bool := v / 2 ^ i % 2 == 1

/-- Splits a list into pieces of `n`, with fuel. -/
def chunks {α : Type} (n : Nat) : Nat → List α → List (List α)
  | 0, _ => []
  | _, [] => []
  | f + 1, l => l.take n :: chunks n f (l.drop n)

/-- The range `[lo, lo + n)`. -/
def natRange : Nat → Nat → List Nat
  | _, 0 => []
  | lo, n + 1 => lo :: natRange (lo + 1) n

/-- Whether a list is all one byte. -/
def allZero (l : List Byte) : Bool := l.all (· == 0#8)

end Sys2Proof.Machine
end

