-- ==== Sys2Proof/Machine/Crc.lean ====
section
/-!
DEFINITION. The four CRCs of the check-value units (R128), Crema tags and their guard (R122 to R126).
-/

namespace Sys2Proof.Machine

/-- The parameters of a CRC (R128). -/
structure CrcSpec where
  width : Nat
  poly : Nat
  init : Nat
  reflect : Bool
  xorOut : Nat
deriving DecidableEq, Repr

/-- The CRC of a polynomial ID (R128). -/
def crcSpec (id : Nat) : CrcSpec :=
  if id = 0 then ⟨32, 0x1EDC6F41, 0xFFFFFFFF, true, 0xFFFFFFFF⟩
  else if id = 1 then ⟨32, 0x04C11DB7, 0xFFFFFFFF, true, 0xFFFFFFFF⟩
  else if id = 2 then ⟨64, 0x42F0E1EBA9EA3693, 0, false, 0⟩
  else ⟨16, 0x1021, 0xFFFF, false, 0⟩

/-- The low `w` bits of a value in reverse order. -/
def reflectBits : Nat → Nat → Nat
  | 0, _ => 0
  | w + 1, v => (v % 2) * 2 ^ w + reflectBits w (v / 2)

/-- `n` shifts of the CRC register. -/
def crcShift (w poly : Nat) : Nat → Nat → Nat
  | 0, r => r
  | n + 1, r =>
    let r2 := (r * 2) % 2 ^ w
    crcShift w poly n (if r / 2 ^ (w - 1) % 2 = 1 then Nat.xor r2 poly else r2)

/-- The register after one byte. -/
def crcByte (p : CrcSpec) (r : Nat) (b : Byte) : Nat :=
  let x := if p.reflect then reflectBits 8 b.toNat else b.toNat
  crcShift p.width p.poly 8 (Nat.xor r (x * 2 ^ (p.width - 8)))

/-- The finished value of a register: reflection and final XOR. -/
def crcFinish (p : CrcSpec) (r : Nat) : Nat :=
  Nat.xor (if p.reflect then reflectBits p.width r else r) p.xorOut

/-- The register of a finished value (R142: CRCS undoes the final XOR and the reflection). -/
def crcResume (p : CrcSpec) (v : Nat) : Nat :=
  let x := Nat.xor (v % 2 ^ p.width) p.xorOut
  if p.reflect then reflectBits p.width x else x

/-- The CRC of bytes (R128). -/
def crc (id : Nat) (l : List Byte) : Nat :=
  crcFinish (crcSpec id) (l.foldl (crcByte (crcSpec id)) (crcSpec id).init)

/-- A finished value continued over more bytes (R142, R143). -/
def crcMore (id : Nat) (v : Nat) (l : List Byte) : Nat :=
  crcFinish (crcSpec id) (l.foldl (crcByte (crcSpec id)) (crcResume (crcSpec id) v))

/-- The finished value of the empty string that INIT loads (R142). -/
def crcEmpty (id : Nat) : Nat := if id = 3 then 0xFFFF else 0

/-- The fields of a Crema tag (R122). -/
def tagCheck (t : DWord) : Nat := t.toNat / 2 ^ 32
def tagAlive (t : DWord) : BitVec 8 := t.extractLsb' 24 8
def tagPoly (t : DWord) : Nat := (t.extractLsb' 22 2).toNat
def tagOrigin (t : DWord) : Nat := (t.extractLsb' 16 6).toNat
def tagGuard (t : DWord) : Nat := (t.extractLsb' 0 16).toNat

/-- The guard of R125 over bits [63:16], most significant byte first. -/
def guardOf (upper : Nat) : Nat := crc 3 (beBytes 6 upper)

/-- A tag with its guard (R122, R125). -/
def mkTag (check : Nat) (alive : BitVec 8) (poly origin : Nat) : DWord :=
  let upper := (check % 2 ^ 32) * 2 ^ 16 + alive.toNat * 2 ^ 8 + (poly % 4) * 2 ^ 6 + origin % 64
  BitVec.ofNat 64 (upper * 2 ^ 16 + guardOf upper)

/-- Whether the guard verifies (R125). -/
def tagGuardGood (t : DWord) : Bool := guardOf (t.toNat / 2 ^ 16) == tagGuard t

/-- Whether polynomial ID and origin class are defined codes (R122, R123). -/
def tagDefined (t : DWord) : Bool :=
  decide (tagPoly t ≤ 1) && decide (1 ≤ tagOrigin t) && decide (tagOrigin t ≤ 5)

/-- The bytes a record's check covers: header bytes 8 to 31 with bits [7:3] of byte 13 zero, then the payload (R126). `l` is
the record from header byte 0. -/
def coveredBytes (l : List Byte) : List Byte :=
  let h := sliceZ l 8 24
  let b13 := (h.getD 5 0) &&& 0x07#8
  patch h 5 [b13] ++ (l.drop 32).take (leField l 14 2)

/-- The outcome of R134 for a copy `l` of a record: 0 good, 1 to be retagged, 2 quarantined; and the check computed, when one
was. `classPoly` is the tag polynomial of the header's class (R135). -/
def tagDecide (classPoly : Nat) (tag : DWord) (covered : List Byte) : Nat × Nat × DWord :=
  if tagGuardGood tag then
    if tagDefined tag then
      let k := crc (tagPoly tag) covered
      if k = tagCheck tag then (0, k, tag) else (2, k, tag)
    else (2, 0, tag)
  else
    let poly := if tagPoly tag ≤ 1 then tagPoly tag else classPoly
    let k := crc poly covered
    (1, k, mkTag k (tagAlive tag) poly 5)

end Sys2Proof.Machine
end

