-- ==== Sys2Proof/Machine/State.lean ====
section
/-!
DEFINITION. The state of the TX-6440 as plain data, its faults and refusals, and the state right after reset.
-/

namespace Sys2Proof.Machine

/-- Why the model stops. -/
inductive Fault where
  /-- Raised by no meaning: in an undefined case (R7) everything that the offending context can write takes any value, and the machine goes on (R8;
  log 7). Safe: a statement that excludes this fault excludes nothing. -/
  | undefinedCase (rule : Nat)
deriving DecidableEq, Repr

/-- Why the model has no meaning for a command. -/
inductive Refusal where
  /-- A command that has no meaning yet. Safe: nothing can be proved of it. -/
  | notModelled (mnemonic : String)
deriving DecidableEq, Repr

/-- Whether a core executes instructions (09 Reset and release, R404). -/
inductive RunState where
  /-- held by reset, by Barista or for a fault -/
  | held
  /-- idle: between tasks, on its current bank -/
  | idle
  /-- running a task, or a handler -/
  | running
  /-- stopped by a machine check with MCE = 0 (R404), or by power failure (R178) -/
  | stopped
deriving DecidableEq, Repr

/-- What an instruction in progress waits for. -/
inductive WaitWhy where
  /-- Carafe headroom of so many bytes (R30, R149) -/
  | carafe (need : Nat)
  /-- a free capture slot (R150) -/
  | capture
  /-- the deferred swap of a page (R148) -/
  | deferred (page : Nat)
  /-- a line lock, with the effective address of the line waited on (R260) -/
  | lock (line : Nat) (ea : Word)
  /-- room for an egress submission (R237) -/
  | egsb (value : DWord)
deriving DecidableEq, Repr

/-- A waiting instruction: it has had no effect but those its rule makes before the wait, and it is executed when the wait ends.
`none`: the wait of a device-register store, which the instruction itself has already completed. -/
structure Wait where
  why : WaitWhy
  instr : Option Instr
deriving DecidableEq, Repr

/-- A pending write to a mode-bearing register: how many instructions still complete before it takes effect (R420). -/
structure Shadow where
  left : Nat
  num : Nat
  val : Word
deriving DecidableEq, Repr

/-- An entry of the store buffer: physical address, bytes, and whether the bytes were stored to DRAM (R430, R431). -/
structure SbEntry where
  pa : Nat
  bytes : List Byte
deriving DecidableEq, Repr

/-- A breakpoint of the debug unit (R570). -/
structure Brk where
  enable : Bool
  ea : BitVec 30
deriving DecidableEq, Repr

/-- A microcode store word that holds bad parity, as the world left it: store 0 micro or 1 nano, and address (R443, R461). -/
structure BadWord where
  store : Nat
  addr : Nat
deriving DecidableEq, Repr

/-- The micro registers of a resumable user routine that stands at a chunk boundary and has not been interrupted (R448, R451): the
microword to go on at, T0 to T7, MDR, MAR, CNT, the flags Z N C V INV, the micro-stack, and whether the execution is a resumption. -/
structure MicroCtx where
  next : Nat
  t : Tab Word
  mdr : DWord
  mar : Word
  cnt : Nat
  z : Bool
  n : Bool
  c : Bool
  v : Bool
  inv : Bool
  stack : List Nat
  resumed : Bool
deriving DecidableEq, Repr

/-- What the repair controller says of a physical core (R542, 0x1202). -/
inductive CoreState where
  | carrying | ready | underTest | held | retired
deriving DecidableEq, Repr

/-- One physical ledger core (R269, R304 and the rules each field names). -/
structure Core where
  /-- w0 to w31 of banks 0 to 9 at key 32 * bank + n (R269, R272); default 0 -/
  regs : Tab Word
  /-- special registers by the number of R304; default 0 -/
  sr : Tab Word
  /-- PC (R269) -/
  pc : Word
  /-- the next instruction continues: an RPT target under RC, or a resumable instruction (R302, R358) -/
  rs : Bool
  /-- pending mode-bearing writes, oldest first (R420) -/
  shadow : List Shadow
  /-- return-stack buffer, newest first, at most 16 (R294) -/
  rstack : List Word
  /-- V and D of task banks 0 to 7 (R273) -/
  bankV : BitVec 8
  bankD : BitVec 8
  /-- CTX of task banks by bank number; default 0 (R273) -/
  bankCtx : Tab Nat
  /-- task banks, most recently current first (R275, R277) -/
  recency : List Nat
  /-- core cycles since the core left reset (R304, CYCLEL/CYCLEH) -/
  cycle : Nat
  run : RunState
  wait : Option Wait
  /-- a user routine between two chunks (R451) -/
  micro : Option MicroCtx
  /-- held for a microcode reload: the bad word (R461) -/
  parityHold : Option BadWord
  /-- at most eight entries, oldest first (R430) -/
  storeBuf : List SbEntry
  /-- lines for whose first touch the instruction in progress has reserved headroom and not yet copied the line (R149, R150) -/
  touchHeld : List Nat
  /-- what a fetch still finds at addresses that this core has stored to since its last FENCEI (R264) -/
  staleOwn : Tab Byte
  /-- BUDGET (R59), signed -/
  budget : Int
  /-- vector 15 has been raised in this release (R402), and the counter has reached zero -/
  budgetFired : Bool
  budgetPend : Bool
  /-- what is left of I_res in this frame (R59) -/
  iresLeft : Nat
  /-- cycles since the tick (R63, peak use) -/
  sinceTick : Nat
  /-- task-table index of the dispatched task, and its context (R57, R59) -/
  task : Option Nat
  taskCtx : Nat
  /-- an NMI or machine-check handler is in progress (R403); a fast-class or BS handler is (R402, R570) -/
  inNmi : Bool
  inMc : Bool
  fastDepth : Nat
  bsDepth : Nat
  /-- of the handlers on BF and on BS, innermost first: whether it is an interrupt's (R59) -/
  fbInt : List Bool
  bsInt : List Bool
  nmiPend : Bool
  /-- a halt request is pending; a vector-20 entry has not ended (R570) -/
  haltPend : Bool
  inDebug : Bool
  /-- EGSA (R237) -/
  egsa : DWord
  /-- DRST fields (R117) -/
  drstResult : Nat
  drstCount : Nat
  drstCred : Nat
  /-- IPEND, IEN, IFAST (R405) -/
  ipend : BitVec 17
  ien : BitVec 17
  ifast : BitVec 17
  /-- DBGIN, DBGOUT and DBGSTAT (R570) -/
  dbgin : Word
  inf : Bool
  dbgout : Word
  outf : Bool
  /-- four breakpoints (R570) and the one of the last Update-DR -/
  brks : Tab Brk
  brkSel : Nat
  /-- store words with bad parity (R461; log 11) -/
  ucodeBad : List BadWord
  /-- store and address of the words that a reload of the last 1,000 frames has answered, with its frame (R463) -/
  reloaded : List (BadWord × Nat)
  /-- frame of the last reported fault (R536) -/
  faultFrame : Option Nat
  /-- the core has reported a fault that is not yet replaced, and its tile has lost power (R535) -/
  faulted : Bool
  scratchLost : Bool
  state : CoreState
  /-- frame of the last passed self-test (R530) -/
  lastPass : Nat
deriving DecidableEq, Repr

/-- The default breakpoint. -/
def Brk.off : Brk := ⟨false, 0⟩

/-- One logical core's dispatcher, credit and carrier figures. -/
structure LCore where
  carrier : Option Nat
  home : Nat
  displaced : Bool
  /-- gc_n and uc_n (R112) -/
  gc : Nat
  uc : Nat
  /-- derived records emitted in the current epoch (R127) -/
  emitted : Nat
  /-- how many of its tasks have been released in this frame (R57) -/
  released : Nat
  /-- an overrun was counted in this frame (R63) -/
  ovrNow : Bool
  /-- 0x0420 to 0x0423 (R63) -/
  overrun : Nat
  miss : Nat
  peak : Nat
  excess : Nat
deriving DecidableEq, Repr

/-- A storage-key byte with the change word of its page (R413, R146), and the frames whose sets the CUR lines and the PEND lines belong to
(R147, R148). -/
structure PageKey where
  key : Byte
  cur : BitVec 16
  pend : BitVec 16
  curFrame : Nat
  pendFrame : Nat
deriving DecidableEq, Repr

/-- What the decoder finds in a code word of a memory: no error, a correctable or an uncorrectable one (R249, R256, R257; log 11). -/
inductive Upset where
  | none | correctable | uncorrectable
deriving DecidableEq, Repr

/-- A partner table entry (R96). -/
structure Partner where
  addr : BitVec 128
  classMask : BitVec 64
  vlan : BitVec 16
  keySlot : BitVec 16
  qs : BitVec 16
  qd : BitVec 16
  portMask : BitVec 8
  flags : BitVec 8
  e : BitVec 8
  aDur : BitVec 8
  mac : BitVec 48
  status : BitVec 8
  ackSeq : BitVec 32
  gS : BitVec 16
  uS : BitVec 16
  gD : BitVec 16
  uD : BitVec 16
  tS : BitVec 32
  tD : BitVec 32
deriving DecidableEq, Repr

/-- Whose cells an arena holds (R113). -/
inductive ArenaKind where
  | cls (k : Nat)
  | derived (l : Nat)
  | resident
deriving DecidableEq, Repr

/-- An arena: home, place, size in cells, ring position, and the window of the ended and of the running frame (R113, R114). -/
structure Arena where
  kind : ArenaKind
  dram : Bool
  base : Nat
  cells : Nat
  pos : Nat
  /-- ring position at the last tick, and records admitted since -/
  first : Nat
  count : Nat
  /-- what the class window shows of the ended frame: home, base and cells of the ring, first and end, records (R114) -/
  winDram : Bool
  winBase : Nat
  winCells : Nat
  winFirst : Nat
  winEnd : Nat
  winCount : Nat
  /-- an outgoing arena that is not kept: it gives its cells back as its records are released -/
  outgoing : Bool
deriving DecidableEq, Repr

/-- A record or derived record whose cells are held (R18 to R25, R109). -/
structure Rec where
  id : Nat
  partner : Nat
  cls : Nat
  alive : BitVec 8
  /-- admission frame, or frame of emission -/
  frame : Nat
  /-- its cells: arena base, arena cells and ring position (R113) -/
  base : Nat
  ring : Nat
  pos : Nat
  cells : Nat
  /-- 32 + payload length -/
  bytes : Nat
  dram : Bool
  /-- emitted by this logical core (R118) -/
  derived : Option Nat
  /-- the copy of R118 is complete; where the buffer it copies lies -/
  copied : Bool
  src : Nat
  /-- the durability horizon under which it was admitted (R78) -/
  horizon : Nat
  /-- taken by a task in its processing frame (R62) -/
  taken : Bool
  /-- restored by recovery and already durable (R189), with the frame in which it is presented; 2^64 before that -/
  again : Option Nat
  /-- the image of a restored record until it is loaded into its arena (R186 step 9) -/
  data : List Byte
  /-- the frame in which it became durable (R165) -/
  durable : Option Nat
  /-- its place in its set, once it has one: 64 * set block index + granule (R158, R159) -/
  order : Option Nat
deriving DecidableEq, Repr

/-- A piece of a set's content (R147, R163). -/
inductive Item where
  | line (pa : Nat)
  | record (id : Nat)
  | key (page : Nat) (byte : Byte)
  /-- a whole control block of the flush: its bytes -/
  | control (bytes : List Byte)
deriving DecidableEq, Repr

/-- A run of body blocks of one type that is still to be written, in one segment (R159, R162; log 22). -/
structure Chunk where
  items : List Item
  blocks : Nat
  /-- blocks of it already placed in units, and the group in whose open segment they lie -/
  placed : Nat
  grp : Option Nat
deriving DecidableEq, Repr

/-- The set of a closed frame (R147, R163 to R166). -/
structure ChangeSet where
  frame : Nat
  /-- D_M of R22 -/
  dm : Nat
  /-- the last frame by whose end the set must be complete (R21, R22, R166) -/
  due : Nat
  todo : List Chunk
  nBlocks : Nat
  nextIdx : Nat
  programmed : Nat
  complete : Option Nat
  missed : Bool
  records : List Nat
deriving DecidableEq, Repr

/-- A 4 KiB block with its metadata (R158, R159). -/
structure Block where
  kind : Nat
  flags : Byte
  index : Nat
  setIndex : Nat
  setCount : Nat
  epoch : Nat
  setFrame : Nat
  startMap : BitVec 64
  /-- line blocks: physical address and tag of each slot -/
  descs : List (Nat × DWord)
  data : List Byte
deriving DecidableEq, Repr

/-- Issuers of media operations (R218). -/
inductive Issuer where
  | percolator | egress | grinder | barista
deriving DecidableEq, Repr

/-- Kinds of media operation (R220). -/
inductive OpKind where
  | program | read | erase | raw
deriving DecidableEq, Repr

/-- The area of the media that a program unit belongs to (R205, R206, R208). -/
inductive Area where
  | journal | bulk | system
deriving DecidableEq, Repr

/-- A media operation in a slot of the queue (R218). -/
structure MediaOp where
  id : Nat
  issuer : Issuer
  kind : OpKind
  /-- LUN index as 0x0D08.01 -/
  lun : Nat
  group : Nat
  area : Area
  /-- the blocks a program unit holds, at their places in the group's data space, or in bulk storage -/
  blocks : List (Nat × Block)
  parity : Bool
  /-- the stripe of an erase; a bulk stripe adds 2^20 to its index -/
  stripe : Option Nat
  /-- B_dirty bytes that its completion removes (R154) -/
  dirty : Nat
  /-- bus time in ns (R222) -/
  busNs : Nat
  issued : Bool
  /-- the program has been rewritten once after a failure (R211) -/
  retried : Bool
  /-- 1 while it is being suspended, 2 once it is (R223) -/
  susp : Nat
  /-- pieces of the data input of a Grinder's bulk program that have been sent (R222) -/
  sent : Nat
  /-- the first place of the unit to which a failed program is rewritten (R211) -/
  moved : Option Nat
  /-- what a read, or a parity unit, is for; the Grinder's job it belongs to -/
  ref : Option FlashRef
  job : Option Nat
  /-- the bytes of a parity unit or of a raw sequence -/
  data : List Byte
deriving DecidableEq, Repr

/-- One channel group's journal (R155 to R161, R200 to R206). -/
structure Group where
  /-- stripe sets, as found at the start (R200) -/
  sets : Nat
  /-- programmed blocks by place in the group's data space, newest first -/
  blocks : List (Nat × Block)
  /-- programmed parity blocks by parity group -/
  parity : List (Nat × List Byte)
  /-- next block of the data space to allocate -/
  next : Nat
  /-- sequence of the next segment, and the link it records -/
  seq : Nat
  link : List Byte
  /-- first block of the open segment; the next segment is the group's first in a new epoch (R157) -/
  seg : Option Nat
  fresh : Bool
  /-- blocks of the open segment, newest first, its header included (R161) -/
  cur : List Block
  /-- units rewritten after a failed program: the first place of the unit, and of the one it was rewritten to (R211; log 43) -/
  remap : List (Nat × Nat)
  /-- data units enqueued since the last parity unit, and the parity accumulator (R156) -/
  sinceParity : Nat
  acc : List Byte
  /-- first block, sequence and previous link of the oldest unfolded segment (R205) -/
  foldBlock : Nat
  foldSeq : Nat
  foldLink : List Byte
  /-- journal stripes out of use (R211) -/
  badStripes : List Nat
  /-- stripes being erased: the operations left, and 0, 1 once one has timed out, 2 once one has failed; a bulk stripe adds 2^20 to its index
  (R206, R211, R220) -/
  erasing : List (Nat × Nat × Nat)
  /-- journal stripes opened since their last erase, by their place in the journal area (R206) -/
  used : List Nat
  /-- an occupancy event has been logged below a quarter (R207) -/
  lowLogged : Bool
deriving DecidableEq, Repr

/-- A channel as discovery found it (R194 to R197, R226 0x0D20+ch). -/
structure Chan where
  l : Nat
  sPg : Nat
  tXfer : Nat
  tCmd : Nat
  tProg : Nat
  tR : Nat
  tSusp : Nat
  tErase : Nat
  iface : Nat
  rate : Nat
  /-- blocks per LUN divided by plane count (R200), pages per block of journal LUNs -/
  nBlk : Nat
  pages : Nat
  /-- what the parameter pages declare: bits per cell, t_PROG, t_R, t_BERS, pages per block, the operations that can be suspended, retry levels
  (R196, R203, R223) -/
  bpc : Nat
  pageProg : Nat
  pageRead : Nat
  pageErase : Nat
  pagePages : Nat
  suspProg : Bool
  suspErase : Bool
  levels : Nat
  /-- P, the parity bytes of a codeword (R202) -/
  codeP : Nat
  /-- Grinder bus time left in this frame (R222) -/
  reserve : Nat
  /-- ns spent in read recovery beyond planned units (R204) -/
  unplanned : Nat
deriving DecidableEq, Repr

/-- A LUN (R198 to R200, R210 to R213, R220, R540). -/
structure Lun where
  role : Nat
  slc : Bool
  /-- its number among the journal or bulk LUNs of its channel (R200) -/
  num : Nat
  /-- 0 absent, 1 in service, 2 out of service, 3 retired -/
  state : Nat
  bpc : Nat
  /-- factory and grown bad blocks, by multi-plane block (R210, R211) -/
  factoryBad : List Nat
  grownBad : List Nat
  /-- blocks of the LUN, and its multi-plane blocks (R200) -/
  blocks : Nat
  multi : Nat
  /-- erase counts and reads since erase, by multi-plane block (R205, R213) -/
  erases : Tab Nat
  endurance : Nat
  timeouts : List Nat
  rebuilding : Bool
  reads : Tab Nat
deriving DecidableEq, Repr

/-- An entry of the record index of bulk storage (R208, R209): where the record lies, by block places of bulk storage and start granule. -/
structure BulkRec where
  id : Nat
  partner : Nat
  cls : Nat
  frame : Nat
  retention : Nat
  derived : Bool
  places : List Nat
  gran : Nat
  len : Nat
  /-- its place in its set, for the order of admission (R232) -/
  order : Nat
deriving DecidableEq, Repr

/-- A durable page in the durable image index (R205): the place in bulk storage of its image, and its key byte. -/
structure PageImage where
  place : Nat
  key : Byte
deriving DecidableEq, Repr

/-- The tables of the system area that an update writes (R205), and what recovery and the folds need beside them (logs 45, 46). -/
structure SysTables where
  /-- factory and grown bad blocks, roles, SLC flags and erase counts, by LUN -/
  bad : Tab (List Nat × List Nat)
  roles : Tab Nat
  slc : Tab Bool
  erases : Tab (Tab Nat)
  plan : List Byte
  /-- the fold point of each group: oldest unfolded segment, its place, its predecessor's link -/
  folds : Tab (Nat × Nat × List Byte)
  pages : Tab PageImage
  imgFrame : Nat
  bulk : List BulkRec
  nextBulk : Nat
  periods : List (Nat × Nat)
  retentions : List (Nat × Nat × Nat)
  /-- retention periods given up: retention class, hours, and the frame of the write (R216) -/
  lapses : List (Nat × Nat × Nat)
  lineFrames : Tab Nat
  keyFrames : Tab Nat
  snaps : Tab (List Byte)
  cuts : List (Nat × Nat × List Nat)
deriving DecidableEq, Repr

/-- A whole image of the system area (R205). -/
structure SysImage where
  version : Nat
  tables : SysTables
deriving DecidableEq, Repr

/-- What the Grinder has under way: folding a segment, or moving what a reference names (R208, R213). -/
inductive JobKind where
  | fold (grp seq : Nat)
  | move (ref : FlashRef)
deriving DecidableEq, Repr

/-- Where a job stands (R208): reading, read, programming, programmed, writing the system area, or given up until a later frame (R220). -/
inductive JobStage where
  | reading | content | programming | programmed | system
  | dropped (frame : Nat)
deriving DecidableEq, Repr

/-- A job of the Grinder: its operations still to end, the places it could not read, and what becomes true once the system area is written. -/
structure Job where
  id : Nat
  kind : JobKind
  stage : JobStage
  left : Nat
  lost : List Nat
  /-- index entries and pages written, index entries replaced or dropped -/
  recs : List BulkRec
  pages : Tab (Option PageImage)
  gone : List Nat
  /-- a boot image block moved, with its new place -/
  image : Option (Nat × Nat × Nat × Nat)
  lineFrames : Tab Nat
  keyFrames : Tab Nat
  snaps : Tab (List Byte)
  newest : Nat
  /-- of a fold: the segment after which the group goes on, with place and predecessor's link -/
  fold : Option (Nat × Nat × List Byte)
deriving DecidableEq, Repr

/-- The NAND media and its controller (06). -/
structure Media where
  chans : Tab Chan
  luns : Tab Lun
  groups : Tab Group
  queue : List MediaOp
  nextOp : Nat
  /-- program units of the Percolator that ended with an error status and are to be written again (R38, R220) -/
  posted : List MediaOp
  /-- programmed blocks of bulk storage by 2^40 * group + 2^20 * stripe + block, newest first; parity blocks by row of the same form (R201) -/
  bulkBlocks : List (Nat × Block)
  bulkParity : List (Nat × List Byte)
  bulk : List BulkRec
  nextBulk : Nat
  /-- the bulk stripe being filled with its next block, and the stripes programmed since their last erase: 2^20 * group + stripe (R212) -/
  bulkOpen : Option (Nat × Nat)
  bulkUsed : List Nat
  /-- durable page images by page number, and the frame they are folded to (R205) -/
  pages : Tab PageImage
  imgFrame : Nat
  /-- frame and new period, frame and (class, value) (R205) -/
  periods : List (Nat × Nat)
  retentions : List (Nat × Nat × Nat)
  /-- retention periods given up: retention class, hours, and the frame of the write (R216) -/
  lapses : List (Nat × Nat × Nat)
  /-- the frames, plus one, whose images of lines (by physical address / 256) and whose key items (by page) were folded last: an older one
  does not replace them (log 45) -/
  lineFrames : Tab Nat
  keyFrames : Tab Nat
  /-- partner snapshots folded last, by partner (R188) -/
  snaps : Tab (List Byte)
  /-- the closes decided so far: epoch, F_c, and the frames of its incomplete sets (R187; log 46) -/
  cuts : List (Nat × Nat × List Nat)
  /-- relocation queue (R204, R213), and the Grinder's jobs -/
  relocate : List FlashRef
  jobs : List Job
  nextJob : Nat
  /-- when a reference was last scrubbed, in plant time (R213) -/
  scrubbed : List (FlashRef × Nat)
  /-- the saved plan (R79, R205) -/
  savedPlan : List Byte
  /-- the images of the system area by group; whether a table has changed since the last; the one being programmed (R205) -/
  sysImages : Tab SysImage
  sysVersion : Nat
  sysDirty : Bool
  sysOpen : Option SysImage
  present : Bool
deriving DecidableEq, Repr

/-- A capture slot in use (R149, R152). -/
structure Capture where
  pa : Nat
  frame : Nat
  bytes : List Byte
deriving DecidableEq, Repr

/-- The Percolator, the capture store and the durability figures (05). -/
structure Percolator where
  sets : List ChangeSet
  /-- lines first touched in the current frame, by physical address (R147) -/
  touched : List Nat
  /-- records and derived records of the current frame, by id, newest first -/
  curRecs : List Nat
  curDerived : List Nat
  keyChanged : List Nat
  captures : List Capture
  /-- program units enqueued in this frame by channel (R55, R163) -/
  used : Tab Nat
  /-- B_dirty and the derived reservation left in this frame (R154) -/
  dirty : Nat
  derivedRes : Nat
  /-- pages whose swap is deferred (R148) -/
  deferred : List Nat
  lastComplete : Nat
  misses : Nat
  deferrals : Nat
  close : Nat
  recoveryMs : Nat
  /-- Percolator-submitted record count of Barista in the epoch (R127) -/
  baristaCount : Nat
deriving DecidableEq, Repr

/-- The Carafe (R168 to R175). -/
structure Carafe where
  /-- accepted capacitance in F as numerator and denominator; none until the first accepted test of the start -/
  cap : Option (Nat × Nat)
  vlo : BitVec 16
  vhi : BitVec 16
  bMax : Nat
  /-- ceilings of the last 64 frames since the first accepted test, newest first -/
  ceilings : List Nat
  bFloor : Nat
  breached : Bool
  /-- HOLDTEST asserted for a test; a test is due; frames postponed in a row -/
  testing : Bool
  testDue : Bool
  postponed : Nat
  /-- the first ceiling of the start has taken effect (R176, R172) -/
  armed : Bool
  lastTestFrame : Nat
  /-- plant time of the last test, and its drop as binary32 (R170, R175) -/
  lastTestNs : Nat
  lastDropF : BitVec 32
  /-- B_dirty at the last tick (0x0C20.03) -/
  dirtyAtTick : Nat
  /-- V_use, E_avail and E_fixed of the last tick, as binary32 (0x0C20.04, .06, .07) -/
  vUseF : BitVec 32
  eAvailF : BitVec 32
  eFixedF : BitVec 32
deriving DecidableEq, Repr

/-- Stages of the power-fail sequence (R177). -/
inductive PfStage where
  | none | t0 | holdtestOff | admissionOff | coresOff | flushing | flushed | safe
deriving DecidableEq, Repr

/-- The power-fail sequence in progress (R176 to R183). -/
structure PowerFail where
  stage : PfStage
  /-- 1 PFAIL_N, 2 V_warn, 3 audit failure, 4 orderly shutdown (R180) -/
  trigger : Nat
  cutFrame : Nat
  dirtyAtT0 : Nat
  mvAtT0 : Nat
  bytesFlushed : Nat
  /-- a device restart follows SAFE (R513) -/
  restart : Bool
  /-- an orderly shutdown has been requested and starts at the next tick (R176) -/
  shutdownAsked : Bool
deriving DecidableEq, Repr

/-- The frame timer and its time source (R43 to R51). -/
structure Timer where
  /-- the timer may start at its first tick: boot without a journal, or recovery step 8 (R44, R186) -/
  armed : Bool
  frame : Nat
  running : Bool
  period : Nat
  plantNs : Nat
  ppsOut : Bool
  /-- 0 free running, 1 acquiring, 2 locked, 3 holdover (0x0400.06) -/
  srcState : Nat
  offset : Int
  lockCount : Nat
  /-- frequency correction kept in holdover, ns per frame -/
  freq : Int
  holdLogged : Bool
  /-- plant time at which holdover began (R49), and the whole second of the last 1PPS_OUT edge (R50) -/
  holdNs : Nat
  ppsSecond : Option Nat
  /-- the best Announce of each port, and the port that the best master clock algorithm has chosen (R48) -/
  announces : List (NetPort × Announce)
  master : Option NetPort
deriving DecidableEq, Repr

/-- Plans (02). -/
structure Plans where
  active : List Byte
  shadow : List Byte
  /-- 0 plan, 1 degraded section, 2 no plan (0x0410.03) -/
  state : Nat
  /-- 0 empty, 1 admitted, 2 switch pending (0x0412.02) -/
  shadowState : Nat
  switchFrame : Nat
  pendingFrame : Nat
  /-- the committed DOMAIN that the pending switch activates -/
  pending : List Byte
  /-- a trigger of R81 stands: 1 core loss, 2 media, 3 energy, 4 overrun -/
  degradeDue : Option Nat
  /-- the media table (channel, p, r) and beta of the section active most recently (R163) -/
  lastMedia : List (Nat × Nat × Nat)
  lastBeta : Nat
  /-- consecutive overrun frames (R63); consecutive frames with B_floor below B_plan (R81) -/
  ovrFrames : Nat
  lowFrames : Nat
  /-- 0x0418 (R73): code, section, subject, demand, limit, offset, frame, operation -/
  refusal : List Nat
  /-- last frame in which the active plan admitted records of a class (R76) -/
  lastAdmit : Tab Nat
  /-- the images of the section in force, and of the pending plan, are in place (R496, R537) -/
  placed : Bool
  pendPlaced : Bool
  /-- the saved plan is to be checked at the tick of the first ceiling (R79) -/
  checkSaved : Bool
  /-- stopping under R82: admission stopped, what is admitted is made durable -/
  stopping : Bool
deriving DecidableEq, Repr

/-- The class policies of R101 in force in one frame (R102). -/
structure ClassPolicy where
  ack : Nat
  poly : Nat
  pcrc : Nat
  gcm : Bool
  retention : Nat
deriving DecidableEq, Repr

/-- The admission unit's books (03). -/
structure Admission where
  partners : Tab Partner
  arenas : List Arena
  recs : List Rec
  nextRec : Nat
  /-- F and A of each home (R37, R112), and the resident cells -/
  freeS : Nat
  freeD : Nat
  allocS : Nat
  allocD : Nat
  poolD : Nat
  cres : Nat
  /-- class budgets charged in this frame (R107) -/
  bytes : Tab Nat
  count : Tab Nat
  /-- policies in force (R102) -/
  policy : Tab ClassPolicy
  /-- partners already answered under 0x08 in this frame (R103) -/
  staleAcked : List Nat
  /-- entries disabled since the last tick (R98) -/
  voidPend : List Nat
  /-- partners owed a durable acknowledgement after the next audit (R119), with whether for R189 -/
  durableDue : List Nat
  /-- partners whose ack sequence is exhausted (R121) -/
  ackDone : List Nat
  /-- state acknowledgements still due after recovery and the frame they began (R120), the restored A_dur announcements of R189 -/
  recFrame : Nat
  stateDue : List Nat
  announceDue : List Nat
  /-- admission frames still to be presented again (R189) -/
  represent : List Nat
  /-- held for journal headroom (R207); stopped (R111, R82); closed until recovery's last presented frame (R189) -/
  held : Bool
  stopped : Bool
  closed : Bool
  epoch : Nat
  /-- AES-256 keys by slot; empty list when none (R493) -/
  keys : Tab (List Byte)
deriving DecidableEq, Repr

/-- Kinds of request accepted for reply (R227). -/
inductive ReqKind where
  | read (first last : Nat)
  /-- with its ring entry, 1 to N_q -/
  | query (slot : Nat)
  | image (num version first count : Nat)
deriving DecidableEq, Repr

/-- An accepted request (R232 to R241). -/
structure Request where
  order : Nat
  partner : Nat
  cls : Nat
  port : Nat
  reqId : Nat
  kind : ReqKind
  /-- status to send at once (2 no such image, 3 busy, 4 no task) -/
  refuse : Option Nat
deriving DecidableEq, Repr

/-- A reply submitted by a task through EGSA and EGSB (R237). -/
structure Submission where
  core : Nat
  partner : Nat
  cls : Nat
  reqId : Nat
  status : Nat
  last : Bool
  addr : Nat
deriving DecidableEq, Repr

/-- A stored boot image version (R233). -/
structure BootImage where
  num : Nat
  version : Nat
  length : Nat
  /-- place in bulk storage and tag of each 4,096-byte block -/
  blocks : List (Nat × DWord)
  /-- blocks not yet enqueued, and operations not yet programmed (R233) -/
  todo : List (List Byte)
  left : List Nat
  current : Bool
deriving DecidableEq, Repr

/-- A block in the image cache: its image, version and index, its slot of 4,096 bytes in the cache, and its tag (R235). -/
structure CacheEntry where
  num : Nat
  version : Nat
  block : Nat
  slot : Nat
  tag : DWord
deriving DecidableEq, Repr

/-- Where the device addresses a VRT datagram to: the partner's bound address, learned MAC address and bound VLAN, from and to the VRT port (R95). -/
structure OutAddr where
  addr : BitVec 128
  mac : BitVec 48
  vlan : BitVec 16
  srcPort : Nat
  dstPort : Nat
deriving DecidableEq, Repr

/-- The egress path (07). -/
structure Egress where
  reqs : List Request
  nextOrder : Nat
  subs : List Submission
  images : List BootImage
  /-- message bytes and datagrams sent in this frame by 64 * port + class (R239) -/
  sentBytes : Tab Nat
  sentCount : Tab Nat
  /-- datagrams per partner in this frame (R240) -/
  perPartner : Tab Nat
  /-- partner last served by 64 * port + class, plus one (R240) -/
  lastServed : Tab Nat
  /-- next ring entry less one, by class; the next entry at the last tick, and the queries written since (R236) -/
  ringNext : Tab Nat
  ringFirst : Tab Nat
  ringCount : Tab Nat
  /-- read units of this frame by channel (R232, R55) -/
  readUsed : Tab Nat
  /-- NAND reads completed for pending replies, and whether each gave data (R203, R232) -/
  fetched : List (FlashRef × Bool)
  /-- the blocks in the image cache, most recently sent first (R235) -/
  cache : List CacheEntry
deriving DecidableEq, Repr

/-- A segmented write in progress (R479). -/
structure Transfer where
  key : Nat
  total : Nat
  data : List Byte
deriving DecidableEq, Repr

/-- A ZDP session (R480 to R483). -/
structure Session where
  sid : Nat
  client : Client
  ring : Nat
  nc : List Byte
  nd : List Byte
  key : List Byte
  isOpen : Bool
  lastSeq : Nat
  busy : Bool
  lastResp : List Byte
  transfer : Option Transfer
deriving DecidableEq, Repr

/-- A write that waits: a persistent one whose NOR copy is being programmed (R472), or the store of a boot image (R233). The session, the request's
header (none for a row's own write), the object with the window's selection, and the value. -/
structure PendStore where
  sid : Nat
  req : List Byte
  index : Nat
  sub : Nat
  win : Nat
  value : List Byte
deriving DecidableEq, Repr

/-- The ZDP server (16). -/
structure Zdp where
  sessions : List Session
  opens : Nat
  /-- failed proofs by source, with the plant time of each -/
  fails : List (Client × Nat)
  locked : List Client
  store : Option PendStore
  backlog : List ZdpMsg
  /-- CAN FD reassembly: next counter and bytes (R488, R489) -/
  can : Option (Nat × List Byte)
deriving DecidableEq, Repr

/-- Barista's event log (R505 to R510). -/
structure EventLog where
  /-- ring, newest first, with sequence -/
  ring : List (Nat × List Byte)
  nextSeq : Nat
  nand : List (Nat × List Byte)
  nor : List (Nat × List Byte)
  lost : Nat
deriving DecidableEq, Repr

/-- A firmware slot (R514 to R520). -/
structure Slot where
  /-- 0 invalid, 1 good, 2 staged, 3 trial -/
  state : Nat
  version : Nat
  rollback : Nat
  attempts : Nat
  image : List Byte
deriving DecidableEq, Repr

/-- Where boot stands (R515, R516, R550, R560). -/
inductive BootStage where
  | reset | waitPfail | stuck | rescue | up
deriving DecidableEq, Repr

/-- Barista: boot, sensors, pins (17, 19). -/
structure Barista where
  stage : BootStage
  bootFacts : Option BootFacts
  slotA : Slot
  slotB : Slot
  running : Nat
  counter : List Nat
  lastReset : Nat
  bootMs : Nat
  /-- SAFE, HOLDTEST, THERMTRIP_N asserted; PFAIL_N asserted as last seen -/
  safe : Bool
  holdtest : Bool
  thermtrip : Bool
  pfail : Bool
  warnLatched : Bool
  /-- rails: consecutive samples outside, or within, and latched (R502) -/
  railBad : Tab Nat
  railGood : Tab Nat
  railLatched : List Nat
  bankMv : Nat
  bankMa : Int
  /-- the serial and ordering code in OTP, the ring credentials and MAC addresses (R484, R492) -/
  serial : Nat
  ec : Bool
  otp : Tab (List Byte)
  firmware : Nat
  golden : Nat
  rom : Nat
deriving DecidableEq, Repr

/-- User microcode (15). -/
structure Microcode where
  image : List Byte
  loaded : BitVec 16
  /-- the image being loaded, and whether the cores have been written -/
  loading : Option (List Byte)
  /-- of the image being loaded: 0 waits for the tick of step 1, 1 the cores are being written, 2 every core is written (R459) -/
  loadStage : Nat
  imageId : Nat
  /-- the mask that loads or unloads at the next tick (R459) -/
  unloadDue : BitVec 16
  /-- cycle sums of slots 0 to 15 (R455) -/
  sums : Tab Nat
  /-- cores held for a reload in the order reported, with how many were ahead (R461) -/
  reloads : List (Nat × Nat)
  /-- golden ROM words with an uncorrectable error, as the world left them (R463; log 11) -/
  goldenBad : List Nat
deriving DecidableEq, Repr

/-- A row repair (R538). -/
structure RowRepair where
  kind : Nat
  spare : Nat
  unit : Nat
  done : Bool
deriving DecidableEq, Repr

/-- Redundancy and self-repair (18). -/
structure Repair where
  /-- programmed fuse entries in order (R523 to R525) -/
  fuses : List Word
  ship : Nat
  /-- the field repair map: retired cores, row repairs, retired LUNs (R526) -/
  retired : List Nat
  rows : List RowRepair
  luns : List Nat
  lastCluster : Nat
  /-- memory banks or clusters whose spares ran out and were logged (R539) -/
  exhausted : List (Nat × Nat)
  /-- cores to retire at the next tick with the cause code of 0x0A02 (R536, R542) -/
  retireDue : List (Nat × Nat)
  /-- a rotation is due at this tick (R530) -/
  rotateDue : Bool
  /-- consecutive scrub periods with a corrected code word, by row (R538) -/
  rowHits : Tab Nat
  /-- plant time, plus one, of each code word's last scrub (R259) -/
  scrubbed : Tab Nat
deriving DecidableEq, Repr

/-- Power domains and AVS (19). -/
structure Power where
  /-- 0 OFF, 1 RETAIN, 2 ON by domain -/
  dom : Tab Nat
  trans : Tab Nat
  good : BitVec 112
  avsMv : Nat
  avsFaulted : Bool
  avsLimited : Bool
  /-- the regulator has reported a VOUT_MODE other than ULINEAR16: AVS is disabled (R553) -/
  avsOff : Bool
deriving DecidableEq, Repr

/-- JTAG: the instruction register, the boundary cells, what the last Capture-DR took, and the debug select (R569, R570). -/
structure Jtag where
  ir : BitVec 8
  cells : List Bool
  captured : List Bool
  /-- DBGSEL: function and logical core -/
  sel : BitVec 8
  /-- debug enabled in force (R571) -/
  debug : Bool
deriving DecidableEq, Repr

/-- What the device sends to the outside (log 10). -/
inductive Out where
  /-- a VRT message leaving a 100G port for a partner, in wire form (R95) -/
  | vrt (port : Nat) (partner : Nat) (dst : OutAddr) (bytes : List Byte)
  /-- a delay request of the slave clock on a port; `peer`: one of the peer-delay mechanism (R48) -/
  | delayRequest (port : NetPort) (peer : Bool)
  /-- a ZDP response to a client over UDP, from the ZDP port (R483) -/
  | zdp (dst : Client) (port : Nat) (bytes : List Byte)
  /-- one CAN FD frame of a ZDP response: its identifier and its bytes, without the padding of the last frame (R488) -/
  | can (ident : Nat) (bytes : List Byte)
  /-- the result of an object write that a row of its own makes: 0 or an abort code (R470, R490) -/
  | objectResult (sid : Nat) (key : Nat) (result : Nat)
  /-- an ARP or neighbour answer (R86, R485) -/
  | arp (port : NetPort) (addr : BitVec 32)
  | neighbour (port : NetPort) (addr : BitVec 128)
deriving DecidableEq, Repr

/-- The whole device. -/
structure State where
  cores : Tab Core
  lcores : Tab LCore
  /-- memory bytes by physical address (R243): canonical, unlisted bytes read 0 (log 5) -/
  mem : List Host.Cell
  keys : Tab PageKey
  /-- the key cache, by set, the most recently used page first, and the entries of the DRAM key area as last written back (R254, R255) -/
  keyCache : Tab (List Nat)
  keyMem : Tab PageKey
  /-- cluster SRAM bytes that cores have stored to since the last tick: the core, and the byte that other cores still fetch (R264) -/
  stale : Tab (Nat × Byte)
  upsets : Tab Upset
  /-- poison lists: memory 0 cluster, 1 record, 2 partner, 3 DRAM, 4 scratch; code-word address (R257) -/
  poison : List (Nat × Nat)
  /-- line locks held, and requests in arrival order: line address and core (R260) -/
  locks : List (Nat × Nat)
  lockQueue : List (Nat × Nat)
  timer : Timer
  plans : Plans
  adm : Admission
  perc : Percolator
  carafe : Carafe
  pf : PowerFail
  media : Media
  egress : Egress
  zdp : Zdp
  log : EventLog
  barista : Barista
  micro : Microcode
  repair : Repair
  power : Power
  jtag : Jtag
  /-- values of RW objects by key (index * 256 + subindex, plus 2^24 * (window + 1) for a windowed object); an empty list: the
  default of the object's table -/
  obj : Tab (List Byte)
  /-- persistent copies in the configuration area (R472) -/
  nor : Tab (List Byte)
  /-- program images by index (R494) -/
  domains : Tab (List Byte)
  /-- values of counters and RO objects held in their own right, by key -/
  ro : Tab Nat
  out : List Out
  /-- how many free values have been drawn (log 6): the model's own field -/
  freeCtr : Nat
  /-- commands waiting, first in first out: the model's own field -/
  pending : List Instr
deriving DecidableEq, Repr

/-- A core as it leaves PORST_N: held, every register of R304 at its Reset column; X columns and the PC read 0 (log 4). -/
def Core.reset : Core where
  regs := []
  sr := [(0x000, 0x00009000#32), (0x001, 1#32), (0x021, 0xE000#32), (0x036, 0xFF#32)] ++
    (natRange 0x080 16).map (fun n => (n, 3#32))
  pc := 0
  rs := false
  shadow := []
  rstack := []
  bankV := 0
  bankD := 0
  bankCtx := []
  recency := [7, 6, 5, 4, 3, 2, 1, 0]
  cycle := 0
  run := .held
  wait := none
  micro := none
  parityHold := none
  storeBuf := []
  touchHeld := []
  staleOwn := []
  budget := 0
  budgetFired := false
  budgetPend := false
  iresLeft := 0
  sinceTick := 0
  task := none
  taskCtx := 0
  inNmi := false
  inMc := false
  fastDepth := 0
  bsDepth := 0
  fbInt := []
  bsInt := []
  nmiPend := false
  haltPend := false
  inDebug := false
  egsa := 0
  drstResult := 0
  drstCount := 0
  drstCred := 0
  ipend := 0
  ien := 0
  ifast := 0
  dbgin := 0
  inf := false
  dbgout := 0
  outf := false
  brks := []
  brkSel := 0
  ucodeBad := []
  reloaded := []
  faultFrame := none
  faulted := false
  scratchLost := false
  state := .ready
  lastPass := 0

/-- A logical core with no carrier. -/
def LCore.reset : LCore := ⟨none, 0, false, 0, 0, 0, 0, false, 0, 0, 0, 0⟩

/-- A page with key byte 0 and an empty change word (R413, R146). -/
def PageKey.reset : PageKey := ⟨0, 0, 0, 0, 0⟩

/-- The all-zero entry (R97). -/
def Partner.zero : Partner := ⟨0, 0, 0, 0, 0, 0, 0, 0, 0, 0, 0, 0, 0, 0, 0, 0, 0, 0, 0⟩

/-- The defaults of R101. -/
def ClassPolicy.default : ClassPolicy := ⟨0, 0, 1, false, 0⟩

/-- A channel out of service. -/
def Chan.off : Chan where
  l := 0
  sPg := 0
  tXfer := 0
  tCmd := 0
  tProg := 0
  tR := 0
  tSusp := 0
  tErase := 0
  iface := 0
  rate := 0
  nBlk := 0
  pages := 0
  bpc := 0
  pageProg := 0
  pageRead := 0
  pageErase := 0
  pagePages := 0
  suspProg := false
  suspErase := false
  levels := 0
  codeP := 0
  reserve := 0
  unplanned := 0

/-- An absent LUN. -/
def Lun.absent : Lun := ⟨0, false, 0, 0, 0, [], [], 0, 0, [], 0, [], false, []⟩

/-- An empty journal: sequence 0, a zero previous link (R157). -/
def Group.empty : Group := ⟨0, [], [], 0, 0, zeros 32, none, false, [], [], 0, [], 0, 0, zeros 32, [], [], [], false⟩

/-- A blank firmware slot. -/
def Slot.blank : Slot := ⟨0, 0, 0, 0, []⟩

/-- The firmware slot that a new device boots from (log 19). -/
def Slot.factory : Slot := ⟨1, 1, 0, 0, []⟩

/-- P_S of R112. -/
def poolS : Nat := 1048576

/-- The machine right after reset: held in PORST_N's state before boot step 1, on blank media and a blank board (log 19). -/
def State.reset : State where
  cores := []
  lcores := []
  mem := []
  keys := []
  keyCache := []
  keyMem := []
  stale := []
  upsets := []
  poison := []
  locks := []
  lockQueue := []
  timer := { armed := false, frame := 0, running := false, period := 250000, plantNs := 0, ppsOut := false, srcState := 0, offset := 0, lockCount := 0, freq := 0, holdLogged := false, holdNs := 0, ppsSecond := none, announces := [], master := none }
  plans := { active := [], shadow := [], state := 2, shadowState := 0, switchFrame := 0, pendingFrame := 0, pending := [], degradeDue := none, lastMedia := [], lastBeta := 50, ovrFrames := 0, lowFrames := 0, refusal := [0, 0, 0, 0, 0, 0, 0, 0], lastAdmit := [], placed := false, pendPlaced := false, checkSaved := false, stopping := false }
  adm := { partners := [], arenas := [], recs := [], nextRec := 0, freeS := poolS, freeD := 0, allocS := 0, allocD := 0, poolD := 0, cres := 0, bytes := [], count := [], policy := [], staleAcked := [], voidPend := [], durableDue := [], ackDone := [], recFrame := 0, stateDue := [], announceDue := [], represent := [], held := false, stopped := false, closed := false, epoch := 0, keys := [] }
  perc := { sets := [], touched := [], curRecs := [], curDerived := [], keyChanged := [], captures := [], used := [], dirty := 0, derivedRes := 0, deferred := [], lastComplete := 0, misses := 0, deferrals := 0, close := 0, recoveryMs := 0, baristaCount := 0 }
  carafe := { cap := none, vlo := 0, vhi := 0, bMax := 0, ceilings := [], bFloor := 0, breached := false, testing := false, testDue := false, postponed := 0, armed := false, lastTestFrame := 0, lastTestNs := 0, lastDropF := 0, dirtyAtTick := 0, vUseF := 0, eAvailF := 0, eFixedF := 0 }
  pf := { stage := .none, trigger := 0, cutFrame := 0, dirtyAtT0 := 0, mvAtT0 := 0, bytesFlushed := 0, restart := false, shutdownAsked := false }
  media := { chans := [], luns := [], groups := [], queue := [], nextOp := 0, posted := [], bulkBlocks := [], bulkParity := [], bulk := [], nextBulk := 0, bulkOpen := none, bulkUsed := [], pages := [], imgFrame := 0, periods := [], retentions := [], lapses := [], lineFrames := [], keyFrames := [], snaps := [], cuts := [], relocate := [], jobs := [], nextJob := 0, scrubbed := [], savedPlan := [], sysImages := [], sysVersion := 0, sysDirty := false, sysOpen := none, present := false }
  egress := { reqs := [], nextOrder := 0, subs := [], images := [], sentBytes := [], sentCount := [], perPartner := [], lastServed := [], ringNext := [], ringFirst := [], ringCount := [], readUsed := [], fetched := [], cache := [] }
  zdp := { sessions := [], opens := 0, fails := [], locked := [], store := none, backlog := [], can := none }
  log := { ring := [], nextSeq := 0, nand := [], nor := [], lost := 0 }
  barista := { stage := .reset, bootFacts := none, slotA := Slot.factory, slotB := Slot.blank, running := 0, counter := [], lastReset := 1, bootMs := 0, safe := true, holdtest := false, thermtrip := false, pfail := false, warnLatched := false, railBad := [], railGood := [], railLatched := [], bankMv := 0, bankMa := 0, serial := 0, ec := false, otp := [], firmware := 0, golden := 0, rom := 0 }
  micro := { image := [], loaded := 0, loading := none, loadStage := 0, imageId := 0, unloadDue := 0, sums := [], reloads := [], goldenBad := [] }
  repair := { fuses := [], ship := 68, retired := [], rows := [], luns := [], lastCluster := 16, exhausted := [], retireDue := [], rotateDue := false, rowHits := [], scrubbed := [] }
  power := { dom := [], trans := [], good := 0, avsMv := 0, avsFaulted := false, avsLimited := false, avsOff := false }
  jtag := { ir := 0xFF#8, cells := [], captured := [], sel := 0, debug := false }
  obj := []
  nor := []
  domains := []
  ro := []
  out := []
  freeCtr := 0
  pending := []

end Sys2Proof.Machine
end

