-- ==== Sys2Proof/Machine/Log.lean ====
section
/-!
DEFINITION. Barista's event log (R505 to R508) and the object counters.
-/

namespace Sys2Proof.Machine

/-- The dictionary key of an object: index * 256 + subindex (R465). -/
def okey (index sub : Nat) : Nat := index * 256 + sub

/-- The key of a windowed object: the window's selection is part of it. -/
def wkey (index sub win : Nat) : Nat := index * 256 + sub + 2 ^ 24 * (win + 1)

/-- The value of a counter or RO object. -/
def State.roGet (s : State) (key : Nat) : Nat := Tab.get 0 s.ro key

/-- Sets a counter or RO object. -/
def State.roSet (s : State) (key v : Nat) : State := { s with ro := Tab.put 0 key v s.ro }

/-- Adds to a counter of `bits` bits. -/
def State.count (s : State) (key : Nat) (n : Nat) (bits : Nat := 64) : State :=
  s.roSet key ((s.roGet key + n) % 2 ^ bits)

/-- The value of an RW object, or the bytes of its default. -/
def State.objGet (s : State) (key : Nat) (dflt : List Byte) : List Byte :=
  let v := Tab.get [] s.obj key
  if v = [] then dflt else v

/-- A numeric RW object with its default. -/
def State.objNat (s : State) (key : Nat) (dflt : Nat) : Nat :=
  let v := Tab.get [] s.obj key
  if v = [] then dflt else leNat v

/-- One log entry of 32 bytes (R505). -/
def logEntry (seq code sev part frame : Nat) (data : List Byte) : List Byte :=
  let body := leBytes 4 seq ++ leBytes 2 code ++ [BitVec.ofNat 8 sev, BitVec.ofNat 8 part] ++
    leBytes 8 frame ++ sliceZ data 0 8
  leBytes 8 (mkTag (crc 0 body) (BitVec.ofNat 8 seq) 0 4).toNat ++ body

/-- Writes one entry into the ring of 65,536; the newest overwrites the oldest, and an overwritten entry whose NAND block was not
written counts in 0x1010.06 (R506, R508). -/
def EventLog.push (l : EventLog) (e : List Byte) : EventLog :=
  let full := l.ring.length ≥ 65536
  let lostOne := full && (match l.ring.getLast? with
    | some o => !(l.nand.any fun x => x.1 == o.1)
    | none => false)
  { l with
    ring := (l.nextSeq, e) :: l.ring.take 65535
    nextSeq := (l.nextSeq + 1) % 2 ^ 32
    lost := if lostOne then l.lost + 1 else l.lost }

/-- The further parts of an event: bytes 16 to 23 and bytes 24 to 31 of each (R505). -/
def logParts (code sev : Nat) : Nat → List (Nat × List Byte) → EventLog → EventLog
  | _, [], l => l
  | n, (mid, data) :: t, l =>
    logParts code sev (n + 1) t (l.push (logEntry l.nextSeq code sev (n + (if t = [] then 0 else 128)) mid data))

/-- Logs an event with its data and further parts (R505 to R507). -/
def State.logEvent (s : State) (code sev : Nat) (data : List Byte) (parts : List (Nat × List Byte) := []) : State :=
  { s with log := logParts code sev 0 ((s.timer.frame, data) :: parts) s.log }

end Sys2Proof.Machine
end

