-- ==== Sys2Proof/Machine/Ops.lean ====
section
/-!
DEFINITION. The named operations over a ledger core: registers and banks (R269 to R281), the mode shadow (R420), cycles and
budget (R59), taking an exception (R395 to R404) and returning from one (R407, R408), hardware loops (R297), RPT (R302).
-/

namespace Sys2Proof.Machine

-- ---------------------------------------------------------------- cores and free values

/-- A physical core by number. -/
def State.core (s : State) (c : Nat) : Core := Tab.get Core.reset s.cores c

/-- Replaces a physical core. -/
def State.setCore (s : State) (c : Nat) (k : Core) : State := { s with cores := Tab.insert c k s.cores }

/-- A logical core by number. -/
def State.lcore (s : State) (l : Nat) : LCore := Tab.get LCore.reset s.lcores l

/-- Replaces a logical core's figures. -/
def State.setLcore (s : State) (l : Nat) (x : LCore) : State := { s with lcores := Tab.insert l x s.lcores }

/-- Changes a logical core's figures. -/
def State.modLcore (s : State) (l : Nat) (f : LCore → LCore) : State := s.setLcore l (f (s.lcore l))

/-- The next free value of `w` bits (log 6). -/
def State.freeVal (s : State) : Nat := Config.freeBits s.freeCtr

/-- The state after a free value has been drawn. -/
def State.drawn (s : State) : State := { s with freeCtr := s.freeCtr + 1 }

-- ---------------------------------------------------------------- special registers and STAT fields

/-- A special register as it is held. -/
def Core.srGet (k : Core) (n : Nat) : Word := Tab.get 0 k.sr n

/-- Sets a special register as it is held. -/
def Core.srSet (k : Core) (n : Nat) (v : Word) : Core := { k with sr := Tab.insert n v k.sr }

/-- STAT in force (R281). -/
def Core.stat (k : Core) : Word := k.srGet 0

/-- STAT.BANK (R281). -/
def Core.bank (k : Core) : Nat := (k.stat.extractLsb' 12 4).toNat

/-- STAT.RING (R281). -/
def Core.ring (k : Core) : Nat := (k.stat.extractLsb' 28 2).toNat

/-- STAT.KEY (R281). -/
def Core.key (k : Core) : BitVec 4 := k.stat.extractLsb' 24 4

/-- STAT.CT (R281). -/
def Core.ct (k : Core) : Bool := k.stat.getLsbD 23

/-- STAT.DZT, DOT and MCE (R281). -/
def Core.dzt (k : Core) : Bool := k.stat.getLsbD 21
def Core.dot (k : Core) : Bool := k.stat.getLsbD 20
def Core.mce (k : Core) : Bool := k.stat.getLsbD 19

/-- STAT.IE and FE (R281). -/
def Core.ie (k : Core) : Bool := k.stat.getLsbD 31
def Core.fe (k : Core) : Bool := k.stat.getLsbD 30

/-- The RW fields of STAT (R281). -/
def statMask : Word := 0xFFB80FE0#32

/-- Sets sticky bits of STAT (R282). -/
def Core.stick (k : Core) (m : Word) : Core := k.srSet 0 (k.stat ||| m)

/-- V, DZ and DV as STAT bits (R281). -/
def statV : Word := 0x80#32
def statDZ : Word := 0x40#32
def statDV : Word := 0x20#32
/-- RS as a bit of a saved status (R281). -/
def statRS : Word := 0x00400000#32

/-- The predicates: p0 reads 1 (R269). -/
def Core.pred (k : Core) (p : Nat) : Bool := p == 0 || (k.srGet 1).getLsbD p

/-- Writes a predicate; a write to p0 is discarded (R317). -/
def Core.setPred (k : Core) (p : Nat) (b : Bool) : Core :=
  if p = 0 then k
  else
    let m : Word := 1#32 <<< p
    k.srSet 1 (if b then k.srGet 1 ||| m else k.srGet 1 &&& ~~~ m)

/-- RC (R269). -/
def Core.rc (k : Core) : Nat := (k.srGet 2).toNat % 65536

-- ---------------------------------------------------------------- general registers (R269 to R273)

/-- A register of a bank. -/
def Core.bankReg (k : Core) (b n : Nat) : Word := Tab.get 0 k.regs (32 * b + n)

/-- Writes a register of a bank; a write to a task bank sets its D (R273). -/
def Core.setBankReg (k : Core) (b n : Nat) (v : Word) : Core :=
  { k with
    regs := Tab.insert (32 * b + n) v k.regs
    bankD := if b < 8 then k.bankD ||| (1#8 <<< b) else k.bankD }

/-- A register of the current bank. -/
def Core.reg (k : Core) (r : Reg) : Word := k.bankReg k.bank r.toNat

/-- Writes a register of the current bank. -/
def Core.setReg (k : Core) (r : Reg) (v : Word) : Core := k.setBankReg k.bank r.toNat v

/-- The pair value of an even register (R270). -/
def Core.pair (k : Core) (r : Reg) : DWord := pairOf (k.reg r) (k.reg (r ||| 1))

/-- Writes a pair (R270). -/
def Core.setPair (k : Core) (r : Reg) (v : DWord) : Core :=
  (k.setReg r (hiWord v)).setReg (r ||| 1) (loWord v)

/-- Whether a register field names an odd register (R270). -/
def oddReg (r : Reg) : Bool := r.getLsbD 0

-- ---------------------------------------------------------------- which special registers there are (R304)

/-- Whether a number is listed (R304). -/
def srListed (n : Nat) : Bool :=
  decide (n ≤ 0x002) || (decide (0x004 ≤ n) && decide (n ≤ 0x006)) || (decide (0x008 ≤ n) && decide (n ≤ 0x00A)) ||
  (decide (0x00C ≤ n) && decide (n ≤ 0x00E)) || (decide (0x010 ≤ n) && decide (n ≤ 0x01E)) ||
  (decide (0x020 ≤ n) && decide (n ≤ 0x024)) || (decide (0x030 ≤ n) && decide (n ≤ 0x036)) ||
  (decide (0x040 ≤ n) && decide (n ≤ 0x042)) || n == 0x044 || n == 0x045 || n == 0x048 || n == 0x049 || n == 0x04C ||
  n == 0x04D || n == 0x050 || n == 0x051 || (decide (0x054 ≤ n) && decide (n ≤ 0x059)) ||
  (decide (0x060 ≤ n) && decide (n ≤ 0x070)) || (decide (0x080 ≤ n) && decide (n ≤ 0x08F)) ||
  (decide (0x100 ≤ n) && decide (n ≤ 0x13F) && n % 4 != 3)

/-- The RO registers (R304). -/
def srReadOnly (n : Nat) : Bool := n == 0x020 || (decide (0x030 ≤ n) && decide (n ≤ 0x036))

/-- The least privileged ring that may read, and write, a register; STAT's writes are judged by R283. -/
def srReadRing (n : Nat) : Nat :=
  if n ≤ 0x020 ∨ (0x030 ≤ n ∧ n ≤ 0x034) ∨ n = 0x036 then 3 else 0
def srWriteRing (n : Nat) : Nat := if n ≤ 0x01E then 3 else 0

/-- Whether a register is mode-bearing (R304, column Shadow). -/
def srShadowed (n : Nat) : Bool :=
  n == 0x000 || n == 0x01D || n == 0x021 || n == 0x022 || n == 0x040 || n == 0x070 ||
  (decide (0x080 ≤ n) && decide (n ≤ 0x08F)) || decide (0x100 ≤ n)

/-- The reserved bits of a register, saved statuses among them (R281, R393, R411); writing one is an undefined case (R10). -/
def srReserved (n : Nat) : Word :=
  if n = 0x000 ∨ n = 0x045 ∨ n = 0x049 ∨ n = 0x04D ∨ n = 0x051 ∨ n = 0x055 ∨ n = 0x057 ∨ n = 0x059 then 0x0007001F#32
  else if n = 0x01A then 0xFFFFFF7C#32
  else if n = 0x01D then 0xFFFFE0F8#32
  else if n = 0x01E then 0xFFFFE0E0#32
  else if n = 0x021 then 0xFFFF0000#32
  else if n = 0x022 then 0xFFFFFFF0#32
  else if n = 0x041 then 0x00FC0000#32
  else if 0x100 ≤ n then
    if n % 4 = 0 then 0x00000F00#32 else if n % 4 = 1 then 0x00000FFF#32 else 0xF0000000#32
  else 0

/-- The bits a register holds: the others read as zero and ignore writes (R269, R304, R407; log 28). -/
def srHeld (n : Nat) : Word :=
  if n = 0x001 then 0xFE#32
  else if n = 0x002 then 0xFFFF#32
  else if n = 0x021 then 0xFF80#32
  else if n = 0x040 then 0xFFFFF000#32
  else if n = 0x044 ∨ n = 0x048 ∨ n = 0x04C ∨ n = 0x050 ∨ n = 0x054 ∨ n = 0x056 ∨ n = 0x058 then 0xFFFFFFFC#32
  else 0xFFFFFFFF#32

-- ---------------------------------------------------------------- the state of the task banks (R273)

/-- Whether a task bank holds a context, has been written, and which context it holds (R273). -/
def Core.vOf (k : Core) (b : Nat) : Bool := k.bankV.getLsbD b
def Core.dOf (k : Core) (b : Nat) : Bool := k.bankD.getLsbD b
def Core.ctxOf (k : Core) (b : Nat) : Nat := Tab.get 0 k.bankCtx b

/-- BANK of a saved status register. -/
def Core.savedBank (k : Core) (num : Nat) : Nat := ((k.srGet num).extractLsb' 12 4).toNat

-- ---------------------------------------------------------------- region descriptors (R285 to R289)

/-- A region descriptor by its fields. -/
structure Desc where
  num : Nat
  eaBase : Nat
  valid : Bool
  type : Nat
  nx : Bool
  ro : Bool
  ringMax : Nat
  size : Nat
  paBase : Nat
deriving DecidableEq, Repr

/-- Descriptor n of a core. -/
def Core.desc (k : Core) (n : Nat) : Desc :=
  let a := k.srGet (0x100 + 4 * n)
  { num := n
    eaBase := (a.extractLsb' 12 20).toNat * 4096
    valid := a.getLsbD 7
    type := (a.extractLsb' 4 3).toNat
    nx := a.getLsbD 3
    ro := a.getLsbD 2
    ringMax := (a.extractLsb' 0 2).toNat
    size := ((k.srGet (0x101 + 4 * n)).extractLsb' 12 20).toNat * 4096 + 4096
    paBase := ((k.srGet (0x102 + 4 * n)).extractLsb' 0 28).toNat * 4096 }

/-- Whether a descriptor matches an effective address (R287). -/
def Desc.hits (d : Desc) (ea : Nat) : Bool :=
  d.valid && d.type != 7 && decide (d.eaBase ≤ ea) && decide (ea < d.eaBase + d.size)

/-- The lowest-numbered matching descriptor from `n` on, with fuel. -/
def Core.findFrom (k : Core) (ea : Nat) : Nat → Nat → Option Desc
  | _, 0 => none
  | n, f + 1 => if (k.desc n).hits ea then some (k.desc n) else k.findFrom ea (n + 1) f

/-- The descriptor that translates an effective address (R287). -/
def Core.find (k : Core) (ea : Nat) : Option Desc := k.findFrom ea 0 16

/-- Whether a core is displaced (R529). -/
def State.displaced (s : State) (c : Nat) : Bool :=
  let l := ((s.core c).srGet 0x036).toNat
  decide (l < 64) && (s.lcore l).displaced

-- ---------------------------------------------------------------- the guard (R307)

/-- Guard 0b0001 is reserved (R307). -/
def guardReserved (g : Guard) : Bool := g == 1#4

/-- Whether the guard holds: p_g XOR s = 1 (R307). -/
def Core.guardHolds (k : Core) (g : Guard) : Bool :=
  (k.pred (g.extractLsb' 1 3).toNat) != g.getLsbD 0

-- ---------------------------------------------------------------- the mode shadow (R420 to R422)

/-- A pending write takes effect: STAT takes the RW fields only (R281, R284). -/
def Core.applyOne (k : Core) (num : Nat) (v : Word) : Core :=
  if num = 0 then k.srSet 0 ((k.stat &&& ~~~ statMask) ||| (v &&& statMask)) else k.srSet num v

/-- Every pending write takes effect, in program order (R395, R407, R411). -/
def Core.applyAll (k : Core) : Core :=
  { (k.shadow.foldl (fun a x => a.applyOne x.num x.val) k) with shadow := [] }

/-- The pending writes whose fourth instruction has come take effect (R420). -/
def Core.applyDue (k : Core) : Core :=
  { ((k.shadow.filter fun x => x.left == 0).foldl (fun a x => a.applyOne x.num x.val) k) with
    shadow := k.shadow.filter fun x => x.left != 0 }

/-- One instruction of the shadow has completed (R420). -/
def Core.countShadow (k : Core) : Core :=
  { k with shadow := k.shadow.map fun x => { x with left := x.left - 1 } }

/-- A mode-bearing write becomes pending: `left` counts the instructions that complete before it takes effect, the writing
MTS among them (R420). -/
def Core.shadowPut (k : Core) (num : Nat) (v : Word) : Core :=
  { k with shadow := k.shadow ++ [⟨4, num, v⟩] }

/-- The newest pending value of a register, or the value in force (R422). -/
def Core.srPending (k : Core) (num : Nat) : Word :=
  match (k.shadow.filter fun x => x.num == num).getLast? with
  | some x => if num = 0 then (k.stat &&& ~~~ statMask) ||| (x.val &&& statMask) else x.val
  | none => k.srGet num

-- ---------------------------------------------------------------- cycles and the budget (R59, R60)

/-- The cycles of an instruction: exactly `lo` when the two agree, otherwise a free value between them (R6; log 8). -/
structure Cost where
  lo : Nat
  hi : Nat
deriving DecidableEq, Repr

/-- An exact cost. -/
def cc (n : Nat) : Cost := ⟨n, n⟩

/-- A cost of which only the worst case is stated (R6). -/
def upTo (n : Nat) : Cost := ⟨1, n⟩

/-- The cost that a free value decides. -/
def Cost.draw (x : Cost) (f : Nat) : Nat := if x.hi ≤ x.lo then x.lo else x.lo + f % (x.hi - x.lo + 1)

/-- The sum of two costs. -/
def Cost.plus (x y : Cost) : Cost := ⟨x.lo + y.lo, x.hi + y.hi⟩

/-- The task's budget counts down (R59); at zero vector 15 becomes pending once per release (R402). -/
def Core.spend (k : Core) (n : Nat) : Core :=
  if k.task = none then k
  else
    let b := k.budget - n
    { k with budget := b, budgetPend := k.budgetPend || (decide (b ≤ 0) && !k.budgetFired) }

/-- Whether an interrupt or an NMI is being handled (R59; log 63). -/
def Core.handlesInterrupt (k : Core) : Bool := k.inNmi || k.bsInt.any id || k.fbInt.any id

/-- The task bank that is current, or that the saved statuses of the handlers in progress lead to (R59, R276, R304 CTXCUR). -/
def Core.bankUnder (k : Core) : Nat → Nat → Nat
  | 0, b => b
  | n + 1, b =>
    if b = 9 then k.bankUnder n (k.savedBank (if k.inMc then 0x051 else 0x045))
    else if b = 8 then k.bankUnder n (k.savedBank 0x049)
    else b

/-- Whether the context of the dispatched task is current (R59). -/
def Core.taskCurrent (k : Core) : Bool :=
  let b := k.bankUnder 3 k.bank
  decide (8 ≤ b) || (k.vOf b && k.ctxOf b == k.taskCtx)

/-- Charges cycles: interrupt handling to I_res, then to the task; anything else to the task while its context is current (R59). -/
def Core.charge (k : Core) (n : Nat) : Core :=
  let k := { k with cycle := (k.cycle + n) % 2 ^ 64, sinceTick := k.sinceTick + n }
  if k.handlesInterrupt then
    let a := min n k.iresLeft
    { k with iresLeft := k.iresLeft - a }.spend (n - a)
  else if k.taskCurrent then k.spend n
  else k

/-- Charges a cost to a core, drawing a free value where the cost is not exact. -/
def State.charge (s : State) (c : Nat) (x : Cost) : State :=
  if x.hi ≤ x.lo then s.setCore c ((s.core c).charge x.lo)
  else s.drawn.setCore c ((s.core c).charge (x.draw s.freeVal))

-- ---------------------------------------------------------------- traps

/-- A fault or trap with its cause (R397, R398). -/
structure Trap where
  vec : Nat
  code : Nat
  /-- 0 none, 1 load, 2 store, 3 fetch -/
  acc : Nat
  eaddr : Word
  /-- physical address bits [39:32] of a machine check that names one -/
  pah : Nat
deriving DecidableEq, Repr

/-- A trap that names no access. -/
def trapAt (vec code : Nat) (eaddr : Word) : Trap := ⟨vec, code, 0, eaddr, 0⟩

/-- ECAUSE of a trap (R397). -/
def Trap.ecause (t : Trap) : Word :=
  BitVec.ofNat 32 (t.pah % 256 * 2 ^ 24 + t.acc % 4 * 2 ^ 16 + t.vec % 256 * 2 ^ 8 + t.code % 256)

/-- The saved pair of a vector's class (R393): the PC register, and the status register after it. -/
def savedPc (vec : Nat) : Nat :=
  if vec = 0 then 0x050
  else if vec = 1 then 0x04C
  else if vec = 3 ∨ vec = 16 then 0x048
  else 0x044

/-- STAT after entry (R396). -/
def entryStat (vec : Nat) (st : Word) : Word :=
  -- IE, RING, KEY, CT, RS and EDS cleared, BANK replaced
  let a := st &&& 0x403800E0#32
  let a := if vec = 0 ∨ vec = 1 ∨ vec = 3 ∨ vec = 16 then a &&& 0xBFFFFFFF#32 else a
  let a := if vec = 0 then a &&& 0xFFF7FFFF#32 else a
  a ||| (if vec = 3 ∨ vec = 16 then 0x8000#32 else 0x9000#32)

/-- Exception entry as one event (R395): `pc` and `rs` are what is saved, `cause` is none for vectors 1, 16 and 17. -/
def Core.enter (k : Core) (vec : Nat) (cause : Option Trap) (pc : Word) (rs : Bool) : Core :=
  let k := k.applyAll
  let st := k.stat
  let k := k.srSet (savedPc vec) (pc &&& 0xFFFFFFFC#32)
  let k := k.srSet (savedPc vec + 1) (if rs then st ||| statRS else st &&& ~~~ statRS)
  let k := match cause with
    | some t => (k.srSet 0x041 t.ecause).srSet 0x042 t.eaddr
    | none => k
  let k := k.srSet 0 (entryStat vec st)
  { k with
    pc := k.srGet 0x040 + BitVec.ofNat 32 (32 * vec)
    rs := false
    run := .running
    wait := none
    micro := none
    inMc := k.inMc || vec == 0
    inNmi := k.inNmi || vec == 1
    fastDepth := if vec = 3 ∨ vec = 16 then k.fastDepth + 1 else k.fastDepth
    bsDepth := if vec = 0 ∨ vec = 1 ∨ vec = 3 ∨ vec = 16 then k.bsDepth else k.bsDepth + 1
    fbInt := if vec = 3 ∨ vec = 16 then (vec == 16) :: k.fbInt else k.fbInt
    bsInt := if vec = 0 ∨ vec = 1 ∨ vec = 3 ∨ vec = 16 then k.bsInt else (vec == 17) :: k.bsInt
    inDebug := k.inDebug || vec == 20 }

/-- The line locks of a core are released (R260). -/
def State.unlock (s : State) (c : Nat) : State :=
  { s with locks := s.locks.filter (fun x => x.2 != c), lockQueue := s.lockQueue.filter (fun x => x.2 != c) }

/-- The core reports a fault (R535): it is held at once; the rest follows at the next tick. -/
def Core.report (k : Core) (frame : Nat) : Core :=
  { k with faulted := true, run := .stopped, wait := none, micro := none, state := .held, faultFrame := some frame }

/-- Whether an earlier reported fault lies within 1,048,576 frames (R536). -/
def secondFault (k : Core) (frame : Nat) : Bool :=
  match k.faultFrame with
  | some f => decide (frame ≤ f + 1048576)
  | none => false

/-- A core reports a fault; the second within 1,048,576 frames retires it at the next tick (R535, R536), with the cause code of
event 0x0A02. -/
def State.reportFault (s : State) (c : Nat) (cause : Nat) : State :=
  let k := s.core c
  let again := secondFault k s.timer.frame
  let s := s.setCore c (k.report s.timer.frame)
  let s := s.unlock c
  if again then { s with repair := { s.repair with retireDue := s.repair.retireDue ++ [(c, cause)] } } else s

/-- A machine check with MCE = 0, or a vector-0 fetch that faults, stops the core (R404, R400). -/
def State.checkstop (s : State) (c : Nat) (t : Trap) (pc : Word) : State :=
  let s := s.logEvent 0x0601 3 (leBytes 4 pc.toNat ++ [BitVec.ofNat 8 c] ++ leBytes 2 (t.ecause.toNat % 65536))
  s.reportFault c 2

/-- Whether a fetch address lies in the slots of vectors 0 to 20 (R400). -/
def Core.inSlots (k : Core) (pc : Word) : Bool :=
  let v := (k.srGet 0x040).toNat
  decide (v ≤ pc.toNat) && decide (pc.toNat < v + 32 * 21)

/-- Whether a fetch address lies in the slot of vector 0 (R400). -/
def Core.inSlotZero (k : Core) (pc : Word) : Bool :=
  let v := (k.srGet 0x040).toNat
  decide (v ≤ pc.toNat) && decide (pc.toNat < v + 32)

/-- What a target in cluster SRAM adds to a transfer, a return or an entry (R426, R435): 12 cc, the record figure for a displaced core (R529). A
target that no descriptor translates is never fetched, and its part is free. -/
def State.targetAdd (s : State) (c : Nat) (target : Word) : Cost :=
  match (s.core c).find target.toNat with
  | some d => if d.type = 1 then cc (if s.displaced c then 60 else 12) else cc 0
  | none => ⟨0, 60⟩

/-- The time of a transfer of `n` cc to a target (R425, R426). -/
def State.goTo (s : State) (c : Nat) (n : Nat) (target : Word) : Cost := upTo (n + (s.targetAdd c target).hi)

/-- The time of an entry into a vector (R435). -/
def State.entryCost (s : State) (c : Nat) (vec : Nat) : Cost :=
  s.goTo c 6 ((s.core c).applyAll.srGet 0x040 + BitVec.ofNat 32 (32 * vec))

/-- The machine takes a fault: the machine check of R404 with MCE = 0 stops the core, every other enters its vector. `pc` is the
saved PC, `rs` the saved RS. -/
def State.enter (s : State) (c : Nat) (t : Trap) (pc : Word) (rs : Bool) : State :=
  let s := s.unlock c
  let k := s.core c
  if t.vec = 0 ∧ ¬ k.mce then s.checkstop c t pc
  else
    let s := if t.vec = 20 then s.count (okey 0x1310 2) 1 32 else s
    (s.setCore c (k.enter t.vec (some t) pc rs)).charge c (s.entryCost c t.vec)

/-- An asynchronous entry, vectors 1, 16 and 17 (R395). -/
def State.enterAsync (s : State) (c : Nat) (vec : Nat) : State :=
  let k := s.core c
  (s.setCore c (k.enter vec none k.pc k.rs)).charge c (s.entryCost c vec)

/-- A fetch fault (R393, R400): in the slot range it is a machine check with code 0x04, and a vector-0 fetch that faults stops
the core. -/
def State.fetchFault (s : State) (c : Nat) (t : Trap) : State :=
  let k := s.core c
  let mc : Trap := ⟨0, 0x04, 3, k.pc, 0⟩
  if k.inSlotZero k.pc ∧ t.vec ≠ 0 then (s.unlock c).checkstop c mc k.pc
  else if k.inSlots k.pc ∧ t.vec ≠ 0 then s.enter c mc k.pc k.rs
  else s.enter c t k.pc k.rs

-- ---------------------------------------------------------------- what an instruction does

/-- The outcome of an instruction's body. -/
inductive Res where
  /-- it completes; the next instruction is the sequential one, or the one the loop check gives -/
  | done (s : State) (x : Cost)
  /-- it completes and goes to a target -/
  | jump (s : State) (target : Word) (x : Cost)
  /-- it completes, and PC, RS and the run state of the core are already set -/
  | leave (s : State) (x : Cost)
  /-- one chunk of a resumable instruction is committed and more remains (R357) -/
  | again (s : State) (x : Cost)
  /-- it faults, leaving the state its rule leaves -/
  | trap (s : State) (t : Trap)
  /-- it faults after the time its work has taken (R389) -/
  | trapLate (s : State) (t : Trap) (x : Cost)
  /-- it completes, and takes a trap at the following boundary (R393) -/
  | doneTrap (s : State) (t : Trap) (x : Cost)
  /-- it waits -/
  | wait (s : State) (why : WaitWhy)
  /-- a microcode store word with bad parity stops it before its commit (R461, R462) -/
  | hold (w : BadWord)
  /-- an undefined case (R7), by the rule that names it -/
  | undef (rule : Nat)

-- ---------------------------------------------------------------- hardware loops (R297)

/-- The loop registers of a level. -/
def Core.ls (k : Core) (i : Nat) : Word := k.srGet (0x004 + i) &&& 0xFFFFFFFC#32
def Core.le (k : Core) (i : Nat) : Word := k.srGet (0x008 + i)
def Core.lc (k : Core) (i : Nat) : Word := k.srGet (0x00C + i)

/-- Whether an active level ends at an address (R297). -/
def Core.loopHit (k : Core) (pc : Word) (i : Nat) : Bool := k.lc i != 0 && k.le i == pc

/-- Whether any active level ends at an address. -/
def Core.loopEndAt (k : Core) (pc : Word) : Bool := k.loopHit pc 0 || k.loopHit pc 1 || k.loopHit pc 2

/-- The check of R297 from the highest level in a list down: the core with its counts, and the next address. -/
def Core.loopNext (k : Core) (pc : Word) : List Nat → Core × Word
  | [] => (k, pc + 4)
  | i :: t =>
    if k.loopHit pc i then
      let n := k.lc i - 1
      let k := k.srSet (0x00C + i) n
      if n ≠ 0 then (k, k.ls i) else k.loopNext pc t
    else k.loopNext pc t

/-- The loop check of an instruction that completes at its address (R297). -/
def Core.loopCheck (k : Core) (pc : Word) : Core × Word := k.loopNext pc [2, 1, 0]

/-- A loop whose LEk lies before its LSk is an undefined case of chapter 09. -/
def Core.badLoop (k : Core) (pc : Word) : Bool :=
  [0, 1, 2].any fun i => k.loopHit pc i && decide ((k.le i).toNat < (k.ls i).toNat)

-- ---------------------------------------------------------------- completion

/-- After a completed instruction: a repetition of an RPT target counts RC down and stays while RC is not zero (R300, R302);
otherwise the loop check gives the next address (R297, R303). -/
def Core.advance (k : Core) (pc : Word) (rep : Bool) : Core :=
  if rep ∧ k.rc > 1 then { k.srSet 2 (BitVec.ofNat 32 (k.rc - 1)) with pc := pc, rs := true }
  else
    let k := if rep then k.srSet 2 0 else k
    let r := k.loopCheck pc
    { r.1 with pc := r.2, rs := false, micro := none }

/-- The time of a loop-back: nothing for a body of at most 16 instructions or in scratch, 12 cc into cluster SRAM otherwise (R427). -/
def State.loopAdd (s : State) (c : Nat) (pc : Word) (rep : Bool) : Cost :=
  let k := s.core c
  let t := (k.loopCheck pc).2
  if (rep ∧ k.rc > 1) ∨ t = pc + 4 ∨ (pc - t).toNat / 4 < 16 then cc 0 else s.targetAdd c t

/-- Completes an instruction at `pc`. -/
def State.retire (s : State) (c : Nat) (pc : Word) (rep : Bool) (x : Cost) : State :=
  let s := s.charge c (x.plus (s.loopAdd c pc rep))
  s.setCore c ((s.core c).countShadow.advance pc rep)

/-- Completes an instruction whose next address is known. -/
def State.retireTo (s : State) (c : Nat) (target : Word) (x : Cost) : State :=
  let s := s.charge c x
  s.setCore c { (s.core c).countShadow with pc := target, rs := false }

/-- Whether the core can execute: it runs and waits for nothing. -/
def Core.ready (k : Core) : Bool := k.run == .running && k.wait == none && k.parityHold == none

/-- The cores that Barista's reload engine has yet to serve, in the order reported (R461). -/
def State.reloadQueue (s : State) : List (Nat × Nat) := s.micro.reloads.filter fun x => (s.core x.1).parityHold.isSome

/-- A store word with bad parity: a second error at the same address within 1,000 frames of a reload is a core fault (R463); otherwise
the core is held for the reload (R461). -/
def State.holdParity (s : State) (c : Nat) (w : BadWord) : State :=
  let k := s.core c
  if k.reloaded.any fun p => p.1 == w && decide (s.timer.frame ≤ p.2 + 1000) then s.reportFault c 2
  else
    let l := s.reloadQueue.filter fun x => x.1 != c
    ({ s with micro := { s.micro with reloads := l ++ [(c, l.length)] } }.setCore c { k with parityHold := some w, micro := none }).unlock c

end Sys2Proof.Machine
end

