-- ==== Sys2Proof/Machine/Mem.lean ====
section
/-!
DEFINITION. The memory system (08): the physical map, translation and its checks (R285 to R292, R419), storage keys and change
words (R413 to R415), first touches and captures (R145 to R152), memory errors (R256 to R258) and the store buffer (R430, R431).
-/

namespace Sys2Proof.Machine

-- ---------------------------------------------------------------- the physical map (R243)

def recordBase : Nat := 0x2000000000
def recordSize : Nat := 0x4000000
def partnerBase : Nat := 0x2100000000
def partnerSize : Nat := 0x800000
def clusterBase : Nat := 0x2200000000
def clusterSize : Nat := 0x100000
def scratchBase : Nat := 0x2300000000
def scratchSize : Nat := 0x10000
def ioBase : Nat := 0x3000000000
def ioSize : Nat := 0x100000000
def romBase : Nat := 0x3FFFF00000
def romSize : Nat := 0x100000

/-- Populated DRAM, in bytes: the sum of the two channels' capacities (R252, 0x0A30+c.03). -/
def State.dramCap (s : State) : Nat := s.roGet (okey 0x0A30 3) + s.roGet (okey 0x0A31 3)

/-- The first byte of the DRAM key area: the top 1/512 of populated DRAM (R254). -/
def State.keyArea (s : State) : Nat := s.dramCap - s.dramCap / 512

/-- The memory a physical address belongs to: 0 cluster, 1 record, 2 partner, 3 DRAM, 4 scratch, 5 device registers, 6 boot ROM. -/
def memOf (pa : Nat) : Nat :=
  if pa < recordBase then 3
  else if pa < recordBase + recordSize then 1
  else if pa < partnerBase + partnerSize then 2
  else if pa < scratchBase then 0
  else if pa < ioBase then 4
  else if pa < romBase then 5
  else 6

/-- Whether `n` bytes at an address lie in one range of R243, DRAM up to the populated capacity, and in no retired core's scratch (R244). -/
def State.mapped (s : State) (pa n : Nat) : Bool :=
  let within := fun (b z : Nat) => decide (b ≤ pa) && decide (pa + n ≤ b + z)
  decide (pa + n ≤ s.dramCap) || within recordBase recordSize || within partnerBase partnerSize || within clusterBase (17 * clusterSize) ||
    (within scratchBase (68 * scratchSize) && !s.repair.retired.contains ((pa - scratchBase) / scratchSize)) ||
    within ioBase ioSize || within romBase romSize

/-- The code word of a memory, in bytes (R248, R253). -/
def codeWord (mem : Nat) : Nat := if mem = 4 then 8 else if mem = 3 then 64 else 32

/-- The first byte of the code word that holds an address. -/
def cwOf (pa : Nat) : Nat := pa / codeWord (memOf pa) * codeWord (memOf pa)

/-- The DRAM channel of an address (R252). -/
def State.dramChan (s : State) (pa : Nat) : Nat :=
  let c0 := s.roGet (okey 0x0A30 3)
  let c1 := s.roGet (okey 0x0A31 3)
  if c0 ≠ 0 ∧ c0 = c1 then pa / 4096 % 2 else if pa < c0 then 0 else 1

-- ---------------------------------------------------------------- bytes

/-- The 64 bytes of a partner table entry (R96). -/
def Partner.bytes (p : Partner) : List Byte :=
  beBytes 16 p.addr.toNat ++ leBytes 8 p.classMask.toNat ++ leBytes 2 p.vlan.toNat ++ leBytes 2 p.keySlot.toNat ++
  leBytes 2 p.qs.toNat ++ leBytes 2 p.qd.toNat ++ [p.portMask, p.flags, p.e, p.aDur] ++ beBytes 6 p.mac.toNat ++
  [p.status, 0#8] ++ leBytes 4 p.ackSeq.toNat ++ leBytes 2 p.gS.toNat ++ leBytes 2 p.uS.toNat ++
  leBytes 2 p.gD.toNat ++ leBytes 2 p.uD.toNat ++ leBytes 4 p.tS.toNat ++ leBytes 4 p.tD.toNat

/-- A partner table entry from its 64 bytes (R96). -/
def Partner.ofBytes (l : List Byte) : Partner :=
  { addr := BitVec.ofNat _ (beField l 0 16), classMask := BitVec.ofNat _ (leField l 16 8),
    vlan := BitVec.ofNat _ (leField l 24 2), keySlot := BitVec.ofNat _ (leField l 26 2),
    qs := BitVec.ofNat _ (leField l 28 2), qd := BitVec.ofNat _ (leField l 30 2),
    portMask := l.getD 32 0, flags := l.getD 33 0, e := l.getD 34 0, aDur := l.getD 35 0,
    mac := BitVec.ofNat _ (beField l 36 6), status := l.getD 42 0, ackSeq := BitVec.ofNat _ (leField l 44 4),
    gS := BitVec.ofNat _ (leField l 48 2), uS := BitVec.ofNat _ (leField l 50 2),
    gD := BitVec.ofNat _ (leField l 52 2), uD := BitVec.ofNat _ (leField l 54 2),
    tS := BitVec.ofNat _ (leField l 56 4), tD := BitVec.ofNat _ (leField l 60 4) }

/-- A partner table entry by number. -/
def State.partner (s : State) (n : Nat) : Partner := Tab.get Partner.zero s.adm.partners n

/-- Replaces a partner table entry. -/
def State.setPartner (s : State) (n : Nat) (p : Partner) : State :=
  { s with adm := { s.adm with partners := Tab.put Partner.zero n p s.adm.partners } }

/-- The key and change word of the page of an address. -/
def State.pageKey (s : State) (pa : Nat) : PageKey := Tab.get PageKey.reset s.keys (pa / 4096)

/-- Replaces the key of a page. -/
def State.setPageKey (s : State) (page : Nat) (k : PageKey) : State :=
  { s with keys := Tab.put PageKey.reset page k s.keys }

/-- The key byte as it reads: CHG reads 1 whenever CUR is not zero (R146). -/
def PageKey.shown (k : PageKey) : Byte := if k.cur ≠ 0 then k.key ||| 0x20#8 else k.key

/-- The 8-byte key-area entry of a page (R254): byte 0 the key byte, bytes 4 to 7 the change word. -/
def PageKey.entry (k : PageKey) : List Byte := [k.shown, 0, 0, 0] ++ leBytes 2 k.cur.toNat ++ leBytes 2 k.pend.toNat

/-- Whether an address lies in a range of the map that memory cells hold: not the partner table, the key area or the boot ROM. -/
def State.plain (s : State) (pa : Nat) : Bool :=
  !(decide (partnerBase ≤ pa) && decide (pa < partnerBase + partnerSize)) && !(decide (s.keyArea ≤ pa) && decide (pa < s.dramCap)) &&
    !(decide (romBase ≤ pa) && decide (pa < romBase + romSize))

/-- One byte of physical memory. Partner SRAM shows the partner table (R243); the DRAM key area its entries as the key cache last wrote them
back (R254, R255); the boot ROM what Craend put there. -/
def State.byte (s : State) (pa : Nat) : Byte :=
  if s.plain pa then Tab.get 0 s.mem pa
  else if partnerBase ≤ pa ∧ pa < partnerBase + partnerSize then
    (s.partner ((pa - partnerBase) / 64)).bytes.getD ((pa - partnerBase) % 64) 0
  else if pa < recordBase then (Tab.get PageKey.reset s.keyMem ((pa - s.keyArea) / 8)).entry.getD ((pa - s.keyArea) % 8) 0
  else Config.bootRom (pa - romBase)

/-- `n` bytes of physical memory. -/
def State.bytes (s : State) (pa : Nat) : Nat → List Byte
  | 0 => []
  | n + 1 => s.byte pa :: s.bytes (pa + 1) n

/-- Writes bytes into the sparse memory, keeping its canonical form. -/
def memWrite : Nat → List Byte → List Host.Cell → List Host.Cell
  | _, [], m => m
  | pa, b :: t, m => memWrite (pa + 1) t (Tab.put 0 pa b m)

/-- Bytes as they stand after a change that is no access: a whole range of cells, or part of a partner table entry. -/
def State.fixBytes (s : State) (pa : Nat) (l : List Byte) : State :=
  if partnerBase ≤ pa ∧ pa < partnerBase + partnerSize then
    let n := (pa - partnerBase) / 64
    s.setPartner n (Partner.ofBytes (patch (s.partner n).bytes ((pa - partnerBase) % 64) l))
  else { s with mem := memWrite pa l s.mem }

/-- The canonical form of memory: addresses strictly rising, and no byte that an unlisted address reads as (log 5). -/
def Memory.wf (m : List Host.Cell) : Bool := Tab.wf 0#8 m

-- ---------------------------------------------------------------- memory errors (R256 to R258)

/-- What the code word of an address holds. -/
def State.upset (s : State) (pa : Nat) : Upset := Tab.get .none s.upsets (cwOf pa)

/-- Counts a corrected error (R256, R261). -/
def State.countCorrected (s : State) (cw : Nat) : State :=
  match memOf cw with
  | 3 =>
    let i := 0x0A30 + s.dramChan cw
    (s.count (okey i 6) 1).roSet (okey i 8) cw
  | 4 => s.count (okey 0x0A38 5) 1
  | _ => (s.count (okey 0x0A38 3) 1).roSet (okey 0x0A38 7) cw

/-- The poison list of a memory: each core's scratch is a memory of its own. -/
def poisonOf (cw : Nat) : Nat := if memOf cw = 4 then 4 + (cw - scratchBase) / scratchSize else memOf cw

/-- Counts an uncorrectable error and enters it in the poison list of its memory (R257). -/
def State.poisonWord (s : State) (cw : Nat) : State :=
  let m := poisonOf cw
  if s.poison.contains (m, cw) then s
  else
    let s :=
      match memOf cw with
      | 3 =>
        let i := 0x0A30 + s.dramChan cw
        (s.count (okey i 7) 1).roSet (okey i 8) cw
      | 4 => s.count (okey 0x0A38 6) 1
      | _ => (s.count (okey 0x0A38 4) 1).roSet (okey 0x0A38 7) cw
    if (s.poison.filter fun x => x.1 == m).length < 64 then { s with poison := s.poison ++ [(m, cw)] }
    else s.logEvent 0x0502 2 [BitVec.ofNat 8 (min m 4)]

/-- An access meets a code word: a correctable error is corrected and counted, an uncorrectable one poisoned (R256, R257). The second part says
whether the word is uncorrectable. -/
def State.meetWord (s : State) (cw : Nat) : State × Bool :=
  match Tab.get .none s.upsets cw with
  | .none => (s, false)
  | .correctable => ({ s with upsets := Tab.put .none cw .none s.upsets }.countCorrected cw, false)
  | .uncorrectable => (s.poisonWord cw, true)

/-- The code words that `n` bytes at an address touch. -/
def cwsOf (pa n : Nat) : List Nat :=
  let w := codeWord (memOf pa)
  (natRange (pa / w) ((pa + n - 1) / w + 1 - pa / w)).map (· * w)

/-- An access meets the code words of `n` bytes; the first uncorrectable one stops it. -/
def State.meetWords (s : State) : List Nat → State × Option Nat
  | [] => (s, none)
  | cw :: t =>
    let r := s.meetWord cw
    if r.2 then (r.1, some cw) else r.1.meetWords t

/-- A store of whole code words clears their errors and removes them from the poison list (R257). -/
def State.clearWord (s : State) (cw : Nat) : State :=
  { s with upsets := Tab.put .none cw .none s.upsets, poison := s.poison.filter fun x => x.2 != cw }

/-- The code words that `n` bytes at an address cover whole. -/
def wholeCws (pa n : Nat) : List Nat :=
  (cwsOf pa n).filter fun cw => decide (pa ≤ cw) && decide (cw + codeWord (memOf pa) ≤ pa + n)

/-- The code words that `n` bytes at an address cover in part: a store reads and modifies them (R248). -/
def partCws (pa n : Nat) : List Nat :=
  (cwsOf pa n).filter fun cw => !(decide (pa ≤ cw) && decide (cw + codeWord (memOf pa) ≤ pa + n))

/-- The code words that a store of `n` bytes would write in part and that hold an uncorrectable error: such a partial store is not performed
(R257). -/
def State.refusedCws (s : State) (pa n : Nat) : List Nat :=
  (partCws pa n).filter fun cw => decide (Tab.get .none s.upsets cw = .uncorrectable)

/-- Writes bytes but those in code words that refuse them. -/
def memWriteBut (no : List Nat) : Nat → List Byte → List Host.Cell → List Host.Cell
  | _, [], m => m
  | pa, b :: t, m => memWriteBut no (pa + 1) t (if no.contains (cwOf pa) then m else Tab.put 0 pa b m)

/-- Bytes reach memory: from here every core and engine sees them (R262). -/
def State.poke (s : State) (pa : Nat) (l : List Byte) : State :=
  let s := (wholeCws pa l.length).foldl State.clearWord s
  { s with mem := memWriteBut (s.refusedCws pa l.length) pa l s.mem }

/-- Free bytes where an engine met an uncorrectable code word, or an address that is not there (log 6). -/
def freeBytes (from_ : Nat) : Nat → List Byte
  | 0 => []
  | n + 1 => BitVec.ofNat 8 (Config.freeBits from_) :: freeBytes (from_ + 1) n

/-- An engine reads plain data. An access outside the map is not performed and is posted (R244); so is an uncorrectable word (R258). The data are
then free. -/
def State.engineRead (s : State) (pa n : Nat) : State × List Byte :=
  if ¬ s.mapped pa n then ({ (s.logEvent 0x0504 2 (leBytes 8 pa)) with freeCtr := s.freeCtr + n }, freeBytes s.freeCtr n)
  else
    let q := s.meetWords (cwsOf pa n)
    match q.2 with
    | none => (q.1, q.1.bytes pa n)
    | some cw => ({ (q.1.logEvent 0x0501 2 (leBytes 8 cw)) with freeCtr := q.1.freeCtr + n }, freeBytes q.1.freeCtr n)

/-- An engine's store into the key area is an undefined case of chapter 08: the entries it reaches take any value (R7). -/
def State.freeKeys (s : State) : List Nat → State
  | [] => s
  | p :: t =>
    let v := BitVec.ofNat 40 s.freeVal
    (s.drawn.setPageKey p ⟨v.extractLsb' 0 8, v.extractLsb' 8 16, v.extractLsb' 24 16, s.timer.frame, s.timer.frame⟩).freeKeys t

/-- An engine stores bytes. An address outside the map, or in the boot ROM, is not written and is posted (R244). -/
def State.enginePoke (s : State) (pa : Nat) (l : List Byte) : State :=
  let n := l.length
  if ¬ s.mapped pa n ∨ romBase ≤ pa then s.logEvent 0x0504 2 (leBytes 8 pa)
  else if memOf pa = 3 ∧ s.keyArea < pa + n then
    let a := max pa s.keyArea - s.keyArea
    (s.poke pa (l.take (s.keyArea - pa))).freeKeys (natRange (a / 8) ((pa + n - s.keyArea + 7) / 8 - a / 8))
  else
    let r := s.meetWords (partCws pa n)
    match r.2 with
    | none => r.1.poke pa l
    | some cw => (r.1.logEvent 0x0501 2 (leBytes 8 cw)).poke pa l

-- ---------------------------------------------------------------- storage keys (R413 to R415, R254)

/-- The key cache of the DRAM controller: a set's pages, the most recently used first. A miss fetches the page's entry, and one that it evicts is
written back when it changed (R255). -/
def State.keyFetch (s : State) (page : Nat) : State :=
  if memOf (4096 * page) ≠ 3 then s
  else
    let i := Config.keyCacheSet page % 512
    let l := page :: (Tab.get [] s.keyCache i).filter (· != page)
    let s := { s with keyCache := Tab.put [] i (l.take 16) s.keyCache }
    match l.drop 16 with
    | [] => s
    | p :: _ => { s with keyMem := Tab.put PageKey.reset p (Tab.get PageKey.reset s.keys p) s.keyMem }

/-- The DRAM staging area: base and bytes (0x0C00.01, R37). -/
def State.stagingBase (s : State) : Nat := s.objNat (okey 0x0C00 1) 0
def State.stagingBytes (s : State) : Nat := 64 * s.adm.poolD

/-- The physical address of a cell of a home. -/
def State.cellPa (s : State) (dram : Bool) (cell : Nat) : Nat :=
  if dram then s.stagingBase + 64 * cell else recordBase + 64 * cell

/-- Whether the page of an address holds arena or staging cells (R145). -/
def State.cellPage (s : State) (pa : Nat) : Bool :=
  let lo := pa / 4096 * 4096
  (s.adm.arenas.any fun a =>
    a.kind != .resident && decide (s.cellPa a.dram a.base < lo + 4096) &&
      decide (lo < s.cellPa a.dram a.base + 64 * a.cells)) ||
  (decide (s.stagingBase < lo + 4096) && decide (lo < s.stagingBase + s.stagingBytes) && memOf pa == 3)

/-- Whether the page of an address is durable (R145). -/
def State.durable (s : State) (pa : Nat) : Bool :=
  (memOf pa == 1 || memOf pa == 3) && (s.pageKey pa).key.getLsbD 7 && !s.cellPage pa

/-- The page key check of R414. `store`: a store, an atomic or a commit. -/
def keyPasses (ring : Nat) (key : BitVec 4) (page : Byte) (store : Bool) : Bool :=
  ring == 0 || page.extractLsb' 0 4 == 0#4 || key == page.extractLsb' 0 4 || (!store && !page.getLsbD 4)

/-- A performed access sets REF, and a store also CHG of a page that is not durable (R415); a DRAM page's entry is in the key cache (R255). -/
def State.markPage (s : State) (store : Bool) (pa : Nat) : State :=
  let m := memOf pa
  if 4 ≤ m then s
  else
    let s := s.keyFetch (pa / 4096)
    let k := s.pageKey pa
    let v := k.key ||| 0x40#8
    s.setPageKey (pa / 4096) { k with key := if store ∧ ¬ s.durable pa then v ||| 0x20#8 else v }

-- ---------------------------------------------------------------- translation (R246, R287)

/-- The cluster whose SRAM a core's cluster descriptors reach: the home of the logical core it carries (R246, R529). -/
def State.clusterOf (s : State) (c : Nat) : Nat :=
  let l := ((s.core c).srGet 0x036).toNat
  if l < 64 then (s.lcore l).home else c / 4

/-- A piece of an access: effective address of its first byte, and its bytes. -/
structure Piece where
  ea : Nat
  n : Nat
deriving DecidableEq, Repr

/-- A translated piece. -/
structure Mapped where
  ea : Nat
  n : Nat
  type : Nat
  desc : Nat
  pa : Nat
deriving DecidableEq, Repr

/-- The physical address a descriptor gives, scratch and cluster types as offsets into the core's own memory (R246). -/
def State.physOf (s : State) (c : Nat) (d : Desc) (ea : Nat) : Nat :=
  let off := d.paBase + (ea - d.eaBase)
  if d.type = 0 ∨ d.type = 6 then scratchBase + scratchSize * c + off
  else if d.type = 1 then clusterBase + clusterSize * s.clusterOf c + off
  else off

/-- Whether the whole piece lies in the range of its descriptor's type (R246). The key area belongs to the check before. -/
def State.inRange (s : State) (d : Desc) (ea n : Nat) : Bool :=
  let off := d.paBase + (ea - d.eaBase)
  let fin := off + n
  match d.type with
  | 0 => decide (fin ≤ scratchSize)
  | 6 => decide (fin ≤ scratchSize)
  | 1 => decide (fin ≤ clusterSize)
  | 2 => decide (recordBase ≤ off) && decide (fin ≤ recordBase + recordSize)
  | 3 => decide (partnerBase ≤ off) && decide (fin ≤ partnerBase + partnerSize)
  | 4 => decide (fin ≤ s.dramCap)
  | _ => decide (ioBase ≤ off) && decide (fin ≤ ioBase + ioSize)

/-- How an access is made: what kind it is, and whether it is an ordinary store, which a return-stack region refuses (R288). -/
structure Access where
  /-- 1 load, 2 store, 3 fetch -/
  acc : Nat
  /-- a spill of the return stack by the core itself (R294) -/
  spill : Bool
deriving DecidableEq, Repr

def accLoad : Access := ⟨1, false⟩
def accStore : Access := ⟨2, false⟩
def accFetch : Access := ⟨3, false⟩

/-- No access: an instruction's own check of where its operand lies, made before any access (R397; log 62). -/
def accNone : Access := ⟨0, false⟩

/-- A trap of an access. -/
def Access.trap (a : Access) (vec code ea : Nat) : Trap := ⟨vec, code, a.acc, BitVec.ofNat 32 ea, 0⟩

/-- Step 1 of R419 for a piece that a descriptor matches. -/
def State.regionStep (s : State) (a : Access) (p : Piece) (d : Desc) : Option Trap :=
  let off := d.paBase + (p.ea - d.eaBase)
  if d.type = 4 ∧ s.keyArea ≤ off ∧ off < s.dramCap then some (a.trap 6 0x04 p.ea)
  else if ¬ s.inRange d p.ea p.n then some (a.trap 9 0x03 p.ea)
  else if a.acc = 2 ∧ d.type = 3 then some (a.trap 6 0x02 p.ea)
  else if a.acc = 2 ∧ d.ro then some (a.trap 9 0x02 p.ea)
  else if a.acc = 2 ∧ d.type = 6 ∧ ¬ a.spill then some (a.trap 6 0x03 p.ea)
  else none

/-- The first answer a step gives over the pieces, lower-addressed first (R419). -/
def firstTrap (f : Piece → Desc → Option Trap) : List (Piece × Option Desc) → Option Trap
  | [] => none
  | (p, some d) :: t => match f p d with
    | some x => some x
    | none => firstTrap f t
  | (_, none) :: t => firstTrap f t

/-- Step 2 of R419. -/
def ringStep (a : Access) (ring : Nat) (p : Piece) (d : Desc) : Option Trap :=
  if d.ringMax < ring then some (a.trap 5 0x04 p.ea) else none

/-- Step 3 of R419. -/
def nxStep (a : Access) (p : Piece) (d : Desc) : Option Trap :=
  if a.acc = 3 ∧ (d.nx ∨ 2 ≤ d.type) then some (a.trap 7 0x01 p.ea) else none

/-- Step 5 of R419: the key check, for the types that R246 names. -/
def State.keyStep (s : State) (c : Nat) (a : Access) (p : Piece) (d : Desc) : Option Trap :=
  if 1 ≤ d.type ∧ d.type ≤ 4 then
    let k := s.core c
    if keyPasses k.ring k.key (s.pageKey (s.physOf c d p.ea)).key (a.acc == 2) then none
    else some (a.trap 6 0x01 p.ea)
  else none

/-- Whether all pieces are translated by one descriptor (R292, R355). -/
def oneDesc : List (Piece × Option Desc) → Bool
  | [] => true
  | [(_, d)] => d.isSome
  | (_, d) :: (q, e) :: t => d.isSome && (d.map Desc.num == e.map Desc.num) && oneDesc ((q, e) :: t)

/-- The checks of R419 over the pieces of an access, in order; `align` is what the instruction's own alignment rule says in
step 4. -/
def State.judge (s : State) (c : Nat) (a : Access) (ps : List Piece) (align : Option Trap) :
    Except Trap (List Mapped) :=
  let k := s.core c
  let ds := ps.map fun p => (p, k.find p.ea)
  let first := match ps with | p :: _ => p.ea | [] => 0
  if ds.all (fun x => x.2.isNone) then .error (a.trap 9 0x01 first)
  else match firstTrap (s.regionStep a) ds with
  | some t => .error t
  | none => match firstTrap (ringStep a k.ring) ds with
  | some t => .error t
  | none => match firstTrap (nxStep a) ds with
  | some t => .error t
  | none =>
    if ¬ oneDesc ds then .error (a.trap 8 0x01 first)
    else match align with
    | some t => .error t
    | none => match firstTrap (s.keyStep c a) ds with
    | some t => .error t
    | none => .ok (ds.filterMap fun x => x.2.map fun d => ⟨x.1.ea, x.1.n, d.type, d.num, s.physOf c d x.1.ea⟩)

/-- The halves of an access: split at an 8-byte boundary (R292), addresses modulo 2^32. -/
def halves (ea n : Nat) : List Piece :=
  let room := 8 - ea % 8
  if n ≤ room then [⟨ea, n⟩] else [⟨ea, room⟩, ⟨(ea + room) % 2 ^ 32, n - room⟩]

/-- The pieces of an operand of a commercial instruction: split at 4 KiB boundaries, at which alone a check can change (R355). -/
def operandPieces : Nat → Nat → Nat → List Piece
  | 0, _, _ => []
  | f + 1, ea, n =>
    let room := 4096 - ea % 4096
    if n ≤ room then [⟨ea, n⟩] else ⟨ea, room⟩ :: operandPieces f ((ea + room) % 2 ^ 32) (n - room)

/-- The pieces of an operand of `n` bytes. -/
def operand (ea n : Nat) : List Piece := operandPieces 8 ea n

-- ---------------------------------------------------------------- first touches (R149 to R151)

/-- The Carafe's headroom admits `n` more dirty bytes (R30, R149; R169: a wait until B_dirty is below B_max). -/
def State.headroom (s : State) (n : Nat) : Bool := decide (s.perc.dirty + n ≤ s.carafe.bMax)

/-- The pages of an access whose swap is deferred (R148): the first of them. -/
def State.deferredPage (s : State) (pas : List Nat) : Option Nat :=
  (pas.map (· / 4096)).find? fun p => s.perc.deferred.contains p

/-- Headroom for a first touch is reserved by a core (R149 step 1). -/
def State.reserveTouch (s : State) (c line : Nat) : State :=
  ({ s with perc := { s.perc with dirty := s.perc.dirty + 256 } }).setCore c { s.core c with touchHeld := line :: (s.core c).touchHeld }

/-- A reservation leaves a core, used or not. -/
def State.dropHeld (s : State) (c line : Nat) : State :=
  s.setCore c { s.core c with touchHeld := (s.core c).touchHeld.filter (· != line) }

/-- A reservation that is not used goes back: another core has touched the line meanwhile, or the instruction is given up (log 65). -/
def State.giveBack (s : State) (c line : Nat) : State :=
  { s.dropHeld c line with perc := { s.perc with dirty := s.perc.dirty - 256 } }

/-- An instruction is given up: what it has reserved and not used goes back. -/
def State.giveUp (s : State) (c : Nat) : State := (s.core c).touchHeld.foldl (fun a l => a.giveBack c l) s

/-- One line's first touch by a core: reservation, capture, CUR (R149, R150). Only for a line of a durable page whose CUR bit is clear. A wait for
a capture slot comes after the reservation, which is kept. -/
def State.touchLine (s : State) (c line : Nat) : State × Option WaitWhy :=
  let pa := 256 * line
  let k := s.pageKey pa
  let n := line % 16
  let held := (s.core c).touchHeld.contains line
  if ¬ s.durable pa ∨ k.cur.getLsbD n then (if held then s.giveBack c line else s, none)
  else if ¬ held ∧ ¬ s.headroom 256 then (s, some (.carafe 256))
  else
    let s := if held then s else s.reserveTouch c line
    if k.pend.getLsbD n ∧ 16384 ≤ s.perc.captures.length then (s, some .capture)
    else
      let b : BitVec 16 := 1#16 <<< n
      let r := if k.pend.getLsbD n then s.engineRead pa 256 else (s, [])
      let s := r.1.dropHeld c line
      let caps := if k.pend.getLsbD n then s.perc.captures ++ [⟨pa, k.pendFrame, r.2⟩] else s.perc.captures
      let pend := k.pend &&& ~~~ b
      ({ s with perc := { s.perc with captures := caps, touched := pa :: s.perc.touched } }.setPageKey (pa / 4096)
        { key := k.key ||| 0x20#8, cur := k.cur ||| b, pend := pend, curFrame := s.timer.frame
          pendFrame := if pend = 0 then 0 else k.pendFrame }, none)

/-- First touches of several lines, in order; a wait keeps those already made (R151). -/
def State.touchLines (s : State) (c : Nat) : List Nat → State × Option WaitWhy
  | [] => (s, none)
  | l :: t =>
    let r := s.touchLine c l
    match r.2 with
    | some w => (r.1, some w)
    | none => r.1.touchLines c t

/-- The lines that `n` bytes at a physical address touch. -/
def linesOf (pa n : Nat) : List Nat := natRange (pa / 256) ((pa + n - 1) / 256 + 1 - pa / 256)

/-- How many of these lines a store would first touch, each for 40 cc (R150). -/
def State.touchCount (s : State) (ls : List Nat) : Nat :=
  (ls.eraseDups.filter fun l => s.durable (256 * l) && !(s.pageKey (256 * l)).cur.getLsbD (l % 16)).length

/-- The first touches of a store, an atomic or a commit: the deferred swap first, then the lines (R148, R151). -/
def State.touch (s : State) (c : Nat) (ms : List Mapped) : State × Option WaitWhy :=
  let pas := (ms.filter fun m => m.type == 2 || m.type == 4).map Mapped.pa
  match s.deferredPage pas with
  | some p => (s, some (.deferred p))
  | none =>
    s.touchLines c ((ms.filter fun m => m.type == 2 || m.type == 4).flatMap fun m => linesOf m.pa m.n)

-- ---------------------------------------------------------------- the store buffer (R430, R431)

/-- A core is about to write a byte of scratch or cluster SRAM: until its next FENCEI it still fetches the old one, and other cores fetch the old one
until the next tick (R264). -/
def State.keepFetched (s : State) (c : Nat) : Nat → Nat → State
  | _, 0 => s
  | pa, n + 1 =>
    let b := s.byte pa
    let k := s.core c
    let own := if (k.staleOwn.any fun x => x.1 == pa) then k.staleOwn else Tab.insert pa b k.staleOwn
    let far := if memOf pa = 0 ∧ !(s.stale.any fun x => x.1 == pa) then Tab.insert pa (c, b) s.stale else s.stale
    (({ s with stale := far }).setCore c { k with staleOwn := own }).keepFetched c (pa + 1) n

/-- A core's store reaches memory. -/
def State.corePoke (s : State) (c pa : Nat) (l : List Byte) : State :=
  (if memOf pa = 0 ∨ memOf pa = 4 then s.keepFetched c pa l.length else s).poke pa l

/-- The oldest buffered store of a core reaches memory (R262, R430). -/
def State.drainOne (s : State) (c : Nat) : State :=
  match (s.core c).storeBuf with
  | [] => s
  | e :: t => (s.setCore c { s.core c with storeBuf := t }).corePoke c e.pa e.bytes

/-- A byte as a core fetches it (R264). -/
def State.fetchByte (s : State) (c pa : Nat) : Byte :=
  match (s.core c).staleOwn.find? (fun x => x.1 == pa), s.stale.find? (fun x => x.1 == pa) with
  | some x, _ => x.2
  | none, some y => if y.2.1 = c then s.byte pa else y.2.2
  | none, none => s.byte pa

/-- `n` bytes as a core fetches them. -/
def State.fetchBytes (s : State) (c pa : Nat) : Nat → List Byte
  | 0 => []
  | n + 1 => s.fetchByte c pa :: s.fetchBytes c (pa + 1) n

/-- The `n` oldest buffered stores reach memory. -/
def State.drain (s : State) (c : Nat) : Nat → State
  | 0 => s
  | n + 1 => (s.drainOne c).drain c n

/-- Every buffered store of a core reaches memory (R263, R264). -/
def State.drainAll (s : State) (c : Nat) : State := s.drain c (s.core c).storeBuf.length

/-- Whether two ranges overlap. -/
def overlaps (a n b m : Nat) : Bool := decide (a < b + m) && decide (b < a + n)

/-- How many buffered stores, oldest first, must drain so that the youngest overlapping one has drained. -/
def drainDepth (b : List SbEntry) (pa n : Nat) : Nat :=
  b.length - (b.reverse.takeWhile fun e => !overlaps e.pa e.bytes.length pa n).length

/-- The youngest overlapping buffered store. -/
def youngest (b : List SbEntry) (pa n : Nat) : Option SbEntry :=
  b.reverse.find? fun e => overlaps e.pa e.bytes.length pa n

/-- What a load of one piece reads (R431): forwarded from the youngest overlapping store when it lies wholly inside it and the
store is not to DRAM; otherwise the overlapping stores drain first. A code word with an uncorrectable error stops it (R258). Of device registers only
the unassigned addresses are read so, as zero (R245). -/
def State.loadPiece (s : State) (c : Nat) (pa n : Nat) : State × Option Nat × List Byte :=
  if memOf pa = 5 then (s, none, zeros n)
  else match youngest (s.core c).storeBuf pa n with
  | some e =>
    if memOf pa ≠ 3 ∧ e.pa ≤ pa ∧ pa + n ≤ e.pa + e.bytes.length then (s, none, sliceZ e.bytes (pa - e.pa) n)
    else
      let s := s.drain c (drainDepth (s.core c).storeBuf pa n)
      let r := s.meetWords (cwsOf pa n)
      (r.1, r.2, r.1.bytes pa n)
  | none =>
    let r := s.meetWords (cwsOf pa n)
    (r.1, r.2, r.1.bytes pa n)

/-- The machine check of an uncorrectable code word (R258, R398). -/
def mcUncorrectable (acc cw : Nat) : Trap := ⟨0, 0x01, acc, BitVec.ofNat 32 cw, cw / 2 ^ 32⟩

/-- Loads the bytes of translated pieces in order. -/
def State.loadPieces (s : State) (c : Nat) : List Mapped → State × Except Trap (List Byte)
  | [] => (s, .ok [])
  | m :: t =>
    let r := s.loadPiece c m.pa m.n
    match r.2.1 with
    | some cw => (r.1, .error (mcUncorrectable 1 cw))
    | none =>
      let q := r.1.loadPieces c t
      match q.2 with
      | .error e => (q.1, .error e)
      | .ok l => (q.1, .ok (r.2.2 ++ l))

/-- A store enters the buffer, which drains as far as it must to have room (R430). -/
def State.pushStore (s : State) (c : Nat) (e : SbEntry) (room : Nat) : State :=
  let s := s.drain c ((s.core c).storeBuf.length + room - 8)
  s.setCore c { s.core c with storeBuf := (s.core c).storeBuf ++ [e] }

/-- Pushes the pieces of a store with their bytes. -/
def State.pushPieces (s : State) (c : Nat) : List Mapped → List Byte → State
  | [], _ => s
  | m :: t, l => (s.pushStore c ⟨m.pa, l.take m.n⟩ 1).pushPieces c t (l.drop m.n)

/-- Marks the pages of an access (R415). -/
def State.mark (s : State) (store : Bool) (ms : List Mapped) : State :=
  ms.foldl (fun a m => a.markPage store m.pa) s

-- ---------------------------------------------------------------- timing of accesses (R429 to R432)

/-- The load-to-use latency of a descriptor type, aligned: best and worst (R429); the record figures for a displaced core's cluster (R529). -/
def loadRange (disp : Bool) (type : Nat) : Cost :=
  match type with
  | 0 => ⟨2, 2⟩ | 6 => ⟨2, 2⟩
  | 1 => if disp then ⟨28, 64⟩ else ⟨8, 14⟩
  | 4 => ⟨180, 420⟩ | 5 => ⟨30, 30⟩
  | _ => ⟨28, 64⟩

/-- The worst of it. -/
def loadWorst (disp : Bool) (type : Nat) : Nat := (loadRange disp type).hi

/-- The addition for crossing an 8-byte boundary (R429). -/
def crossAdd (disp : Bool) (type : Nat) : Nat :=
  match type with
  | 0 => 2 | 6 => 2
  | 1 => if disp then 32 else 8
  | 4 => 210
  | _ => 32

/-- The largest addition for an overlap with a buffered store (R431). -/
def overlapAdd (disp : Bool) (type : Nat) : Nat :=
  match type with
  | 0 => 4 | 6 => 4
  | 1 => if disp then 48 else 12
  | 4 => 420
  | _ => 48

/-- The drain time of a store (R430). -/
def drainWorst (disp : Bool) (type : Nat) : Nat :=
  match type with
  | 0 => 1 | 6 => 1
  | 1 => if disp then 32 else 8
  | 4 => 210 | 5 => 30
  | _ => 32

/-- The type that times an access. -/
def typeOf (ms : List Mapped) : Nat := match ms with | m :: _ => m.type | [] => 0

/-- The descriptor type that times an access to a physical address. -/
def typeAt (pa : Nat) : Nat :=
  match memOf pa with | 0 => 1 | 1 => 2 | 2 => 3 | 3 => 4 | 4 => 0 | _ => 5

/-- What alignment adds to a load: nothing when aligned, 1 cc within 8 bytes, the region's figure across (R429). -/
def alignAdd (disp : Bool) (ms : List Mapped) (n : Nat) : Nat :=
  match ms with
  | [m] => if m.pa % n = 0 then 0 else 1
  | _ => crossAdd disp (typeOf ms)

/-- Whether a load of a piece is forwarded from the youngest overlapping buffered store (R431). -/
def forwarded (b : List SbEntry) (m : Mapped) : Bool :=
  match youngest b m.pa m.n with
  | some e => memOf m.pa != 3 && decide (e.pa ≤ m.pa) && decide (m.pa + m.n ≤ e.pa + e.bytes.length)
  | none => false

/-- What waiting for buffered stores adds to a load, the larger once (R431). -/
def waitAdd (disp : Bool) (b : List SbEntry) (ms : List Mapped) : Nat :=
  ms.foldl (fun a m => if (youngest b m.pa m.n).isSome ∧ ¬ forwarded b m then max a (overlapAdd disp (typeAt m.pa)) else a) 0

/-- The time of a load of `n` bytes in the state it meets: its load-to-use latency (R424, R429, R431; log 8). -/
def State.loadCost (s : State) (c : Nat) (ms : List Mapped) (n : Nat) : Cost :=
  let b := (s.core c).storeBuf
  let disp := s.displaced c
  if ms.all (forwarded b) ∧ ms ≠ [] then cc (2 + alignAdd disp ms n)
  else
    let w := waitAdd disp b ms
    let x := loadRange disp (typeOf ms)
    ⟨x.lo + alignAdd disp ms n, x.hi + alignAdd disp ms n + w⟩

/-- How long the `n` oldest buffered stores may take to drain (R430). -/
def drainTime (disp : Bool) (b : List SbEntry) (n : Nat) : Nat :=
  ((b.take n).map fun e => drainWorst disp (typeAt e.pa)).foldl (· + ·) 0

/-- The time of a store in the state it meets: 1 cc when its entries are free, the drain of those it must wait for otherwise, and 40 cc for each
first touch (R150, R430). A device register is stored to after every earlier store (R263). -/
def State.storeCost (s : State) (c : Nat) (ms : List Mapped) (touches : Nat) : Cost :=
  let b := (s.core c).storeBuf
  let disp := s.displaced c
  let w := if typeOf ms = 5 then drainTime disp b b.length + 30 else drainTime disp b (b.length + ms.length - 8)
  (⟨1, 1 + w⟩ : Cost).plus (cc (40 * touches))

end Sys2Proof.Machine
end

