-- ==== Sys2Proof/Machine/Undefined.lean ====
section
/-!
DEFINITION. What an undefined case does to the context that meets it (R7, R8): everything the context can write takes any value, and the machine
goes on (log 7). The free values of one case are `Config.undefinedBits` of the counter of free values, by place.
-/

namespace Sys2Proof.Machine

/-- `n` free bytes of the undefined case `u`, from place `i` on. -/
def undefinedBytes (u : Nat) : Nat → Nat → List Byte
  | _, 0 => []
  | i, n + 1 => BitVec.ofNat 8 (Config.undefinedBits u i) :: undefinedBytes u (i + 1) n

/-- A free word of an undefined case. -/
def undefinedWord (u i : Nat) : Word := BitVec.ofNat 32 (Config.undefinedBits u i)

/-- The fields of STAT that a ring may write with MTS (R283). -/
def statWritable (ring : Nat) : Word := if ring = 0 then statMask else 0x00B00FE0#32

/-- The special registers that MTS may set to any value in a ring: STAT, PRED and the stack and bank-map registers have rules of their own. -/
def srFree (ring n : Nat) : Bool :=
  srListed n && !srReadOnly n && decide (ring ≤ srWriteRing n) && n != 0x000 && n != 0x001 && n != 0x023 && n != 0x024

/-- The general registers of a bank take any values; a write to a task bank sets its D. -/
def Core.freeBank (k : Core) (u b : Nat) : Core :=
  (natRange 0 32).foldl (fun a n => a.setBankReg b n (undefinedWord u (32 * b + n))) k

/-- The registers of the context take any values: those it can write in its ring, and no other ring or bank (R8). -/
def Core.havoc (k : Core) (u : Nat) : Core :=
  let r := k.ring
  let m := statWritable r
  let stat := (k.stat &&& ~~~ m) ||| (undefinedWord u 0x1000 &&& m)
  let k := if r = 0 then (natRange 0 10).foldl (fun a b => a.freeBank u b) k else k.freeBank u k.bank
  let k := ((natRange 0 0x140).filter (srFree r)).foldl (fun a n =>
    a.srSet n (undefinedWord u (0x1000 + n) &&& srHeld n &&& ~~~ srReserved n)) k
  let k := (k.srSet 0 stat).srSet 1 ((undefinedWord u 0x1001 &&& 0xFE#32) ||| 1#32)
  let k := if r = 0 then { k with
    bankV := k.bankV &&& BitVec.ofNat 8 (Config.undefinedBits u 0x1023), bankD := BitVec.ofNat 8 (Config.undefinedBits u 0x1024) } else k
  { k with
    shadow := [], wait := none, micro := none
    rs := decide (r = 0) && natBit (Config.undefinedBits u 0x2001) 0
    pc := undefinedWord u 0x2000 &&& 0xFFFFFFFC#32
    rstack := (natRange 0 (Config.undefinedBits u 0x2002 % 17)).map fun i => undefinedWord u (0x2100 + i) &&& 0xFFFFFFFC#32 }

/-- The device registers of the core take any values, when a descriptor of the context reaches them (R245). -/
def Core.havocIo (k : Core) (u : Nat) : Core :=
  let f := fun (i : Nat) => Config.undefinedBits u (0x3000 + i)
  { k with
    egsa := BitVec.ofNat 64 (f 0), ipend := BitVec.ofNat 17 (f 1), ien := BitVec.ofNat 17 (f 2), ifast := BitVec.ofNat 17 (f 3)
    dbgout := BitVec.ofNat 32 (f 4), outf := k.outf || natBit (f 5) 0, dbgin := if natBit (f 6) 0 then 0 else k.dbgin
    inf := k.inf && !natBit (f 6) 0 }

/-- Whether the context may store through a descriptor (R288, R292): a type that takes stores, a region that is not read-only, a ring that it
admits. -/
def Desc.writable (d : Desc) (ring : Nat) : Bool :=
  d.valid && d.type != 3 && d.type != 7 && !d.ro && decide (ring ≤ d.ringMax)

/-- The pages that a descriptor of the context opens to its stores, each by its physical address: in the range of the type, outside the key area,
and passing the key check. -/
def State.openPages (s : State) (c : Nat) (d : Desc) : List Nat :=
  let k := s.core c
  ((natRange 0 (d.size / 4096)).filter fun i =>
      s.inRange d (d.eaBase + 4096 * i) 4096 && !(d.type == 4 && decide (s.keyArea < d.paBase + 4096 * i + 4096)) &&
        (decide (d.type = 0 ∨ 5 ≤ d.type) || keyPasses k.ring k.key (s.pageKey (s.physOf c d (d.eaBase + 4096 * i))).key true)).map
    fun i => s.physOf c d (d.eaBase + 4096 * i)

/-- The descriptors through which a context may store. -/
def Core.openDescs (k : Core) : List Desc := ((natRange 0 16).map k.desc).filter fun d => d.writable k.ring

/-- Every byte of memory that the context can reach takes any value. -/
def State.havocMem (s : State) (c u : Nat) : State :=
  ((((s.core c).openDescs).filter fun d => d.type != 5).flatMap (s.openPages c)).foldl
    (fun a pa => a.poke pa (undefinedBytes u (2 ^ 40 + pa) 4096)) s

/-- In ring 0 the storage keys of the pages it can name take any value too (R417). -/
def State.havocKeys (s : State) (c u : Nat) : State :=
  if (s.core c).ring ≠ 0 then s
  else ((((s.core c).openDescs).filter fun d => 1 ≤ d.type ∧ d.type ≤ 4).flatMap (s.openPages c)).foldl
    (fun a pa => a.setPageKey (pa / 4096) { a.pageKey pa with key := BitVec.ofNat 8 (Config.undefinedBits u (2 ^ 41 + pa / 4096)) }) s

/-- An undefined case that a core meets: what its context can write takes any value, in any time, and the core goes on. Fuses, the anti-rollback
counter, the event log, other cores' registers and the rings stay as they are (R8). -/
def State.havoc (s : State) (c : Nat) : State :=
  let u := s.freeCtr
  let s := { s with freeCtr := u + 1 }
  let io := (s.core c).openDescs.any fun d => d.type == 5
  let k := (s.core c).havoc u
  let k := if io then k.havocIo u else k
  (((s.havocKeys c u).havocMem c u).unlock c).setCore c (k.charge (Config.undefinedBits u 0x2003 % 2 ^ 32))

end Sys2Proof.Machine
end

