-- ==== Sys2Proof/Machine/Run.lean ====
section
/-!
DEFINITION. Running one instruction on a core: fetch and its checks (R288, R400, R419), the breakpoint (R570), the guard and the
encoding faults (R307, R308, R574), then the instruction's own effect, then completion.
-/

namespace Sys2Proof.Machine

/-- Fetches the word at an address: translation and checks, then the code word (R258, R288). -/
def State.fetch (s : State) (c : Nat) (pc : Word) : State × Except Trap Nat :=
  match s.judge c accFetch [⟨pc.toNat, 4⟩] none with
  | .error t => (s, .error t)
  | .ok ms =>
    let pa := match ms with | m :: _ => m.pa | [] => 0
    let r := s.meetWords (cwsOf pa 4)
    match r.2 with
    | some cw => (r.1, .error (mcUncorrectable 3 cw))
    | none =>
      let s := r.1.mark false ms
      (s, .ok (leNat (s.fetchBytes c pa 4)))

/-- Whether an enabled breakpoint of the core lies at its PC while debug is enabled (R570, R571). -/
def State.atBreakpoint (s : State) (c : Nat) : Bool :=
  let k := s.core c
  s.jtag.debug && k.brks.any fun b => b.2.enable && b.2.ea == k.pc.extractLsb' 2 30

/-- The entry of a breakpoint (R570). -/
def State.takeBreakpoint (s : State) (c : Nat) : State :=
  let k := s.core c
  s.enter c (trapAt 20 0x02 k.pc) k.pc k.rs

/-- An instruction that traps takes the time of its work up to where it stops (R389). -/
def Res.late (x : Cost) : Res → Res
  | .trap s t => .trapLate s t x
  | r => r

/-- The number of the built-in routine of an instruction of majors 0x32 to 0x35 (R444): 128 * major + func. -/
def storeRoutine : Instr → Option Nat
  | .dadd .. => some 6400 | .dsub .. => some 6408 | .dzad .. => some 6416 | .dcmp .. => some 6424
  | .dmul .. => some 6432 | .ddiv .. => some 6440 | .dsrp .. => some 6448 | .dtst .. => some 6456
  | .cvpz .. => some 6528 | .cvzp .. => some 6536 | .cvpb .. => some 6544 | .cvbp .. => some 6552
  | .mvs .. => some 6656 | .mvsf .. => some 6657 | .cmps .. => some 6658 | .scns .. => some 6659
  | .trs .. => some 6660 | .trts .. => some 6661 | .crcs .. => some 6662 | .edit .. => some 6663
  | .post .. => some 6784 | .post2 .. => some 6788 | .post4 .. => some 6792
  | .tchkVerify .. => some 6800 | .tchkForm .. => some 6801
  | _ => none

/-- The first bad store word that the routine of an instruction reads before its commit (R461; log 23). -/
def State.badBuiltin (s : State) (c : Nat) (i : Instr) : Option BadWord :=
  match storeRoutine i with
  | none => none
  | some n => (s.core c).ucodeBad.find? fun w => Config.builtinReads n w.store w.addr

/-- The storage keys as they stand, but REF as in `s0`: an instruction that waits has performed no access yet (R356, R415). -/
def State.restoreRef (s s0 : State) : State :=
  let old := fun (e : Nat × PageKey) =>
    { e.2 with key := (e.2.key &&& 0xBF#8) ||| ((Tab.get PageKey.reset s0.keys e.1).key &&& 0x40#8) }
  { s with keys := (s.keys.map fun e => (e.1, old e)).filter fun e => decide (e.2 ≠ PageKey.reset) }

/-- What a body's outcome makes of the machine, for an instruction at `pc` that is a repetition under RC when `rep`. -/
def State.finish (s0 : State) (c : Nat) (ins : Instr) (pc : Word) (rep resumed : Bool) (r : Res) :
    Host.Outcome State Fault Refusal :=
  match r with
  | .done s x =>
    if (s.core c).badLoop pc && !(rep && decide ((s.core c).rc > 1)) then .next (s0.havoc c)
    else .next (s.retire c pc rep x)
  | .jump s t x =>
    if (s.core c).loopEndAt pc then .next (s0.havoc c) else .next (s.retireTo c t x)
  | .leave s x => .next (s.charge c x)
  | .again s x =>
    let s := s.charge c x
    .next (s.setCore c { s.core c with pc := pc, rs := true })
  -- a faulting access sets neither REF nor CHG, and an instruction that traps has changed nothing visible (R356, R415)
  | .trap s t => .next (({ s with keys := s0.keys }.giveUp c).enter c t pc (rep || resumed))
  | .trapLate s t x => .next ((({ s with keys := s0.keys }.giveUp c).charge c x).enter c t pc (rep || resumed))
  | .doneTrap s t x =>
    if (s.core c).badLoop pc && !(rep && decide ((s.core c).rc > 1)) then .next (s0.havoc c)
    else
      let s := s.retire c pc rep x
      let k := s.core c
      .next (s.enter c t k.pc k.rs)
  -- the first touches it has made are paid for now (R150)
  | .wait s why =>
    let s := s.charge c (cc (40 * (s.perc.touched.length - s0.perc.touched.length)))
    .next ((s.restoreRef s0).setCore c { s.core c with wait := some ⟨why, some ins⟩, pc := pc, rs := (s0.core c).rs })
  | .hold w => .next (s0.holdParity c w)
  | .undef _ => .next (s0.havoc c)

/-- Runs an instruction on core `c` at its PC. `enc` is the vector-4 code of an encoding fault, `resum` whether the instruction is
resumable (R356), `xfer` whether it is a transfer, LOOP or RPT (which may not end a loop), `fcost` the cost when the guard is
false (R271, R425). A core that is held, stopped, idle or waiting executes nothing: the command changes nothing (log 2). -/
def State.runInstr (s0 : State) (c : CoreId) (ins : Instr) (g : Guard) (enc : Option Nat) (resum xfer : Bool) (fcost : Cost)
    (body : State → Res) : Host.Outcome State Fault Refusal :=
  if ¬ (s0.core c).ready then .next s0
  else
    let s := s0.setCore c (s0.core c).applyDue
    let k := s.core c
    let pc := k.pc
    if k.rs ∧ ¬ resum ∧ k.rc = 0 then .next (s.setCore c { k with pc := pc + 4, rs := false })
    else if s.atBreakpoint c then .next (s.takeBreakpoint c)
    else match s.fetch c pc with
    | (s, .error t) => .next (s.fetchFault c t)
    | (s, .ok _) =>
      let rep := k.rs && !resum
      let resumed := k.rs && resum
      if guardReserved g then .next (s.enter c (trapAt 4 0x02 pc) pc k.rs)
      else match enc with
      | some code => .next (s.enter c (trapAt 4 code pc) pc k.rs)
      | none =>
        if ¬ k.guardHolds g then
          if xfer ∧ k.loopEndAt pc then .next (s.havoc c)
          else s.finish c ins pc rep resumed (.done s fcost)
        else match s.badBuiltin c ins with
        | some w => .next (s.holdParity c w)
        | none => s.finish c ins pc rep resumed (body s)

/-- Runs an instruction that changes the core alone and takes one cycle. -/
def State.runCore (s : State) (c : CoreId) (ins : Instr) (g : Guard) (enc : Option Nat) (x : Cost) (f : Core → Core) :
    Host.Outcome State Fault Refusal :=
  s.runInstr c ins g enc false false (cc 1) fun s => .done (s.setCore c (f (s.core c))) x

/-- The vector-4 code of an odd pair field (R270, R574). -/
def oddPair (r : Reg) : Option Nat := if oddReg r then some 0x04 else none

/-- The first encoding fault of two. -/
def firstEnc (a b : Option Nat) : Option Nat := match a with | some x => some x | none => b

end Sys2Proof.Machine
end

