-- ==== Sys2Proof/Machine/Flags.lean ====
section
/-!
DEFINITION. Flag computations of the binary unit: the sticky V and DZ of STAT (R282, R312, R316, R319) and the combine modes of
the compares (R317).
-/

namespace Sys2Proof.Machine

/-- Whether an integer is representable as a signed 32-bit value. -/
def fitsS32 (x : Int) : Bool := decide (-2147483648 ≤ x) && decide (x ≤ 2147483647)

/-- Signed overflow of a sum, a difference and a product (R312, R319). -/
def addV (a b : Word) : Bool := !fitsS32 (a.toInt + b.toInt)
def subV (a b : Word) : Bool := !fitsS32 (a.toInt - b.toInt)
def mulV (a b : Word) : Bool := !fitsS32 (a.toInt * b.toInt)

/-- Sets V when the condition holds; never clears it (R282). -/
def Core.setV (k : Core) (v : Bool) : Core := if v then k.stick statV else k

/-- Sets DZ when the condition holds (R316). -/
def Core.setDZ (k : Core) (v : Bool) : Core := if v then k.stick statDZ else k

/-- The predicate a compare writes, by its combine mode (R317). -/
def combine (mode : BitVec 2) (old cond : Bool) : Bool :=
  if mode = 0#2 then cond
  else if mode = 1#2 then !cond
  else if mode = 2#2 then old && cond
  else old || cond

end Sys2Proof.Machine
end

