-- ==== Sys2Proof/Machine/Operands.lean ====
section
/-!
DEFINITION. The operand forms of the instruction word: immediates (R306, R313, R314), shift amounts (R315) and the addressing
modes of the M format (R290).
-/

namespace Sys2Proof.Machine

/-- A 12-bit immediate, sign-extended and zero-extended (R313). -/
def immS (i : Imm12) : Word := i.signExtend 32
def immZ (i : Imm12) : Word := i.zeroExtend 32

/-- A shift amount: bits [5:0] of its operand (R315). -/
def shamt (w : Word) : Nat := (w.extractLsb' 0 6).toNat
def shamtI (i : Imm12) : Nat := (i.extractLsb' 0 6).toNat

/-- A 9-bit field, signed and unsigned (R290). -/
def fS (f : BitVec 9) : Word := f.signExtend 32
def fU (f : BitVec 9) : Word := f.zeroExtend 32

/-- The unsigned remainder of the modulo mode, against pair m (R290). -/
def Core.modWalk (k : Core) (m : Nat) (next : Word) : Word :=
  let mb := k.srGet (0x010 + m)
  let ml := k.srGet (0x014 + m)
  if ml = 0 then next else mb + BitVec.ofNat 32 ((next - mb).toNat % ml.toNat)

/-- The effective address of an M-format access of `s` bytes, and the base register after it, if it changes (R290). -/
def Core.mform (k : Core) (b : Word) (mode : BitVec 3) (f : BitVec 9) (s : Nat) : Word × Option Word :=
  let sw := BitVec.ofNat 32 s
  if mode = 0#3 then (b + fS f * sw, none)
  else if mode = 1#3 then (b, some (b + fU f * sw))
  else if mode = 2#3 then (b - fU f * sw, some (b - fU f * sw))
  else if mode = 3#3 then
    (b + (k.reg (f.extractLsb' 2 5)) <<< (f.extractLsb' 7 2).toNat, none)
  else (b, some (k.modWalk (mode.extractLsb' 0 2).toNat (b + fS f * sw)))

/-- The indexed mode reserves f[1:0]: a non-zero value is an undefined case of chapter 09. -/
def badIndex (mode : BitVec 3) (f : BitVec 9) : Bool := mode == 3#3 && f.extractLsb' 0 2 != 0#2

end Sys2Proof.Machine
end

