-- ==== Sys2Proof/Machine/Alu.lean ====
section
/-!
DEFINITION. The binary unit: ALU group (R312), immediates and constants (R313, R314), shifts (R315), compares and predicate
logic (R317, R318), multiplier and divider (R319 to R321).
-/

namespace Sys2Proof.Machine

-- ---------------------------------------------------------------- results

def absW (a : Word) : Word := if a.toInt < 0 then 0 - a else a
def minS (a b : Word) : Word := if a.toInt ≤ b.toInt then a else b
def maxS (a b : Word) : Word := if a.toInt ≤ b.toInt then b else a
def minU (a b : Word) : Word := if a.toNat ≤ b.toNat then a else b
def maxU (a b : Word) : Word := if a.toNat ≤ b.toNat then b else a

/-- Leading zeros among the low `n` bits. -/
def clzFrom (a : Word) : Nat → Nat
  | 0 => 0
  | n + 1 => if a.getLsbD n then 0 else clzFrom a n + 1

/-- CLZ: 32 for zero (R312). -/
def clzW (a : Word) : Word := BitVec.ofNat 32 (clzFrom a 32)

/-- One bits among the low `n` bits. -/
def popFrom (a : Word) : Nat → Nat
  | 0 => 0
  | n + 1 => popFrom a n + (if a.getLsbD n then 1 else 0)

/-- POPC (R312). -/
def popW (a : Word) : Word := BitVec.ofNat 32 (popFrom a 32)

/-- Bytes in reverse order; bytes of each halfword exchanged (R312). -/
def bswapW (a : Word) : Word :=
  a.extractLsb' 0 8 ++ a.extractLsb' 8 8 ++ a.extractLsb' 16 8 ++ a.extractLsb' 24 8
def bswaphW (a : Word) : Word :=
  a.extractLsb' 16 8 ++ a.extractLsb' 24 8 ++ a.extractLsb' 0 8 ++ a.extractLsb' 8 8

/-- Shifts by n, 0 to 63 (R315). -/
def shlW (a : Word) (n : Nat) : Word := a <<< n
def shrW (a : Word) (n : Nat) : Word := a >>> n
def sarW (a : Word) (n : Nat) : Word := a.sshiftRight n
def rorW (a : Word) (n : Nat) : Word := a.rotateRight (n % 32)
def rolW (a : Word) (n : Nat) : Word := a.rotateLeft (n % 32)

-- ---------------------------------------------------------------- shared forms

/-- An ALU instruction of two registers, with the condition under which it sets V (R312). -/
def State.alu2 (s : State) (ins : Instr) (c : CoreId) (g : Guard) (rd rs rt : Reg) (f : Word → Word → Word)
    (v : Word → Word → Bool) : Host.Outcome State Fault Refusal :=
  s.runCore c ins g none (cc 1) fun k =>
    let a := k.reg rs
    let b := k.reg rt
    (k.setReg rd (f a b)).setV (v a b)

/-- An ALU instruction of one register (R312). -/
def State.alu1 (s : State) (ins : Instr) (c : CoreId) (g : Guard) (rd rs : Reg) (f : Word → Word)
    (v : Word → Bool) : Host.Outcome State Fault Refusal :=
  s.runCore c ins g none (cc 1) fun k =>
    let a := k.reg rs
    (k.setReg rd (f a)).setV (v a)

/-- A condition that sets no V. -/
def noV1 (_ : Word) : Bool := false
def noV2 (_ _ : Word) : Bool := false

/-- The result of a compare in predicate rd[2:0] under combine mode rd[4:3] (R317). -/
def State.cmp (s : State) (ins : Instr) (c : CoreId) (g : Guard) (rd : Reg) (cond : Core → Bool) :
    Host.Outcome State Fault Refusal :=
  s.runCore c ins g none (cc 1) fun k =>
    let p := (rd.extractLsb' 0 3).toNat
    k.setPred p (combine (rd.extractLsb' 3 2) (k.pred p) (cond k))

/-- Predicate logic (R318). -/
def State.plogic (s : State) (ins : Instr) (c : CoreId) (g : Guard) (pd ps pt : PredNo) (f : Bool → Bool → Bool) :
    Host.Outcome State Fault Refusal :=
  s.runCore c ins g none (cc 1) fun k => k.setPred pd.toNat (f (k.pred ps.toNat) (k.pred pt.toNat))

-- ---------------------------------------------------------------- ALU group

def execAdd (c : CoreId) (g : Guard) (rd rs rt : Reg) (s : State) := s.alu2 (.add c g rd rs rt) c g rd rs rt (· + ·) addV
def execSub (c : CoreId) (g : Guard) (rd rs rt : Reg) (s : State) := s.alu2 (.sub c g rd rs rt) c g rd rs rt (· - ·) subV
def execAnd (c : CoreId) (g : Guard) (rd rs rt : Reg) (s : State) := s.alu2 (.and c g rd rs rt) c g rd rs rt (· &&& ·) noV2
def execOr (c : CoreId) (g : Guard) (rd rs rt : Reg) (s : State) := s.alu2 (.or c g rd rs rt) c g rd rs rt (· ||| ·) noV2
def execXor (c : CoreId) (g : Guard) (rd rs rt : Reg) (s : State) := s.alu2 (.xor c g rd rs rt) c g rd rs rt (· ^^^ ·) noV2
def execAndn (c : CoreId) (g : Guard) (rd rs rt : Reg) (s : State) :=
  s.alu2 (.andn c g rd rs rt) c g rd rs rt (fun a b => a &&& ~~~ b) noV2
def execMin (c : CoreId) (g : Guard) (rd rs rt : Reg) (s : State) := s.alu2 (.min c g rd rs rt) c g rd rs rt minS noV2
def execMax (c : CoreId) (g : Guard) (rd rs rt : Reg) (s : State) := s.alu2 (.max c g rd rs rt) c g rd rs rt maxS noV2
def execMinu (c : CoreId) (g : Guard) (rd rs rt : Reg) (s : State) := s.alu2 (.minu c g rd rs rt) c g rd rs rt minU noV2
def execMaxu (c : CoreId) (g : Guard) (rd rs rt : Reg) (s : State) := s.alu2 (.maxu c g rd rs rt) c g rd rs rt maxU noV2
def execNeg (c : CoreId) (g : Guard) (rd rs : Reg) (s : State) :=
  s.alu1 (.neg c g rd rs) c g rd rs (fun a => 0 - a) (fun a => subV 0 a)
def execAbs (c : CoreId) (g : Guard) (rd rs : Reg) (s : State) :=
  s.alu1 (.abs c g rd rs) c g rd rs absW (fun a => a == 0x80000000#32)
def execMov (c : CoreId) (g : Guard) (rd rs : Reg) (s : State) := s.alu1 (.mov c g rd rs) c g rd rs id noV1
def execSextb (c : CoreId) (g : Guard) (rd rs : Reg) (s : State) :=
  s.alu1 (.sextb c g rd rs) c g rd rs (fun a => (a.extractLsb' 0 8).signExtend 32) noV1
def execSexth (c : CoreId) (g : Guard) (rd rs : Reg) (s : State) :=
  s.alu1 (.sexth c g rd rs) c g rd rs (fun a => (a.extractLsb' 0 16).signExtend 32) noV1
def execZextb (c : CoreId) (g : Guard) (rd rs : Reg) (s : State) :=
  s.alu1 (.zextb c g rd rs) c g rd rs (fun a => a &&& 0xFF#32) noV1
def execZexth (c : CoreId) (g : Guard) (rd rs : Reg) (s : State) :=
  s.alu1 (.zexth c g rd rs) c g rd rs (fun a => a &&& 0xFFFF#32) noV1
def execClz (c : CoreId) (g : Guard) (rd rs : Reg) (s : State) := s.alu1 (.clz c g rd rs) c g rd rs clzW noV1
def execPopc (c : CoreId) (g : Guard) (rd rs : Reg) (s : State) := s.alu1 (.popc c g rd rs) c g rd rs popW noV1
def execBswap (c : CoreId) (g : Guard) (rd rs : Reg) (s : State) := s.alu1 (.bswap c g rd rs) c g rd rs bswapW noV1
def execBswaph (c : CoreId) (g : Guard) (rd rs : Reg) (s : State) := s.alu1 (.bswaph c g rd rs) c g rd rs bswaphW noV1

-- ---------------------------------------------------------------- immediates and constants

def execAddi (c : CoreId) (g : Guard) (rd rs : Reg) (imm : Imm12) (s : State) :=
  s.alu1 (.addi c g rd rs imm) c g rd rs (· + immS imm) (fun a => addV a (immS imm))
def execAndi (c : CoreId) (g : Guard) (rd rs : Reg) (imm : Imm12) (s : State) :=
  s.alu1 (.andi c g rd rs imm) c g rd rs (· &&& immZ imm) noV1
def execOri (c : CoreId) (g : Guard) (rd rs : Reg) (imm : Imm12) (s : State) :=
  s.alu1 (.ori c g rd rs imm) c g rd rs (· ||| immZ imm) noV1
def execXori (c : CoreId) (g : Guard) (rd rs : Reg) (imm : Imm12) (s : State) :=
  s.alu1 (.xori c g rd rs imm) c g rd rs (· ^^^ immZ imm) noV1
def execLi (c : CoreId) (g : Guard) (rd : Reg) (imm : BitVec 17) (s : State) :=
  s.runCore c (.li c g rd imm) g none (cc 1) fun k => k.setReg rd (imm.signExtend 32)

/-- LIH and LIL reserve imm17[16]: a non-zero value is an undefined case (R309). -/
def State.halfConst (s : State) (ins : Instr) (c : CoreId) (g : Guard) (rd : Reg) (imm : BitVec 17)
    (f : Word → Word → Word) : Host.Outcome State Fault Refusal :=
  s.runInstr c ins g none false false (cc 1) fun s =>
    if imm.getLsbD 16 then .undef 309
    else
      let k := s.core c
      .done (s.setCore c (k.setReg rd (f (k.reg rd) ((imm.extractLsb' 0 16).zeroExtend 32)))) (cc 1)

def execLih (c : CoreId) (g : Guard) (rd : Reg) (imm : BitVec 17) (s : State) :=
  s.halfConst (.lih c g rd imm) c g rd imm fun old i => (i <<< 16) ||| (old &&& 0x0000FFFF#32)
def execLil (c : CoreId) (g : Guard) (rd : Reg) (imm : BitVec 17) (s : State) :=
  s.halfConst (.lil c g rd imm) c g rd imm fun old i => (old &&& 0xFFFF0000#32) ||| i

-- ---------------------------------------------------------------- shifts

def execShl (c : CoreId) (g : Guard) (rd rs rt : Reg) (s : State) :=
  s.alu2 (.shl c g rd rs rt) c g rd rs rt (fun a b => shlW a (shamt b)) noV2
def execShr (c : CoreId) (g : Guard) (rd rs rt : Reg) (s : State) :=
  s.alu2 (.shr c g rd rs rt) c g rd rs rt (fun a b => shrW a (shamt b)) noV2
def execSar (c : CoreId) (g : Guard) (rd rs rt : Reg) (s : State) :=
  s.alu2 (.sar c g rd rs rt) c g rd rs rt (fun a b => sarW a (shamt b)) noV2
def execRor (c : CoreId) (g : Guard) (rd rs rt : Reg) (s : State) :=
  s.alu2 (.ror c g rd rs rt) c g rd rs rt (fun a b => rorW a (shamt b)) noV2
def execRol (c : CoreId) (g : Guard) (rd rs rt : Reg) (s : State) :=
  s.alu2 (.rol c g rd rs rt) c g rd rs rt (fun a b => rolW a (shamt b)) noV2
def execShli (c : CoreId) (g : Guard) (rd rs : Reg) (imm : Imm12) (s : State) :=
  s.alu1 (.shli c g rd rs imm) c g rd rs (shlW · (shamtI imm)) noV1
def execShri (c : CoreId) (g : Guard) (rd rs : Reg) (imm : Imm12) (s : State) :=
  s.alu1 (.shri c g rd rs imm) c g rd rs (shrW · (shamtI imm)) noV1
def execSari (c : CoreId) (g : Guard) (rd rs : Reg) (imm : Imm12) (s : State) :=
  s.alu1 (.sari c g rd rs imm) c g rd rs (sarW · (shamtI imm)) noV1
def execRori (c : CoreId) (g : Guard) (rd rs : Reg) (imm : Imm12) (s : State) :=
  s.alu1 (.rori c g rd rs imm) c g rd rs (rorW · (shamtI imm)) noV1

-- ---------------------------------------------------------------- compares

def execCmpeq (c : CoreId) (g : Guard) (rd rs rt : Reg) (s : State) :=
  s.cmp (.cmpeq c g rd rs rt) c g rd fun k => k.reg rs == k.reg rt
def execCmplt (c : CoreId) (g : Guard) (rd rs rt : Reg) (s : State) :=
  s.cmp (.cmplt c g rd rs rt) c g rd fun k => decide ((k.reg rs).toInt < (k.reg rt).toInt)
def execCmpltu (c : CoreId) (g : Guard) (rd rs rt : Reg) (s : State) :=
  s.cmp (.cmpltu c g rd rs rt) c g rd fun k => decide ((k.reg rs).toNat < (k.reg rt).toNat)
def execCmple (c : CoreId) (g : Guard) (rd rs rt : Reg) (s : State) :=
  s.cmp (.cmple c g rd rs rt) c g rd fun k => decide ((k.reg rs).toInt ≤ (k.reg rt).toInt)
def execCmpleu (c : CoreId) (g : Guard) (rd rs rt : Reg) (s : State) :=
  s.cmp (.cmpleu c g rd rs rt) c g rd fun k => decide ((k.reg rs).toNat ≤ (k.reg rt).toNat)
def execTst (c : CoreId) (g : Guard) (rd rs rt : Reg) (s : State) :=
  s.cmp (.tst c g rd rs rt) c g rd fun k => (k.reg rs &&& k.reg rt) != 0
def execCmpeqi (c : CoreId) (g : Guard) (rd rs : Reg) (imm : Imm12) (s : State) :=
  s.cmp (.cmpeqi c g rd rs imm) c g rd fun k => k.reg rs == immS imm
def execCmplti (c : CoreId) (g : Guard) (rd rs : Reg) (imm : Imm12) (s : State) :=
  s.cmp (.cmplti c g rd rs imm) c g rd fun k => decide ((k.reg rs).toInt < (immS imm).toInt)
def execCmpltui (c : CoreId) (g : Guard) (rd rs : Reg) (imm : Imm12) (s : State) :=
  s.cmp (.cmpltui c g rd rs imm) c g rd fun k => decide ((k.reg rs).toNat < (immS imm).toNat)
def execTsti (c : CoreId) (g : Guard) (rd rs : Reg) (imm : Imm12) (s : State) :=
  s.cmp (.tsti c g rd rs imm) c g rd fun k => (k.reg rs &&& immZ imm) != 0

def execPand (c : CoreId) (g : Guard) (pd ps pt : PredNo) (s : State) :=
  s.plogic (.pand c g pd ps pt) c g pd ps pt (fun a b => a && b)
def execPandn (c : CoreId) (g : Guard) (pd ps pt : PredNo) (s : State) :=
  s.plogic (.pandn c g pd ps pt) c g pd ps pt (fun a b => a && !b)
def execPor (c : CoreId) (g : Guard) (pd ps pt : PredNo) (s : State) :=
  s.plogic (.por c g pd ps pt) c g pd ps pt (fun a b => a || b)
def execPxor (c : CoreId) (g : Guard) (pd ps pt : PredNo) (s : State) :=
  s.plogic (.pxor c g pd ps pt) c g pd ps pt (fun a b => a != b)

-- ---------------------------------------------------------------- multiplier and divider

def mulhS (a b : Word) : Word := BitVec.ofInt 32 (a.toInt * b.toInt / 4294967296)
def mulhU (a b : Word) : Word := BitVec.ofNat 32 (a.toNat * b.toNat / 4294967296)

def execMul (c : CoreId) (g : Guard) (rd rs rt : Reg) (s : State) := s.alu2 (.mul c g rd rs rt) c g rd rs rt (· * ·) mulV
def execMulh (c : CoreId) (g : Guard) (rd rs rt : Reg) (s : State) := s.alu2 (.mulh c g rd rs rt) c g rd rs rt mulhS noV2
def execMulhu (c : CoreId) (g : Guard) (rd rs rt : Reg) (s : State) := s.alu2 (.mulhu c g rd rs rt) c g rd rs rt mulhU noV2

/-- Quotient and remainder: truncation toward zero, and the edge results of R316. -/
def divide (signed : Bool) (a b : Word) : Word × Word :=
  if b = 0 then (0xFFFFFFFF#32, a)
  else if signed then (BitVec.ofInt 32 (a.toInt.tdiv b.toInt), BitVec.ofInt 32 (a.toInt.tmod b.toInt))
  else (a / b, a % b)

/-- V of a division: the quotient 2^31 of 0x8000_0000 DIV -1 (R316). -/
def divV (signed : Bool) (a b : Word) : Bool := signed && a == 0x80000000#32 && b == 0xFFFFFFFF#32

/-- t_div of R320: 2 + ⌈q / 4⌉, 2 for a division by zero, 10 in constant-time mode. -/
def divTime (ct signed : Bool) (a b : Word) : Nat :=
  if ct then 10
  else if b = 0 then 2
  else
    let q := if signed then (a.toInt.tdiv b.toInt).natAbs else a.toNat / b.toNat
    2 + ceilDiv (32 - clzFrom (BitVec.ofNat 32 q) 32) 4

/-- A division: results by `put`, then DZ and V, then the trap of R321 when DZT is set. -/
def State.division (s : State) (ins : Instr) (c : CoreId) (g : Guard) (enc : Option Nat) (signed : Bool) (rs rt : Reg)
    (put : Core → Word → Word → Core) : Host.Outcome State Fault Refusal :=
  s.runInstr c ins g enc false false (cc 1) fun s =>
    let k := s.core c
    let a := k.reg rs
    let b := k.reg rt
    let q := divide signed a b
    let s2 := s.setCore c (((put k q.1 q.2).setDZ (b == 0)).setV (divV signed a b))
    let t := cc (divTime k.ct signed a b)
    if b = 0 ∧ k.dzt then .doneTrap s2 (trapAt 10 0x01 k.pc) t else .done s2 t

def execDiv (c : CoreId) (g : Guard) (rd rs rt : Reg) (s : State) :=
  s.division (.div c g rd rs rt) c g none true rs rt fun k q _ => k.setReg rd q
def execDivu (c : CoreId) (g : Guard) (rd rs rt : Reg) (s : State) :=
  s.division (.divu c g rd rs rt) c g none false rs rt fun k q _ => k.setReg rd q
def execRem (c : CoreId) (g : Guard) (rd rs rt : Reg) (s : State) :=
  s.division (.rem c g rd rs rt) c g none true rs rt fun k _ r => k.setReg rd r
def execRemu (c : CoreId) (g : Guard) (rd rs rt : Reg) (s : State) :=
  s.division (.remu c g rd rs rt) c g none false rs rt fun k _ r => k.setReg rd r
def execDivqr (c : CoreId) (g : Guard) (rd rs rt : Reg) (s : State) :=
  s.division (.divqr c g rd rs rt) c g (oddPair rd) true rs rt fun k q r => k.setPair rd (pairOf q r)
def execDivqru (c : CoreId) (g : Guard) (rd rs rt : Reg) (s : State) :=
  s.division (.divqru c g rd rs rt) c g (oddPair rd) false rs rt fun k q r => k.setPair rd (pairOf q r)

end Sys2Proof.Machine
end

