-- ==== Sys2Proof/Machine/Aes.lean ====
section
/-!
DEFINITION. AES-256 and GCM as an authentication (R92, R93): the plaintext is empty. The spec names them and gives neither; they are taken
from FIPS 197 and NIST SP 800-38D (PRESUMED, log 18).
-/

namespace Sys2Proof.Machine

/-- Multiplication by x in the field of AES. -/
def xtime (b : Nat) : Nat := if b / 128 % 2 = 1 then Nat.xor (b * 2 % 256) 0x1B else b * 2 % 256

/-- Multiplication in the field of AES, over `n` bits of the second factor. -/
def gfMul : Nat → Nat → Nat → Nat
  | 0, _, _ => 0
  | n + 1, a, b => Nat.xor (if b % 2 = 1 then a else 0) (gfMul n (xtime a) (b / 2))

/-- Powers in the field of AES. -/
def gfPow (a : Nat) : Nat → Nat
  | 0 => 1
  | n + 1 => gfMul 8 (gfPow a n) a

/-- Rotation of a byte to the left. -/
def rol8 (b n : Nat) : Nat := b * 2 ^ n % 256 + b / 2 ^ (8 - n)

/-- The S-box: the inverse, then the affine map. -/
def sbox (b : Nat) : Nat :=
  let x := gfPow b 254
  Nat.xor (Nat.xor (Nat.xor x (rol8 x 1)) (Nat.xor (rol8 x 2) (rol8 x 3))) (Nat.xor (rol8 x 4) 0x63)

/-- SubWord of a key word, its bytes most significant first. -/
def subWord (w : List Nat) : List Nat := w.map sbox

def xorList (a b : List Nat) : List Nat := List.zipWith Nat.xor a b

/-- Expands the key: words newest first; `i` is the index of the next word. -/
def aesExpand : Nat → Nat → List (List Nat) → List (List Nat)
  | 0, _, w => w
  | n + 1, i, w =>
    let t := w.getD 0 []
    let t := if i % 8 = 0 then xorList (subWord (t.drop 1 ++ t.take 1)) [gfPow 2 (i / 8 - 1), 0, 0, 0]
      else if i % 8 = 4 then subWord t else t
    aesExpand n (i + 1) (xorList (w.getD 7 []) t :: w)

/-- The fifteen round keys of a 32-byte key, in order. -/
def aesKeys (key : List Byte) : List (List Nat) :=
  let k := (natRange 0 8).map fun i => (sliceZ key (4 * i) 4).map BitVec.toNat
  let w := (aesExpand 52 8 k.reverse).reverse
  (natRange 0 15).map fun r => ((natRange 0 4).map fun j => w.getD (4 * r + j) []).flatten

/-- ShiftRows on the sixteen bytes, column by column. -/
def shiftRows (s : List Nat) : List Nat :=
  (natRange 0 16).map fun i => s.getD ((i + 4 * (i % 4)) % 16) 0

/-- MixColumns. -/
def mixColumn (s : List Nat) (c : Nat) : List Nat :=
  let g := fun i => s.getD (4 * c + i % 4) 0
  (natRange 0 4).map fun i =>
    Nat.xor (Nat.xor (xtime (g i)) (Nat.xor (xtime (g (i + 1))) (g (i + 1)))) (Nat.xor (g (i + 2)) (g (i + 3)))

def mixColumns (s : List Nat) : List Nat := (natRange 0 4).flatMap (mixColumn s)

/-- The rounds after the first key addition. -/
def aesRounds : List (List Nat) → List Nat → List Nat
  | [], s => s
  | [k], s => xorList (shiftRows (s.map sbox)) k
  | k :: ks, s => aesRounds ks (xorList (mixColumns (shiftRows (s.map sbox))) k)

/-- AES-256 of one block. -/
def aes256 (key block : List Byte) : List Byte :=
  match aesKeys key with
  | [] => block
  | k :: ks => (aesRounds ks (xorList (block.map BitVec.toNat) k)).map (BitVec.ofNat 8)

/-- Multiplication in the field of GCM, bit 127 of the number being the coefficient of 1: `n` bits of `x` left, most significant first. -/
def ghashMul : Nat → Nat → Nat → Nat → Nat
  | 0, _, _, z => z
  | n + 1, x, v, z =>
    ghashMul n x (if v % 2 = 1 then Nat.xor (v / 2) (0xE1 * 2 ^ 120) else v / 2)
      (if x / 2 ^ n % 2 = 1 then Nat.xor z v else z)

/-- GHASH over blocks of 16 bytes. -/
def ghash (h : Nat) (blocks : List (List Byte)) : Nat :=
  blocks.foldl (fun y b => ghashMul 128 (Nat.xor y (beNat (sliceZ b 0 16))) h 0) 0

/-- The tag of AES-256-GCM over additional data with an empty plaintext and a 96-bit IV (R92, R93). -/
def gcmTag (key iv aad : List Byte) : List Byte :=
  let h := beNat (aes256 key (zeros 16))
  let s := ghash h (chunks 16 (aad.length / 16 + 1) aad ++ [beBytes 8 (8 * aad.length) ++ zeros 8])
  beBytes 16 (Nat.xor s (beNat (aes256 key (iv ++ beBytes 4 1))))

end Sys2Proof.Machine
end

