-- ==== Sys2Proof/Machine/Plan.lean ====
section
/-!
DEFINITION. Plan DOMAINs (R52 to R56), the plan checker (R64 to R72, R573) and its refusals (R73, R74, R572).
-/

namespace Sys2Proof.Machine

/-- A task entry (R53) with its offset in the DOMAIN. -/
structure TaskEnt where
  off : Nat
  id : Nat
  lcore : Nat
  ring : Nat
  image : Nat
  ctx : Nat
  order : Nat
  entry : Nat
  rel : Nat
  dl : Nat
  b : Nat
  mask : Nat
  cd : Nat
  lrs : Nat
  ldr : Nat
  db : Nat
  w : List Nat
deriving DecidableEq, Repr

/-- A class entry (R54) with its offset. -/
structure ClassEnt where
  off : Nat
  cls : Nat
  d : Nat
  ingress : Nat
  egress : Nat
  dram : Bool
  bb : Nat
  nr : Nat
  eb : Nat
  ed : Nat
deriving DecidableEq, Repr

/-- A media entry (R55) with its offset. -/
structure MediaEnt where
  off : Nat
  ch : Nat
  p : Nat
  r : Nat
deriving DecidableEq, Repr

/-- A section: a plan or its degraded section (R52, R56). -/
structure Section where
  base : Nat
  degraded : Bool
  id : Nat
  period : Nat
  nl : Nat
  sres : Nat
  beta : Nat
  nrot : Nat
  flags : Nat
  nov : Nat
  ires : Nat
  cres : Nat
  dOff : Nat
  tasks : List TaskEnt
  classes : List ClassEnt
  media : List MediaEnt
deriving DecidableEq, Repr

/-- A refusal (R73). `demand` and `limit` are none where the code names no formula: the spec states no value there. -/
structure RefusalRec where
  code : Nat
  sect : Nat
  subject : Nat
  demand : Option Nat
  limit : Option Nat
  offset : Nat
deriving DecidableEq, Repr

/-- The periods of R45. -/
def periodOk (p : Nat) : Bool := [62500, 125000, 250000, 500000, 1000000, 2000000].contains p

/-- K_eff of R45, core cycles: floor(1.5 * period * (1 - 2e-4)). -/
def kEff (period : Nat) : Nat := period * 3 * 9998 / 20000

/-- Ccell_k: the most cells that class k can fill in one frame. -/
def ClassEnt.ccell (c : ClassEnt) : Nat := (c.bb + 63 * c.nr) / 64

def parseTask (l : List Byte) (off : Nat) : TaskEnt :=
  let f := fun o n => leField l (off + o) n
  { off := off, id := f 0 2, lcore := f 2 1, ring := f 3 1, image := f 4 2, ctx := f 6 1, order := f 7 1, entry := f 8 4,
    rel := f 12 4, dl := f 16 4, b := f 20 4, mask := f 24 8, cd := f 32 4, lrs := f 36 4, ldr := f 40 4, db := f 44 4,
    w := (natRange 0 64).map fun i => f (64 + 4 * i) 4 }

def parseClass (l : List Byte) (off : Nat) : ClassEnt :=
  let f := fun o n => leField l (off + o) n
  { off := off, cls := f 0 1, d := f 1 1, ingress := f 2 1 % 16, egress := f 3 1 % 16, dram := f 4 1 % 2 == 1, bb := f 8 4,
    nr := f 12 4, eb := f 16 4, ed := f 20 4 }

def parseMedia (l : List Byte) (off : Nat) : MediaEnt :=
  { off := off, ch := leField l off 1, p := leField l (off + 2) 2, r := leField l (off + 4) 2 }

/-- The section at a base of a DOMAIN, its tables read at the offsets its header gives. -/
def parseSection (l : List Byte) (base : Nat) (degraded : Bool) : Section :=
  let f := fun o n => leField l (base + o) n
  { base := base, degraded := degraded, id := f 16 4, period := f 20 4, nl := f 26 1, sres := f 27 1, beta := f 30 2,
    nrot := f 32 2, flags := f 34 1, nov := f 35 1, ires := f 36 4, cres := f 40 4, dOff := f 56 4,
    tasks := (natRange 0 (f 24 2)).map fun i => parseTask l (f 44 4 + 320 * i),
    classes := (natRange 0 (f 28 1)).map fun i => parseClass l (f 48 4 + 32 * i),
    media := (natRange 0 (f 29 1)).map fun i => parseMedia l (f 52 4 + 16 * i) }

/-- The section in force (0x0410.03). -/
def State.section (s : State) : Option Section :=
  if s.plans.state = 0 then some (parseSection s.plans.active 0 false)
  else if s.plans.state = 1 then some (parseSection s.plans.active (leField s.plans.active 56 4) true)
  else none

/-- The class entry of a class in a section. -/
def Section.cls (p : Section) (k : Nat) : Option ClassEnt := p.classes.find? fun c => c.cls == k

/-- The tasks of a logical core, in order (R57). -/
def insertTask (t : TaskEnt) : List TaskEnt → List TaskEnt
  | [] => [t]
  | u :: r => if t.order ≤ u.order then t :: u :: r else u :: insertTask t r

def Section.coreTasks (p : Section) (l : Nat) : List TaskEnt :=
  (p.tasks.filter fun t => t.lcore == l).foldr insertTask []

/-- D_t of a task: the smallest D among the classes of its mask that have an entry; 2 when there is none. -/
def Section.dt (p : Section) (t : TaskEnt) : Nat :=
  match (p.classes.filter fun c => natBit t.mask c.cls).map ClassEnt.d with
  | [] => 2
  | d :: ds => ds.foldl min d

/-- D_M of a frame under a section: the smallest D_t among all its tasks; 2 with no plan (R22). -/
def dmOf (p : Option Section) : Nat :=
  match p with
  | none => 2
  | some p => match p.tasks.map p.dt with
    | [] => 2
    | d :: ds => ds.foldl min d

/-- The arenas a section lays out: kind, home and cells (R113). -/
def Section.arenas (p : Section) : List (ArenaKind × Bool × Nat) :=
  (p.classes.filterMap fun c =>
    if c.bb ≠ 0 ∨ c.nr ≠ 0 then some (ArenaKind.cls c.cls, c.dram, (c.d + 1) * c.ccell) else none) ++
  ((natRange 0 p.nl).filterMap fun n =>
    let z := ((p.tasks.filter fun t => t.lcore == n).map fun t => p.dt t * t.cd).foldl (· + ·) 0
    if z = 0 then none else some (ArenaKind.derived n, false, z))

/-- The cells, per home, of the arenas of `old` that `new` does not keep in place (R72, R76, R113). -/
def unkept (old new : Section) (dram : Bool) : Nat :=
  ((old.arenas.filter fun a => a.2.1 == dram && !new.arenas.contains a).map fun a => a.2.2).foldl (· + ·) 0

/-- Sum of a figure over a list. -/
def sumOf {α : Type} (f : α → Nat) (l : List α) : Nat := l.foldl (fun a x => a + f x) 0

/-- B_plan of a section (R71). -/
def Section.bPlan (p : Section) : Nat :=
  sumOf (fun c => (c.d + 1) * 64 * c.ccell) p.classes + sumOf (fun t => p.dt t * (64 * t.cd + 256 * (t.lrs + t.ldr))) p.tasks

-- ---------------------------------------------------------------- the checker

/-- The first refusal in a list of checks. -/
def firstRef : List (Option RefusalRec) → Option RefusalRec
  | [] => none
  | some r :: _ => some r
  | none :: t => firstRef t

/-- A refusal where the code names no formula. -/
def refuse (deg : Bool) (code subject offset : Nat) (bad : Bool) : Option RefusalRec :=
  if bad then some ⟨code, if deg then 1 else 0, subject, none, none, offset⟩ else none

/-- A refusal of a formula demand ≤ limit, both scaled by `den`: demand is rounded up, limit down (R73). -/
def exceeds (deg : Bool) (code subject offset demand limit den : Nat) : Option RefusalRec :=
  if limit < demand then some ⟨code, if deg then 1 else 0, subject, some (ceilDiv demand den), some (limit / den), offset⟩ else none

/-- A refusal of a formula left ≥ right: its sides are the demand and the limit as R73 names them. -/
def fallsShort (deg : Bool) (code subject offset left right : Nat) : Option RefusalRec :=
  if left < right then some ⟨code, if deg then 1 else 0, subject, some left, some right, offset⟩ else none

/-- Two byte ranges [a, b) and [x, y) overlap. -/
def rangesMeet (a b x y : Nat) : Bool := decide (a < y) && decide (x < b) && decide (a < b) && decide (x < y)

/-- Header checks of a section at `base` of DOMAIN `l`: codes 0x0102 to 0x0107 (R52, R56, R74). Of tables that overlap, the one whose offset
field comes first is named; an empty table must only be aligned (log 50). The degraded offset must be a multiple of 8 as the tables are: the spec says
so of tables alone (DESIGN CHOICE, log 57). -/
def headerChecks (l : List Byte) (base : Nat) (deg : Bool) : Option RefusalRec :=
  let f := fun o n => leField l (base + o) n
  let len := f 8 4
  let magic := if deg then 0x54585044 else 0x5458504C
  let fin := if deg then base + len else l.length
  let r := fun code off bad => refuse deg code 0xFFFF off bad
  let t := f 44 4
  let tEnd := t + 320 * f 24 2
  let k := f 48 4
  let kEnd := k + 32 * f 28 1
  let m := f 52 4
  let mEnd := m + 16 * f 29 1
  let d := if deg then 0 else f 56 4
  let dEnd := d + (if d = 0 then 0 else max 128 (leField l (d + 8) 4))
  let table := fun x y => decide (x % 8 ≠ 0) || decide (x < y) && (decide (x < base) || decide (fin < y) || rangesMeet x y base (base + 128))
  firstRef [
    r 0x0102 base (f 0 4 != magic),
    r 0x0102 (base + 4) (f 4 2 != 1),
    r 0x0103 (base + 8) (f 6 2 != 128 || decide (len < 128) || (!deg && (len != l.length || decide (4194304 < l.length)))),
    r 0x0104 (base + 12) (!deg && f 12 4 != crc 0 (patch l 12 (zeros 4))),
    r 0x0105 (base + 20) (!periodOk (f 20 4)),
    r 0x0106 (base + 24) (f 24 2 == 0 || decide (4096 < f 24 2)),
    r 0x0106 (base + 26) (f 26 1 == 0 || decide (64 < f 26 1)),
    r 0x0106 (base + 27) (decide (4 < f 27 1)),
    r 0x0106 (base + 28) (decide (64 < f 28 1)),
    r 0x0106 (base + 29) (f 29 1 != 32),
    r 0x0106 (base + 30) (decide (f 30 2 < 50) || decide (500 < f 30 2)),
    r 0x0106 (base + 35) (f 35 1 == 0),
    r 0x0107 (base + 44) (table t tEnd || rangesMeet t tEnd k kEnd || rangesMeet t tEnd m mEnd || rangesMeet t tEnd d dEnd),
    r 0x0107 (base + 48) (table k kEnd || rangesMeet k kEnd m mEnd || rangesMeet k kEnd d dEnd),
    r 0x0107 (base + 52) (table m mEnd || rangesMeet m mEnd d dEnd),
    r 0x0107 (base + 56) (d != 0 && (decide (d % 8 ≠ 0) || decide (fin < dEnd) || rangesMeet d dEnd 0 128))]

/-- Whether a reserved field of a section is not zero: an undefined case of chapter 02. Its header and tables are in place. -/
def reservedSet (l : List Byte) (p : Section) : Bool :=
  let nz := fun off n => !allZero (sliceZ l off n)
  nz (p.base + 60) 68 || decide (4 ≤ p.flags) ||
  (p.tasks.any fun t => nz (t.off + 48) 16) ||
  (p.classes.any fun c => nz (c.off + 5) 3 || nz (c.off + 24) 8 || decide (16 ≤ leField l (c.off + 2) 1) ||
    decide (16 ≤ leField l (c.off + 3) 1) || decide (2 ≤ leField l (c.off + 4) 1)) ||
  (p.media.any fun m => nz (m.off + 1) 1 || nz (m.off + 6) 10)

/-- The body length of a program image object, none when it is empty (R494). -/
def State.imageBody (s : State) (img : Nat) : Option Nat :=
  let d := Tab.get [] s.domains img
  if img < 0x2000 ∨ 0x2FFF < img ∨ d.length < 32 then none else some (d.length - 32)

/-- Checks over a list with what precedes each element. -/
def withEarlier {α : Type} : List α → List α → List (α × List α)
  | _, [] => []
  | pre, x :: t => (x, pre) :: withEarlier (pre ++ [x]) t

/-- Format checks 0x0108 to 0x010E of a section (R573, R74). Where flag [0] and the degraded offset disagree, 0x010D names Flags when the flag is set with
offset 0, and Degraded offset otherwise (DESIGN CHOICE, log 57). -/
def State.formatChecks (s : State) (p : Section) : Option RefusalRec :=
  let g := p.degraded
  let ts := withEarlier [] p.tasks
  let cs := withEarlier [] p.classes
  firstRef (
    (p.tasks.map fun t => match s.imageBody t.image with
      | none => refuse g 0x0108 t.id (t.off + 4) true
      | some n => refuse g 0x0108 t.id (t.off + 8) (decide (n ≤ t.entry))) ++
    (cs.map fun x => firstRef [
      refuse g 0x0109 x.1.cls x.1.off (decide (63 < x.1.cls) || x.2.any fun y => y.cls == x.1.cls),
      refuse g 0x0109 x.1.cls (x.1.off + 1) (decide (x.1.d < 2) || decide (16 < x.1.d))]) ++
    (ts.map fun x => firstRef [
      refuse g 0x010A x.1.id x.1.off (x.2.any fun y => y.id == x.1.id),
      refuse g 0x010A x.1.id (x.1.off + 2) (decide (p.nl ≤ x.1.lcore)),
      refuse g 0x010A x.1.id (x.1.off + 3) (decide (3 < x.1.ring)),
      refuse g 0x010A x.1.id (x.1.off + 6) (decide (63 < x.1.ctx) || x.2.any fun y => y.lcore == x.1.lcore && y.ctx == x.1.ctx),
      refuse g 0x010A x.1.id (x.1.off + 7) (x.2.any fun y => y.lcore == x.1.lcore && y.order == x.1.order)]) ++
    (p.classes.map fun c => refuse g 0x010B c.cls c.off
      ((c.bb != 0 || c.nr != 0) && (c.ingress == 0 || !(p.tasks.any fun t => natBit t.mask c.cls)))) ++
    (p.tasks.flatMap fun t => (natRange 48 16).map fun i =>
      refuse g 0x010C t.id (t.off + 64 + 4 * i) (t.w.getD i 0 != 0 && !s.micro.loaded.getLsbD (i - 48))) ++
    (if g then [] else [
      refuse g 0x010D 0xFFFF 34 (natBit p.flags 0 && p.dOff == 0),
      refuse g 0x010D 0xFFFF 56 (!natBit p.flags 0 && p.dOff != 0)]) ++
    ((withEarlier [] p.media).map fun x => refuse g 0x010E x.1.ch x.1.off
      (decide (31 < x.1.ch) || x.2.any fun y => y.ch == x.1.ch)))

/-- 0x010D of a degraded section: CRC, flag [0] and degraded offset are zero (R56). -/
def degradedZero (l : List Byte) (base : Nat) : Option RefusalRec :=
  firstRef [
    refuse true 0x010D 0xFFFF (base + 12) (leField l (base + 12) 4 != 0),
    refuse true 0x010D 0xFFFF (base + 34) (natBit (leField l (base + 34) 1) 0),
    refuse true 0x010D 0xFFFF (base + 56) (leField l (base + 56) 4 != 0)]

/-- Worst-case cycles of the timing classes 0 to 47 (R439). -/
def classCycles : List Nat :=
  [1, 10, 6, 7, 19, 3, 15, 2, 34, 450, 2, 14, 64, 420, 30, 2, 8, 32, 210, 1, 8, 32, 210, 30, 4, 12, 48, 420, 3, 22, 96, 630,
   40, 82, 282, 1706, 688, 888, 2312, 260, 20, 16, 66, 422, 12, 148, 498, 2990]

/-- c_i of R64. -/
def State.cycles (s : State) (i : Nat) : Nat :=
  if i < 48 then classCycles.getD i 0
  else if s.micro.loaded.getLsbD (i - 48) then Tab.get 0 s.micro.sums (i - 48) else 0

/-- WCET_t (R66). -/
def State.wcet (s : State) (t : TaskEnt) : Nat :=
  sumOf (fun i => t.w.getD i 0 * s.cycles i) (natRange 0 64)

/-- O_tick and O_rel (R64). -/
def oTick : Nat := 1500
def oRel : Nat := 220

/-- O_rot of a section (R64); a degraded section has none (R72). -/
def Section.oRot (p : Section) : Nat := if p.nrot = 0 ∨ p.degraded then 0 else 4000

/-- F_t of the tasks of one core in order (R66). -/
def finishTimes (first : Nat) : Option Nat → List TaskEnt → List (Nat × Nat)
  | _, [] => []
  | prev, t :: r =>
    let st := match prev with | none => max t.rel first | some f => max t.rel f
    let f := st + oRel + t.b
    (t.id, f) :: finishTimes first (some f) r

/-- F_t of a task. -/
def Section.finishOf (p : Section) (t : TaskEnt) : Nat :=
  match (finishTimes (oTick + p.oRot + p.ires) none (p.coreTasks t.lcore)).find? fun x => x.1 == t.id with
  | some x => x.2
  | none => 0

/-- N_good: the good physical cores now (0x1200.02). -/
def State.nGood (s : State) : Nat := 68 - s.repair.retired.length

/-- A figure of 0x0D20 + ch. -/
def State.chan (s : State) (ch : Nat) : Chan := Tab.get Chan.off s.media.chans ch

/-- How many ports a mask names. -/
def portCount (m : Nat) : Nat := (if natBit m 0 then 1 else 0) + (if natBit m 1 then 1 else 0) +
  (if natBit m 2 then 1 else 0) + (if natBit m 3 then 1 else 0)

/-- J of R67. -/
def Section.journal (p : Section) : Nat :=
  sumOf (fun c => 64 * c.ccell) p.classes + sumOf (fun t => 64 * t.cd + 256 * (t.lrs + t.ldr)) p.tasks

/-- Media time of one channel (R67): 0x0404 first, then 0x0401 and 0x0402 (R573). -/
def State.mediaCheck (s : State) (p : Section) (m : MediaEnt) : Option RefusalRec :=
  let ch := s.chan m.ch
  let n := m.p + m.r
  let lim := (1000 - p.beta) * p.period * 9998
  if n = 0 then none
  else firstRef [
    exceeds p.degraded 0x0404 m.ch m.off (if ch.l = 0 then n else 0) 0 1,
    exceeds p.degraded 0x0401 m.ch m.off (n * (ch.tXfer + ch.tCmd) * 10000000) lim 10000000,
    exceeds p.degraded 0x0402 m.ch m.off (ceilDiv n ch.l * (max ch.tProg ch.tR + ch.tSusp) * 10000000) lim 10000000]

/-- A section's media time as a whole: per channel in increasing number, then 0x0403 (R67, R573). -/
def State.mediaChecks (s : State) (p : Section) : Option RefusalRec :=
  firstRef (
    ((natRange 0 32).map fun ch => match p.media.find? fun m => m.ch == ch with
      | some m => s.mediaCheck p m
      | none => none) ++
    [exceeds p.degraded 0x0403 0xFFFF (p.base + 52) (p.journal * 2048)
      (1785 * sumOf (fun m => m.p * (s.chan m.ch).sPg) p.media) 2048])

/-- Port capacity (R68); twelfths keep the shares of the ingress masks whole. -/
def State.portChecks (s : State) (p : Section) : Option RefusalRec :=
  firstRef ((natRange 0 4).flatMap fun q =>
    let ins := p.classes.filter fun c => natBit c.ingress q
    let outs := p.classes.filter fun c => natBit c.egress q
    let inOff := match ins with | c :: _ => c.off | [] => p.base
    let outOff := match outs with | c :: _ => c.off | [] => p.base
    let gcm := fun (c : ClassEnt) => if s.objNat (okey (0x0800 + c.cls) 4) 0 ≠ 0 then 16 * c.nr else 0
    [exceeds p.degraded 0x0501 q inOff (sumOf (fun c => (c.bb + gcm c) * (12 / portCount c.ingress)) ins * 10000)
      (150 * p.period * 9998) 120000,
     exceeds p.degraded 0x0502 q inOff (sumOf (fun c => c.nr * (12 / portCount c.ingress)) ins * 20000)
      (3 * p.period * 9998) 240000,
     exceeds p.degraded 0x0503 q outOff (sumOf (fun c => c.eb + 90 * c.ed) outs * 20000) (25 * p.period * 9998) 20000])

/-- Record cells (R69), with the arenas of `old` not kept (R72, R76). A refusal 0x0602 of a section without a DRAM class names the section's start
(DESIGN CHOICE, log 57). -/
def State.cellChecks (s : State) (p : Section) (old : Option Section) : Option RefusalRec :=
  let home := fun d => sumOf (fun c => (c.d + 1) * c.ccell) (p.classes.filter fun c => c.dram == d)
  let extra := fun d => match old with | some o => unkept o p d | none => 0
  let dOff := match p.classes.filter fun c => c.dram with | c :: _ => c.off | [] => p.base
  firstRef [
    exceeds p.degraded 0x0601 0xFFFF (p.base + 40)
      (home false + sumOf (fun t => p.dt t * t.cd) p.tasks + p.cres + extra false) 1048576 1,
    exceeds p.degraded 0x0602 0xFFFF dOff (home true + extra true) (s.objNat (okey 0x0C00 3) 0) 1]

/-- DRAM bandwidth (R70). -/
def State.dramCheck (s : State) (p : Section) : Option RefusalRec :=
  let demand := sumOf (fun c => 192 * c.ccell) (p.classes.filter fun c => c.dram) +
    sumOf (fun t => t.db + 512 * t.ldr) p.tasks + sumOf (fun c => c.eb * portCount c.egress) p.classes
  let rates := s.roGet (okey 0x0A30 2) + s.roGet (okey 0x0A31 2)
  exceeds p.degraded 0x0701 0xFFFF p.base (demand * 100000000) (56 * rates * p.period * 9998) 100000000

/-- Core time (R66), task by task in table order. The sides of the formula of 0x0301 are B and WCET (R73). -/
def State.coreChecks (s : State) (p : Section) : Option RefusalRec :=
  firstRef (p.tasks.flatMap fun t => [
    fallsShort p.degraded 0x0301 t.id (t.off + 20) t.b (s.wcet t),
    exceeds p.degraded 0x0302 t.id (t.off + 16) (p.finishOf t) t.dl 1,
    exceeds p.degraded 0x0303 t.id (t.off + 16) t.dl (kEff p.period) 1])

/-- Repair reserve (R65): N_L + S_res ≤ N_good, and N_good − N_L ≥ 1 with rotation; with S_res, N_rot and N_good of a degraded section as R72 takes them. -/
def repairChecks (p : Section) (sres nrot good : Nat) : Option RefusalRec :=
  firstRef [
    exceeds p.degraded 0x0201 0xFFFF (p.base + 26) (p.nl + sres) good 1,
    if nrot = 0 then none else fallsShort p.degraded 0x0202 0xFFFF (p.base + 32) (good - p.nl) 1]

/-- The constraints of a section in their order (R573). -/
def State.constraints (s : State) (p : Section) (sres nrot good : Nat) (old : Option Section) : Option RefusalRec :=
  firstRef [repairChecks p sres nrot good, s.coreChecks p, s.mediaChecks p, s.portChecks p, s.cellChecks p old, s.dramCheck p,
    exceeds p.degraded 0x0801 0xFFFF p.base p.bPlan s.carafe.bFloor 1]

/-- What the checker says of a DOMAIN. -/
inductive Verdict where
  | admitted
  | refused (r : RefusalRec)
  /-- a reserved field is not zero -/
  | undefined
deriving DecidableEq, Repr

/-- The checks of the degraded section of a DOMAIN whose plan passed (R72, R573). -/
def State.checkDegraded (s : State) (l : List Byte) (p : Section) : Verdict :=
  let base := p.dOff
  match headerChecks l base true with
  | some r => .refused r
  | none =>
    let d := parseSection l base true
    if reservedSet l d then .undefined
    else
      -- 0x010D falls between 0x010C and 0x010E in the code order
      let fmt := s.formatChecks d
      let zero := degradedZero l base
      let low := match fmt, zero with
        | some a, some b => some (if a.code ≤ b.code then a else b)
        | some a, none => some a
        | none, z => z
      match firstRef [low,
          refuse true 0x0903 0xFFFF (base + 20) (d.period != p.period),
          firstRef ((natRange 0 64).map fun n => match p.cls n with
            | some c => refuse true 0x0902 n c.off ((c.bb != 0 || c.nr != 0 || c.eb != 0 || c.ed != 0) && (d.cls n).isNone)
            | none => none),
          s.constraints d 0 0 (p.nl - 1) (some p)] with
      | some r => .refused r
      | none => .admitted

/-- The full check of a DOMAIN (R573), with the arenas of `old` at a commit (R76). -/
def State.checkPlan (s : State) (l : List Byte) (old : Option Section) : Verdict :=
  if l = [] then .refused ⟨0x0101, 0, 0xFFFF, none, none, 0⟩
  else match headerChecks l 0 false with
  | some r => .refused r
  | none =>
    let p := parseSection l 0 false
    if reservedSet l p then .undefined
    else match firstRef [s.formatChecks p, s.constraints p p.sres p.nrot s.nGood old] with
    | some r => .refused r
    | none => if p.dOff = 0 then .admitted else s.checkDegraded l p

/-- A demand or limit the refusal object shows: a free value where the code names no formula (log 26). -/
def State.shownFigure (s : State) (x : Option Nat) : State × Nat :=
  match x with
  | some n => (s, n % 2 ^ 64)
  | none => (s.drawn, s.freeVal % 2 ^ 64)

/-- The refusal object is filled (R73): code, section, subject, demand, limit, offset, frame, operation. -/
def State.putRefusal (s : State) (r : RefusalRec) (op : Nat) : State :=
  let d := s.shownFigure r.demand
  let m := d.1.shownFigure r.limit
  { m.1 with plans := { m.1.plans with
      refusal := [r.code, r.sect, r.subject, d.2, m.2, r.offset, m.1.timer.frame, op] } }

/-- After an admission the code reads 0 (R73). -/
def State.clearRefusal (s : State) : State :=
  { s with plans := { s.plans with refusal := 0 :: s.plans.refusal.drop 1 } }

/-- Classes the active plan admitted records for within the last 17 frames that the incoming plan gives no task (R76). The last 17 frames are the 17
before the running one, which counts too (DESIGN CHOICE, log 57). -/
def State.inFlight (s : State) (p : Section) : Option RefusalRec :=
  firstRef ((natRange 0 64).map fun k =>
    let f := Tab.get 0 s.plans.lastAdmit k
    refuse false 0x0A02 k 48 (f != 0 && decide (s.timer.frame < f + 17) && !(p.tasks.any fun t => natBit t.mask k)))

end Sys2Proof.Machine
end

