-- ==== Sys2Proof/Machine/Books.lean ====
section
/-!
DEFINITION. The admission unit's books: cells, arenas and records (R109, R112, R113), credits (R115), and the emission of
derived records (R117, R118).
-/

namespace Sys2Proof.Machine

-- ---------------------------------------------------------------- credits and cells of a home (R112, R115)

/-- F of a home. -/
def Admission.free (a : Admission) (dram : Bool) : Nat := if dram then a.freeD else a.freeS

/-- Sets F of a home. -/
def Admission.setFree (a : Admission) (dram : Bool) (n : Nat) : Admission :=
  if dram then { a with freeD := n } else { a with freeS := n }

/-- Adds to A of a home. -/
def Admission.addAlloc (a : Admission) (dram : Bool) (n : Nat) : Admission :=
  if dram then { a with allocD := a.allocD + n } else { a with allocS := a.allocS + n }

/-- Takes from A of a home. -/
def Admission.subAlloc (a : Admission) (dram : Bool) (n : Nat) : Admission :=
  if dram then { a with allocD := a.allocD - n } else { a with allocS := a.allocS - n }

/-- Σ over the partner table of a 16-bit field. -/
def Admission.partnerSum (a : Admission) (f : Partner → BitVec 16) : Nat := Tab.sum (fun p => (f p).toNat) a.partners

/-- G and U over both homes (R112). -/
def State.granted (s : State) : Nat :=
  s.adm.partnerSum Partner.gS + s.adm.partnerSum Partner.gD + Tab.sum LCore.gc s.lcores
def State.inUse (s : State) : Nat :=
  s.adm.partnerSum Partner.uS + s.adm.partnerSum Partner.uD + Tab.sum LCore.uc s.lcores + s.adm.cres

/-- P, F and A over both homes (R37). -/
def State.pool (s : State) : Nat := poolS + s.adm.poolD
def State.freeCredits (s : State) : Nat := s.adm.freeS + s.adm.freeD
def State.allocated (s : State) : Nat := s.adm.allocS + s.adm.allocD
/-- C: cells that nothing holds. -/
def State.freeCells (s : State) : Nat := s.pool - s.allocated

-- ---------------------------------------------------------------- records in cells

/-- Cells of `n` bytes (R107). -/
def cellsOf (n : Nat) : Nat := (n + 63) / 64

/-- The physical address of cell `i` of a record: its arena is a ring (R113). -/
def State.recCellPa (s : State) (r : Rec) (i : Nat) : Nat :=
  s.cellPa r.dram (r.base + (if r.ring = 0 then 0 else (r.pos + i) % r.ring))

/-- The physical address of a record's header. -/
def State.recPa (s : State) (r : Rec) : Nat := s.recCellPa r 0

/-- Writes bytes into the cells of a record, from cell `i` on, with fuel. -/
def State.pokeCells (s : State) (r : Rec) : Nat → Nat → List Byte → State
  | 0, _, _ => s
  | f + 1, i, l => if l = [] then s else (s.poke (s.recCellPa r i) (l.take 64)).pokeCells r f (i + 1) (l.drop 64)

/-- Writes a whole record into its cells. -/
def State.pokeRec (s : State) (r : Rec) (l : List Byte) : State := s.pokeCells r r.cells 0 l

/-- Reads the cells of a record, from cell `i` on; the flag says whether any code word was uncorrectable; the
bytes of such a cell are free. -/
def State.peekCells (s : State) (r : Rec) : Nat → Nat → Nat → State × Bool × List Byte
  | 0, _, _ => (s, false, [])
  | f + 1, i, n =>
    if n = 0 then (s, false, [])
    else
      let pa := s.recCellPa r i
      let m := min n 64
      let q := s.meetWords (cwsOf pa m)
      if q.2.isSome then
        let t := { q.1 with freeCtr := q.1.freeCtr + m }.peekCells r f (i + 1) (n - m)
        (t.1, true, freeBytes q.1.freeCtr m ++ t.2.2)
      else
        let t := q.1.peekCells r f (i + 1) (n - m)
        (t.1, t.2.1, q.1.bytes pa m ++ t.2.2)

/-- Reads a whole record from its cells. -/
def State.peekRec (s : State) (r : Rec) : State × Bool × List Byte := s.peekCells r r.cells 0 r.bytes

/-- A record by its number. -/
def State.record (s : State) (id : Nat) : Option Rec := s.adm.recs.find? fun r => r.id == id

/-- Replaces a record. -/
def State.setRecord (s : State) (r : Rec) : State :=
  { s with adm := { s.adm with recs := s.adm.recs.map fun x => if x.id = r.id then r else x } }

-- ---------------------------------------------------------------- arenas (R113)

/-- The arena of a kind that is not on its way out. -/
def State.arena (s : State) (k : ArenaKind) : Option Arena := s.adm.arenas.find? fun a => a.kind == k && !a.outgoing

/-- Replaces the arena of a kind. -/
def State.setArena (s : State) (x : Arena) : State :=
  { s with adm := { s.adm with arenas := s.adm.arenas.map fun a => if a.kind = x.kind ∧ ¬ a.outgoing then x else a } }

/-- Takes `n` cells at the ring position of an arena. -/
def Arena.take (a : Arena) (n : Nat) : Arena :=
  { a with pos := if a.cells = 0 then 0 else (a.pos + n) % a.cells, count := a.count + 1 }

/-- The cell ranges that are in use: arenas that stay, and the records of arenas that go (R113). A restored record that is not in an arena yet has none. -/
def State.busyCells (s : State) (dram : Bool) (keep : List Arena) : List (Nat × Nat) :=
  ((keep.filter fun a => a.dram == dram).map fun a => (a.base, a.base + a.cells)) ++
  ((s.adm.recs.filter fun r => r.dram == dram && r.ring != 0 && !(keep.any fun a => a.dram == dram && a.base == r.base && a.cells == r.ring)).flatMap
    fun r => if r.pos + r.cells ≤ r.ring then [(r.base + r.pos, r.base + r.pos + r.cells)]
      else [(r.base + r.pos, r.base + r.ring), (r.base, r.base + (r.pos + r.cells - r.ring))])

/-- The first candidate place at which `n` cells fit in a pool, clear of busy ranges; `d` when there is none. -/
def fitCells (pool n d : Nat) (busy : List (Nat × Nat)) : List Nat → Nat
  | [] => d
  | b :: t => if b + n ≤ pool ∧ !(busy.any fun x => rangesMeet b (b + n) x.1 x.2) then b else fitCells pool n d busy t

/-- A place for `n` cells: from the device's own choice on, then after each busy range. Room always exists (R113); where no single range had
it, the place is the device's own choice too (log 12). -/
def placeCells (hint pool n : Nat) (busy : List (Nat × Nat)) : Nat :=
  let d := hint % (pool + 1 - n)
  fitCells pool n d busy (d :: 0 :: busy.map Prod.snd)

/-- An arena that begins its ring at its base. Its window still shows the records that the ended frame placed in the arena before it (R78, R114). -/
def Arena.fresh (k : ArenaKind) (dram : Bool) (base cells : Nat) (was : Option Arena) : Arena :=
  match was with
  | some a => { a with dram := dram, base := base, cells := cells, pos := 0, first := 0, count := 0 }
  | none => { kind := k, dram := dram, base := base, cells := cells, pos := 0, first := 0, count := 0, winDram := dram, winBase := base
              winCells := cells, winFirst := 0, winEnd := 0, winCount := 0, outgoing := false }

/-- Lays out the arenas of an incoming section, one after another. -/
def State.layOut (s : State) (old : List Arena) : List (ArenaKind × Bool × Nat) → List Arena → List Arena
  | [], done => done
  | (k, d, n) :: t, done =>
    match old.find? fun a => a.kind == k && a.dram == d && a.cells == n && !a.outgoing with
    | some a => s.layOut old t (done ++ [a])
    | none =>
      let kept := done ++ (old.filter fun a => !a.outgoing && t.any fun x => x.1 == a.kind && x.2.1 == a.dram && x.2.2 == a.cells)
      let pool := if d then s.adm.poolD else poolS
      let b := placeCells (Config.arenaHint (s.freeCtr + done.length)) pool n (s.busyCells d kept)
      let was := old.find? fun a => a.kind == k && !a.outgoing && a.winCount != 0
      s.layOut old t (done ++ [Arena.fresh k d b n was])

-- ---------------------------------------------------------------- emission (R117, R118)

/-- Whether `n` bytes at an address lie wholly in one of record SRAM, cluster SRAM or populated DRAM (R117). -/
def State.emitRange (s : State) (pa n : Nat) : Bool :=
  (decide (pa + n ≤ s.dramCap)) ||
  (decide (recordBase ≤ pa) && decide (pa + n ≤ recordBase + recordSize)) ||
  (decide (clusterBase ≤ pa) && decide (pa + n ≤ clusterBase + 17 * clusterSize))

/-- The logical core a physical core carries: 64 or more when none (R304, LCORE). -/
def State.lcoreOf (s : State) (c : Nat) : Nat := ((s.core c).srGet 0x036).toNat

/-- DRST takes a result (R117). -/
def State.drst (s : State) (c : Nat) (res : Nat) : State := s.setCore c { s.core c with drstResult := res }

/-- The record of an accepted emission (R118). -/
def emittedRec (id l frame dm : Nat) (h : List Byte) (a : Arena) (n bytes src : Nat) : Rec :=
  { id := id, partner := leField h 8 4 % 2 ^ 17, cls := leField h 12 1 % 64, alive := tagAlive (BitVec.ofNat 64 (leField h 0 8)),
    frame := frame, base := a.base, ring := a.cells, pos := a.pos, cells := n, bytes := bytes, dram := false,
    derived := some l, copied := false, src := src, horizon := dm, taken := true, again := none, data := [], durable := none, order := none }

/-- A store to DREM (R117, R118). The core's count of derived records, whose alive counter TCHK forms, rises at the emission (R127 does not say when:
DESIGN CHOICE, log 57). -/
def State.emit (s : State) (c : Nat) (addr : Nat) : State :=
  if addr % 8 ≠ 0 ∨ ¬ s.emitRange addr 32 then s.drst c 3
  else
    let r := s.engineRead addr 32
    let s := r.1
    let len := leField r.2 14 2
    let l := s.lcoreOf c
    let n := cellsOf (32 + len)
    if 9000 < len then s.drst c 2
    else if ¬ s.emitRange addr (32 + len) then s.drst c 3
    else if 64 ≤ l ∨ (s.lcore l).gc < n then s.drst c 1
    else match s.arena (.derived l) with
    | none => s.drst c 1
    | some a =>
      let x := s.lcore l
      let rc := emittedRec s.adm.nextRec l s.timer.frame (dmOf s.section) r.2 a n (32 + len) addr
      let s := s.setLcore l { x with gc := x.gc - n, uc := x.uc + n, emitted := x.emitted + 1 }
      let s := s.setArena (a.take n)
      let k := s.core c
      let s := s.setCore c { k with drstResult := 0, drstCount := (k.drstCount + 1) % 65536, drstCred := x.gc - n }
      { s with
        adm := { (s.adm.addAlloc false n) with recs := s.adm.recs ++ [rc], nextRec := s.adm.nextRec + 1 }
        perc := { s.perc with derivedRes := s.perc.derivedRes - 64 * n, curDerived := rc.id :: s.perc.curDerived } }

/-- The copy of an emitted record completes: header and payload with bits [3:0] of byte 13 zero (R118). -/
def State.copyEmitted (s : State) (id : Nat) : State :=
  match s.record id with
  | none => s
  | some r =>
    if r.copied ∨ r.derived.isNone then s
    else
      let q := s.engineRead r.src r.bytes
      let l := patch q.2 13 [q.2.getD 13 0 &&& 0xF0#8]
      (q.1.pokeRec r l).setRecord { r with copied := true }

end Sys2Proof.Machine
end

