-- ==== Sys2Proof/Machine/Carafe.lean ====
section
/-!
DEFINITION. The Carafe (R168 to R175): the ceiling, its fixed term, and the capacitance tests (R170). The figures are exact rationals:
the spec gives the real values and no rounding (log 13).
-/

namespace Sys2Proof.Machine

/-- A rational. -/
structure Frac where
  num : Int
  den : Nat
deriving DecidableEq, Repr

def Frac.mul (a b : Frac) : Frac := ⟨a.num * b.num, a.den * b.den⟩
def Frac.add (a b : Frac) : Frac := ⟨a.num * b.den + b.num * a.den, a.den * b.den⟩
def Frac.sub (a b : Frac) : Frac := ⟨a.num * b.den - b.num * a.den, a.den * b.den⟩
def Frac.le (a b : Frac) : Bool := decide (a.num * b.den ≤ b.num * a.den)
/-- a / b for a positive b. -/
def Frac.div (a b : Frac) : Frac := ⟨a.num * b.den, a.den * b.num.toNat⟩
/-- The floor of a non-negative rational; 0 of a negative one. -/
def Frac.floor (a : Frac) : Nat := if a.den = 0 then 0 else a.num.toNat / a.den
def Frac.ofNat (n : Nat) : Frac := ⟨n, 1⟩

/-- Whether a binary32 pattern is an infinity or a NaN. -/
def f32Wild (w : Nat) : Bool := w / 2 ^ 23 % 256 == 255

/-- The value of a finite binary32 pattern. -/
def f32Frac (w : Nat) : Frac :=
  let e := w / 2 ^ 23 % 256
  let m := w % 2 ^ 23
  let v : Nat := if e = 0 then m * 2 else (2 ^ 23 + m) * 2 ^ e
  let n : Int := v
  ⟨if natBit w 31 then - n else n, 2 ^ 150⟩

/-- A configuration figure of R175. -/
def State.cfgBits (s : State) (sub dflt : Nat) : Nat := s.objNat (okey 0x0C10 sub) dflt

/-- The default of e_byte: 2.3 when a journal channel runs NV-DDR3, else 1.9 (R174). -/
def State.eByteDefault (s : State) : Nat :=
  if (natRange 0 32).any fun ch => (s.chan ch).iface == 1 && (s.chan ch).l != 0 then 0x40133333 else 0x3FF33333

def State.kDiv (s : State) : Frac := f32Frac (s.cfgBits 1 0x40C00000)
def State.eta (s : State) : Frac := f32Frac (s.cfgBits 3 0x3F59999A)
def State.vMin (s : State) : Frac := f32Frac (s.cfgBits 4 0x40E00000)
def State.vWarn (s : State) : Frac := f32Frac (s.cfgBits 5 0x41000000)
/-- e_byte in J. -/
def State.eByte (s : State) : Frac := (f32Frac (s.cfgBits 6 s.eByteDefault)).mul ⟨1, 1000000000⟩
def State.eBrd (s : State) : Frac := f32Frac (s.cfgBits 7 0)
def State.testUs (s : State) : Nat := s.objNat (okey 0x0C10 9) 1000
def State.testAmps (s : State) : Frac := f32Frac (s.cfgBits 10 0x3F000000)
def State.cAlarm (s : State) : Frac := f32Frac (s.cfgBits 11 0)

/-- Whether a figure of the ceiling is configured as an infinity: the spec states no ceiling then. -/
def State.carafeWild (s : State) : Bool :=
  [(1, 0x40C00000), (3, 0x3F59999A), (4, 0x40E00000), (6, 0x3FF33333), (7, 0), (10, 0x3F000000)].any fun x => f32Wild (s.cfgBits x.1 x.2)

/-- The shunt in ohms (R168, R175). -/
def State.shunt (s : State) : Frac := f32Frac (s.cfgBits 2 0x3BA3D70A)

/-- The bank current in mA from the ISENSE difference in uV: the difference divided by the shunt resistance (R168). -/
def State.bankAmps (s : State) (uv : Int) : Int :=
  let r := s.shunt
  uv * r.den / (1000 * r.num)

/-- C in F, as accepted last (R170). -/
def State.cFarad (s : State) : Frac :=
  match s.carafe.cap with
  | none => ⟨0, 1⟩
  | some (n, d) => ⟨n, d⟩

/-- The voltage of a converter code (R168). -/
def State.codeVolts (s : State) (code : Int) : Frac := (⟨code * 5, 131072⟩ : Frac).mul s.kDiv

/-- V_use of R168. -/
def State.vUse (s : State) : Frac :=
  let v := s.codeVolts (2 * s.carafe.vlo.toNat - s.carafe.vhi.toNat)
  if s.carafe.testDue ∧ 0 < s.cFarad.num then
    v.sub ((s.testAmps.mul ⟨s.testUs, 1000000⟩).div s.cFarad)
  else v

/-- E_avail of R172. -/
def State.eAvail (s : State) : Frac :=
  (s.eta.mul ⟨1, 2⟩).mul (s.cFarad.mul ((s.vUse.mul s.vUse).sub (s.vMin.mul s.vMin)))

/-- N_EN: enabled partner entries. -/
def State.nEn (s : State) : Nat := Tab.sum (fun p => if p.flags.getLsbD 0 then 1 else 0) s.adm.partners

/-- S_max: the largest S_pg among the channels. -/
def State.sMax (s : State) : Nat := (natRange 0 32).foldl (fun m ch => max m (s.chan ch).sPg) 0

/-- B_fixed and E_fixed of R173. -/
def State.bFixed (s : State) : Nat := 16 * s.nEn + 4096 + 12 * s.sMax
def State.eFixed (s : State) : Frac := (s.eBrd.add ⟨124, 1000000⟩).add (s.eByte.mul (Frac.ofNat s.bFixed))

/-- B_max of R172. -/
def State.ceiling (s : State) : Nat :=
  if s.carafe.cap.isNone then 0
  else if s.carafeWild then s.freeVal
  else if s.vUse.le s.vMin ∨ s.eAvail.le s.eFixed then 0
  else ((s.eAvail.sub s.eFixed).div s.eByte).floor

/-- A figure as binary32, rounded by the device (log 13). -/
def Frac.f32 (x : Frac) : BitVec 32 := if x.num = 0 then 0 else Config.f32Of x.num x.den

/-- The Carafe computes the figures and the ceiling of the frame that begins; the first ceiling of a start arms the warning (R172, R176). -/
def State.newCeiling (s : State) (w : TickFacts) : State :=
  let s := { s with carafe := { s.carafe with vlo := w.vlo, vhi := w.vhi } }
  let s := { s with carafe := { s.carafe with vUseF := s.vUse.f32, eAvailF := s.eAvail.f32, eFixedF := s.eFixed.f32 } }
  let b := s.ceiling
  let s := if s.carafeWild then s.drawn else s
  if s.carafe.cap.isNone then { s with carafe := { s.carafe with bMax := 0, bFloor := 0 } }
  else
    let cs := (b :: s.carafe.ceilings).take 64
    { s with carafe := { s.carafe with bMax := b, ceilings := cs, bFloor := cs.foldl min b, armed := true } }

/-- The breach event, one per continuous breach (R169). -/
def State.breach (s : State) : State :=
  if s.perc.dirty ≤ s.carafe.bMax then { s with carafe := { s.carafe with breached := false } }
  else if s.carafe.breached then s
  else
    let s := s.logEvent 0x0303 2 (leBytes 8 (s.perc.dirty - s.carafe.bMax))
    { s with carafe := { s.carafe with breached := true } }

/-- At a tick a test comes due: the repeat of an inconclusive one while no C has been accepted, and a periodic one when its interval of plant time has
passed since the last (R170, R175). -/
def State.testComes (s : State) : State :=
  let iv := s.objNat (okey 0x0C10 8) 600
  let s := if s.carafe.testDue ∧ ¬ s.carafe.testing ∧ s.carafe.cap.isSome then
      let s := { s with carafe := { s.carafe with postponed := s.carafe.postponed + 1 } }
      if s.carafe.postponed = 64 then s.logEvent 0x0305 1 [] else s
    else s
  let again := s.carafe.cap.isNone ∧ ¬ s.carafe.testing
  let periodic := s.carafe.cap.isSome ∧ iv ≠ 0 ∧ iv * 1000000000 ≤ s.timer.plantNs - s.carafe.lastTestNs
  if again ∨ periodic then { s with carafe := { s.carafe with testDue := true } } else s

/-- Whether a power-fail sequence has begun. -/
def State.failing (s : State) : Bool := s.pf.stage != .none

/-- A test that is due starts: the first of a start whatever B_dirty holds, a periodic one only when the lowered ceiling still exceeds
B_dirty (R170). -/
def execCapacitanceTestStart (s : State) : Host.Outcome State Fault Refusal :=
  if s.timer.running ∧ ¬ s.failing ∧ s.carafe.testDue ∧ ¬ s.carafe.testing ∧
      (s.carafe.cap.isNone ∨ s.perc.dirty < s.carafe.bMax) then
    .next { s with carafe := { s.carafe with testing := true, postponed := 0 }, barista := { s.barista with holdtest := true } }
  else .next s

/-- What a test measures: the ISENSE difference over the interval in nV s, so Q = that / shunt, and the drop in VHOLD codes (R168, R170). -/
def State.testFarad (s : State) (isense drop : Nat) : Frac :=
  ((⟨isense, 1000000000⟩ : Frac).div s.shunt).div (s.codeVolts drop)

/-- Whether the figures that rest on shunt and divider are stated: both are positive numbers. -/
def State.testStated (s : State) : Bool := decide (0 < s.shunt.num) && decide (0 < s.kDiv.num) && !f32Wild (s.cfgBits 2 0x3BA3D70A) && !f32Wild (s.cfgBits 1 0x40C00000)

/-- A test ends: inconclusive below 0.05 V, otherwise C is accepted (R170). With a shunt or a divider that is not positive the spec states no C: it is
free. -/
def execCapacitanceTestEnd (isense drop : Nat) (s : State) : Host.Outcome State Fault Refusal :=
  if ¬ s.carafe.testing then .next s
  else
    let dv := s.codeVolts drop
    let s := { s with
      carafe := { s.carafe with
        testing := false, testDue := false, lastTestFrame := s.timer.frame, lastTestNs := s.timer.plantNs, lastDropF := dv.f32 }
      barista := { s.barista with holdtest := false } }
    if ¬ (⟨1, 20⟩ : Frac).le dv then .next (s.logEvent 0x0304 1 (leBytes 4 (dv.mul ⟨1000000, 1⟩).floor))
    else
      let first := s.carafe.cap.isNone
      let c := s.testFarad isense drop
      let s := if s.testStated then { s with carafe := { s.carafe with cap := some (c.num.toNat, c.den) } }
        else { s.drawn with carafe := { s.carafe with cap := some (s.freeVal, 1) } }
      let s := { s with plans := { s.plans with checkSaved := s.plans.checkSaved || first } }
      let al := s.cfgBits 11 0
      .next (if (if f32Wild al then natBit al 31 else s.cAlarm.le s.cFarad) then s
        else s.logEvent 0x0306 2 (leBytes 4 (s.cFarad.mul ⟨1000000, 1⟩).floor))

end Sys2Proof.Machine
end

