-- ==== Sys2Proof/Machine/Sha.lean ====
section
/-!
DEFINITION. SHA-256 and HMAC-SHA-256, which the crypto engine and Barista compute (R161, R181, R480, R481). The spec names them and gives
neither; they are taken from FIPS 180-4 and FIPS 198-1 (PRESUMED, log 18). The constants are computed as that standard defines them, from roots
of the first primes, and the eight working variables are held as the two sequences of four that they shift through.
-/

namespace Sys2Proof.Machine

/-- The XOR of some rotations of a word to the right. -/
def rotXor (x : Word) (l : List Nat) : Word := l.foldl (fun acc n => acc ^^^ (x >>> n ||| x <<< (32 - n))) 0

/-- The first `n` primes, found from a number on by trial division. -/
def primesFrom : Nat → Nat → Nat → List Nat
  | 0, _, _ => []
  | fuel + 1, n, p =>
    if n = 0 then []
    else if (natRange 2 (p - 2)).all fun d => p % d != 0 then p :: primesFrom fuel (n - 1) (p + 1)
    else primesFrom fuel n (p + 1)

/-- The integer part of the `k`-th root of `m`, which is known to be below the sum of `acc` and the bits below `2 ^ b`. -/
def rootBits (k m : Nat) : Nat → Nat → Nat
  | 0, acc => acc
  | b + 1, acc => rootBits k m b (if (acc + 2 ^ b) ^ k ≤ m then acc + 2 ^ b else acc)

/-- The first 32 bits of the fractional part of the `k`-th root of a prime. -/
def rootWord (k p : Nat) : Word := BitVec.ofNat 32 (rootBits k (p * 2 ^ (32 * k)) 37 0)

/-- The 64 round constants: cube roots. -/
def shaK : List Word := (primesFrom 400 64 2).map (rootWord 3)

/-- The hash that a message begins with: square roots. -/
def shaInit : List Word := (primesFrom 20 8 2).map (rootWord 2)

/-- The message schedule, newest word first, longer by `n` words. -/
def shaSchedule : Nat → List Word → List Word
  | 0, ws => ws
  | n + 1, ws =>
    let at_ := fun (back : Nat) => ws.getD (back - 1) 0
    let lo := rotXor (at_ 15) [7, 18] ^^^ (at_ 15 >>> 3)
    let hi := rotXor (at_ 2) [17, 19] ^^^ (at_ 2 >>> 10)
    shaSchedule n ((hi + at_ 7 + lo + at_ 16) :: ws)

/-- One round: the two sequences, newest first, with a round constant plus a word of the schedule. -/
def shaRound (st : List Word × List Word) (kw : Word) : List Word × List Word :=
  let p := fun (back : Nat) => st.1.getD (back - 1) 0
  let q := fun (back : Nat) => st.2.getD (back - 1) 0
  let choose := q 3 ^^^ (q 1 &&& (q 2 ^^^ q 3))
  let most := (p 1 &&& p 2) ||| (p 3 &&& (p 1 ||| p 2))
  let mix := kw + choose + rotXor (q 1) [6, 11, 25] + q 4
  ((mix + most + rotXor (p 1) [2, 13, 22]) :: st.1.take 3, (p 4 + mix) :: st.2.take 3)

/-- One block of 64 bytes. -/
def shaBlock (hash : List Word) (block : List Byte) : List Word :=
  let first := (natRange 0 16).map fun i => (BitVec.ofNat 32 (beField block (4 * i) 4) : Word)
  let ws := (shaSchedule 48 first.reverse).reverse
  let last := ((shaK.zip ws).map fun x => x.1 + x.2).foldl shaRound (hash.take 4, hash.drop 4)
  (hash.zip (last.1 ++ last.2)).map fun x => x.1 + x.2

/-- The padding of a message of `n` bytes. -/
def shaPad (n : Nat) : List Byte := 0x80#8 :: (zeros ((119 - n % 64) % 64) ++ beBytes 8 (8 * n))

/-- SHA-256 (FIPS 180-4). -/
def sha256 (m : List Byte) : List Byte :=
  let padded := m ++ shaPad m.length
  ((chunks 64 (padded.length / 64 + 1) padded).foldl shaBlock shaInit).flatMap fun w => beBytes 4 w.toNat

/-- HMAC-SHA-256 (FIPS 198-1). -/
def hmac (key msg : List Byte) : List Byte :=
  let pad := fun (c : Byte) => (sliceZ (if key.length > 64 then sha256 key else key) 0 64).map fun b => b ^^^ c
  sha256 (pad 0x5C#8 ++ sha256 (pad 0x36#8 ++ msg))

end Sys2Proof.Machine
end

