-- ==== Sys2Proof/Machine/Sessions.lean ====
section
/-!
DEFINITION. The messages of the Zhoesk Dictionary Protocol (R475 to R480) and its sessions: what answers a request, at once or when what it waits
for has come (R472, R474, R490).
-/

namespace Sys2Proof.Machine

/-- Abort codes of R490. -/
def abNoObject : Nat := 0xA1010001
def abNoSub : Nat := 0xA1010002
def abWriteOnly : Nat := 0xA1020001
def abReadOnly : Nat := 0xA1020002
def abRing : Nat := 0xA1020003
def abLength : Nat := 0xA1030001
def abRange : Nat := 0xA1030002
def abInUse : Nat := 0xA1040001
def abBusy : Nat := 0xA1040002
def abPlan : Nat := 0xA1050001
def abImage : Nat := 0xA1050002
def abAuth : Nat := 0xA1060001
def abCapacity : Nat := 0xA1060002
def abSegment : Nat := 0xA1070001
def abCommand : Nat := 0xA1070002
def abNoTransfer : Nat := 0xA1070003
def abStore : Nat := 0xA1080001
def abPowerFail : Nat := 0xA1080002

/-- The 32-byte header of a ZDP message (R475): its fields are big-endian. -/
def zdpHeader (cmd flags sid seq key off len total result : Nat) : List Byte :=
  [0x01#8, BitVec.ofNat 8 cmd, BitVec.ofNat 8 flags, 0] ++ beBytes 4 sid ++ beBytes 4 seq ++
  beBytes 2 (key / 256 % 65536) ++ beBytes 1 (key % 256) ++ [0] ++ beBytes 4 off ++ beBytes 4 len ++ beBytes 4 total ++ beBytes 4 result

-- ---------------------------------------------------------------- message fields (R475)

def mCmd (b : List Byte) : Nat := beField b 1 1
def mFlags (b : List Byte) : Nat := beField b 2 1
def mSid (b : List Byte) : Nat := beField b 4 4
def mSeq (b : List Byte) : Nat := beField b 8 4
def mIndex (b : List Byte) : Nat := beField b 12 2
def mSub (b : List Byte) : Nat := beField b 14 1
def mOff (b : List Byte) : Nat := beField b 16 4
def mLen (b : List Byte) : Nat := beField b 20 4
def mTotal (b : List Byte) : Nat := beField b 24 4

/-- The data of a message: what lies between its header and its tag. -/
def mData (b : List Byte) : List Byte := (b.drop 32).take (b.length - 48)

/-- The size of a message with this header: a READ request carries no data. -/
def mSize (b : List Byte) : Nat := if mCmd b = 0x10 then 48 else 48 + mLen b

/-- The size rule, the version, the largest Length, and ANS of a request (log 53). -/
def msgGood (b : List Byte) : Bool :=
  decide (48 ≤ b.length) && beField b 0 1 == 1 && decide (mLen b ≤ 1024) && b.length == mSize b && !natBit (mFlags b) 0

/-- Whether a reserved field of the header is set. -/
def headReserved (b : List Byte) : Bool := decide (2 ≤ mFlags b) || beField b 3 1 != 0 || beField b 15 1 != 0

/-- The tag of a message under a session key (R477). -/
def zdpTag (key body : List Byte) : List Byte := (hmac key body).take 16
def tagGood (key b : List Byte) : Bool := b.drop (b.length - 16) == zdpTag key (b.take (b.length - 16))

/-- A response: it echoes the request's command, sequence, index, subindex and offset (log 53); without a key its tag is zero. -/
def response (req : List Byte) (sid : Nat) (key : Option (List Byte)) (total result : Nat) (data : List Byte) : List Byte :=
  let body := zdpHeader (mCmd req) 1 sid (mSeq req) (256 * mIndex req + mSub req) (mOff req) data.length total result ++ data
  body ++ (match key with | some k => zdpTag k body | none => zeros 16)

-- ---------------------------------------------------------------- sessions

/-- A message is discarded without a response (0x0200.04). -/
def State.discardMsg (s : State) : State := s.count (okey 0x0200 4) 1 32

/-- The node number in force; that of a device without configuration in rescue mode (R486, R516). -/
def State.canNode (s : State) : Nat := if s.barista.stage = .rescue then 1 else s.roGet (okey 0x0206 1)

/-- The ZDP port in force on both field ports (R486). -/
def State.zdpPort (s : State) : Nat := s.roGet (okey 0x0200 1)

/-- The frames that carry a message on CAN FD: segment control, then at most 63 bytes (R488). -/
def canFrames (ident : Nat) (b : List Byte) : List Out :=
  let n := (b.length + 62) / 63
  (natRange 0 n).map fun k =>
    .can ident (BitVec.ofNat 8 ((if k = 0 then 128 else 0) + (if k + 1 = n then 64 else 0) + k % 64) :: (b.drop (63 * k)).take 63)

/-- What carries a response to a client: a datagram from the ZDP port (R483), or the frames of the channel (R488). -/
def State.carried (s : State) (dst : Client) (b : List Byte) : List Out :=
  match dst with
  | .udp .. => [.zdp dst s.zdpPort b]
  | .can => canFrames (0x5E0 + s.canNode) b

/-- A response leaves for a client. -/
def State.send (s : State) (dst : Client) (b : List Byte) : State := { s with out := s.out ++ s.carried dst b }

/-- An open session. -/
def State.session (s : State) (sid : Nat) : Option Session := s.zdp.sessions.find? fun x => x.sid == sid && x.isOpen

/-- A session by its ID, open or not. -/
def State.anySession (s : State) (sid : Nat) : Option Session := s.zdp.sessions.find? fun x => x.sid == sid

/-- Replaces a session. -/
def State.setSession (s : State) (x : Session) : State :=
  { s with zdp := { s.zdp with sessions := s.zdp.sessions.map fun y => if y.sid = x.sid then x else y } }

/-- A session ends, and its transfer with it. -/
def State.endSession (s : State) (sid : Nat) : State :=
  { s with zdp := { s.zdp with sessions := s.zdp.sessions.filter fun x => x.sid != sid } }

/-- The answer to an accepted request of an open session: it is kept for a retransmission (R480). -/
def State.answer (s : State) (sid : Nat) (req : List Byte) (total result : Nat) (data : List Byte) : State :=
  match s.session sid with
  | none => s
  | some x =>
    let b := response req sid (some x.key) total result data
    (s.setSession { x with busy := false, lastResp := b }).send x.client b

/-- An answer without data. -/
def State.refuse (s : State) (sid : Nat) (req : List Byte) (code : Nat) : State := s.answer sid req (mTotal req) code []

/-- The result of a write goes back to its session. -/
def State.result (s : State) (sid i sub code : Nat) : State := { s with out := s.out ++ [.objectResult sid (okey i sub) code] }

-- ---------------------------------------------------------------- a write that waits (R233, R472, R474)

/-- Whether every block of a version is programmed (R233). -/
def BootImage.stored (i : BootImage) : Bool := i.todo == [] && i.left == []

/-- Whether a write that waits is the store of a boot image (R233), or the load of a user image (R459), and not a persistent value. -/
def PendStore.image (p : PendStore) : Bool := p.index == 0x0E01 && p.sub == 4
def PendStore.user (p : PendStore) : Bool := p.index == 0x1400 && p.sub == 2
def PendStore.byRule (p : PendStore) : Bool := p.image || p.user

/-- The write that waits is answered, if it is of a kind; the requests that waited for it are served next (R471). A row's own write has no request. -/
def State.answerWait (s : State) (kind : PendStore → Bool) (code : Nat) : State :=
  match s.zdp.store with
  | none => s
  | some p =>
    if ¬ kind p then s
    else
      let s := { s with zdp := { s.zdp with store := none } }
      if p.req = [] then s.result p.sid p.index p.sub code else s.refuse p.sid p.req code

end Sys2Proof.Machine
end

