-- ==== Sys2Proof/Machine/Halt.lean ====
section
/-!
DEFINITION. The instant t0 of the power-fail sequence (R176): what stops at once, whichever trigger sets it (R225, R241, R474).
-/

namespace Sys2Proof.Machine

/-- The operations and jobs of the Grinder are abandoned: a cut erase counts as not erased, a cut program is discarded and its source stays valid; an
image of the system area that was being written is to be written again (R225). The mirror of the log in NAND stops with them (R508). -/
def State.abandonGrinder (s : State) : State :=
  let m := s.media
  { s with media := { m with
      queue := m.queue.filter fun o => o.issuer != .grinder && !(o.issuer == .barista && o.kind == .program)
      groups := m.groups.map fun (x : Nat × Group) => (x.1, { x.2 with erasing := [] })
      jobs := [], sysOpen := none, sysDirty := m.sysDirty || m.sysOpen.isSome } }

/-- A boot image whose store has not come to its end is not stored, nor a user image loaded that still waits for its tick; their writes are answered so
(R474). -/
def State.abandonImages (s : State) : State :=
  let m := s.micro
  ({ s with
      egress := { s.egress with images := s.egress.images.filter BootImage.stored }
      micro := { m with loading := if m.loadStage = 0 then none else m.loading } } : State).answerWait PendStore.byRule abPowerFail

/-- A sequence that has begun runs to SAFE whatever follows (R183); otherwise t0 is set. SAFE that a finished sequence asserts stays
until the next reset (R512), so a sequence does not begin before boot has brought the device up. -/
def State.startPowerFail (s : State) (trigger : Nat) : State :=
  if s.failing ∨ s.barista.stage ≠ .up then s
  else
    let s := s.abandonGrinder.abandonImages
    { s with
      pf := { s.pf with stage := .t0, trigger := trigger, cutFrame := s.timer.frame, dirtyAtT0 := s.perc.dirty, shutdownAsked := false }
      egress := { s.egress with reqs := [], subs := [] } }

end Sys2Proof.Machine
end

