-- ==== Sys2Proof/Machine/Tags.lean ====
section
/-!
DEFINITION. Tag checks and their events (R129 to R140), shared by every verifying point.
-/

namespace Sys2Proof.Machine

/-- The policies of a class in force in the current frame (R102). -/
def State.policy (s : State) (cls : Nat) : ClassPolicy := Tab.get ClassPolicy.default s.adm.policy cls

/-- Q of a record's flags byte (R126). -/
def qSet (l : List Byte) : Bool := (l.getD 13 0).getLsbD 3

/-- A record with Q set. -/
def setQ (l : List Byte) : List Byte := patch l 13 [l.getD 13 0 ||| 0x08#8]

/-- A tag event at a point (R140): the counter, the last-event object and the log entry. `outcome`: 1 retagged and the stored check
agreed, 2 retagged and it differed, 3 quarantined. -/
def State.tagEvent (s : State) (point outcome partner admitted : Nat) (tag : DWord) (check : Nat) : State :=
  let s := s.count (okey (if outcome = 3 then 0x0A11 else 0x0A10) point) 1
  let s := ((((((s.roSet (okey 0x0A12 1) point).roSet (okey 0x0A12 2) outcome).roSet (okey 0x0A12 3) partner).roSet
    (okey 0x0A12 4) admitted).roSet (okey 0x0A12 5) tag.toNat).roSet (okey 0x0A12 6) check).roSet (okey 0x0A12 7) s.timer.frame
  s.logEvent 0x0202 (if outcome = 3 then 2 else 1)
    ([BitVec.ofNat 8 point, BitVec.ofNat 8 outcome, 0, 0] ++ leBytes 4 partner)
    [(admitted, leBytes 8 tag.toNat), (0, leBytes 4 check ++ zeros 4)]

/-- The decision of R134 on a copy of a record: outcome 0, 1 or 2, the copy as it proceeds, and the event that it raises, if any
(its outcome code and the check computed). A record whose Q is set is outcome 2 without an event (R137). -/
def State.tagJudge (s : State) (l : List Byte) : Nat × List Byte × Option (Nat × Nat) :=
  if qSet l then (2, l, none)
  else
    let tag : DWord := BitVec.ofNat 64 (leField l 0 8)
    let d := tagDecide (s.policy (leField l 12 1 % 64)).poly tag (coveredBytes l)
    if d.1 = 0 then (0, l, none)
    else if d.1 = 1 then (1, patch l 0 (leBytes 8 d.2.2.toNat), some (if d.2.1 = tagCheck tag then 1 else 2, d.2.1))
    else (2, setQ l, some (3, d.2.1))

/-- A verifying point judges a copy of a record and raises its event (R134 to R140). -/
def State.verifyAt (s : State) (point : Nat) (l : List Byte) : State × Nat × List Byte :=
  let r := s.tagJudge l
  match r.2.2 with
  | none => (s, r.1, r.2.1)
  | some e => (s.tagEvent point e.1 (leField l 8 4) (leField l 16 8) (BitVec.ofNat 64 (leField l 0 8)) e.2, r.1, r.2.1)

end Sys2Proof.Machine
end

