-- ==== Sys2Proof/Machine/Acks.lean ====
section
/-!
DEFINITION. Credits granted to partners (R115, R116) and acknowledgements (R93, R119, R121).
-/

namespace Sys2Proof.Machine

/-- x_h of R116: zero when negative, and while no plan is active. -/
def State.grantOf (s : State) (quota g u free : Nat) : Nat := if s.section.isNone then 0 else min (quota - g - u) free

/-- Whether acknowledgements go out: none after t0 + 1 us, and none after an audit failure (R177, R41). -/
def State.acksStop (s : State) : Bool := !(s.pf.stage == .none || s.pf.stage == .t0 || s.pf.stage == .holdtestOff) || s.pf.trigger == 3

/-- EN, KB and OPEN of a partner entry (R96). -/
def Partner.en (p : Partner) : Bool := p.flags.getLsbD 0
def Partner.kb (p : Partner) : Bool := p.flags.getLsbD 1
def Partner.isOpen (p : Partner) : Bool := p.status.getLsbD 2
def Partner.lastPort (p : Partner) : Nat := (p.status.extractLsb' 0 2).toNat

/-- The AES-256 key of a slot; the empty list when none is loaded (R493). -/
def State.keyOf (s : State) (p : Partner) : List Byte := Tab.get [] s.adm.keys (p.keySlot.extractLsb' 0 12).toNat

/-- Where what the device sends to a partner goes: its bound address, learned MAC address and bound VLAN, the VRT port on both sides (R87, R95). -/
def State.outAddr (s : State) (p : Partner) : OutAddr :=
  let port := s.objNat (okey 0x0201 1) 46228
  ⟨p.addr, p.mac, p.vlan, port, port⟩

/-- The 32 bytes of an acknowledgement (R93). -/
def ackBytes (level n drop xs xd epoch : Nat) (p : Partner) (counter : Byte) : List Byte :=
  [0x01#8, 0x02#8, if p.kb then 0x02#8 else 0#8, BitVec.ofNat 8 level] ++ beBytes 4 n ++ [counter, BitVec.ofNat 8 drop] ++
  beBytes 2 xs ++ beBytes 4 epoch ++ beBytes 4 p.tS.toNat ++ beBytes 4 p.tD.toNat ++ beBytes 2 xd ++ [0, 0] ++
  beBytes 4 p.ackSeq.toNat

/-- Sends one acknowledgement: grants, totals, the message with its GCM tag, and the ack sequence (R93, R115, R116, R121). An
acknowledgement under an empty key slot carries a free tag: the spec states none. -/
def State.sendAck (s : State) (port level n drop : Nat) : State :=
  if s.acksStop ∨ s.adm.ackDone.contains n then s
  else
    let p := s.partner n
    let xs := s.grantOf p.qs.toNat p.gS.toNat p.uS.toNat s.adm.freeS
    let xd := s.grantOf p.qd.toNat p.gD.toNat p.uD.toNat s.adm.freeD
    let q := { p with
      gS := p.gS + BitVec.ofNat 16 xs, gD := p.gD + BitVec.ofNat 16 xd
      tS := p.tS + BitVec.ofNat 32 xs, tD := p.tD + BitVec.ofNat 32 xd }
    let body := ackBytes level n drop xs xd s.adm.epoch q (if level = 2 then p.aDur else p.e - 1)
    let key := s.keyOf p
    let iv := beBytes 4 (2 ^ 31 + n) ++ beBytes 4 s.adm.epoch ++ beBytes 4 p.ackSeq.toNat
    let noKey := p.kb && key.isEmpty
    let tag := if ¬ p.kb then [] else if noKey then freeBytes s.freeCtr 16 else gcmTag key iv body
    let done := p.kb && p.ackSeq == 0xFFFFFFFF#32
    let s := s.setPartner n { q with ackSeq := p.ackSeq + 1 }
    { s with
      adm := { s.adm with
        freeS := s.adm.freeS - xs, freeD := s.adm.freeD - xd
        ackDone := if done then n :: s.adm.ackDone else s.adm.ackDone }
      freeCtr := s.freeCtr + (if noKey then 16 else 0)
      out := s.out ++ [.vrt port n (s.outAddr p) (body ++ tag)] }

/-- The void of a partner's grants: they return to F (R98, R115). -/
def State.voidGrants (s : State) (n : Nat) : State :=
  let p := s.partner n
  let s := s.setPartner n { p with gS := 0, gD := 0 }
  { s with adm := { s.adm with freeS := s.adm.freeS + p.gS.toNat, freeD := s.adm.freeD + p.gD.toNat } }

/-- The core grant of a logical core whose tasks may emit `want` cells (R115): gc := max(0, want - uc'), and F_S moves the other way;
DRST shows the new grant (R117). -/
def State.coreGrant (s : State) (want l : Nat) : State :=
  let x := s.lcore l
  let g := want - x.uc
  let s := { s with adm := { s.adm with freeS := s.adm.freeS + x.gc - g } }
  let s := s.setLcore l { x with gc := g }
  match x.carrier with
  | none => s
  | some c => s.setCore c { s.core c with drstCount := 0, drstCred := g }

/-- Sum of Cd of the tasks of a logical core under the section in force. -/
def State.cdOf (s : State) (l : Nat) : Nat :=
  match s.section with
  | some p => sumOf TaskEnt.cd (p.tasks.filter fun t => t.lcore == l)
  | none => 0

/-- The core grants of a tick. -/
def State.coreGrants (s : State) : State := (natRange 0 64).foldl (fun a l => a.coreGrant (s.cdOf l) l) s

/-- The derived reservation of a frame (R154): the unused part of the last one goes, the new one comes. -/
def State.reserveDerived (s : State) : State :=
  let want := match s.section with | some p => 64 * sumOf TaskEnt.cd p.tasks | none => 0
  { s with perc := { s.perc with dirty := s.perc.dirty - s.perc.derivedRes + want, derivedRes := want } }

end Sys2Proof.Machine
end

