-- ==== Sys2Proof/Machine/Stores.lean ====
section
/-!
DEFINITION. Performing a checked store, atomic or commit (R149 to R151, R323, R356, R430, R432), and where a store by a core is an undefined case (02,
03, 07, 09, 12 to 14).
-/

namespace Sys2Proof.Machine

-- ---------------------------------------------------------------- places that cores may not store to

/-- The query ring of a class in force since the start (R236, R242): its base and N_q. -/
def State.ringBase (s : State) (k : Nat) : Nat :=
  s.roGet (okey 0x0E10 1) + k * 256 * (s.roGet (okey 0x0E10 2) + 1)
def State.ringSize (s : State) : Nat := s.roGet (okey 0x0E10 2)

/-- The program image object of an index and its header fields (R494). -/
def State.imageDom (s : State) (img : Nat) : List Byte := Tab.get [] s.domains img
def imgPlace (d : List Byte) : Nat := leField d 16 1
def imgLoad (d : List Byte) : Nat := leField d 20 4
def imgCodeEa (d : List Byte) : Nat := leField d 24 4
def imgSetOff (d : List Byte) : Nat := leField d 28 4

/-- A range of physical addresses: first byte and bytes. -/
structure Span where
  pa : Nat
  n : Nat
deriving DecidableEq, Repr

/-- Whether a piece of a store meets a range. -/
def Span.meets (x : Span) (m : Mapped) : Bool := overlaps x.pa x.n m.pa m.n

/-- The class arenas and derived-record arenas, and the class window area of every cluster (03, Undefined cases). -/
def State.arenaSpans (s : State) : List Span :=
  ((s.adm.arenas.filter fun a => a.kind != .resident).map fun a => ⟨s.cellPa a.dram a.base, 64 * a.cells⟩) ++
    (natRange 0 17).map fun cl => ⟨clusterBase + 0xFF800 + cl * clusterSize, 0x800⟩

/-- The image bodies and descriptor sets that a section uses (02, Undefined cases; R496). -/
def State.imageSpans (s : State) (p : Section) : List Span :=
  p.tasks.flatMap fun t =>
    let d := s.imageDom t.image
    let x := s.lcore t.lcore
    let cl := clusterBase + clusterSize * x.home
    ⟨cl + imgSetOff d, 208⟩ :: (if imgPlace d = 1 then [⟨cl + imgLoad d, d.length - 32⟩]
      else match x.carrier with
        | some c => [⟨scratchBase + scratchSize * c + imgLoad d, d.length - 32⟩]
        | none => [])

/-- The image cache, and entries 1 to N_q of the query rings (07, Undefined cases). -/
def State.egressSpans (s : State) : List Span :=
  ⟨s.roGet (okey 0x0E02 1), s.roGet (okey 0x0E02 2)⟩ ::
    (if s.ringSize = 0 then [] else (natRange 0 64).map fun k => ⟨s.ringBase k + 256, 256 * s.ringSize⟩)

/-- Where a core's translation puts an effective address; nothing when no descriptor of it does. -/
def State.spanAt (s : State) (c ea n : Nat) : List Span :=
  match (s.core c).find ea with
  | some d => [⟨s.physOf c d ea, n⟩]
  | none => []

/-- The vector slots of every core that runs, and its gates' service entries (13, Undefined cases). -/
def State.vectorSpans (s : State) : List Span :=
  s.cores.flatMap fun e =>
    if e.2.run = .held ∨ e.2.run = .stopped then []
    else s.spanAt e.1 (e.2.srGet 0x040).toNat 672 ++
      (natRange 0 16).flatMap fun n =>
        let g := e.2.srGet (0x080 + n)
        if g.extractLsb' 0 2 = 3#2 then [] else s.spanAt e.1 (g.toNat / 4 * 4) 4

/-- The posting lists of instructions that wait (12, Undefined cases). -/
def State.listSpans (s : State) : List Span :=
  s.cores.flatMap fun e => match e.2.wait with
    | some ⟨_, some (.post _ _ _ _ rs _)⟩ => s.spanAt e.1 (e.2.reg rs).toNat 64
    | some ⟨_, some (.post2 _ _ _ _ rs _)⟩ => s.spanAt e.1 (e.2.reg rs).toNat 96
    | some ⟨_, some (.post4 _ _ _ _ rs _)⟩ => s.spanAt e.1 (e.2.reg rs).toNat 160
    | _ => []

/-- The context slots of a core that its store may not reach: every slot in a ring above 0; in ring 0, which may save a bank that it has freed, those of
contexts that are resident (02, 09, Undefined cases; log 7). -/
def State.slotSpans (s : State) (c : Nat) : List Span :=
  let k := s.core c
  let base := scratchBase + scratchSize * c + (k.srGet 0x021).toNat
  if k.ring ≠ 0 then [⟨base, 8192⟩]
  else ((natRange 0 8).filter k.vOf).map fun b => ⟨base + 128 * k.ctxOf b, 128⟩

/-- Whether a store goes to the body of an active loop of at most 16 instructions, which the loop buffer holds (14, Undefined cases; R427). -/
def Core.inLoopBody (k : Core) (m : Mapped) : Bool :=
  [0, 1, 2].any fun i => k.lc i != 0 && decide ((k.ls i).toNat ≤ (k.le i).toNat) && decide (((k.le i).toNat - (k.ls i).toNat) / 4 < 16) &&
    overlaps (k.ls i).toNat ((k.le i).toNat - (k.ls i).toNat + 4) m.ea m.n

/-- Whether the region of a descriptor overlaps another of the core with a different TYPE (09, Undefined cases). -/
def Core.typeClash (k : Core) (m : Mapped) : Bool :=
  let d := k.desc m.desc
  (natRange 0 16).any fun n =>
    let e := k.desc n
    e.valid && e.type != 7 && e.type != d.type && rangesMeet d.eaBase (d.eaBase + d.size) e.eaBase (e.eaBase + e.size)

/-- Whether a store of a core is an undefined case; the images and vectors count while a plan is active. -/
def State.storeClash (s : State) (c : Nat) (ms : List Mapped) : Bool :=
  let k := s.core c
  let spans := s.arenaSpans ++ s.egressSpans ++ s.listSpans ++ s.slotSpans c ++
    (match s.section with
     | some p => s.imageSpans p ++ s.vectorSpans
     | none => [])
  ms.any fun m => k.typeClash m || k.inLoopBody m || spans.any fun x => x.meets m

-- ---------------------------------------------------------------- performing stores

/-- A partial store meets the code words it reads and modifies (R257, R258). -/
def State.meetStore (s : State) : List Mapped → State × Option Nat
  | [] => (s, none)
  | m :: t =>
    let r := s.meetWords (partCws m.pa m.n)
    match r.2 with
    | some cw => (r.1, some cw)
    | none => r.1.meetStore t

/-- What performing a store answers. -/
inductive StoreRes where
  | ok (s : State)
  | wait (s : State) (why : WaitWhy)
  | trap (s : State) (t : Trap)
  | undef (rule : Nat)

/-- Performs a checked store through the store buffer: code words, first touches, then the buffer (R149 to R151, R430). -/
def State.performStore (s : State) (c : Nat) (ms : List Mapped) (l : List Byte) : StoreRes :=
  if s.storeClash c ms then .undef 7
  else
    let r := s.meetStore ms
    match r.2 with
    | some cw => .trap r.1 (mcUncorrectable 2 cw)
    | none =>
      let q := r.1.touch c ms
      match q.2 with
      | some w => .wait q.1 w
      | none => .ok ((q.1.mark true ms).pushPieces c ms l)

/-- The pieces of one write reach memory; a piece at unassigned device registers has no effect (R245). -/
def State.pokePieces (s : State) (c : Nat) : List Mapped → List Byte → State
  | [], _ => s
  | m :: t, l => (if m.type = 5 then s else s.corePoke c m.pa (l.take m.n)).pokePieces c t (l.drop m.n)

/-- Performs checked writes that bypass the buffer, all at one instant (R151, R323, R356, R432). Each write is its translated pieces with its bytes;
every buffered store drains first. -/
def State.performAll (s : State) (c : Nat) (ws : List (List Mapped × List Byte)) : StoreRes :=
  let s := s.drainAll c
  let all := ws.flatMap Prod.fst
  let r := s.meetStore (all.filter fun m => m.type != 5)
  match r.2 with
  | some cw => .trap r.1 (mcUncorrectable 2 cw)
  | none =>
    let q := r.1.touch c all
    match q.2 with
    | some w => .wait q.1 w
    | none => .ok (ws.foldl (fun a w => a.pokePieces c w.1 w.2) (q.1.mark true all))

/-- An atomic or the commit of a commercial instruction other than TCHK: a store of the core, which some places do not admit. -/
def State.performCommit (s : State) (c : Nat) (ws : List (List Mapped × List Byte)) : StoreRes :=
  if s.storeClash c (ws.flatMap Prod.fst) then .undef 7 else s.performAll c ws

/-- A CASW whose comparison fails: it makes the first touch and writes nothing, so its page is reached and not changed (R323, R415). -/
def State.performHeld (s : State) (c : Nat) (ms : List Mapped) : StoreRes :=
  let q := (s.drainAll c).touch c ms
  match q.2 with
  | some w => .wait q.1 w
  | none => .ok (q.1.mark false ms)

end Sys2Proof.Machine
end

