-- ==== Sys2Proof/Machine/Switch.lean ====
section
/-!
DEFINITION. Plan switches: arenas and resident cells (R69, R113, R115), windows (R114, R236), image placement (R496), and the section in
force (R77 to R83).
-/

namespace Sys2Proof.Machine

-- ---------------------------------------------------------------- windows

/-- The 32 bytes of a window (R114). -/
def windowBytes (base size first fin count frame : Nat) : List Byte :=
  leBytes 8 base ++ leBytes 4 size ++ leBytes 4 first ++ leBytes 4 fin ++ leBytes 4 count ++ leBytes 8 frame

/-- The class window of class `k` for the ended frame `f` (R114). A class without an arena shows zero bytes and the frame. -/
def State.classWindow (s : State) (k f : Nat) : List Byte :=
  match (if s.section.isSome then s.arena (.cls k) else none) with
  | none => windowBytes 0 0 0 0 0 f
  | some a => windowBytes (s.cellPa a.winDram a.winBase) (64 * a.winCells) (64 * a.winFirst) (64 * a.winEnd) a.winCount f

/-- Writes the class windows of the ended frame into the cluster SRAM of every cluster (R114). -/
def State.writeClassWindows (s : State) (f : Nat) : State :=
  (natRange 0 17).foldl (fun a cl => (natRange 0 64).foldl (fun b k =>
    b.poke (clusterBase + 0xFF800 + cl * clusterSize + 32 * k) (s.classWindow k f)) a) s

/-- At a tick the window of the ended frame is taken, and the next one begins at the present ring position. -/
def Arena.turn (a : Arena) : Arena :=
  { a with
    first := a.pos, count := 0, winDram := a.dram, winBase := a.base, winCells := a.cells
    winFirst := if a.count = 0 then a.pos else a.first, winEnd := a.pos, winCount := a.count }
def State.turnArenas (s : State) : State := { s with adm := { s.adm with arenas := s.adm.arenas.map Arena.turn } }

/-- The window of the query ring of a class, whose offsets are entry numbers, 1 to N_q (R236). -/
def State.ringWindow (s : State) (k f : Nat) : List Byte :=
  let n := Tab.get 0 s.egress.ringCount k
  let next := Tab.get 0 s.egress.ringNext k + 1
  windowBytes (s.ringBase k) (256 * (s.ringSize + 1)) (if n = 0 then next else Tab.get 0 s.egress.ringFirst k + 1) next n f

/-- Writes the query ring windows of the ended frame; without DRAM or without rings there is none (R236). -/
def State.writeRingWindows (s : State) (f : Nat) : State :=
  let s' := if s.dramCap = 0 ∨ s.ringSize = 0 then s
    else (natRange 0 64).foldl (fun a k => a.enginePoke (s.ringBase k) (s.ringWindow k f)) s
  { s' with egress := { s'.egress with ringFirst := s'.egress.ringNext, ringCount := [] } }

-- ---------------------------------------------------------------- images (R494 to R496)

/-- The descriptor set of an image (R494, R495). -/
def State.imageSet (s : State) (img : Nat) : List Byte := s.objGet (okey img 2) (zeros 208)

/-- Copies the images of a task of logical core `l`: the body to the carrier's scratch or the home cluster's SRAM, the descriptor set to
the home cluster's SRAM (R496, R528). -/
def State.placeImage (s : State) (l img : Nat) : State :=
  let d := s.imageDom img
  let x := s.lcore l
  let cl := clusterBase + clusterSize * x.home
  let s := s.poke (cl + imgSetOff d) (s.imageSet img)
  if imgPlace d = 1 then s.poke (cl + imgLoad d) (d.drop 32)
  else match x.carrier with
    | some c => s.poke (scratchBase + scratchSize * c + imgLoad d) (d.drop 32)
    | none => s

/-- Copies the images of a section (R496). -/
def State.placeImages (s : State) (p : Section) : State := p.tasks.foldl (fun a t => a.placeImage t.lcore t.image) s

/-- The place of an image body: memory, unit and bytes [lo, hi). -/
def State.bodyPlace (s : State) (img l : Nat) : Nat × Nat × Nat × Nat :=
  let d := s.imageDom img
  let n := d.length - 32
  if imgPlace d = 1 then (1, (s.lcore l).home, imgLoad d, imgLoad d + n) else (0, l, imgLoad d, imgLoad d + n)
def State.setPlace (s : State) (img l : Nat) : Nat × Nat × Nat × Nat :=
  let d := s.imageDom img
  (1, (s.lcore l).home, imgSetOff d, imgSetOff d + 208)

/-- The places of a section's images with the object each holds. -/
def State.places (s : State) (p : Section) : List (Nat × (Nat × Nat × Nat × Nat)) :=
  p.tasks.flatMap fun t => [(2 * t.image, s.bodyPlace t.image t.lcore), (2 * t.image + 1, s.setPlace t.image t.lcore)]

/-- Where a place lies. -/
def State.placePa (s : State) (x : Nat × Nat × Nat × Nat) : Nat :=
  if x.1 = 1 then clusterBase + clusterSize * x.2.1 + x.2.2.1
  else match (s.lcore x.2.1).carrier with
    | some c => scratchBase + scratchSize * c + x.2.2.1
    | none => clusterBase + clusterSize * (s.lcore x.2.1).home + x.2.2.1

/-- What undefined placements leave at their places (R7; log 7). -/
def State.havocPlaces (s : State) (l : List (Nat × (Nat × Nat × Nat × Nat))) : State :=
  let u := s.freeCtr
  l.foldl (fun a x => a.poke (s.placePa x.2) (undefinedBytes u (s.placePa x.2) (x.2.2.2.2 - x.2.2.2.1))) s.drawn

/-- Whether two places of different objects overlap: an undefined case of chapter 16. -/
def placesClash (l m : List (Nat × (Nat × Nat × Nat × Nat))) : Bool :=
  l.any fun a => m.any fun b => a.1 != b.1 && a.2.1 == b.2.1 && a.2.2.1 == b.2.2.1 && rangesMeet a.2.2.2.1 a.2.2.2.2 b.2.2.2.1 b.2.2.2.2

/-- The context slots of the carriers that run a section's tasks (R272). -/
def State.slotPlaces (s : State) (p : Section) : List (Nat × (Nat × Nat × Nat × Nat)) :=
  p.tasks.filterMap fun t => (s.lcore t.lcore).carrier.map fun c =>
    let b := ((s.core c).srGet 0x021).toNat
    (8192, (0, t.lcore, b, b + 8192))

/-- The images of a section are copied beside those of the section that they replace. Places that overlap, or a body over the context slots, are
undefined cases of chapter 16: what comes to stand there is free (R7). -/
def State.copyImages (s : State) (p : Section) (olds : List (Nat × (Nat × Nat × Nat × Nat))) : State :=
  let mine := s.places p
  if placesClash mine (mine ++ olds ++ s.slotPlaces p) then s.havocPlaces (mine ++ olds) else s.placeImages p

-- ---------------------------------------------------------------- the switch (R69, R77, R113, R115)

/-- Resident cells change hands: the outgoing plan's are released, then the incoming plan's allocated (R115). -/
def State.swapResident (s : State) (n : Nat) : State :=
  { s with adm := { s.adm with
      freeS := s.adm.freeS + s.adm.cres - n, allocS := s.adm.allocS - s.adm.cres + n, cres := n } }

/-- P_D takes the value of 0x0C00.03 at a plan switch (R167); F_D moves with it (R112). -/
def State.swapStaging (s : State) : State :=
  let n := s.objNat (okey 0x0C00 3) 0
  { s with adm := { s.adm with freeD := s.adm.freeD + n - s.adm.poolD, poolD := n } }

/-- What a section lays out: its resident cells and its arenas (R113). -/
def Section.layout (p : Section) : List (ArenaKind × Bool × Nat) :=
  (if p.cres = 0 then [] else [(ArenaKind.resident, false, p.cres)]) ++ p.arenas

/-- Floor of the background reserve in ns: beta in tenths of a percent of T_eff (R222). -/
def reserveNs (beta period : Nat) : Nat := beta * period * 9998 / 10000000

/-- The Grinder's reserve of a frame on every channel (R222). -/
def State.setReserves (s : State) : State :=
  let b := match s.section with | some p => p.beta | none => s.plans.lastBeta
  { s with media := { s.media with chans := s.media.chans.map fun x => (x.1, { x.2 with reserve := reserveNs b s.timer.period }) } }

/-- The period without a plan in force: the saved plan's until it has been checked (R186 step 8), then the idle period (R51). -/
def State.idlePeriod (s : State) : Nat :=
  if s.media.savedPlan ≠ [] ∧ s.perc.close ≠ 0 ∧ (s.carafe.cap.isNone ∨ s.plans.checkSaved) then leField s.media.savedPlan 20 4 else s.objNat (okey 0x0400 2) 250000

/-- A period is in force from the present frame on: it goes into the period history (R205). -/
def State.takePeriod (s : State) (p : Nat) : State :=
  { s with timer := { s.timer with period := p }, media := { s.media with periods := s.media.periods ++ [(s.timer.frame, p)], sysDirty := true } }

/-- The period of the frames that follow (R45). -/
def State.setPeriod (s : State) : State :=
  let p := match s.section with | some p => p.period | none => s.idlePeriod
  if p = s.timer.period then s else s.takePeriod p

/-- The dispatcher starts every core's schedule (R57, R59, R63). -/
def State.startSchedules (s : State) : State :=
  let ir := match s.section with | some p => p.ires | none => 0
  let s := (natRange 0 64).foldl (fun a l => a.modLcore l fun x => { x with released := 0, ovrNow := false }) s
  { s with cores := s.cores.map fun x => (x.1, { x.2 with sinceTick := 0, iresLeft := ir }) }

/-- A section comes into force at the present tick: `state` 0 the plan, 1 its degraded section. Resident cells, arenas, reserves and
schedules follow it (R69, R77, R113); the plan is saved to the system area (R79). -/
def State.activate (s : State) (dom : List Byte) (state : Nat) : State :=
  let old := s.adm.arenas
  let s := { s with plans := { s.plans with
    active := dom, state := state, switchFrame := s.timer.frame, ovrFrames := 0, lowFrames := 0, degradeDue := none, stopping := false } }
  match s.section with
  | none => s
  | some p =>
    let s := (s.swapResident p.cres).swapStaging
    let s := { s with
      adm := { s.adm with arenas := s.layOut old p.layout [], stopped := false }
      plans := { s.plans with lastMedia := p.media.map fun (m : MediaEnt) => (m.ch, m.p, m.r), lastBeta := p.beta }
      media := { s.media with savedPlan := if s.media.present then dom else s.media.savedPlan, sysDirty := true }
      freeCtr := s.freeCtr + p.layout.length }
    let s := (natRange 0 64).foldl (fun a l => a.modLcore l fun x => { x with overrun := 0 }) s
    (((s.setPeriod.setReserves).coreGrants).reserveDerived).startSchedules

/-- No plan is in force any more (R80, R82): the active DOMAIN is empty. -/
def State.deactivate (s : State) : State :=
  let s := { s with plans := { s.plans with
    active := [], state := 2, switchFrame := s.timer.frame, ovrFrames := 0, lowFrames := 0, degradeDue := none, stopping := false, placed := false } }
  let s := s.swapResident 0
  let s := { s with adm := { s.adm with arenas := [] } }
  (((s.setPeriod.setReserves).coreGrants).reserveDerived).startSchedules

/-- At the switch tick the incoming plan replaces the outgoing one (R77). It takes the images in place with it (R496). -/
def State.switchNow (s : State) : State :=
  let s := s.activate s.plans.pending 0
  let s := { s with plans := { s.plans with
    pending := [], shadow := [], shadowState := 0, pendingFrame := 0, placed := s.plans.pendPlaced, pendPlaced := false } }
  s.writeClassWindows (s.timer.frame - 1)

/-- Whether the present tick suits a switch between the periods: any tick when they are equal, else one at a whole multiple of the longer from the
phase offset (R77). -/
def State.aligned (s : State) (period : Nat) : Bool :=
  let t := s.timer
  let long := max period t.period
  decide (period = t.period) || (t.plantNs + long - s.roGet (okey 0x0400 5) % long) % long == 0

/-- The switch tick of a commit as it stands now (R77, 0x0412.03): the first suitable tick from the one `i` frames on. -/
def State.switchAt (s : State) (period i : Nat) : Nat :=
  match (natRange i 64).find? fun j => ({ s with timer := { s.timer with plantNs := s.timer.plantNs + j * s.timer.period } } : State).aligned period with
  | some j => s.timer.frame + j
  | none => s.timer.frame + i

/-- Whether the switch of a commit is due: its tick has come (R77). -/
def State.switchDue (s : State) : Bool :=
  s.timer.running && !s.failing && s.plans.shadowState == 2 && decide (s.plans.pendingFrame ≤ s.timer.frame) &&
  s.aligned (leField s.plans.pending 20 4)

/-- The images of the incoming plan are copied between the commit and its switch; those of a degraded section in its first frame (R496,
R537). -/
def execImagePlacement (s : State) : Host.Outcome State Fault Refusal :=
  if s.failing then .next s
  else if s.plans.shadowState = 2 ∧ ¬ s.plans.pendPlaced then
    let p := parseSection s.plans.pending 0 false
    let s := s.copyImages p (match s.section with | some q => s.places q | none => [])
    .next { s with plans := { s.plans with pendPlaced := true } }
  else if ¬ s.plans.placed then
    match s.section with
    | none => .next s
    | some p =>
      let s := s.copyImages p []
      .next { s with plans := { s.plans with placed := true } }
  else .next s

-- ---------------------------------------------------------------- degrade (R81 to R83)

/-- The degraded section of the active plan, if it is the plan that is in force. -/
def State.degradedSection (s : State) : Option Section :=
  if s.plans.state = 0 ∧ leField s.plans.active 56 4 ≠ 0 then some (parseSection s.plans.active (leField s.plans.active 56 4) true) else none

/-- Whether a section passes R67 against the media in force. -/
def State.mediaPasses (s : State) (p : Section) : Bool := (s.mediaChecks p).isNone

/-- Whether the degraded section can take over on a trigger (R81): 2 it passes R67, 3 its B_plan fits B_floor. -/
def State.canDegrade (s : State) (trigger : Nat) : Bool :=
  match s.degradedSection with
  | none => false
  | some d => if trigger = 2 then s.mediaPasses d else if trigger = 3 then decide (d.bPlan ≤ s.carafe.bFloor) else true

/-- The logical cores that have no carrier take one at a switch to the degraded section: the carrier of the highest-numbered logical core
of the plan that the section does not use (R537). -/
def State.lendCarrier (s : State) (planNl degNl l : Nat) : State :=
  if (s.lcore l).carrier.isSome then s
  else
    match ((natRange degNl (planNl - degNl)).reverse.find? fun n => (s.lcore n).carrier.isSome) with
    | none => s
    | some n =>
      match (s.lcore n).carrier with
      | none => s
      | some c =>
        let disp := c / 4 != (s.lcore l).home
        let s := s.modLcore n fun x => { x with carrier := none, displaced := false }
        let s := s.modLcore l fun x => { x with carrier := some c, displaced := disp }
        let s := s.setCore c ((s.core c).srSet 0x036 (BitVec.ofNat 32 l))
        if disp then s.logEvent 0x0A04 1 [BitVec.ofNat 8 l, BitVec.ofNat 8 (s.lcore l).home, BitVec.ofNat 8 c] else s

def State.lendCarriers (s : State) (planNl degNl : Nat) : State :=
  (natRange 0 degNl).foldl (fun a l => a.lendCarrier planNl degNl l) s

end Sys2Proof.Machine
end

