-- ==== Sys2Proof/Machine/Repair.lean ====
section
/-!
DEFINITION. Power-domain states (R548), fuses (R523 to R525), carriers and moves (R527 to R533), faults and retirement (R534 to R537), SRAM
row repair (R538, R539) and LUN retirement (R540).
-/

namespace Sys2Proof.Machine

-- ---------------------------------------------------------------- domains (R547, R548, R551)

/-- State of a domain: 0 OFF, 1 RETAIN, 2 ON. -/
def State.domain (s : State) (d : Nat) : Nat := Tab.get 0 s.power.dom d

/-- A domain changes state; its power-good bit follows when it is switched ON or OFF, and the transition counts (R548, R551). -/
def State.setDomain (s : State) (d st : Nat) : State :=
  if s.domain d = st then s
  else
    let m : BitVec 112 := 1#112 <<< d
    { s with power := { s.power with
        dom := Tab.put 0 d st s.power.dom
        trans := Tab.put 0 d ((Tab.get 0 s.power.trans d + 1) % 2 ^ 32) s.power.trans
        good := if st = 0 then s.power.good &&& ~~~ m else s.power.good ||| m } }

-- ---------------------------------------------------------------- fuses (R523 to R525)

/-- A repair entry with its CHECK: the number of zero bits in [31:8] (R523). -/
def fuseEntry (kind spare unit : Nat) : Word :=
  let v := kind % 16 * 2 ^ 28 + spare % 32 * 2 ^ 23 + unit % 2 ^ 15 * 2 ^ 8
  BitVec.ofNat 32 (v + (24 - sumOf (fun i => if natBit v (8 + i) then 1 else 0) (natRange 0 24)))

/-- Whether an entry is valid: not blank, and its CHECK agrees (R524). -/
def fuseValid (w : Word) : Bool :=
  w != 0 && w == fuseEntry (w.extractLsb' 28 4).toNat (w.extractLsb' 23 5).toNat (w.extractLsb' 8 15).toNat

/-- An entry is programmed into the next of `n` blank ones. Which of its bits a fuse takes is not Barista's to say: an entry that reads back another
is programmed to all ones, and the next one is used; with none left event 0x0A08 is logged (R525; log 6). -/
def State.burnFuse (e : Word) : Nat → State → State
  | 0, s => s.logEvent 0x0A08 2 []
  | n + 1, s =>
    let back := e &&& BitVec.ofNat 32 s.freeVal
    let put := fun (w : Word) => ({ s.drawn with repair := { s.repair with fuses := s.repair.fuses ++ [w] } } : State)
    if back = e then put e else State.burnFuse e n (put 0xFFFFFFFF#32)

/-- A field repair is recorded in the fuses (R525). -/
def State.recordFuse (s : State) (kind spare unit : Nat) : State :=
  State.burnFuse (fuseEntry kind spare unit) (128 - s.repair.fuses.length) s

-- ---------------------------------------------------------------- cores (R527 to R536, R542)

/-- N_L of the section in force; 0 with no plan. -/
def State.nl (s : State) : Nat := match s.section with | some p => p.nl | none => 0

/-- The logical core of the section in force that a physical core carries (R542; log 34). -/
def State.carries (s : State) (c : Nat) : Option Nat := (natRange 0 s.nl).find? fun l => (s.lcore l).carrier == some c

/-- Whether a physical core is a ready spare (R534, R542). -/
def State.spareReady (s : State) (c : Nat) : Bool :=
  let k := s.core c
  k.state == .ready && !k.faulted && !s.repair.retired.contains c && s.domain c == 2 && (s.carries c).isNone

/-- The good physical cores of a cluster that are ready spares, lowest first. -/
def State.sparesOf (s : State) (cl : Nat) : List Nat := (natRange (4 * cl) 4).filter s.spareReady

/-- The spare that a fault replacement takes: in the home cluster, else the lowest-numbered of the lowest-numbered other cluster (R535). -/
def State.spareFor (s : State) (home : Nat) : Option Nat :=
  match s.sparesOf home with
  | q :: _ => some q
  | [] => (natRange 0 68).find? s.spareReady

/-- Which retirement code a core's cluster shows: a cluster-shared domain that has lost power takes all four (R536). -/
def State.clusterLost (s : State) (c : Nat) : Bool := s.domain (68 + c / 4) == 2 && !s.power.good.getLsbD (68 + c / 4)

/-- One physical core is retired: fuses, map, tile OFF, event 0x0A02 (R536). -/
def State.retireOne (s : State) (c cause : Nat) : State :=
  if s.repair.retired.contains c then s
  else
    let s := s.recordFuse 1 0 c
    let s := s.setDomain c 0
    let s := s.setCore c { s.core c with state := .retired, run := .held, task := none, wait := none, micro := none }
    let s := { s with repair := { s.repair with retired := s.repair.retired ++ [c], retireDue := s.repair.retireDue.filter fun x => x.1 != c } }
    s.logEvent 0x0A02 2 [BitVec.ofNat 8 c, BitVec.ofNat 8 cause]

/-- A core is retired; after the failure of its cluster-shared domain its whole cluster is (R536). -/
def State.retireCore (s : State) (c cause : Nat) : State :=
  if s.clusterLost c then (natRange (c / 4 * 4) 4).foldl (fun a n => a.retireOne n 4) s else s.retireOne c cause

/-- The entries of a table whose keys lie in a range, moved by an offset. -/
def shiftRange {α : Type} (lo n to_ : Nat) (t : List (Nat × α)) : List (Nat × α) :=
  (t.filter fun x => decide (lo ≤ x.1) && decide (x.1 < lo + n)).map fun x => (x.1 - lo + to_, x.2)

/-- Replaces a range of a table by the contents of another range. -/
def copyRange {α : Type} (lo n to_ : Nat) (t : List (Nat × α)) : List (Nat × α) :=
  let src := shiftRange lo n to_ t
  (t.filter fun x => decide (x.1 < to_)) ++ src ++ (t.filter fun x => decide (to_ + n ≤ x.1))

/-- Empties a range of a table. -/
def clearRange {α : Type} (lo n : Nat) (t : List (Nat × α)) : List (Nat × α) :=
  t.filter fun x => !(decide (lo ≤ x.1) && decide (x.1 < lo + n))

/-- The scratch of core `q` takes the contents of core `p`'s, uncorrectable words with their bad check (R531), or zero. -/
def State.moveScratch (s : State) (p q : Nat) (lost : Bool) : State :=
  let a := scratchBase + scratchSize * p
  let b := scratchBase + scratchSize * q
  if lost then { s with mem := clearRange b scratchSize s.mem, upsets := clearRange b scratchSize s.upsets }
  else { s with mem := copyRange a scratchSize b s.mem, upsets := copyRange a scratchSize b s.upsets }

/-- What moves from carrier `p` to carrier `q` (R531, R570): banks BF and BS, core state and interrupt registers. Task banks, the store
words and the test history stay with the physical core. -/
def movedCore (p q : Core) : Core :=
  { p with
    regs := (q.regs.filter fun x => decide (x.1 < 256)) ++ (p.regs.filter fun x => decide (256 ≤ x.1))
    bankV := q.bankV, bankD := q.bankD, bankCtx := q.bankCtx, recency := q.recency
    run := .idle, wait := none, micro := none, parityHold := none, storeBuf := [], task := none
    ucodeBad := q.ucodeBad, reloaded := q.reloaded, faultFrame := q.faultFrame, faulted := false, scratchLost := false
    state := .ready, lastPass := q.lastPass }

/-- A move of logical core `l` from `p` to `q` (R531); event 0x0A04 when it becomes displaced (R529). -/
def State.moveCore (s : State) (l p q : Nat) (lost : Bool) : State :=
  let x := s.lcore l
  let kp := s.core p
  let s := s.moveScratch p q lost
  -- a logical core that the section does not use loses the carrier that is taken
  let s := (natRange 0 64).foldl (fun a n => if (a.lcore n).carrier = some q then a.setLcore n { a.lcore n with carrier := none } else a) s
  let s := s.setCore q ((movedCore kp (s.core q)).srSet 0x036 (BitVec.ofNat 32 l))
  let s := s.setCore p { (kp.srSet 0x036 0xFF#32) with
    run := .held, task := none, wait := none, micro := none, ipend := 0, brks := [], nmiPend := false, haltPend := false
    state := if kp.faulted then .held else .underTest }
  let disp := x.displaced || q / 4 != x.home
  let s := s.setLcore l { x with carrier := some q, displaced := disp }
  if disp ∧ ¬ x.displaced then s.logEvent 0x0A04 1 [BitVec.ofNat 8 l, BitVec.ofNat 8 x.home, BitVec.ofNat 8 q] else s

/-- The scratch images of a logical core's tasks are copied again after its scratch was lost (R535, R496). -/
def State.replaceScratch (s : State) (l : Nat) : State :=
  match s.section with
  | none => s
  | some p => (p.tasks.filter fun t => t.lcore == l).foldl (fun a t =>
      let d := a.imageDom t.image
      if imgPlace d = 0 then
        match (a.lcore l).carrier with
        | some c => a.poke (scratchBase + scratchSize * c + imgLoad d) (d.drop 32)
        | none => a
      else a) s

/-- Whether a logical core waits for a replacement at this tick: its carrier reported a fault in an ended frame, or it is used and has
none (R535, R537). -/
def State.needsCarrier (s : State) (l : Nat) : Bool :=
  match (s.lcore l).carrier with
  | some c =>
    let k := s.core c
    k.faulted && (match k.faultFrame with | some f => decide (f < s.timer.frame) | none => true)
  | none => decide (l < s.nl)

/-- Whether any lower-numbered logical core waits too (R533). -/
def State.firstNeed (s : State) (l : Nat) : Bool := s.needsCarrier l && !((natRange 0 l).any s.needsCarrier)

/-- A fault replacement (R535): logical core `l` moves onto a ready spare; with none it has no carrier (R537). A core that has faulted
twice is then retired (R536). -/
def State.faultReplace (s : State) (l : Nat) : State :=
  let x := s.lcore l
  let due := fun (s : State) (p : Nat) => match s.repair.retireDue.find? fun y => y.1 == p with
    | some y => s.retireCore p y.2
    | none => s
  match x.carrier, s.spareFor x.home with
  | some p, some q =>
    let lost := (s.core p).scratchLost
    let s := s.moveCore l p q lost
    let s := if lost then s.replaceScratch l else s
    due (s.logEvent 0x0A03 2 [BitVec.ofNat 8 l, if lost then 1 else 0, BitVec.ofNat 8 p, BitVec.ofNat 8 q]) p
  | some p, none =>
    let s := s.setLcore l { x with carrier := none }
    due (s.setCore p { s.core p with state := .held }) p
  | none, some q =>
    let disp := x.displaced || q / 4 != x.home
    let s := (natRange 0 64).foldl (fun a n => if (a.lcore n).carrier = some q then a.setLcore n { a.lcore n with carrier := none } else a) s
    let s := s.setLcore l { x with carrier := some q, displaced := disp }
    let s := s.setCore q { ((s.core q).srSet 0x036 (BitVec.ofNat 32 l)) with run := .idle }
    let s := s.replaceScratch l
    if disp ∧ ¬ x.displaced then s.logEvent 0x0A04 1 [BitVec.ofNat 8 l, BitVec.ofNat 8 x.home, BitVec.ofNat 8 q] else s
  | none, none => s

def execFaultReplacement (l : LogId) (s : State) : Host.Outcome State Fault Refusal :=
  if s.timer.running ∧ ¬ s.failing ∧ s.firstNeed l ∧ ((s.lcore l).carrier.isSome ∨ (s.spareFor (s.lcore l).home).isSome) then
    .next (s.faultReplace l)
  else .next s

/-- Whether any replacement that a spare could serve is still to be made (R533). -/
def State.replacementDue (s : State) : Bool :=
  (natRange 0 64).any fun l => s.needsCarrier l && ((s.lcore l).carrier.isSome || (s.spareFor (s.lcore l).home).isSome)

/-- The logical core of a cluster whose carrier's last passed self-test is the oldest (R530). -/
def State.oldestIn (s : State) (cl : Nat) : Option Nat :=
  ((natRange 0 s.nl).filter fun l => match (s.lcore l).carrier with | some c => c / 4 == cl | none => false).foldl (fun best l =>
    match best with
    | none => some l
    | some b =>
      let age := fun n => match (s.lcore n).carrier with | some c => (s.core c).lastPass | none => 0
      if age l < age b then some l else some b) none

/-- The cluster to rotate: the first after the last one rotated that holds a ready spare (R530). -/
def State.rotCluster (s : State) : Option Nat :=
  ((natRange 1 17).map fun i => (s.repair.lastCluster + i) % 17).find? fun cl => !(s.sparesOf cl).isEmpty && (s.oldestIn cl).isSome

/-- One rotation at a rotation tick, after the replacements of the tick (R530, R533). -/
def execRotation (s : State) : Host.Outcome State Fault Refusal :=
  if ¬ s.timer.running ∨ s.failing ∨ ¬ s.repair.rotateDue ∨ s.replacementDue then .next s
  else
    let s := { s with repair := { s.repair with rotateDue := false } }
    match s.rotCluster with
    | none => .next s
    | some cl => match s.oldestIn cl, s.sparesOf cl with
      | some l, q :: _ => match (s.lcore l).carrier with
        | some p =>
          let s := s.moveCore l p q false
          let s := { s with repair := { s.repair with lastCluster := cl } }
          let s := s.count (okey 0x1200 6) 1
          .next (s.logEvent 0x0A01 0 [BitVec.ofNat 8 l, BitVec.ofNat 8 p, BitVec.ofNat 8 q])
        | none => .next s
      | _, _ => .next s

/-- A self-test of a core freed by a move or held for a fault ends: passed, it is a ready spare; failed, it is retired (R534). -/
def execCoreSelfTest (p : CoreId) (pass : Bool) (s : State) : Host.Outcome State Fault Refusal :=
  let k := s.core p
  let c : Nat := p
  if s.failing ∨ ¬ (k.state = .underTest ∨ k.state = .held) ∨ ((natRange 0 64).any fun l => (s.lcore l).carrier == some c) ∨
      s.repair.retired.contains c ∨ s.barista.stage ≠ .up then .next s
  else if pass then
    let s := s.moveScratch p p true
    .next (s.setCore p { k with state := .ready, faulted := false, scratchLost := false, lastPass := s.timer.frame, parityHold := none, run := .held })
  else .next (s.retireCore p 1)

/-- At a tick, a core that software has retired leaves service: its logical core moves to a ready spare first (R542). A core that faulted
twice and carries nothing is retired (R536). -/
def State.retireAtTick (s : State) : State :=
  s.repair.retireDue.foldl (fun a x =>
    match (natRange 0 64).find? fun l => (a.lcore l).carrier == some x.1 with
    | none => a.retireCore x.1 x.2
    | some l =>
      if x.2 ≠ 3 then a
      else if (a.carries x.1).isNone then (a.setLcore l { a.lcore l with carrier := none }).retireCore x.1 3
      else match a.spareFor (a.lcore l).home with
        | none => a
        | some q => (a.moveCore l x.1 q false).retireCore x.1 3) s

-- ---------------------------------------------------------------- row repair (R538, R539)

/-- KIND and UNIT of the SRAM row of an address (R523). -/
def rowOf (pa : Nat) : Nat × Nat :=
  match memOf pa with
  | 1 => (2, (pa - recordBase) / 2048)
  | 2 => (3, (pa - partnerBase) / 2048)
  | _ => (4, (pa - clusterBase) / 2048)

/-- The first byte of a row. -/
def rowBase (kind unit : Nat) : Nat :=
  (if kind = 2 then recordBase else if kind = 3 then partnerBase else clusterBase) + 2048 * unit

/-- The bank or cluster of a row, and how many spare rows it has (R538). -/
def rowBank (kind unit : Nat) : Nat := if kind = 4 then unit / 512 else unit / 2048
def rowSpares (kind : Nat) : Nat := if kind = 4 then 16 else 32

/-- How many consecutive scrub periods have found a corrected code word in a row: the entry holds 4 * period + count. -/
def State.rowCount (s : State) (kind unit : Nat) : Nat := Tab.get 0 s.repair.rowHits (kind * 2 ^ 15 + unit) % 4

/-- Whether a row is to be repaired (R538): an uncorrectable code word, or three consecutive periods with a corrected one. -/
def State.rowBad (s : State) (kind unit : Nat) : Bool :=
  let b := rowBase kind unit
  decide (3 ≤ s.rowCount kind unit) ||
  (s.upsets.any fun x => x.2 == .uncorrectable && decide (b ≤ x.1) && decide (x.1 < b + 2048)) ||
  (s.poison.any fun x => decide (b ≤ x.2) && decide (x.2 < b + 2048))

/-- The lowest unused spare row of a bank or cluster. -/
def State.freeSpare (s : State) (kind bank : Nat) : Option Nat :=
  (natRange 0 (rowSpares kind)).find? fun n => !(s.repair.rows.any fun r => r.kind == kind && rowBank r.kind r.unit == bank && r.spare == n)

/-- Whether KIND and UNIT name a row. -/
def rowNamed (kind unit : Nat) : Bool :=
  (kind == 2 && decide (unit < 16 * 2048)) || (kind == 3 && decide (unit < 2 * 2048)) || (kind == 4 && decide (unit < 17 * 512))

/-- Whether a repair of the row is in progress. -/
def State.repairing (s : State) (kind unit : Nat) : Bool := s.repair.rows.any fun r => r.kind == kind && r.unit == unit && !r.done

/-- The repair of a row starts: it takes the lowest unused spare; with none left event 0x0A07 is logged once (R538, R539). -/
def execSramRowRepair (kind : BitVec 4) (unit : BitVec 15) (s : State) : Host.Outcome State Fault Refusal :=
  let k := kind.toNat
  let u := unit.toNat
  if ¬ rowNamed k u ∨ ¬ s.rowBad k u ∨ s.repairing k u then .next s
  else
    let b := rowBank k u
    match s.freeSpare k b with
    | some n => .next { s with repair := { s.repair with rows := s.repair.rows ++ [⟨k, n, u, false⟩] } }
    | none =>
      if s.repair.exhausted.contains (k, b) then .next s
      else
        let s := s.logEvent 0x0A07 2 ([BitVec.ofNat 8 k, 0] ++ leBytes 2 b)
        .next { s with repair := { s.repair with exhausted := s.repair.exhausted ++ [(k, b)] } }

/-- The repair is complete: it is recorded and logged (R525, R526, R538). A listed code word stays poisoned at its address; a new row holds
no other error. -/
def execSramRowRepairComplete (kind : BitVec 4) (unit : BitVec 15) (s : State) : Host.Outcome State Fault Refusal :=
  let k := kind.toNat
  let u := unit.toNat
  match s.repair.rows.find? fun r => r.kind == k && r.unit == u && !r.done with
  | none => .next s
  | some r =>
    let b := rowBase k u
    let s := { s with
      repair := { s.repair with
        rows := s.repair.rows.map fun (x : RowRepair) => if x = r then { x with done := true } else x
        rowHits := Tab.erase (k * 2 ^ 15 + u) s.repair.rowHits }
      upsets := s.upsets.filter fun x => !(decide (x.2 = Upset.correctable) && decide (b ≤ x.1) && decide (x.1 < b + 2048)) }
    let s := s.recordFuse k r.spare u
    let s := s.count (okey 0x1203 4) 1 16
    .next (s.logEvent 0x0A06 1 ([BitVec.ofNat 8 k, BitVec.ofNat 8 r.spare] ++ leBytes 2 u))

-- ---------------------------------------------------------------- LUN retirement (R540)

/-- A LUN by its index. -/
def State.lun (s : State) (n : Nat) : Lun := Tab.get Lun.absent s.media.luns n
def State.setLun (s : State) (n : Nat) (x : Lun) : State := { s with media := { s.media with luns := Tab.put Lun.absent n x s.media.luns } }

/-- L_ch: the journal LUNs of a channel in service (R226). -/
def State.countLuns (s : State) (ch : Nat) : Nat :=
  sumOf (fun i => let x := s.lun (32 * ch + i); if x.role = 1 ∧ x.state = 1 then 1 else 0) (natRange 0 32)

/-- A figure of 0x0D01 for LUNs in configured SLC operation, or that of the parameter page (R226). -/
def State.slcFigure (s : State) (c : Chan) (sub page : Nat) : Nat :=
  let v := s.objNat (okey 0x0D01 sub) 0
  if c.bpc ≠ 1 ∧ v ≠ 0 then v else page

/-- The resume cost that a LUN of a role asks for: of each background operation its suspend latency, or its whole time where it cannot be suspended
(R224). -/
def State.suspOf (s : State) (c : Chan) (role : Nat) : Nat :=
  let slow := s.objNat (okey 0x0D01 (if role = 1 then 5 else 6)) 30000 + 2000
  max (if c.suspErase then slow else if role = 1 then s.slcFigure c 3 c.pageErase else c.pageErase) (if c.suspProg then slow else c.pageProg)

/-- The roles of the LUNs of a channel in service. -/
def State.rolesIn (s : State) (ch : Nat) : List Nat :=
  (((natRange (32 * ch) 32).map s.lun).filter fun x => x.state == 1).map Lun.role

/-- L_ch and the times of a channel follow its LUNs and 0x0D01 (R224, R226). -/
def State.refreshL (s : State) (ch : Nat) : State :=
  let c := s.chan ch
  if c.rate = 0 then s
  else
    let roles := s.rolesIn ch
    let c := { c with
      l := s.countLuns ch
      tProg := s.slcFigure c 1 c.pageProg
      tErase := s.slcFigure c 3 c.pageErase
      tR := roles.foldl (fun m r => max m (if r = 1 then s.slcFigure c 2 c.pageRead else c.pageRead)) 0
      tSusp := roles.foldl (fun m r => max m (s.suspOf c r)) 0 }
    { s with media := { s.media with chans := Tab.put Chan.off ch c s.media.chans } }

/-- A LUN leaves service and its rebuild begins (R540). -/
def State.retireLun (s : State) (n : Nat) : State :=
  let x := s.lun n
  if x.state = 3 ∨ x.rebuilding ∨ ¬ (x.role = 1 ∨ x.role = 2) then s
  else (s.setLun n { x with state := 2, rebuilding := true }).refreshL (n / 32)

end Sys2Proof.Machine
end

