-- ==== Sys2Proof/Machine/Geometry.lean ====
section
/-!
DEFINITION. The journal area of a channel group: stripes, segments and the data space (R155, R156, R200, R201, R206), and the headroom
H_g (R207).
-/

namespace Sys2Proof.Machine

/-- A channel group. -/
def State.group (s : State) (g : Nat) : Group := Tab.get Group.empty s.media.groups g
def State.setGroup (s : State) (g : Nat) (x : Group) : State :=
  { s with media := { s.media with groups := Tab.put Group.empty g x s.media.groups } }

/-- Blocks of one program unit: S_pg / 4,096 (R197). The group takes the figures of its first channel (log 40). -/
def State.unitBlocks (s : State) (g : Nat) : Nat := (s.chan (8 * g)).sPg / 4096

/-- Data blocks of a die stripe: seven members (R200, R201). -/
def State.stripeBlocks (s : State) (g : Nat) : Nat := 7 * (s.chan (8 * g)).pages * s.unitBlocks g

/-- Blocks of a stripe that whole segments use (R156). -/
def State.stripeUse (s : State) (g : Nat) : Nat := s.stripeBlocks g / 256 * 256

/-- Stripes of the journal area: every stripe but the two of the system area (R206). -/
def State.stripes (s : State) (g : Nat) : Nat := (s.group g).sets * (s.chan (8 * g)).nBlk - 2

/-- Blocks of the data space, as segments use it. -/
def State.dataBlocks (s : State) (g : Nat) : Nat := s.stripes g * s.stripeUse g

/-- The stripe index of a place in the data space (R200): the system area holds stripes 0 and 1. -/
def State.stripeOf (s : State) (g place : Nat) : Nat := place / s.stripeUse g + 2

/-- The first place of the unit that holds a place. -/
def State.unitStart (s : State) (g place : Nat) : Nat := place - place % s.stripeUse g % s.unitBlocks g

/-- Where the content of a place lies: in its own unit, or in the one to which a failed program was rewritten (R211; log 43). -/
def State.physPlace (s : State) (g place : Nat) : Nat :=
  let u := s.unitStart g place
  match (s.group g).remap.find? fun x => x.1 == u with
  | some x => x.2 + (place - u)
  | none => place

/-- The place whose content a unit holds. -/
def State.heldPlace (s : State) (g place : Nat) : Nat :=
  let u := s.unitStart g place
  match (s.group g).remap.find? fun x => x.2 == u with
  | some x => x.1 + (place - u)
  | none => place

/-- The channel of a place: data members in channel order, the parity member left out (R200, R201). -/
def State.memberChan (s : State) (g place : Nat) : Nat :=
  let st := s.stripeOf g place
  let m := place % s.stripeUse g / s.unitBlocks g % 7
  8 * g + (if m < st % 8 then m else m + 1)

/-- The parity group of a place: its stripe, and the row of seven units in it (R201). -/
def State.parityGroup (s : State) (g place : Nat) : Nat :=
  place / s.stripeUse g * 2 ^ 20 + place % s.stripeUse g / (7 * s.unitBlocks g)

/-- Journal LUN number k of a channel, in order of chip enable, then LUN (R200). -/
def State.journalLun (s : State) (ch k : Nat) : Nat :=
  match (natRange (32 * ch) 32).find? fun n => (s.lun n).role == 1 && (s.lun n).num == k && (s.lun n).state != 0 with
  | some n => n
  | none => 32 * ch

/-- Whether a multi-plane block of a LUN is good (R210, R211). -/
def Lun.good (l : Lun) (b : Nat) : Bool := !l.grownBad.contains b && !l.factoryBad.contains b

/-- Whether every member of a stripe of the stripe sets is good and in service (R200, R211). -/
def State.stripeGood (s : State) (g st : Nat) : Bool :=
  let nb := (s.chan (8 * g)).nBlk
  nb != 0 && (natRange (8 * g) 8).all fun ch =>
    let l := s.lun (s.journalLun ch (st / nb))
    l.role == 1 && l.num == st / nb && l.good (st % nb) && l.state == 1

/-- The stripe of a group's system area that serves: 0 or 1 of set 0 (R205, R211). -/
def State.sysStripe (s : State) (g : Nat) : Option Nat := [0, 1].find? (s.stripeGood g)

/-- The LUN at a place, and the one that holds the content of a place. -/
def State.lunAt (s : State) (g place : Nat) : Nat := s.journalLun (s.memberChan g place) (s.stripeOf g place / (s.chan (8 * g)).nBlk)
def State.placeLun (s : State) (g place : Nat) : Nat := s.lunAt g (s.physPlace g place)

/-- The LUN of the parity member of a row: channel 8g + (s mod 8) of stripe s (R200). -/
def State.parityLun (s : State) (g row : Nat) : Nat :=
  let st := row / 2 ^ 20 + 2
  s.journalLun (8 * g + st % 8) (st / (s.chan (8 * g)).nBlk)

/-- Data capacity of a group's journal area and of all (R206, 0x0D00.08), in bytes. -/
def State.groupCap (s : State) (g : Nat) : Nat := s.stripes g * s.stripeBlocks g * 4096
def State.journalCap (s : State) : Nat := sumOf s.groupCap (natRange 0 4)

/-- Whether a stripe of the journal area is erased and usable. -/
def Group.erasedStripe (x : Group) (i : Nat) : Bool := !x.used.contains i && !x.badStripes.contains i

/-- H_g (R207): the erased stripes, and what is left of the one being filled. -/
def State.headOf (s : State) (g : Nat) : Nat :=
  let x := s.group g
  let use := s.stripeUse g
  let rest := if use = 0 then 0 else (use - x.next % use) % use
  4096 * (use * ((natRange 0 (s.stripes g)).filter x.erasedStripe).length + rest)

/-- Whether a group has a journal. -/
def State.hasGroup (s : State) (g : Nat) : Bool := decide (0 < s.dataBlocks g)

/-- The groups in use. -/
def State.useGroups (s : State) : List Nat := (natRange 0 4).filter s.hasGroup

/-- The smallest H_g (0x0D00.09). -/
def State.headroomMin (s : State) : Nat :=
  match s.useGroups with
  | [] => 0
  | g :: t => t.foldl (fun m x => min m (s.headOf x)) (s.headOf g)

/-- The occupancy events and the hold of R207 at a tick. -/
def State.occupancy (s : State) : State :=
  let j := match s.section with | some p => p.journal | none => 0
  let s := s.useGroups.foldl (fun a g =>
    let low := decide (a.headOf g * 4 < a.groupCap g)
    let x := a.group g
    let a' := if low ∧ ¬ x.lowLogged then a.logEvent 0x0404 1 [BitVec.ofNat 8 g] [(a.headOf g, [])] else a
    a'.setGroup g { x with lowLogged := low }) s
  match s.useGroups with
  | [] => s
  | g0 :: _ =>
    let worst := s.useGroups.foldl (fun b g => if s.headOf g < s.headOf b then g else b) g0
    let ev := fun (t : State) => t.logEvent 0x0404 1 [BitVec.ofNat 8 worst] [(s.headOf worst, [])]
    if ¬ s.adm.held ∧ s.headOf worst < 4 * j + s.bFixed then
      let s := ev s
      { s with adm := { s.adm with held := true } }
    else if s.adm.held ∧ 8 * j + s.bFixed ≤ s.headOf worst then
      let s := ev s
      { s with adm := { s.adm with held := false } }
    else s

end Sys2Proof.Machine
end

