-- ==== Sys2Proof/Machine/Sets.lean ====
section
/-!
DEFINITION. Sets: their closing (R147), change-word swaps (R148), completeness and durability (R164 to R166), and the release of cells (R25).
-/

namespace Sys2Proof.Machine

-- ---------------------------------------------------------------- closing a set (R147, R162, R163; log 22)

/-- Cells of a record by number; 0 when it is gone. -/
def State.recCells (s : State) (id : Nat) : Nat := match s.record id with | some r => r.cells | none => 0

/-- Packs records into runs of blocks of 64 granules: a record that does not fit in what is left of a block begins the next one, and a
record of more than a block has a run of its own. `cur` is the open block, newest first, with the granules it uses. -/
def State.packRecs (s : State) : List Nat → List Nat → Nat → List Chunk
  | [], cur, _ => if cur = [] then [] else [⟨cur.reverse.map .record, 1, 0, none⟩]
  | id :: t, cur, used =>
    let n := s.recCells id
    let close : List Chunk := if cur = [] then [] else [⟨cur.reverse.map .record, 1, 0, none⟩]
    if 64 < n then close ++ (⟨[.record id], (n + 63) / 64, 0, none⟩ :: s.packRecs t [] 0)
    else if used + n ≤ 64 then s.packRecs t (id :: cur) (used + n)
    else close ++ s.packRecs t [id] n

/-- Runs of one block each. -/
def oneBlocks (n : Nat) (l : List Item) : List Chunk := (chunks n (l.length + 1) l).map fun x => ⟨x, 1, 0, none⟩

/-- The last frame by whose end a set must be complete: R22 for lines, keys and derived records; R21 for its own records and for those of
the frame before, whose effects it holds (R23, R165). -/
def State.setDue (s : State) (f dm : Nat) (changed : Bool) : Nat :=
  let hs := (s.adm.recs.filter fun r => r.derived.isNone && r.again.isNone && (r.frame == f || r.frame + 1 == f)).map fun r => r.frame + r.horizon
  (if changed then (f + dm - 1) :: hs else hs).foldl min (f + 16)

/-- The set of the ended frame `f` is closed: line images, derived records, records, key items, in the order of R163. -/
def State.closeSet (s : State) (f dm : Nat) : State :=
  let p := s.perc
  let lines := p.touched.reverse.eraseDups
  let keys := p.keyChanged.reverse
  let todo := oneBlocks 16 (lines.map .line) ++ s.packRecs p.curDerived.reverse [] 0 ++ s.packRecs p.curRecs.reverse [] 0 ++
    oneBlocks 255 (keys.map fun pg => .key pg ((Tab.get PageKey.reset s.keys pg).key &&& 0x9F#8))
  let n := sumOf Chunk.blocks todo
  let x : ChangeSet := {
    frame := f, dm := dm, due := s.setDue f dm (lines != [] || keys != [] || p.curDerived != []), todo := todo
    nBlocks := n, nextIdx := 0, programmed := 0, complete := if n = 0 then some s.timer.frame else none, missed := false,
    records := p.curDerived ++ p.curRecs }
  { s with perc := { p with
      sets := p.sets ++ [x], touched := [], curRecs := [], curDerived := [], keyChanged := []
      lastComplete := if n = 0 then max p.lastComplete f else p.lastComplete } }

-- ---------------------------------------------------------------- change words (R148)

/-- A page with PEND zero takes PEND := CUR, CUR := 0, CHG := 0. -/
def PageKey.swap (k : PageKey) : PageKey :=
  { key := k.key &&& 0xDF#8, cur := 0, pend := k.cur, curFrame := 0, pendFrame := if k.cur = 0 then 0 else k.curFrame }

/-- The swaps of a tick: durable pages whose PEND is zero swap, the others are deferred, counted and logged (R148). DESIGN CHOICE (log 57): a page
counts in 0x0C00.09 at every tick at which its swap stays deferred. -/
def State.swapWords (s : State) : State :=
  let durables := s.keys.filter fun x => s.durable (4096 * x.1)
  let late := (durables.filter fun x => x.2.pend != 0).map Prod.fst
  let s := durables.foldl (fun a x => if x.2.pend = 0 then a.setPageKey x.1 x.2.swap else a) s
  let s := { s with perc := { s.perc with
    deferred := s.perc.deferred ++ late.filter (fun p => !s.perc.deferred.contains p)
    deferrals := (s.perc.deferrals + late.length) % 2 ^ 32 } }
  if late = [] then s else s.logEvent 0x0301 1 (leBytes 4 late.length)

/-- The lines of a page whose images for the set of a frame are still to be programmed. -/
def State.unprogrammed (s : State) (page frame : Nat) : BitVec 16 :=
  let lines := (s.perc.sets.filter fun x => x.frame == frame).flatMap fun x => x.todo.flatMap fun c => c.items.filterMap fun i => match i with
    | .line pa => if pa / 4096 = page then some (pa / 256 % 16) else none
    | _ => none
  let held := (s.media.queue ++ s.media.posted).flatMap fun o => o.blocks.flatMap fun b => b.2.descs.filterMap fun d =>
    if b.2.kind = 2 ∧ b.2.setFrame = frame ∧ d.1 / 4096 = page then some (d.1 / 256 % 16) else none
  (lines ++ held).foldl (fun m n => m ||| (1#16 <<< n)) 0

/-- The deferred swap of a page whose last pending image has been programmed (R148): PEND takes those bits of CUR whose images are not yet
programmed. -/
def State.lateSwap (s : State) (page : Nat) : State :=
  let k := Tab.get PageKey.reset s.keys page
  if s.perc.deferred.contains page ∧ k.pend = 0 then
    let s := s.setPageKey page { k with cur := k.cur &&& s.unprogrammed page k.curFrame }.swap
    { s with perc := { s.perc with deferred := s.perc.deferred.filter (· != page) } }
  else s

-- ---------------------------------------------------------------- completeness and durability (R164, R165)

/-- Whether the set of a frame is complete: it is held and complete, or closed and no longer held. -/
def State.setComplete (s : State) (f : Nat) : Bool :=
  match s.perc.sets.find? fun x => x.frame == f with
  | some x => x.complete.isSome
  | none => decide (f < s.timer.frame)

/-- Whether a record is durable by R165: its set, and for an admitted record the set of the next frame. -/
def State.recComplete (s : State) (r : Rec) : Bool :=
  s.setComplete r.frame && (r.derived.isSome || s.setComplete (r.frame + 1))

/-- Records whose sets are now complete become durable in the present frame (R165). -/
def State.settle (s : State) : State :=
  { s with adm := { s.adm with recs := s.adm.recs.map fun r =>
      if r.durable = none ∧ r.again = none ∧ s.recComplete r then { r with durable := some s.timer.frame } else r } }

/-- Sets that nothing waits for any more are dropped: complete, and so is the next. -/
def State.dropSets (s : State) : State :=
  { s with perc := { s.perc with sets := s.perc.sets.filter fun x => !(x.complete.isSome && s.setComplete (x.frame + 1)) } }

/-- Sets that are incomplete at their deadline are counted and logged, once each (R166). The flag says whether there is one. -/
def State.missSets (s : State) (f : Nat) : State × Bool :=
  let late := s.perc.sets.filter fun x => x.complete.isNone && !x.missed && decide (x.due ≤ f)
  let s := late.foldl (fun a x => a.logEvent 0x0302 2 (leBytes 8 x.frame)) s
  ({ s with perc := { s.perc with
      misses := (s.perc.misses + late.length) % 2 ^ 32
      sets := s.perc.sets.map fun x => if x.complete = none ∧ x.due ≤ f then { x with missed := true } else x } }, late != [])

-- ---------------------------------------------------------------- release (R25, R115)

/-- Whether the cells of a record are released at the end of frame `f`: durable by then, and its processing frame over (R25, R189). -/
def Rec.released (r : Rec) (f : Nat) : Bool :=
  match r.again with
  | some p => decide (p ≤ f)
  | none => (match r.durable with | some d => decide (d ≤ f) | none => false) && (r.derived.isSome || decide (r.frame + 1 ≤ f))

/-- The cells and credits of one record are released (R115). -/
def State.releaseRec (s : State) (r : Rec) : State :=
  let s := { s with adm := { (s.adm.subAlloc r.dram r.cells) with recs := s.adm.recs.filter fun x => x.id != r.id } }
  let s := { s with adm := s.adm.setFree r.dram (s.adm.free r.dram + r.cells) }
  match r.derived with
  | some l => s.modLcore l fun x => { x with uc := x.uc - r.cells }
  | none =>
    let p := s.partner r.partner
    s.setPartner r.partner (if r.dram then { p with uD := p.uD - BitVec.ofNat 16 r.cells } else { p with uS := p.uS - BitVec.ofNat 16 r.cells })

/-- A_dur of a partner: the counter of the newest record such that it and every earlier one of the partner is durable (R96, R165). -/
def durCounter (old : Byte) : List Rec → Byte
  | [] => old
  | r :: t => if r.durable.isSome || r.again.isSome then durCounter r.alive t else old

/-- A_dur advances for the partners of a list. -/
def State.advanceDur (s : State) (ns : List Nat) : State :=
  ns.foldl (fun a n =>
    let p := a.partner n
    a.setPartner n { p with aDur := durCounter p.aDur (a.adm.recs.filter fun r => r.partner == n && r.derived.isNone && r.again.isNone) }) s

/-- Inserts into a rising list. -/
def insertNat (n : Nat) : List Nat → List Nat
  | [] => [n]
  | m :: t => if n < m then n :: m :: t else if n = m then m :: t else m :: insertNat n t

/-- The partners with a record that became durable in frame `f`, in increasing order (R119). -/
def State.durablePartners (s : State) (f : Nat) : List Nat :=
  (s.adm.recs.filter fun r => r.durable == some f && r.derived.isNone && r.again.isNone).foldl (fun l r => insertNat r.partner l) []

/-- The end of frame `f`: A_dur advances, acknowledgements come due, cells are released (R24, R25, R119). -/
def State.endFrame (s : State) (f : Nat) : State :=
  let ns := s.durablePartners f
  let s := s.advanceDur ns
  let s := { s with adm := { s.adm with durableDue := ns } }
  (s.adm.recs.filter fun r => r.released f).foldl State.releaseRec s

end Sys2Proof.Machine
end

