-- ==== Sys2Proof/Machine/Journal.lean ====
section
/-!
DEFINITION. The contents of the journal: block metadata (R158), segment headers and links (R157, R161), the records that its blocks hold
(R159), the unfolded range (R205), and what an engine makes of a record it reads (R134, R258).
-/

namespace Sys2Proof.Machine

-- ---------------------------------------------------------------- blocks (R157 to R161)

/-- The 288 bytes of block metadata (R158). -/
def Block.metaBytes (b : Block) : List Byte :=
  [BitVec.ofNat 8 b.kind, b.flags] ++ leBytes 2 b.index ++ leBytes 4 b.setIndex ++ leBytes 4 b.setCount ++ leBytes 4 b.epoch ++
  leBytes 8 b.setFrame ++ leBytes 8 b.startMap.toNat ++ sliceZ (b.descs.flatMap fun d => leBytes 8 d.1 ++ leBytes 8 d.2.toNat) 0 256

/-- The 4,384 bytes that parity covers (R201). -/
def Block.allBytes (b : Block) : List Byte := sliceZ b.data 0 4096 ++ b.metaBytes

/-- A block that belongs to no set. -/
def plainBlock (kind flags index epoch frame : Nat) (data : List Byte) : Block :=
  { kind := kind, flags := BitVec.ofNat 8 flags, index := index, setIndex := 0, setCount := 0, epoch := epoch, setFrame := frame, startMap := 0
    descs := [], data := sliceZ data 0 4096 }

/-- The link of a segment over its written blocks, the header first (R161). -/
def segLink : List Block → List Byte
  | [] => zeros 32
  | h :: body => sha256 (sliceZ h.data 0 128 ++ body.flatMap Block.allBytes)

/-- The 128 bytes of a segment header (R157). -/
def State.headerBytes (s : State) (g kind seq stripe : Nat) (link : List Byte) : List Byte :=
  let plan := match s.section with | some p => p.id | none => 0
  leBytes 4 0x54584A53 ++ leBytes 2 1 ++ [BitVec.ofNat 8 g, BitVec.ofNat 8 kind] ++ leBytes 8 seq ++ leBytes 8 s.timer.frame ++
  leBytes 4 s.adm.epoch ++ leBytes 4 stripe ++ link ++ leBytes 8 s.barista.serial ++ leBytes 4 plan ++ leBytes 4 s.timer.period ++ zeros 48

/-- The block at a place of a group's data space. -/
def Group.blockAt (x : Group) (place : Nat) : Option Block :=
  match x.blocks.find? fun b => b.1 == place with
  | some b => some b.2
  | none => none

-- ---------------------------------------------------------------- the unfolded range (R205, R208)

/-- How many places lie from a group's fold point to the next block to allocate: none when every segment opened has been folded, all of the data space
when the two meet otherwise. -/
def State.unfolded (s : State) (g : Nat) : Nat :=
  let x := s.group g
  let n := s.dataBlocks g
  if n = 0 ∨ x.seq = x.foldSeq then 0
  else
    let d := (x.next + n - x.foldBlock % n) % n
    if d = 0 then n else d

/-- The unfolded places in order. -/
def State.unfoldedPlaces (s : State) (g : Nat) : List Nat :=
  let n := s.dataBlocks g
  (natRange 0 (s.unfolded g)).map fun i => ((s.group g).foldBlock + i) % n

/-- J_u (0x0C00.06). -/
def State.unfoldedBytes (s : State) : Nat := 4096 * sumOf s.unfolded (natRange 0 4)

-- ---------------------------------------------------------------- the records of record blocks (R159)

/-- A record found in the journal: its group and places, its set, and its bytes as far as blocks hold them. -/
structure JRec where
  grp : Nat
  places : List Nat
  setFrame : Nat
  epoch : Nat
  /-- its place in its set: block index and granule -/
  order : Nat
  bytes : List Byte
  whole : Bool
deriving DecidableEq, Repr

/-- The data of `n` blocks from a place on, as far as record blocks of the same segment and set follow one another. -/
def Group.runData (x : Group) (place seg set : Nat) : Nat → List Byte
  | 0 => []
  | n + 1 => match x.blockAt place with
    | none => []
    | some b => if b.kind = 1 ∧ place / 256 = seg ∧ b.setFrame = set then sliceZ b.data 0 4096 ++ x.runData (place + 1) seg set n else []

/-- The record that begins at granule `j` of the block at a place. -/
def Group.recordFrom (x : Group) (g place : Nat) (b : Block) (j : Nat) : JRec :=
  let n := 32 + leField b.data (64 * j + 14) 2
  let blocks := (64 * j + n + 4095) / 4096
  let l := (x.runData place (place / 256) b.setFrame blocks).drop (64 * j)
  { grp := g, places := natRange place blocks, setFrame := b.setFrame, epoch := b.epoch, order := 64 * b.setIndex + j, bytes := l.take n, whole := decide (n ≤ l.length) }

/-- The records of the blocks at some places. -/
def State.recordsAt (s : State) (g : Nat) (places : List Nat) : List JRec :=
  let x := s.group g
  places.flatMap fun p => match x.blockAt p with
    | none => []
    | some b => if b.kind ≠ 1 then []
      else ((natRange 0 64).filter fun j => b.startMap.getLsbD j).map fun j => x.recordFrom g p b j

/-- Inserts in the order of sets, and of places in a set. -/
def insertJRec (x : JRec) : List JRec → List JRec
  | [] => [x]
  | y :: t => if x.setFrame < y.setFrame ∨ (x.setFrame = y.setFrame ∧ x.order < y.order) then x :: y :: t else y :: insertJRec x t

/-- The records at some places of groups, in admission order. -/
def State.recordsIn (s : State) (l : List (Nat × List Nat)) : List JRec :=
  (l.flatMap fun x => s.recordsAt x.1 x.2).foldl (fun l x => insertJRec x l) []

/-- The records of the unfolded journal. -/
def State.journalRecords (s : State) : List JRec := s.recordsIn ((natRange 0 4).map fun g => (g, s.unfoldedPlaces g))

/-- Whether a start on media that hold a journal has not come to step 10 of R186: nothing is written to the journal before it (R192). -/
def State.recovering (s : State) : Bool := !s.carafe.armed && s.useGroups.any fun g => (s.group g).fresh

/-- Header fields of a record's bytes (R109). -/
def recPartner (l : List Byte) : Nat := leField l 8 4 % 2 ^ 17
def recClass (l : List Byte) : Nat := leField l 12 1 % 64
def recFrame (l : List Byte) : Nat := leField l 16 8
def recTag (l : List Byte) : DWord := BitVec.ofNat 64 (leField l 0 8)
/-- Whether a record was emitted by a core: its tag has origin 0x02. -/
def recDerived (l : List Byte) : Bool := tagOrigin (recTag l) == 2

/-- What the close of an epoch decided: F_c, and the incomplete sets (R187; log 46). -/
def State.cutOf (s : State) (epoch : Nat) : Option (Nat × List Nat) :=
  match s.media.cuts.find? fun c => c.1 == epoch with
  | some c => some c.2
  | none => none

/-- Whether the line images and derived records of a set are discarded: it lies behind the F_c of its epoch (R36, R187). -/
def State.discarded (s : State) (epoch frame : Nat) : Bool :=
  match s.cutOf epoch with
  | none => false
  | some c => decide (c.1 < frame)

/-- Whether a record of the journal stands: a derived one of a set that was not discarded, an admitted one unless its set is incomplete and its
tag or its blocks do not let it be restored (R187). -/
def State.stands (s : State) (j : JRec) : Bool :=
  if recDerived j.bytes then !s.discarded j.epoch j.setFrame
  else match s.cutOf j.epoch with
  | none => true
  | some c => !c.2.contains j.setFrame || (j.whole && (s.tagJudge j.bytes).1 != 2)

-- ---------------------------------------------------------------- segments (R156, R157, R161)

/-- A segment as it is read back: its header's place and sequence, and its written blocks, the header first. -/
structure Seg where
  place : Nat
  seq : Nat
  blocks : List Block
deriving DecidableEq, Repr

/-- The segment of a sequence number, if its header can be found. The blocks end where a closing marker stands. -/
def Group.segment (x : Group) (seq : Nat) : Option Seg :=
  match x.blocks.find? fun b => b.2.kind == 4 && leField b.2.data 8 8 == seq with
  | none => none
  | some b => some ⟨b.1, seq, ((natRange b.1 256).filterMap x.blockAt).takeWhile fun k => k.kind != 5⟩

/-- The previous link that a segment's header records. -/
def Seg.prev (g : Seg) : List Byte := match g.blocks with | h :: _ => sliceZ h.data 32 32 | [] => []

/-- The link of a segment. -/
def Seg.link (g : Seg) : List Byte := segLink g.blocks

/-- The segments of a group in sequence order, from one on, while headers are found and the chain holds: the segments, the next sequence, the
link of the last, and whether a break ended the scan (R186 step 3). -/
def Group.scan (x : Group) : Nat → Nat → List Byte → List Seg → List Seg × Nat × List Byte × Bool
  | 0, seq, link, l => (l.reverse, seq, link, false)
  | f + 1, seq, link, l => match x.segment seq with
    | none => (l.reverse, seq, link, false)
    | some g => if g.prev = link then x.scan f (seq + 1) g.link (g :: l) else (l.reverse, seq, link, true)

-- ---------------------------------------------------------------- engines read records (R134, R138, R258)

/-- An engine reads a held record and judges it at a point. A code word that is uncorrectable makes it outcome 2 without a check. A new
tag, or Q, is written back to the cells (R138). -/
def State.judgeHeld (s : State) (point : Nat) (r : Rec) : State × Nat × List Byte :=
  let q := s.peekRec r
  let l := q.2.2
  if q.2.1 then
    let f := setQ l
    let s := if qSet l then q.1 else q.1.tagEvent point 3 (leField l 8 4) (leField l 16 8) (recTag l) 0
    (s.poke (s.recPa r + 13) [f.getD 13 0], 2, f)
  else
    let v := q.1.verifyAt point l
    let f := v.2.2
    (if f = l then v.1 else (v.1.poke (v.1.recPa r) (f.take 8)).poke (v.1.recPa r + 13) [f.getD 13 0], v.2.1, f)

end Sys2Proof.Machine
end

