-- ==== Sys2Proof/Machine/Queue.lean ====
section
/-!
DEFINITION. The media queue (R218): its quotas, what enqueues into it, and where bulk storage lies (R198, R212).
-/

namespace Sys2Proof.Machine

/-- The slots of an issuer (R218). -/
def quota : Issuer → Nat
  | .percolator => 2048 | .egress => 1024 | .grinder => 768 | .barista => 256

/-- The free slots of an issuer. -/
def State.freeSlots (s : State) (i : Issuer) : Nat := quota i - (s.media.queue.filter fun o => o.issuer == i).length

/-- The bus time of one unit on a channel (R67, R222). -/
def State.unitNs (s : State) (ch : Nat) : Nat := (s.chan ch).tXfer + (s.chan ch).tCmd

/-- An operation as it is enqueued. -/
def mkOp (i : Issuer) (k : OpKind) (lun group busNs : Nat) : MediaOp :=
  { id := 0, issuer := i, kind := k, lun := lun, group := group, area := .journal, blocks := [], parity := false, stripe := none, dirty := 0, busNs := busNs
    issued := false, retried := false, susp := 0, sent := 0, moved := none, ref := none, job := none, data := [] }

/-- A slot moves from free to queued (R218); the caller has seen that one is free. -/
def State.enqueue (s : State) (o : MediaOp) : State :=
  { s with media := { s.media with queue := s.media.queue ++ [{ o with id := s.media.nextOp }], nextOp := s.media.nextOp + 1 } }

/-- Bulk LUN number k of a channel, in order (R198, R201). -/
def State.bulkLun (s : State) (ch k : Nat) : Nat :=
  match (natRange (32 * ch) 32).find? fun n => (s.lun n).role == 2 && (s.lun n).num == k && (s.lun n).state != 0 with
  | some n => n
  | none => 32 * ch

/-- How many bulk stripe sets a group has (R201): numbers below the smallest of its channels. A withdrawn set keeps its number (R540). -/
def State.bulkSets (s : State) (g : Nat) : Nat :=
  let top := fun (ch : Nat) => (((natRange (32 * ch) 32).map s.lun).filter fun x => x.role == 2 && x.state != 0 && decide (x.num < 4096)).foldl
    (fun m x => max m (x.num + 1)) 0
  ((natRange (8 * g) 8).map top).foldl min 4096

/-- A bulk stripe's key, and the LUNs of its eight members. -/
def bulkKey (g stripe : Nat) : Nat := 2 ^ 20 * g + stripe
def State.bulkSetNo (s : State) (key : Nat) : Nat :=
  let nb := (s.chan (8 * (key / 2 ^ 20))).nBlk
  if nb = 0 then 0 else key % 2 ^ 20 / nb
def State.bulkLuns (s : State) (key : Nat) : List Nat :=
  (natRange (8 * (key / 2 ^ 20)) 8).map fun ch => s.bulkLun ch (s.bulkSetNo key)

/-- The multi-plane block of a bulk stripe on each of its members (R200, R201). -/
def State.bulkBlockNo (s : State) (key : Nat) : Nat :=
  let nb := (s.chan (8 * (key / 2 ^ 20))).nBlk
  if nb = 0 then 0 else key % 2 ^ 20 % nb

/-- Data blocks of a bulk stripe, in the LUNs' native mode (R198, R201). -/
def State.bulkUse (s : State) (key : Nat) : Nat :=
  let g := key / 2 ^ 20
  7 * (s.chan (8 * g)).pagePages * s.unitBlocks g

/-- The LUN of a place of bulk storage: data members in channel order; and that of a row's parity (R200, R201). -/
def State.bulkLunAt (s : State) (place : Nat) : Nat :=
  let key := place / 2 ^ 20
  let g := key / 2 ^ 20
  let par := key % 2 ^ 20 % 8
  let m := place % 2 ^ 20 / s.unitBlocks g % 7
  s.bulkLun (8 * g + (if m < par then m else m + 1)) (s.bulkSetNo key)
def State.bulkParityLun (s : State) (row : Nat) : Nat :=
  let key := row / 2 ^ 20
  s.bulkLun (8 * (key / 2 ^ 20) + key % 2 ^ 20 % 8) (s.bulkSetNo key)

/-- The row of a place of bulk storage. -/
def State.bulkRow (s : State) (place : Nat) : Nat :=
  let key := place / 2 ^ 20
  key * 2 ^ 20 + place % 2 ^ 20 / s.unitBlocks (key / 2 ^ 20) / 7

/-- The block at a place of bulk storage. -/
def State.bulkBlockAt (s : State) (place : Nat) : Option Block :=
  match s.media.bulkBlocks.find? fun b => b.1 == place with
  | some b => some b.2
  | none => none

/-- The bytes of a record in bulk storage, as its index entry finds them (R209). -/
def State.bulkBytes (s : State) (b : BulkRec) : List Byte :=
  sliceZ (b.places.flatMap fun p => match s.bulkBlockAt p with | some x => sliceZ x.data 0 4096 | none => zeros 4096) (64 * b.gran) b.len

/-- The image of a durable page: zeros where it has none, or where it was lost (R209, R541). -/
def State.pageBytes (s : State) (page : Nat) : List Byte :=
  match s.media.pages.find? fun x => x.1 == page with
  | some x => (match s.bulkBlockAt x.2.place with | some b => sliceZ b.data 0 4096 | none => zeros 4096)
  | none => zeros 4096

/-- The key byte that the durable image holds for a page. -/
def State.imageKey (s : State) (page : Nat) : Byte := match s.media.pages.find? fun x => x.1 == page with | some x => x.2.key | none => 0

/-- A version of a boot image, if held (R234). -/
def State.imageOf (s : State) (num ver : Nat) : Option BootImage := s.egress.images.find? fun i => i.num == num && i.version == ver

/-- The group that holds the newest image of the system area (R205). -/
def State.sysGroup (s : State) : Nat :=
  (s.media.sysImages.foldl (fun (b : Option (Nat × Nat)) x => match b with
    | none => some (x.1, x.2.version)
    | some y => if y.2 < x.2.version then some (x.1, x.2.version) else some y) none).elim 0 Prod.fst

/-- The first place of what a reference names: a place of bulk storage, none for the other areas. -/
def State.refPlace (s : State) : FlashRef → Option Nat
  | .bulk id => (s.media.bulk.find? fun b => b.id == id).bind fun b => b.places.head?
  | .image num ver b => (s.imageOf num ver).bind fun i => i.blocks[b]?.map Prod.fst
  | .page n => (s.media.pages.find? fun x => x.1 == n).map fun x => x.2.place
  | .journal _ _ => none
  | .parity _ _ => none
  | .system => none

/-- The LUN that a read of a reference goes to. -/
def State.refLun (s : State) (ref : FlashRef) : Nat :=
  match ref with
  | .journal g p => s.placeLun g p
  | .parity g row => s.parityLun g row
  | .system => s.journalLun (8 * s.sysGroup) 0
  | .bulk _ | .image _ _ _ | .page _ => match s.refPlace ref with
    | some p => s.bulkLunAt p
    | none => s.bulkLunAt 0

/-- The multi-plane block of a LUN that a reference lies in. -/
def State.refBlock (s : State) (ref : FlashRef) : Nat :=
  let of := fun (g st : Nat) => let nb := (s.chan (8 * g)).nBlk; if nb = 0 then 0 else st % nb
  match ref with
  | .journal g p => of g (s.stripeOf g (s.physPlace g p))
  | .parity g row => of g (row / 2 ^ 20 + 2)
  | .system => 0
  | .bulk _ | .image _ _ _ | .page _ => match s.refPlace ref with
    | some p => s.bulkBlockNo (p / 2 ^ 20)
    | none => 0

/-- The read units of a channel in the section in force (R55, R232). -/
def State.readUnits (s : State) (ch : Nat) : Nat :=
  match s.section with
  | some p => match p.media.find? fun m => m.ch == ch with | some m => m.r | none => 0
  | none => 0

/-- An egress read is enqueued when a slot of its quota and a read unit of its channel are left (R218, R232). -/
def State.fetchRead (s : State) (ref : FlashRef) : State :=
  let n := s.refLun ref
  let ch := n / 32
  let used := Tab.get 0 s.egress.readUsed ch
  if s.freeSlots .egress = 0 ∨ s.readUnits ch ≤ used ∨ (s.media.queue.any fun o => o.ref == some ref && o.issuer == .egress) then s
  else
    let s := { s with egress := { s.egress with readUsed := Tab.put 0 ch (used + 1) s.egress.readUsed } }
    s.enqueue { mkOp .egress .read n (ch / 8) (s.unitNs ch) with ref := some ref }

end Sys2Proof.Machine
end

