-- ==== Sys2Proof/Machine/Percolator.lean ====
section
/-!
DEFINITION. PERCOLATOR_UNIT_ENQUEUE (R153, R155 to R163): the Percolator gathers the content of closed sets into program units of a group.
-/

namespace Sys2Proof.Machine

-- ---------------------------------------------------------------- content (R153, R159, R160; log 22)

/-- A line's image for the set of a frame: from the capture slot of that set when one exists, otherwise from live memory (R150, R153). -/
def State.lineImage (s : State) (pa frame : Nat) : State × List Byte :=
  match s.perc.captures.find? fun c => c.pa == pa && c.frame == frame with
  | some c => (s, c.bytes)
  | none => s.engineRead pa 256

/-- The Percolator-origin tag of a line image (R127, R133). -/
def lineTag (pa frame : Nat) (l : List Byte) : DWord := mkTag (crc 0 (leBytes 8 pa ++ l)) (BitVec.ofNat 8 frame) 0 3

/-- What a block holds: its start map, descriptors and data, and the B_dirty bytes of its content (R154). -/
structure Content where
  kind : Nat
  startMap : BitVec 64
  descs : List (Nat × DWord)
  data : List Byte
  dirty : Nat
deriving DecidableEq, Repr

/-- Line slots. -/
def State.lineSlots (s : State) (frame : Nat) : List Item → Content → State × Content
  | [], c => (s, c)
  | .line pa :: t, c =>
    let r := s.lineImage pa frame
    r.1.lineSlots frame t { c with descs := c.descs ++ [(pa, lineTag pa frame r.2)], data := c.data ++ r.2, dirty := c.dirty + 256 }
  | _ :: t, c => s.lineSlots frame t c

/-- The records of one block, each judged at point 2 and padded to whole cells (R129, R136). -/
def State.recordSlots (s : State) : List Item → Content → State × Content
  | [], c => (s, c)
  | .record id :: t, c => match s.record id with
    | none => s.recordSlots t c
    | some r =>
      let v := s.judgeHeld 2 r
      let j := c.data.length / 64
      v.1.recordSlots t { c with
        startMap := c.startMap ||| (1#64 <<< j), data := c.data ++ sliceZ v.2.2 0 (64 * r.cells), dirty := c.dirty + 64 * r.cells }
  | _ :: t, c => s.recordSlots t c

/-- Block `j` of a record's run of its own: it is judged with its first block. -/
def State.runBlock (s : State) (id j : Nat) : State × Content :=
  match s.record id with
  | none => (s, ⟨1, 0, [], [], 0⟩)
  | some r =>
    let v := if j = 0 then s.judgeHeld 2 r else (let q := s.peekRec r; (q.1, 0, q.2.2))
    (v.1, ⟨1, if j = 0 then 1 else 0, [], sliceZ v.2.2 (4096 * j) 4096, 64 * min 64 (r.cells - 64 * j)⟩)

/-- A control item header and its key items (R159, R160). -/
def keyBlock (l : List Item) : Content :=
  let items := l.filterMap fun i => match i with | .key p b => some (leBytes 8 (4096 * p) ++ [b] ++ zeros 7) | _ => none
  ⟨3, 0, [], [0x02#8, 0, 0, 0] ++ leBytes 4 items.length ++ zeros 8 ++ items.flatten, 0⟩

/-- The next block of a run. -/
def State.chunkBlock (s : State) (frame : Nat) (c : Chunk) : State × Content :=
  match c.items with
  | .line _ :: _ => s.lineSlots frame c.items ⟨2, 0, [], [], 0⟩
  | .control l :: _ => (s, ⟨3, 0, [], l, 0⟩)
  | .record id :: _ => if c.blocks ≤ 1 then s.recordSlots c.items ⟨1, 0, [], [], 0⟩ else s.runBlock id c.placed
  | _ => (s, keyBlock c.items)

-- ---------------------------------------------------------------- which content is next (R163)

/-- The set to write: content that is not yet begun with the earliest deadline first. -/
def State.dueSet (s : State) : Option ChangeSet :=
  (s.perc.sets.filter fun x => x.todo.any fun c => c.placed == 0).foldl (fun b x => match b with
    | none => some x
    | some y => if x.due < y.due then some x else some y) none

/-- The run that a group writes next, as its set and its number in the set: the one begun in the group's open segment, else the first of the set that is
due first (R159, R163). -/
def State.nextRun (s : State) (g : Nat) : Option (ChangeSet × Nat) :=
  match s.perc.sets.find? fun x => x.todo.any fun c => c.grp == some g with
  | some x => some (x, x.todo.findIdx fun c => c.grp == some g)
  | none => s.dueSet.map fun x => (x, x.todo.findIdx fun c => c.placed == 0)

/-- Whether the Percolator may take a run: the copies of its derived records are complete (R118). -/
def State.chunkReady (s : State) (c : Chunk) : Bool :=
  c.items.all fun i => match i with
    | .record id => (match s.record id with | some r => r.copied | none => true)
    | _ => true

/-- One more block of a run of a set has been placed by a group. -/
def ChangeSet.placeOne (x : ChangeSet) (i g : Nat) : ChangeSet :=
  match x.todo[i]? with
  | none => x
  | some c =>
    let done := decide (c.blocks ≤ c.placed + 1)
    { x with
      todo := if done then x.todo.eraseIdx i else x.todo.set i { c with placed := c.placed + 1, grp := some g }
      nextIdx := x.nextIdx + 1 }

def State.setChange (s : State) (x : ChangeSet) : State :=
  { s with perc := { s.perc with sets := s.perc.sets.map fun y => if y.frame = x.frame then x else y } }

/-- The records that begin in a block of a set have their place in it. -/
def State.placeRecords (s : State) (setIndex : Nat) (c : Chunk) (starts : BitVec 64) : State :=
  let ids := c.items.filterMap fun i => match i with | .record id => some id | _ => none
  let held := ids.filter fun id => (s.record id).isSome
  (held.zip ((natRange 0 64).filter fun j => starts.getLsbD j)).foldl (fun a x => match a.record x.1 with
    | some r => a.setRecord { r with order := some (64 * setIndex + x.2) }
    | none => a) s

-- ---------------------------------------------------------------- a unit

/-- A unit being built: its blocks, newest first, and the B_dirty bytes it holds. -/
structure UnitBuild where
  blocks : List (Nat × Block)
  dirty : Nat

/-- Whether a flush is in progress: its blocks have flag [0] set (R158). -/
def State.inFlush (s : State) : Bool := s.pf.stage == .flushing

/-- A segment opens at a place: the previous one's link is closed, and the header block follows (R156, R157, R161). -/
def State.openSegment (s : State) (g place : Nat) : State × Block :=
  let x := s.group g
  let link := if x.seg.isSome then segLink x.cur.reverse else x.link
  let fl := if s.inFlush then 1 else 0
  let b := plainBlock 4 fl 0 s.adm.epoch s.timer.frame (s.headerBytes g (if s.inFlush then 1 else if x.fresh then 2 else 0) x.seq (s.stripeOf g place) link)
  (s.setGroup g { x with seq := x.seq + 1, link := link, seg := some place, fresh := false, cur := [] }, b)

/-- How many blocks a run of `n` blocks may take from a place on: it stays in its segment, and in its unit when it fits in one (R159). -/
def State.runRoom (s : State) (g place n : Nat) : Nat :=
  let inSeg := 256 - place % 256
  if n ≤ s.unitBlocks g then min inSeg (s.unitStart g place + s.unitBlocks g - place) else inSeg

/-- The body block of a place: the group's next run when it fits and is ready, otherwise a pad (R159, R162, R163). -/
def State.bodyBlock (s : State) (g place : Nat) : State × Block × Nat :=
  let idx := place % 256
  let fl := if s.inFlush then 1 else 0
  let pad := (s, plainBlock 0 fl idx s.adm.epoch s.timer.frame [], 0)
  match s.nextRun g with
  | none => pad
  | some (x, i) => match x.todo[i]? with
    | none => pad
    | some c =>
      if (c.placed = 0 ∧ s.runRoom g place c.blocks < c.blocks) ∨ ¬ s.chunkReady c then pad
      else
        let r := s.chunkBlock x.frame c
        let b : Block := {
          kind := r.2.kind, flags := BitVec.ofNat 8 fl, index := idx, setIndex := x.nextIdx, setCount := x.nBlocks, epoch := s.adm.epoch
          setFrame := x.frame, startMap := r.2.startMap, descs := r.2.descs, data := sliceZ r.2.data 0 4096 }
        ((r.1.placeRecords x.nextIdx c r.2.startMap).setChange (x.placeOne i g), b, r.2.dirty)

/-- The blocks of a unit from a place on. -/
def State.buildUnit (s : State) (g place : Nat) : Nat → UnitBuild → State × UnitBuild
  | 0, u => (s, u)
  | n + 1, u =>
    let r : State × Block × Nat := if place % 256 = 0 then (let o := s.openSegment g place; (o.1, o.2, 0)) else s.bodyBlock g place
    let x := r.1.group g
    let s := r.1.setGroup g { x with cur := r.2.1 :: x.cur }
    s.buildUnit g (place + 1) n ⟨(place, r.2.1) :: u.blocks, u.dirty + r.2.2⟩

/-- The XOR of two byte lists, the shorter one continued with zeros (R201). -/
def xorBytes : List Byte → List Byte → List Byte
  | [], b => b
  | a, [] => a
  | x :: a, y :: b => (x ^^^ y) :: xorBytes a b

/-- The first stripe at or after one, in use order, that is not out of use (R206, R211). -/
def Group.nextStripe (x : Group) (i n : Nat) : Nat :=
  match ((natRange 0 n).map fun d => (i + d) % n).find? fun j => !x.badStripes.contains j with
  | some j => j
  | none => i

/-- Whether a group has begun a run that its open segment is to hold whole (R159). -/
def State.runOpen (s : State) (g : Nat) : Bool := s.perc.sets.any fun x => x.todo.any fun c => c.grp == some g

/-- The place of a group's next unit: the next stripe opens only when it is erased (R206), and once a block of the stripe being filled has gone bad
(R211), as soon as no run is left open in it. -/
def State.unitPlace (s : State) (g : Nat) : Option Nat :=
  let x := s.group g
  let use := s.stripeUse g
  if use = 0 ∨ s.stripes g = 0 then none
  else if x.next % use ≠ 0 ∧ (s.runOpen g ∨ !x.badStripes.contains (x.next / use)) then some x.next
  else
    let i := x.nextStripe ((x.next + use - 1) / use % s.stripes g) (s.stripes g)
    if x.erasedStripe i then some (i * use) else none

/-- The most program units of a channel in a frame (R163): those of the media table in force most recently; with none since the start, what the
channel's time less a reserve of 5 % holds. -/
def State.unitLimit (s : State) (ch : Nat) : Nat :=
  if s.plans.lastMedia = [] then (if s.unitNs ch = 0 then 0 else s.timer.period * 95 / 100 / s.unitNs ch)
  else match s.plans.lastMedia.find? fun m => m.1 == ch with
    | some m => m.2.1
    | none => 0

/-- A unit of given blocks: a segment opens where one begins, unless `bare`; pads complete it. -/
def State.buildFixed (s : State) (g place : Nat) (bare : Bool) : Nat → List Block → UnitBuild → State × UnitBuild
  | 0, _, u => (s, u)
  | n + 1, bs, u =>
    if place % 256 = 0 ∧ ¬ bare then
      let o := s.openSegment g place
      let x := o.1.group g
      (o.1.setGroup g { x with cur := [o.2] }).buildFixed g (place + 1) bare n bs ⟨(place, o.2) :: u.blocks, u.dirty⟩
    else
      let b := match bs with
        | b :: _ => { b with index := place % 256 }
        | [] => plainBlock 0 (if s.inFlush then 1 else 0) (place % 256) s.adm.epoch s.timer.frame []
      let x := s.group g
      (s.setGroup g (if bare then x else { x with cur := b :: x.cur })).buildFixed g (place + 1) bare n (bs.drop 1) ⟨(place, b) :: u.blocks, u.dirty⟩

/-- Whether the parity of a row is programmed, or on its way: such a row gets no second parity unit (log 68). -/
def State.rowClosed (s : State) (g row : Nat) : Bool :=
  ((s.group g).parity.any fun p => p.1 == row) ||
  ((s.media.queue ++ s.media.posted).any fun o => o.parity && o.area == .journal && o.ref == some (.parity (Fin.ofNat 4 g) row))

/-- A unit of a channel is counted against its planned units (R163). -/
def State.countUnit (s : State) (ch : Nat) : State :=
  { s with perc := { s.perc with used := Tab.put 0 ch (Tab.get 0 s.perc.used ch + 1) s.perc.used } }

/-- The parity unit of a row is enqueued from the accumulator, which starts again (R156, R201). -/
def State.closeRow (s : State) (g row : Nat) : State :=
  let x := s.group g
  let s := s.setGroup g { x with sinceParity := 0, acc := [] }
  if s.rowClosed g row then s
  else
    let lun := s.parityLun g row
    (s.enqueue { mkOp .percolator .program lun g (s.unitNs (lun / 32)) with
      parity := true, data := x.acc, ref := some (.parity (Fin.ofNat 4 g) row) }).countUnit (lun / 32)

/-- Whether a unit at a place is the last of its row (R201), of its stripe as segments use it. -/
def State.rowEnds (s : State) (g place : Nat) : Bool :=
  let use := s.stripeUse g
  place % use / s.unitBlocks g % 7 == 6 || use ≤ place % use + s.unitBlocks g

/-- A unit of blocks takes a place: its stripe is in use, its operation enqueued, the accumulator taken on; a row that ends has its parity programmed. -/
def State.placeUnit (s : State) (g place next : Nat) (bytes : List Byte) (o : MediaOp) : State :=
  let use := s.stripeUse g
  let x := s.group g
  let row := s.parityGroup g place
  let acc := if place % use / s.unitBlocks g % 7 = 0 then [] else x.acc
  let used := if x.used.contains (place / use) then x.used else place / use :: x.used
  let s := s.setGroup g { x with next := next % s.dataBlocks g, sinceParity := x.sinceParity + 1, acc := xorBytes acc bytes, used := used }
  let s := (s.enqueue o).countUnit (o.lun / 32)
  if s.rowEnds g place then s.closeRow g row else s

/-- What is left open in a stripe that the next unit leaves gets its parity (R156, R211). -/
def State.leaveStripe (s : State) (g place : Nat) : State :=
  let x := s.group g
  if place = x.next ∨ x.sinceParity = 0 then s else s.closeRow g (s.parityGroup g (x.next - 1))

/-- A unit is built at a place and enqueued (R153, R156, R201). -/
def State.enqueueBuilt (s : State) (g place : Nat) (build : State → Nat → State × UnitBuild) : State :=
  let s := s.leaveStripe g place
  let n := min (s.unitBlocks g) (s.stripeUse g - place % s.stripeUse g)
  let b := build s n
  let blocks := b.2.blocks.reverse
  let lun := b.1.lunAt g place
  b.1.placeUnit g place (place + n) (blocks.flatMap fun y => y.2.allBytes)
    { mkOp .percolator .program lun g (b.1.unitNs (lun / 32)) with blocks := blocks, dirty := b.2.dirty }

/-- A unit of the content that is due first. -/
def State.enqueueUnit (s : State) (g place : Nat) : State := s.enqueueBuilt g place fun s n => s.buildUnit g place n ⟨[], 0⟩

/-- Where a group goes on after a rewritten unit: behind it, and behind the whole segment's room where a segment would have begun there (log 43). -/
def State.afterRewrite (s : State) (g place : Nat) : Nat := if place % 256 = 0 then place + 256 else place + s.unitBlocks g

/-- A unit whose program failed or timed out is written again at the group's next place; a parity unit keeps its row (R183, R211, R220). -/
def State.rewriteUnit (s : State) (g place : Nat) (o : MediaOp) : State :=
  let s := { s with media := { s.media with posted := s.media.posted.filter fun p => p.id != o.id } }
  if o.parity then s.enqueue o
  else
    let s := s.leaveStripe g place
    let u := match o.blocks with | b :: _ => b.1 | [] => place
    let x := s.group g
    let s := s.setGroup g { x with remap := (u, place) :: x.remap.filter fun r => r.1 != u }
    s.placeUnit g place (s.afterRewrite g place) (o.blocks.flatMap fun y => y.2.allBytes) { o with lun := s.lunAt g place, moved := some place }

/-- Whether a channel has a planned unit left; the flush is not held to them (R163). -/
def State.unitLeft (s : State) (ch : Nat) : Bool := s.inFlush || decide (Tab.get 0 s.perc.used ch < s.unitLimit ch)

/-- Whether a group can take one more unit: a place, slots of the quota, and planned units of the channels that it and the parity units need. -/
def State.unitRoom (s : State) (g : Nat) : Option Nat :=
  match s.unitPlace g with
  | none => none
  | some p =>
    let x := s.group g
    let par := fun (q : Nat) => s.unitLeft (s.parityLun g (s.parityGroup g q) / 32)
    if 3 ≤ s.freeSlots .percolator ∧ s.unitLeft (s.memberChan g p) ∧ (!s.rowEnds g p || par p) ∧
        (decide (p = x.next) || x.sinceParity == 0 || par (x.next - 1)) then some p else none

/-- Whether a group has content that can be written now. -/
def State.contentReady (s : State) (g : Nat) : Bool :=
  match s.nextRun g with
  | none => false
  | some (x, i) => match x.todo[i]? with | none => false | some c => s.chunkReady c

/-- Whether the journal may be written: outside power loss once the frame timer runs, and in the flush (R163, R179). -/
def State.percolates (s : State) : Bool := s.media.present && !s.recovering && ((s.timer.running && s.pf.stage == .none) || s.inFlush)

/-- The Percolator writes one unit of a group: first what is to be written again, then the content due first. -/
def execPercolatorUnitEnqueue (grp : GroupId) (s : State) : Host.Outcome State Fault Refusal :=
  if ¬ s.percolates then .next s
  else match s.unitRoom grp with
    | none => .next s
    | some p => match s.media.posted.find? fun o => o.group == grp.val with
      | some o => .next (s.rewriteUnit grp p o)
      | none => .next (if s.contentReady grp then s.enqueueUnit grp p else s)

end Sys2Proof.Machine
end

