-- ==== Sys2Proof/Machine/SysArea.lean ====
section
/-!
DEFINITION. The system area (R205): its tables, the images that hold them, and what becomes true when one is written (R208 step 6).
-/

namespace Sys2Proof.Machine

/-- Role and SLC flag of a LUN as written: in force from the next start (R198, R199). -/
def State.roleOf (s : State) (n : Nat) : Nat := s.objNat (wkey 0x0D08 2 n) 0
def State.slcOf (s : State) (n : Nat) : Bool := s.objNat (wkey 0x0D08 3 n) 0 != 0

/-- The tables as they stand (R205). -/
def State.tables (s : State) : SysTables :=
  let m := s.media
  { bad := m.luns.map fun x => (x.1, x.2.factoryBad, x.2.grownBad)
    roles := m.luns.map fun x => (x.1, s.roleOf x.1)
    slc := m.luns.map fun x => (x.1, s.slcOf x.1)
    erases := m.luns.map fun x => (x.1, x.2.erases)
    plan := m.savedPlan
    folds := m.groups.map fun x => (x.1, x.2.foldSeq, x.2.foldBlock, x.2.foldLink)
    pages := m.pages, imgFrame := m.imgFrame, bulk := m.bulk, nextBulk := m.nextBulk
    periods := m.periods, retentions := m.retentions, lapses := m.lapses
    lineFrames := m.lineFrames, keyFrames := m.keyFrames, snaps := m.snaps, cuts := m.cuts }

/-- A table has changed: the next image will hold it. -/
def State.tableChanged (s : State) : State := { s with media := { s.media with sysDirty := true } }

-- ---------------------------------------------------------------- a job's outcome (R208, R213)

/-- A group's fold point. -/
def State.setFold (s : State) (g : Nat) (f : Nat × Nat × List Byte) : State :=
  s.setGroup g { s.group g with foldSeq := f.1, foldBlock := f.2.1, foldLink := f.2.2 }

/-- A boot image's block has a new place. -/
def BootImage.moveBlock (i : BootImage) (b place : Nat) : BootImage :=
  match i.blocks[b]? with
  | some x => { i with blocks := i.blocks.set b (place, x.2) }
  | none => i

/-- The boot images, with the block that a job has moved. -/
def Job.movedImages (j : Job) (l : List BootImage) : List BootImage :=
  match j.image with
  | none => l
  | some x => l.map fun i => if i.num = x.1 ∧ i.version = x.2.1 then i.moveBlock x.2.2.1 x.2.2.2 else i

/-- The index entries that a job has written: a record moved only while the index still holds it. -/
def Job.entries (j : Job) (l : List BulkRec) : List BulkRec :=
  match j.kind with
  | .fold _ _ => j.recs
  | .move _ => j.recs.filter fun r => l.any fun b => b.id == r.id

/-- The relocation queue when a job has ended. -/
def Job.queueAfter (j : Job) (l : List FlashRef) : List FlashRef :=
  match j.kind with
  | .fold _ _ => l
  | .move ref => l.filter fun r => r != ref

/-- Index entries, page images, the fold point and the relocation queue follow what a job has written. -/
def State.applyJob (s : State) (j : Job) : State :=
  let kept := s.media.bulk.filter fun (b : BulkRec) => !j.gone.contains b.id && !(j.recs.any fun r => r.id == b.id)
  let pages := j.pages.foldl (fun (t : Tab PageImage) (x : Nat × Option PageImage) =>
    match x.2 with | some p => Tab.insert x.1 p t | none => Tab.erase x.1 t) s.media.pages
  let s := { s with media := { s.media with bulk := kept ++ j.entries s.media.bulk, pages := pages, relocate := j.queueAfter s.media.relocate } }
  let s := { s with egress := { s.egress with images := j.movedImages s.egress.images } }
  match j.kind, j.fold with
  | .fold g _, some f =>
    { s.setFold g f with media := { (s.setFold g f).media with
        lineFrames := j.lineFrames, keyFrames := j.keyFrames, snaps := j.snaps, imgFrame := max s.media.imgFrame j.newest } }
  | _, _ => s

/-- The Grinder's jobs. -/
def State.setJob (s : State) (j : Job) : State :=
  { s with media := { s.media with jobs := s.media.jobs.map fun x => if x.id = j.id then j else x } }
def State.job (s : State) (id : Nat) : Option Job := s.media.jobs.find? fun j => j.id == id
def State.dropJob (s : State) (id : Nat) : State := { s with media := { s.media with jobs := s.media.jobs.filter fun j => j.id != id } }

/-- Whether a job is under way: not one that was given up until a later frame. -/
def Job.active (j : Job) : Bool := match j.stage with | .dropped _ => false | _ => true

/-- Jobs that were given up in an ended frame may be tried again (R220). -/
def State.retryJobs (s : State) : State := { s with media := { s.media with jobs := s.media.jobs.filter Job.active } }

/-- The job under way: the Grinder has one at a time (R208; log 48). -/
def State.activeJob (s : State) : Option Job := s.media.jobs.find? Job.active

-- ---------------------------------------------------------------- writing an image (R205)

/-- The group that the image of a version goes to: updates rotate through the groups whose system area serves. -/
def State.sysTarget (s : State) (version : Nat) : Option Nat :=
  match s.useGroups.filter fun g => (s.sysStripe g).isSome with
  | [] => none
  | l => l[version % l.length]?

/-- The next image is written when a job has programmed all it wrote, or a table has changed: one at a time, in the Grinder's quota. -/
def State.sysTry (s : State) : State :=
  let m := s.media
  let due := m.jobs.find? fun j => j.stage == .programmed
  if m.sysOpen.isSome ∨ s.freeSlots .grinder = 0 ∨ (due.isNone ∧ !m.sysDirty) ∨ !m.present then s
  else match s.sysTarget (m.sysVersion + 1) with
  | none => s
  | some g =>
    let t := match due with | some j => (s.applyJob j).tables | none => s.tables
    let s := match due with | some j => s.setJob { j with stage := .system } | none => s
    let s := { s with media := { s.media with sysVersion := m.sysVersion + 1, sysDirty := false, sysOpen := some ⟨m.sysVersion + 1, t⟩ } }
    s.enqueue { mkOp .grinder .program (s.journalLun (8 * g) 0) g (s.unitNs (8 * g)) with area := .system, ref := some .system, stripe := s.sysStripe g }

/-- The job whose outcome the image being written holds. -/
def State.sysJob (s : State) : Option Job := s.media.jobs.find? fun j => j.stage == .system

/-- The image is programmed: what its job has written stands (R208 step 6). -/
def State.sysDone (s : State) (g : Nat) : State :=
  match s.media.sysOpen with
  | none => s
  | some x =>
    let s := { s with media := { s.media with sysImages := Tab.insert g x s.media.sysImages, sysOpen := none } }
    let s := match s.sysJob with
      | some j => (s.applyJob j).dropJob j.id
      | none => s
    s.sysTry

/-- The write of the image did not succeed: the next one goes to another group. -/
def State.sysFailed (s : State) : State :=
  let s := { s with media := { s.media with sysOpen := none, sysDirty := true } }
  match s.sysJob with
  | some j => s.setJob { j with stage := .programmed }
  | none => s

-- ---------------------------------------------------------------- the tables at a start (R196, R205)

/-- The image of the highest version among those that verify. -/
def newestImage (good : List Bool) (l : Tab SysImage) : Option SysImage :=
  (l.filter fun x => good.getD x.1 false).foldl (fun (b : Option SysImage) x => match b with
    | none => some x.2
    | some y => if y.version < x.2.version then some x.2 else some y) none

/-- A LUN takes its bad blocks and erase counts from the tables. -/
def SysTables.lun (t : SysTables) (n : Nat) (x : Lun) : Lun :=
  let b := (t.bad.find? fun y => y.1 == n).elim ([], []) Prod.snd
  { x with factoryBad := b.1, grownBad := b.2, erases := (t.erases.find? fun y => y.1 == n).elim [] Prod.snd }

/-- The value of an object of a LUN that the configuration area does not hold is that of the tables (R196; log 69). -/
def State.takeObject (s : State) (key v : Nat) : State :=
  if (s.obj.any fun x => x.1 == key) ∨ v = 0 then s else { s with obj := Tab.put [] key [BitVec.ofNat 8 v] s.obj }

/-- The roles and SLC flags of the tables. -/
def State.takeRoles (s : State) (t : SysTables) : State :=
  let s := t.roles.foldl (fun a x => a.takeObject (wkey 0x0D08 2 x.1) x.2) s
  t.slc.foldl (fun a x => a.takeObject (wkey 0x0D08 3 x.1) (if x.2 then 1 else 0)) s

/-- The working tables are those of an image. -/
def State.takeTables (s : State) (t : SysTables) : State :=
  let s := { s with media := { s.media with
    savedPlan := t.plan, pages := t.pages, imgFrame := t.imgFrame, bulk := t.bulk, nextBulk := t.nextBulk, bulkOpen := none
    periods := t.periods, retentions := t.retentions, lapses := t.lapses, lineFrames := t.lineFrames, keyFrames := t.keyFrames, snaps := t.snaps, cuts := t.cuts
    luns := s.media.luns.map fun x => (x.1, t.lun x.1 x.2) } }
  t.folds.foldl (fun a x => a.setFold x.1 x.2) s

end Sys2Proof.Machine
end

