-- ==== Sys2Proof/Machine/Bulk.lean ====
section
/-!
DEFINITION. Bulk storage (R198, R201, R202, R208 to R216): its stripes, what is written to them, retention and expiry.
-/

namespace Sys2Proof.Machine

-- ---------------------------------------------------------------- retention (R214 to R216)

/-- The sum of the nominal periods of the frames from `a` up to `b`, by the period history, newest entry first (R205, R215). A frame before its first
entry counts with `p0`, the period of that entry. -/
def agedNs (a b p0 : Nat) : List (Nat × Nat) → Nat
  | [] => (b - a) * p0
  | (f, p) :: t => (b - max a f) * p + agedNs a (min b f) p0 t

/-- The age of a record admitted in a frame. -/
def State.ageNs (s : State) (frame : Nat) : Nat :=
  let p0 := match s.media.periods with | x :: _ => x.2 | [] => s.timer.period
  agedNs frame s.timer.frame p0 s.media.periods.reverse

/-- The retention class of class `k` in a frame (R215). -/
def State.retentionOf (s : State) (k frame : Nat) : Nat :=
  match (s.media.retentions.filter fun x => x.2.1 == k && decide (x.1 ≤ frame)).getLast? with
  | some x => x.2.2
  | none => 0

/-- Whether a record of a retention class admitted in a frame is expired, and whether it has been for more than a day (R214, R216). -/
def State.expiredBy (s : State) (r frame more : Nat) : Bool :=
  let h := s.objNat (okey (0x0D40 + r) 1) 0
  h != 0 && decide ((h + more) * 3600000000000 ≤ s.ageNs frame)
/-- Whether a record was expired when a retention period was changed: lengthening one does not restore it (R216). -/
def State.lapsed (s : State) (r frame : Nat) : Bool :=
  let p0 := match s.media.periods with | x :: _ => x.2 | [] => s.timer.period
  s.media.lapses.any fun x => x.1 == r && decide (x.2.1 * 3600000000000 ≤ agedNs frame x.2.2 p0 s.media.periods.reverse)

def State.expired (s : State) (r frame : Nat) : Bool := s.expiredBy r frame 0 || s.lapsed r frame

/-- A retention period is given up: what it has expired stays so. -/
def State.lapse (s : State) (r : Nat) : State :=
  let h := s.objNat (okey (0x0D40 + r) 1) 0
  if h = 0 then s
  else { s with media := { s.media with lapses := s.media.lapses ++ [(r, h, s.timer.frame)], sysDirty := true } }

/-- A record expires: its class's counter rises (R214). -/
def State.countExpired (s : State) (r : Nat) : State := s.count (okey (0x0D40 + r) 2) 1

-- ---------------------------------------------------------------- stripes (R201, R211, R212)

/-- The mean erase count of a bulk stripe's members, times eight. -/
def State.stripeWear (s : State) (key : Nat) : Nat := sumOf (fun n => Tab.get 0 (s.lun n).erases (s.bulkBlockNo key)) (s.bulkLuns key)

/-- Whether every member of a bulk stripe is good and in service. -/
def State.bulkGood (s : State) (key : Nat) : Bool := (s.bulkLuns key).all fun n =>
  let l := s.lun n
  l.role == 2 && l.num == s.bulkSetNo key && l.good (s.bulkBlockNo key) && l.state == 1

/-- The bulk stripes of the device. -/
def State.bulkStripes (s : State) : List Nat :=
  (natRange 0 4).flatMap fun g => (natRange 0 (s.bulkSets g * (s.chan (8 * g)).nBlk)).map (bulkKey g)

/-- The erased bulk stripe with the lowest mean erase count (R212). -/
def State.freshBulk (s : State) : Option Nat :=
  (s.bulkStripes.filter fun k => !s.media.bulkUsed.contains k && s.bulkGood k).foldl (fun b k => match b with
    | none => some k
    | some j => if s.stripeWear k < s.stripeWear j then some k else some j) none

-- ---------------------------------------------------------------- writing (R202, R208, R211, R222)

/-- The stripe that the next unit goes to, and its next block: a fresh one when the last is full, or has a bad block. -/
def State.bulkNext (s : State) : Option (Nat × Nat) :=
  let fresh := s.freshBulk.map fun k => (k, 0)
  match s.media.bulkOpen with
  | some o => if o.2 < s.bulkUse o.1 ∧ s.bulkGood o.1 then some o else fresh
  | none => fresh

/-- The bytes of a row of bulk storage that are programmed, or on their way, as the parity covers them. -/
def State.bulkRowXor (s : State) (row : Nat) : List Byte :=
  let key := row / 2 ^ 20
  let ub := s.unitBlocks (key / 2 ^ 20)
  let queued := s.media.queue.flatMap fun o => if o.area = .bulk ∧ o.kind = .program then o.blocks else []
  let at_ := fun (p : Nat) => match queued.find? fun b => b.1 == p with
    | some b => b.2.allBytes
    | none => match s.bulkBlockAt p with | some b => b.allBytes | none => zeros 4384
  (natRange 0 7).foldl (fun l m => xorBytes l ((natRange (key * 2 ^ 20 + (row % 2 ^ 20 * 7 + m) * ub) ub).flatMap at_)) []

/-- One program unit of bulk storage is enqueued for an issuer, and a job of the Grinder's, with the parity unit of the row that it ends; its places are returned. -/
def State.bulkUnit (s : State) (iss : Issuer) (job : Option Nat) (bs : List Block) : Option (State × List Nat) :=
  match s.bulkNext with
  | none => none
  | some (key, i) =>
    let g := key / 2 ^ 20
    let ub := s.unitBlocks g
    let p := key * 2 ^ 20 + i
    let full := i / ub % 7 = 6 ∨ s.bulkUse key ≤ i + ub
    if s.freeSlots iss < 2 then none
    else
      let pad := List.replicate (ub - bs.length) (plainBlock 0 0 0 0 0 [])
      let blocks := (natRange p ub).zip (bs ++ pad)
      let lun := s.bulkLunAt p
      let m := s.media
      let s := { s with media := { m with
        bulkOpen := some (key, i + ub), bulkUsed := if m.bulkUsed.contains key then m.bulkUsed else key :: m.bulkUsed } }
      let s := s.enqueue { mkOp iss .program lun g (s.unitNs (lun / 32)) with area := .bulk, blocks := blocks, job := job }
      let row := s.bulkRow p
      let s := if full then
          let n := s.bulkParityLun row
          s.enqueue { mkOp iss .program n g (s.unitNs (n / 32)) with
            area := .bulk, parity := true, data := s.bulkRowXor row, stripe := some row, job := job }
        else s
      some (s, natRange p bs.length)

/-- Blocks are written to bulk storage unit by unit: none when room or slots do not last. The places of the blocks, in order. -/
def State.bulkWrite (s : State) (job : Option Nat) : Nat → List Block → Option (State × List Nat)
  | 0, _ => some (s, [])
  | f + 1, bs =>
    if bs = [] then some (s, [])
    else
      let ub := s.unitBlocks ((s.bulkNext.map Prod.fst).getD 0 / 2 ^ 20)
      match s.bulkUnit .grinder job (bs.take (max ub 1)) with
      | none => none
      | some r => match r.1.bulkWrite job f (bs.drop (max ub 1)) with
        | none => none
        | some q => some (q.1, r.2 ++ q.2)

/-- How many operations of a job are in the queue. -/
def State.jobOps (s : State) (id : Nat) : Nat := (s.media.queue.filter fun o => o.job == some id).length

/-- A record block of bulk storage: its metadata in the layout of R158, the set fields zero (R202). -/
def bulkBlock (kind : Nat) (starts : BitVec 64) (data : List Byte) : Block :=
  { plainBlock kind 0 0 0 0 data with startMap := starts }

/-- Records one after another in granules of 64 bytes (R159): the blocks, and the first granule of each record. -/
def packGranules (l : List (List Byte)) : List Byte × List Nat :=
  l.foldl (fun a r => (a.1 ++ sliceZ r 0 (64 * cellsOf r.length), a.2 ++ [a.1.length / 64])) ([], [])

/-- Record blocks that hold some records. -/
def recordBlocks (l : List (List Byte)) : List Block :=
  let p := packGranules l
  (natRange 0 ((p.1.length + 4095) / 4096)).map fun b =>
    bulkBlock 1 (p.2.foldl (fun m g => if g / 64 = b then m ||| (1#64 <<< (g % 64)) else m) 0) (sliceZ p.1 (4096 * b) 4096)

/-- Where each record of such blocks lies, once the places of the blocks are known: its places and start granule. -/
def recordPlaces (l : List (List Byte)) (places : List Nat) : List (List Nat × Nat) :=
  ((packGranules l).2.zip l).map fun x =>
    let first := x.1 / 64
    let last := (x.1 + cellsOf x.2.length - 1) / 64
    ((places.drop first).take (last + 1 - first), x.1 % 64)

-- ---------------------------------------------------------------- what lies in a stripe (R211 to R213)

/-- The references to what is in use in a bulk stripe. -/
def State.stripeRefs (s : State) (key : Nat) : List FlashRef :=
  let here := fun (p : Nat) => p / 2 ^ 20 == key
  ((s.media.bulk.filter fun b => b.places.any here).map fun b => .bulk b.id) ++
  ((s.media.pages.filter fun x => here x.2.place).map fun x => .page x.1) ++
  s.egress.images.flatMap fun i => ((natRange 0 i.blocks.length).filter fun b => (i.blocks[b]?).any fun x => here x.1).map fun b => .image i.num i.version b

/-- The references to what is unfolded in a journal stripe: one for each unit. -/
def State.journalRefs (s : State) (g i : Nat) : List FlashRef :=
  ((s.unfoldedPlaces g).filter fun p => s.physPlace g p / s.stripeUse g == i && s.unitStart g p == p && ((s.group g).blockAt p).isSome).map
    fun p => .journal (Fin.ofNat 4 g) p

/-- A reference is queued for relocation once. -/
def State.queueMove (s : State) (ref : FlashRef) : State :=
  if s.media.relocate.contains ref then s else { s with media := { s.media with relocate := s.media.relocate ++ [ref] } }

def State.queueMoves (s : State) (l : List FlashRef) : State := l.foldl State.queueMove s

/-- The references to the rows of the unfolded journal whose parity lies on a LUN. -/
def State.parityRefs (s : State) (n : Nat) : List FlashRef :=
  let g := n / 256
  (((s.unfoldedPlaces g).map fun p => s.parityGroup g (s.physPlace g p)).eraseDups.filter fun row => s.parityLun g row == n).map
    fun row => .parity (Fin.ofNat 4 g) row

/-- What is in use on a LUN (R540): its units of the unfolded journal, and the content of the bulk stripes that it is a member of. -/
def State.lunRefs (s : State) (n : Nat) : List FlashRef :=
  let g := n / 256
  (((s.unfoldedPlaces g).filter fun p => s.unitStart g p == p && s.placeLun g p == n && ((s.group g).blockAt p).isSome).map
    fun p => .journal (Fin.ofNat 4 g) p) ++ s.parityRefs n ++
  (s.media.bulkUsed.filter fun k => (s.bulkLuns k).contains n).flatMap s.stripeRefs

/-- The journal stripes of a group that are out of use: a member is bad, or not in service (R211). -/
def State.markStripes (s : State) (g : Nat) : State :=
  let bad := (natRange 0 (s.stripes g)).filter fun i => !s.stripeGood g (i + 2)
  s.setGroup g { s.group g with badStripes := bad }

/-- A LUN leaves service: its units are rebuilt and relocated in the reserve (R540). -/
def State.leaveService (s : State) (n : Nat) : State :=
  let x := s.lun n
  if x.state = 3 ∨ x.rebuilding ∨ ¬ (x.role = 1 ∨ x.role = 2) then s
  else ((s.retireLun n).queueMoves (s.lunRefs n)).tableChanged.markStripes (n / 256)

-- ---------------------------------------------------------------- boot images (R127, R233)

/-- The bytes that an image block's tag covers (R233). -/
def imageCovered (num version idx : Nat) (l : List Byte) : List Byte := leBytes 2 num ++ leBytes 4 version ++ leBytes 4 idx ++ l

/-- The tag of an image block: Barista's alive counter rises with each (R127, R233). -/
def State.imageTag (s : State) (num version idx : Nat) (l : List Byte) : DWord :=
  mkTag (crc 0 (imageCovered num version idx l)) (BitVec.ofNat 8 s.perc.baristaCount) 0 4

/-- The tags of a run of image blocks. -/
def State.imageTags (s : State) (num version : Nat) : Nat → List (List Byte) → State × List DWord
  | _, [] => (s, [])
  | idx, b :: t =>
    let tag := s.imageTag num version idx b
    let r := { s with perc := { s.perc with baristaCount := s.perc.baristaCount + 1 } }.imageTags num version (idx + 1) t
    (r.1, tag :: r.2)

def State.setImage (s : State) (i : BootImage) : State :=
  { s with egress := { s.egress with images := s.egress.images.map fun x => if x.num = i.num ∧ x.version = i.version then i else x } }

/-- The next unit of an image that is being stored, in Barista's quota. None while slots or room do not last. -/
def State.imageUnit (s : State) (i : BootImage) : Option (State × BootImage) :=
  let ub := max 1 (s.unitBlocks ((s.bulkNext.map Prod.fst).getD 0 / 2 ^ 20))
  let data := i.todo.take ub
  match s.bulkUnit .barista none (data.map (bulkBlock 3 0)) with
  | none => none
  | some (t, places) =>
    let r := t.imageTags i.num i.version i.blocks.length data
    let ids := natRange s.media.nextOp (t.media.nextOp - s.media.nextOp)
    some (r.1, { i with blocks := i.blocks ++ places.zip r.2, todo := i.todo.drop ub, left := i.left ++ ids })

/-- As much of an image as can be written now is enqueued. -/
def State.imageFill (s : State) : Nat → BootImage → State
  | 0, i => s.setImage i
  | f + 1, i =>
    if i.todo = [] then s.setImage i
    else match s.imageUnit i with
      | none => s.setImage i
      | some (t, j) => t.imageFill f j

/-- The images that are being stored go on. -/
def State.fillImages (s : State) : State :=
  (s.egress.images.filter fun i => i.todo != []).foldl (fun a i => a.imageFill i.todo.length i) s

/-- Whether a bulk stripe holds nothing that is in use, as the tables stand and as they were written last (R208, R213). -/
def State.bulkEmpty (s : State) (key : Nat) : Bool :=
  s.stripeRefs key == [] && !s.media.sysDirty && s.media.sysOpen.isNone && s.activeJob.isNone &&
  !(match s.media.bulkOpen with | some o => o.1 == key | none => false) &&
  !(s.media.queue.any fun o => o.area == .bulk && o.blocks.any fun b => b.1 / 2 ^ 20 == key)

end Sys2Proof.Machine
end

