-- ==== Sys2Proof/Machine/DeviceRegs.lean ====
section
/-!
DEFINITION. The device registers a core reaches through an I/O descriptor (R245): egress submission (R237), emission (R117),
interrupt registers (R405, R406) and the debug mailbox (R570).
-/

namespace Sys2Proof.Machine

/-- The registers of R245 by their place. -/
inductive DevReg where
  | egsa | egsb | drem | drst | ipend | ien | ifast | iraise | dbgin | dbgout | dbgstat
  /-- the internal registers, reached by Barista firmware only -/
  | internal
  | unassigned
deriving DecidableEq, Repr

/-- The register an address names. -/
def devReg (pa : Nat) : DevReg :=
  let o := pa - ioBase
  if o < 0x40000 then .internal
  else if o < 0x40008 then .egsa
  else if o < 0x40010 then .egsb
  else if o < 0x40018 then .drem
  else if o < 0x40020 then .drst
  else if o < 0x50000 then .unassigned
  else if o < 0x50004 then .ipend
  else if o < 0x50008 then .ien
  else if o < 0x5000C then .ifast
  else if o < 0x50010 then .iraise
  else if o < 0x60000 then .unassigned
  else if o < 0x60004 then .dbgin
  else if o < 0x60008 then .dbgout
  else if o < 0x6000C then .dbgstat
  else .unassigned

/-- The size in bytes a register defines; none for an unassigned address, which takes any. -/
def DevReg.size : DevReg → Option Nat
  | .egsa => some 8 | .egsb => some 8 | .drem => some 8 | .drst => some 8
  | .ipend => some 4 | .ien => some 4 | .ifast => some 4 | .iraise => some 4
  | .dbgin => some 4 | .dbgout => some 4 | .dbgstat => some 4
  | .internal => some 0
  | .unassigned => none

/-- An access that is unaligned, not of the register's size, or to an internal register is an undefined case of chapter 08. -/
def devBad (pa size : Nat) : Bool :=
  decide (pa % size ≠ 0) || (match (devReg pa).size with | some n => n != size | none => false)

/-- The offsets from `ioBase` that hold a register (R245). -/
def assigned : List (Nat × Nat) := [(0, 0x40020), (0x50000, 0x50010), (0x60000, 0x6000C)]

/-- Whether an operand of a commercial instruction meets a register. Its accesses are of no register's size, which is an undefined case of chapter 08;
at unassigned addresses they read zero and store nothing (R245). -/
def meetsRegister (ms : List Mapped) : Bool :=
  ms.any fun m => m.type == 5 && assigned.any fun a => rangesMeet (m.pa - ioBase) (m.pa - ioBase + m.n) a.1 a.2

/-- Sets the doorbell line of a logical core, when the active plan uses it (R406). -/
def State.iraise (s : State) (v : Word) : State :=
  let l := (v.extractLsb' 8 6).toNat
  match s.section with
  | none => s
  | some p =>
    if p.nl ≤ l then s
    else match (s.lcore l).carrier with
    | none => s
    | some c => s.setCore c { s.core c with ipend := (s.core c).ipend ||| (1#17 <<< (v.extractLsb' 0 4).toNat) }

/-- A submission from EGSA and the value stored to EGSB (R237). -/
def mkSubmission (c : Nat) (a v : DWord) : Submission :=
  { core := c, partner := (a.extractLsb' 15 17).toNat, cls := (a.extractLsb' 9 6).toNat, reqId := (a.extractLsb' 32 32).toNat,
    status := (a.extractLsb' 0 8).toNat, last := a.getLsbD 8, addr := (v.extractLsb' 0 40).toNat }

/-- How many submissions of a core are unsent (R237). -/
def State.unsent (s : State) (c : Nat) : Nat := (s.egress.subs.filter fun x => x.core == c).length

/-- The store to EGSB submits the reply, or makes the core wait beyond 256 unsent submissions (R237). -/
def State.egsb (s : State) (c : Nat) (v : DWord) : State :=
  if s.unsent c < 256 then
    { s with egress := { s.egress with subs := s.egress.subs ++ [mkSubmission c (s.core c).egsa v] } }
  else s.setCore c { s.core c with wait := some ⟨.egsb v, none⟩ }

/-- Whether a store sets a reserved field of a register: an undefined case (R10). -/
def devReserved (r : DevReg) (v : DWord) : Bool :=
  match r with
  | .drem => v.extractLsb' 40 24 != 0#24
  | .egsb => v.extractLsb' 40 24 != 0#24
  | .ipend => v.extractLsb' 17 15 != 0#15
  | .ien => v.extractLsb' 17 15 != 0#15
  | .ifast => v.extractLsb' 17 15 != 0#15
  | .iraise => v.extractLsb' 14 18 != 0#18 || v.extractLsb' 4 4 != 0#4
  | _ => false

/-- The effect of a store to a register of the accessing core. -/
def State.devWrite (s : State) (c : Nat) (r : DevReg) (v : DWord) : State :=
  let k := s.core c
  match r with
  | .egsa => s.setCore c { k with egsa := v }
  | .egsb => s.egsb c v
  | .drem => s.emit c (v.extractLsb' 0 40).toNat
  | .drst => s
  | .ipend => s.setCore c { k with ipend := k.ipend &&& ~~~ (v.extractLsb' 0 17) }
  | .ien => s.setCore c { k with ien := v.extractLsb' 0 17 }
  | .ifast => s.setCore c { k with ifast := v.extractLsb' 0 17 }
  | .iraise => s.iraise (loWord v)
  | .dbgin => s
  | .dbgout => s.setCore c { k with dbgout := loWord v, outf := true }
  | .dbgstat => s
  | .internal => s
  | .unassigned => s

/-- What a load of a register returns; WO registers read zero (R14). -/
def State.devRead (s : State) (c : Nat) (r : DevReg) : DWord :=
  let k := s.core c
  match r with
  | .drst => BitVec.ofNat 64 (k.drstCred % 2 ^ 32 * 2 ^ 32 + k.drstCount % 65536 * 256 + k.drstResult % 256)
  | .ipend => k.ipend.zeroExtend 64
  | .ien => k.ien.zeroExtend 64
  | .ifast => k.ifast.zeroExtend 64
  | .dbgin => if k.inf then k.dbgin.zeroExtend 64 else 0
  | .dbgstat => BitVec.ofNat 64 ((if k.outf then 2 else 0) + (if k.inf then 1 else 0))
  | _ => 0

/-- A load of DBGIN clears it and its full bit (R14, R570). -/
def State.devAfterRead (s : State) (c : Nat) (r : DevReg) : State :=
  if r = .dbgin then s.setCore c { s.core c with inf := false, dbgin := 0 } else s

-- ---------------------------------------------------------------- the rows of these registers

/-- A device-register row acts for a core that is powered and not held (log 3). -/
def State.devRow (s : State) (c : CoreId) (f : State → Host.Outcome State Fault Refusal) : Host.Outcome State Fault Refusal :=
  if ¬ (s.core c).ready then .next s else f (s.drainAll c)

def execEgsbSubmit (c : CoreId) (v : DWord) (s : State) : Host.Outcome State Fault Refusal :=
  s.devRow c fun s => if devReserved .egsb v then .next (s.havoc c) else .next (s.devWrite c .egsb v)

/-- The cycles of a wait: the spec bounds a lock's wait only (R260, R442; log 8). -/
def waitCost : WaitWhy → Cost
  | .lock _ _ => ⟨0, 2048⟩
  | _ => ⟨0, 4294967295⟩

/-- The wait ends when the core holds fewer than 256 unsent submissions, and counts against the task's budget (R237). -/
def execEgsbWaitEnd (c : CoreId) (s : State) : Host.Outcome State Fault Refusal :=
  match (s.core c).wait with
  | some ⟨.egsb v, _⟩ =>
    if s.unsent c < 256 then .next (((s.setCore c { s.core c with wait := none }).charge c (waitCost (.egsb v))).egsb c v) else .next s
  | _ => .next s

def execDremEmission (c : CoreId) (v : DWord) (s : State) : Host.Outcome State Fault Refusal :=
  s.devRow c fun s => if devReserved .drem v then .next (s.havoc c) else .next (s.devWrite c .drem v)

def execDerivedCopyComplete (id : Nat) (s : State) : Host.Outcome State Fault Refusal := .next (s.copyEmitted id)

def execIraiseStore (c : CoreId) (v : Word) (s : State) : Host.Outcome State Fault Refusal :=
  s.devRow c fun s =>
    if devReserved .iraise (v.zeroExtend 64) then .next (s.havoc c) else .next (s.devWrite c .iraise (v.zeroExtend 64))

/-- The load's destination takes the word (R570). -/
def execDbginLoad (c : CoreId) (rd : Reg) (s : State) : Host.Outcome State Fault Refusal :=
  s.devRow c fun s =>
    let v := loWord (s.devRead c .dbgin)
    let s := s.devAfterRead c .dbgin
    .next (s.setCore c ((s.core c).setReg rd v))

def execDbgoutStore (c : CoreId) (v : Word) (s : State) : Host.Outcome State Fault Refusal :=
  s.devRow c fun s => .next (s.devWrite c .dbgout (v.zeroExtend 64))

/-- A store of 1, 2, 4 or 8 bytes to any device register (R245, R263). -/
def execDeviceRegisterWrite (c : CoreId) (addr : BitVec 40) (size : BitVec 4) (v : DWord) (s : State) :
    Host.Outcome State Fault Refusal :=
  let pa := addr.toNat
  let n := size.toNat
  if pa < ioBase ∨ ioBase + ioSize ≤ pa ∨ ¬ (n = 1 ∨ n = 2 ∨ n = 4 ∨ n = 8) then .next s
  else s.devRow c fun s =>
    if devBad pa n ∨ devReserved (devReg pa) v then .next (s.havoc c) else .next (s.devWrite c (devReg pa) v)

end Sys2Proof.Machine
end

