-- ==== Sys2Proof/Machine/LoadStore.lean ====
section
/-!
DEFINITION. Loads and stores (R290 to R293, R322), atomics (R323), fences (R324), the storage-key group (R416 to R418), the data
stack (R293).
-/

namespace Sys2Proof.Machine

/-- What performing a load answers. -/
inductive LoadRes where
  | ok (s : State) (value : Nat)
  | trap (s : State) (t : Trap)
  | undef (rule : Nat)

/-- Whether an access goes to device registers. -/
def isIo (ms : List Mapped) : Bool := typeOf ms == 5

/-- Performs a checked load: device registers after every earlier access (R263), memory under R431. -/
def State.performLoad (s : State) (c : Nat) (ms : List Mapped) : LoadRes :=
  if ms.any (s.core c).typeClash then .undef 9
  else if isIo ms then
    match ms with
    | [m] =>
      if devBad m.pa m.n then .undef 245
      else
        let s := s.drainAll c
        let r := devReg m.pa
        .ok (s.devAfterRead c r) (s.devRead c r).toNat
    | _ => .undef 245
  else
    let r := s.loadPieces c ms
    match r.2 with
    | .error t => .trap r.1 t
    | .ok l => .ok (r.1.mark false ms) (leNat l)

/-- What performing a store answers, device registers included. -/
inductive PutRes where
  | ok (s : State)
  | wait (s : State) (why : WaitWhy)
  | trap (s : State) (t : Trap)
  | undef (rule : Nat)

/-- Performs a checked store. -/
def State.performPut (s : State) (c : Nat) (ms : List Mapped) (v n : Nat) : PutRes :=
  if isIo ms then
    match ms with
    | [m] =>
      if devBad m.pa m.n ∨ devReserved (devReg m.pa) (BitVec.ofNat 64 v) ∨ (s.core c).typeClash m then .undef 245
      else .ok ((s.drainAll c).devWrite c (devReg m.pa) (BitVec.ofNat 64 v))
    | _ => .undef 245
  else match s.performStore c ms (leBytes n v) with
  | .ok s => .ok s
  | .wait s w => .wait s w
  | .trap s t => .trap s t
  | .undef r => .undef r

/-- A load of `n` bytes by an M-format instruction: `put` writes the destination, then the base is updated unless it is one of
the destinations (R291). -/
def State.load (s : State) (ins : Instr) (c : CoreId) (g : Guard) (rd base : Reg) (mode : BitVec 3) (f : BitVec 9) (n : Nat)
    (pair : Bool) (put : Core → Nat → Core) : Host.Outcome State Fault Refusal :=
  s.runInstr c ins g (if pair then oddPair rd else none) false false (cc 1) fun s =>
    if badIndex mode f then .undef 290
    else
      let k := s.core c
      let e := k.mform (k.reg base) mode f n
      match s.judge c accLoad (halves e.1.toNat n) none with
      | .error t => .trap s t
      | .ok ms =>
        let x := s.loadCost c ms n
        match s.performLoad c ms with
        | .trap s t => .trap s t
        | .undef r => .undef r
        | .ok s v =>
          let isDest := base == rd || (pair && base == (rd ||| 1))
          let k := s.core c
          let k := match e.2 with
            | some b => if isDest then k else k.setReg base b
            | none => k
          .done (s.setCore c (put k v)) x

/-- A store of `n` bytes by an M-format instruction; a data register that is also the base stores its old value (R291). -/
def State.store (s : State) (ins : Instr) (c : CoreId) (g : Guard) (rd base : Reg) (mode : BitVec 3) (f : BitVec 9) (n : Nat)
    (pair : Bool) (val : Core → Nat) : Host.Outcome State Fault Refusal :=
  s.runInstr c ins g (if pair then oddPair rd else none) false false (cc 1) fun s =>
    if badIndex mode f then .undef 290
    else
      let k := s.core c
      let e := k.mform (k.reg base) mode f n
      match s.judge c accStore (halves e.1.toNat n) none with
      | .error t => .trap s t
      | .ok ms =>
        let x := s.storeCost c ms (s.touchCount (ms.flatMap fun m => linesOf m.pa m.n))
        match s.performPut c ms (val k) n with
        | .trap s t => .trap s t
        | .undef r => .undef r
        | .wait s w => .wait s w
        | .ok s =>
          let k := s.core c
          let k := match e.2 with
            | some b => k.setReg base b
            | none => k
          .done (s.setCore c k) x

/-- Sign extension of a loaded value of `n` bytes. -/
def sextNat (n v : Nat) : Word := BitVec.ofInt 32 (if v < 2 ^ (8 * n - 1) then (v : Int) else (v : Int) - 2 ^ (8 * n))

def execLdb (c : CoreId) (g : Guard) (rd base : Reg) (mode : BitVec 3) (f : BitVec 9) (s : State) :=
  s.load (.ldb c g rd base mode f) c g rd base mode f 1 false fun k v => k.setReg rd (sextNat 1 (v % 256))
def execLdbu (c : CoreId) (g : Guard) (rd base : Reg) (mode : BitVec 3) (f : BitVec 9) (s : State) :=
  s.load (.ldbu c g rd base mode f) c g rd base mode f 1 false fun k v => k.setReg rd (BitVec.ofNat 32 (v % 256))
def execLdh (c : CoreId) (g : Guard) (rd base : Reg) (mode : BitVec 3) (f : BitVec 9) (s : State) :=
  s.load (.ldh c g rd base mode f) c g rd base mode f 2 false fun k v => k.setReg rd (sextNat 2 (v % 65536))
def execLdhu (c : CoreId) (g : Guard) (rd base : Reg) (mode : BitVec 3) (f : BitVec 9) (s : State) :=
  s.load (.ldhu c g rd base mode f) c g rd base mode f 2 false fun k v => k.setReg rd (BitVec.ofNat 32 (v % 65536))
def execLdw (c : CoreId) (g : Guard) (rd base : Reg) (mode : BitVec 3) (f : BitVec 9) (s : State) :=
  s.load (.ldw c g rd base mode f) c g rd base mode f 4 false fun k v => k.setReg rd (BitVec.ofNat 32 v)
/-- LDD: w2n+1 takes the word at EA, w2n the word at EA + 4 (R322). -/
def execLdd (c : CoreId) (g : Guard) (rd base : Reg) (mode : BitVec 3) (f : BitVec 9) (s : State) :=
  s.load (.ldd c g rd base mode f) c g rd base mode f 8 true fun k v => k.setPair rd (BitVec.ofNat 64 v)

def execStb (c : CoreId) (g : Guard) (rd base : Reg) (mode : BitVec 3) (f : BitVec 9) (s : State) :=
  s.store (.stb c g rd base mode f) c g rd base mode f 1 false fun k => (k.reg rd).toNat % 256
def execSth (c : CoreId) (g : Guard) (rd base : Reg) (mode : BitVec 3) (f : BitVec 9) (s : State) :=
  s.store (.sth c g rd base mode f) c g rd base mode f 2 false fun k => (k.reg rd).toNat % 65536
def execStw (c : CoreId) (g : Guard) (rd base : Reg) (mode : BitVec 3) (f : BitVec 9) (s : State) :=
  s.store (.stw c g rd base mode f) c g rd base mode f 4 false fun k => (k.reg rd).toNat
def execStd (c : CoreId) (g : Guard) (rd base : Reg) (mode : BitVec 3) (f : BitVec 9) (s : State) :=
  s.store (.std c g rd base mode f) c g rd base mode f 8 true fun k => (k.pair rd).toNat

-- ---------------------------------------------------------------- the data stack (R293)

/-- w31, the data stack pointer. -/
def dsp : Reg := 31#5

def execPush (c : CoreId) (g : Guard) (rs : Reg) (s : State) : Host.Outcome State Fault Refusal :=
  s.runInstr c (.push c g rs) g none false false (cc 1) fun s =>
    let k := s.core c
    let ea := k.reg dsp - 4
    -- PUSH w31 stores the value held before the update (R291, R293)
    let v := k.reg rs
    match s.judge c accStore (halves ea.toNat 4) none with
    | .error t => .trap s t
    | .ok ms =>
      let x := s.storeCost c ms (s.touchCount (ms.flatMap fun m => linesOf m.pa m.n))
      match s.performPut c ms v.toNat 4 with
      | .trap s t => .trap s t
      | .undef r => .undef r
      | .wait s w => .wait s w
      | .ok s => .done (s.setCore c ((s.core c).setReg dsp ea)) x

/-- POP: the loaded word, then DSP := DSP + 4; POP w31 keeps the loaded word (R291, R293). -/
def execPop (c : CoreId) (g : Guard) (rd : Reg) (s : State) : Host.Outcome State Fault Refusal :=
  s.runInstr c (.pop c g rd) g none false false (cc 1) fun s =>
    let k := s.core c
    let ea := k.reg dsp
    match s.judge c accLoad (halves ea.toNat 4) none with
    | .error t => .trap s t
    | .ok ms =>
      let x := s.loadCost c ms 4
      match s.performLoad c ms with
      | .trap s t => .trap s t
      | .undef r => .undef r
      | .ok s v => .done (s.setCore c (((s.core c).setReg dsp (ea + 4)).setReg rd (BitVec.ofNat 32 v))) x

-- ---------------------------------------------------------------- atomics and fences (R323, R324, R432)

/-- The time of an atomic in the state it meets: the drain of every buffered store, then λ + δ of its region (R432). -/
def State.atomicCost (s : State) (c : Nat) (type touches : Nat) : Cost :=
  let b := (s.core c).storeBuf
  let disp := s.displaced c
  (⟨1, drainTime disp b b.length + loadWorst disp type + drainWorst disp type⟩ : Cost).plus (cc (40 * touches))

/-- A descriptor of I/O or return-stack type refuses an atomic, as a check of step 1 (R323, R419). -/
def State.atomicRegion (s : State) (k : Core) (ea : Nat) : Option Trap :=
  match k.find ea with
  | some d =>
    if d.type = 5 ∨ d.type = 6 then
      match s.regionStep { accStore with spill := true } ⟨ea, min 4 (8 - ea % 8)⟩ d with
      | some t => some t
      | none => some (accStore.trap 9 0x05 ea)
    else none
  | none => none

/-- An atomic: the read and the write at one instant, after the core's buffered stores (R323, R432). `f` gives the new memory word
from the old, none for a CASW that fails; `put` writes the destination. -/
def State.atomic (s : State) (ins : Instr) (c : CoreId) (g : Guard) (rs : Reg) (f : Core → Word → Option Word)
    (put : Core → Word → Core) : Host.Outcome State Fault Refusal :=
  s.runInstr c ins g none false false (cc 1) fun s =>
    let k := s.core c
    let ea := (k.reg rs).toNat
    let al := accStore.trap 8 0x02 ea
    match s.atomicRegion k ea with
    | some t => .trap s t
    | none =>
    match s.judge c accStore (halves ea 4) (if ea % 4 = 0 then none else some al) with
    | .error t => .trap s t
    | .ok ms =>
        let x := s.atomicCost c (typeOf ms) (s.touchCount (ms.flatMap fun m => linesOf m.pa m.n))
        let s := s.drainAll c
        let r := s.meetWords (ms.flatMap fun m => cwsOf m.pa m.n)
        match r.2 with
        | some cw => .trap r.1 (mcUncorrectable 2 cw)
        | none =>
          let old := BitVec.ofNat 32 (leNat (ms.flatMap fun m => r.1.bytes m.pa m.n))
          match (match f k old with
            | some w => r.1.performCommit c [(ms, leBytes 4 w.toNat)]
            | none => r.1.performHeld c ms) with
          | .trap s t => .trap s t
          | .wait s w => .wait s w
          | .undef r => .undef r
          | .ok s => .done (s.setCore c (put (s.core c) old)) x

def execSwpw (c : CoreId) (g : Guard) (rd rs rt : Reg) (s : State) :=
  s.atomic (.swpw c g rd rs rt) c g rs (fun k _ => some (k.reg rt)) fun k old => k.setReg rd old
def execCasw (c : CoreId) (g : Guard) (rd rs rt : Reg) (s : State) :=
  s.atomic (.casw c g rd rs rt) c g rs (fun k m => if m = k.reg rd then some (k.reg rt) else none) fun k old => k.setReg rd old
def execFaddw (c : CoreId) (g : Guard) (rd rs rt : Reg) (s : State) :=
  s.atomic (.faddw c g rd rs rt) c g rs (fun k m => some (m + k.reg rt)) fun k old => k.setReg rd old

/-- The data fence waits until every earlier store is visible (R264). -/
def execFence (c : CoreId) (g : Guard) (s : State) : Host.Outcome State Fault Refusal :=
  s.runInstr c (.fence c g) g none false false (cc 1) fun s =>
    let k := s.core c
    .done (s.drainAll c) (upTo (1 + drainTime (s.displaced c) k.storeBuf k.storeBuf.length))

/-- What a core has fetched is discarded: its own stores to code can be fetched from here (R264). -/
def State.refetch (s : State) (c : Nat) : State := s.setCore c { s.core c with staleOwn := [] }

/-- The instruction fence also discards what was fetched: a taken transfer to the next instruction (R264, R432). -/
def execFencei (c : CoreId) (g : Guard) (s : State) : Host.Outcome State Fault Refusal :=
  s.runInstr c (.fencei c g) g none false false (cc 1) fun s =>
    let k := s.core c
    .done ((s.drainAll c).refetch c)
      ((s.goTo c 3 (k.pc + 4)).plus (⟨1, 1 + drainTime (s.displaced c) k.storeBuf k.storeBuf.length⟩ : Cost))

-- ---------------------------------------------------------------- the storage-key group (R416 to R418)

/-- The page a key instruction names: translated and checked for region and ring, not for key; a type without keys has
"no key" (R416). It is no access (log 62) and no store, so a partner or read-only page is reached. -/
def State.keyTarget (s : State) (c : Nat) (ea : Nat) : Except Trap Nat :=
  let k := s.core c
  match k.find ea with
  | none => .error (accNone.trap 9 0x01 ea)
  | some d =>
    if d.type = 0 ∨ d.type = 5 ∨ d.type = 6 then .error (accNone.trap 9 0x08 ea)
    else match s.regionStep accNone ⟨ea, 1⟩ d with
    | some t => .error t
    | none => match ringStep accNone k.ring ⟨ea, 1⟩ d with
      | some t => .error t
      | none => .ok (s.physOf c d ea)

/-- A privileged instruction in a ring above `most` (R409). -/
def privileged (k : Core) (most : Nat) : Option Trap :=
  if most < k.ring then some (trapAt 5 0x01 k.pc) else none

/-- The time of a key instruction, after every earlier store (R418, R433). -/
def State.keyCost (s : State) (c pa : Nat) : Cost :=
  let b := (s.core c).storeBuf
  upTo (drainTime (s.displaced c) b b.length + if memOf pa = 3 then 450 else 30)

/-- Runs a key instruction: the ring, then the target, every earlier access first (R409, R418). -/
def State.keyInstr (s : State) (ins : Instr) (c : CoreId) (g : Guard) (enc : Option Nat) (most : Nat) (rs : Reg)
    (f : State → Nat → Cost → Res) : Host.Outcome State Fault Refusal :=
  s.runInstr c ins g enc false false (cc 1) fun s =>
    let k := s.core c
    match privileged k most with
    | some t => .trap s t
    | none => match s.keyTarget c (k.reg rs).toNat with
      | .error t => .trap s t
      | .ok pa => f ((s.drainAll c).keyFetch (pa / 4096)) pa (s.keyCost c pa)

def execKrd (c : CoreId) (g : Guard) (rd rs : Reg) (s : State) :=
  s.keyInstr (.krd c g rd rs) c g (oddPair rd) 1 rs fun s pa x =>
    let p := s.pageKey pa
    let cw : Word := if s.durable pa then p.pend ++ p.cur else 0
    .done (s.setCore c ((s.core c).setPair rd (pairOf cw (p.shown.zeroExtend 32)))) x

def execKrref (c : CoreId) (g : Guard) (rd rs : Reg) (s : State) :=
  s.keyInstr (.krref c g rd rs) c g none 0 rs fun s pa x =>
    let p := s.pageKey pa
    let s := s.setPageKey (pa / 4096) { p with key := p.key &&& 0xBF#8 }
    .done (s.setCore c ((s.core c).setReg rd (p.shown.zeroExtend 32))) x

/-- Whether the page holds an arena, staging cells, the image cache or a query ring: KSET may not set DUR there (13, undefined
cases). The cache and the rings are at the places of 0x0E02 and 0x0E10. -/
def State.reservedPage (s : State) (pa : Nat) : Bool :=
  let lo := pa / 4096 * 4096
  let meets := fun (b n : Nat) => n != 0 && decide (b < lo + 4096) && decide (lo < b + n)
  s.cellPage pa || (memOf pa == 3 && (meets (s.roGet (okey 0x0E02 1)) (s.roGet (okey 0x0E02 2)) ||
    meets (s.roGet (okey 0x0E10 1)) (64 * 256 * (s.roGet (okey 0x0E10 2) + 1))))

/-- The key byte after KSET: DUR, REF, RG and KEY, and CHG only when the page is non-durable after the write (R417). -/
def ksetByte (old new : Byte) (durAfter : Bool) : Byte :=
  (new &&& 0xDF#8) ||| ((if durAfter then old else new) &&& 0x20#8)

/-- KSET (R417). -/
def State.kset (s : State) (c : Nat) (pa : Nat) (v : Word) (x : Cost) : Res :=
  let p := s.pageKey pa
  let page := pa / 4096
  let new : Byte := v.extractLsb' 0 8
  let can := memOf pa == 1 || memOf pa == 3
  let was := s.durable pa
  let setsDur := can && new.getLsbD 7 && !p.key.getLsbD 7
  let clearsDur := can && !new.getLsbD 7 && p.key.getLsbD 7
  if setsDur ∧ s.reservedPage pa then .undef 417
  else if (clearsDur ∨ (was ∧ new.extractLsb' 0 4 ≠ p.key.extractLsb' 0 4)) ∧ (p.cur ≠ 0 ∨ p.pend ≠ 0) then .undef 153
  else if setsDur ∧ ¬ s.headroom 4096 then .wait s (.carafe 4096)
  else
    let durAfter := can && new.getLsbD 7
    let key := ksetByte p.key new durAfter
    let cur := if setsDur then 0xFFFF#16 else if clearsDur then 0 else p.cur
    let pend := if setsDur ∨ clearsDur then 0 else p.pend
    let s := s.setPageKey page ⟨key, cur, pend, if setsDur then s.timer.frame else p.curFrame, if setsDur ∨ clearsDur then 0 else p.pendFrame⟩
    let s := if setsDur then { s with perc := { s.perc with
      dirty := s.perc.dirty + 4096
      touched := (natRange 0 16).map (fun i => 4096 * page + 256 * i) ++ s.perc.touched } } else s
    let s := if was ∨ durAfter then { s with perc := { s.perc with
      keyChanged := if s.perc.keyChanged.contains page then s.perc.keyChanged else page :: s.perc.keyChanged } } else s
    .done (s.setCore c (s.core c)) x

def execKset (c : CoreId) (g : Guard) (rs rt : Reg) (s : State) :=
  s.keyInstr (.kset c g rs rt) c g none 0 rs fun s pa x => s.kset c pa ((s.core c).reg rt) x

end Sys2Proof.Machine
end

