-- ==== Sys2Proof/Machine/Decimal.lean ====
section
/-!
DEFINITION. Decimal arithmetic and conversions (R348 to R369): packed and zoned fields, the operations, their checks in the order of
R365, and their result class.
-/

namespace Sys2Proof.Machine

-- ---------------------------------------------------------------- fields (R348 to R350)

/-- The nibbles of bytes, high nibble first. -/
def nibbles (l : List Byte) : List Nat := l.flatMap fun b => [b.toNat / 16, b.toNat % 16]

/-- The value of decimal digits, most significant first. -/
def digitsVal (l : List Nat) : Nat := l.foldl (fun a d => 10 * a + d) 0

/-- The digits of a packed field and its sign nibble. -/
def packedDigits (l : List Byte) : List Nat := (nibbles l).dropLast
def packedSign (l : List Byte) : Nat := (nibbles l).getLastD 0

/-- The value of a packed field: bit 0 of the sign nibble is the sign (R348). -/
def packedVal (l : List Byte) : Int :=
  let m := digitsVal (packedDigits l)
  if packedSign l % 2 = 1 then -(m : Int) else m

/-- Whether byte `i` of a packed field of `n` bytes holds an invalid nibble (R348). -/
def packedByteBad (n i : Nat) (b : Byte) : Bool :=
  decide (9 < b.toNat / 16) || (if i + 1 = n then decide (b.toNat % 16 < 10) else decide (9 < b.toNat % 16))

/-- The first byte, counted from `i`, that is invalid. -/
def firstBad (p : Nat → Byte → Bool) : Nat → List Byte → Option Nat
  | _, [] => none
  | i, b :: t => if p i b then some i else firstBad p (i + 1) t

/-- The lowest-addressed invalid byte of a packed field (R351). -/
def packedBad (l : List Byte) : Option Nat := firstBad (packedByteBad l.length) 0 l

/-- The `n` low decimal digits of a number, as a number with one digit a nibble. -/
def bcd : Nat → Nat → Nat
  | 0, _ => 0
  | n + 1, v => v % 10 + 16 * bcd n (v / 10)

/-- A packed field of `n` bytes: the low-order digits of the magnitude and the preferred sign; zero carries 0xC (R349, R361). -/
def packedOf (n : Nat) (neg : Bool) (mag : Nat) : List Byte :=
  let m := mag % 10 ^ (2 * n - 1)
  beBytes n (16 * bcd (2 * n - 1) m + (if neg && m != 0 then 0xD else 0xC))

/-- A packed field of an integer. -/
def packInt (n : Nat) (v : Int) : List Byte := packedOf n (decide (v < 0)) v.natAbs

/-- Whether an integer needs more digits than a packed field of `n` bytes has. -/
def packedOver (n : Nat) (v : Int) : Bool := decide (10 ^ (2 * n - 1) ≤ v.natAbs)

/-- Whether byte `i` of a zoned field of `n` bytes is invalid (R350). -/
def zonedByteBad (n i : Nat) (b : Byte) : Bool :=
  if i + 1 = n then b != 0x2B#8 && b != 0x2D#8 else decide (b.toNat < 0x30) || decide (0x39 < b.toNat)

def zonedBad (l : List Byte) : Option Nat := firstBad (zonedByteBad l.length) 0 l

/-- The value of a zoned field (R350). -/
def zonedVal (l : List Byte) : Int :=
  let m := digitsVal (l.dropLast.map fun b => b.toNat % 16)
  if l.getLastD 0 = 0x2D#8 then -(m : Int) else m

/-- The `n` low decimal digits in ASCII, most significant first. -/
def asciiDigits : Nat → Nat → List Byte
  | 0, _ => []
  | n + 1, v => asciiDigits n (v / 10) ++ [BitVec.ofNat 8 (0x30 + v % 10)]

/-- A zoned field of `n` bytes (R350, R368). -/
def zonedOf (n : Nat) (v : Int) : List Byte :=
  let m := v.natAbs % 10 ^ (n - 1)
  asciiDigits (n - 1) m ++ [if v < 0 ∧ m ≠ 0 then 0x2D#8 else 0x2B#8]

/-- The class of a result (R354). -/
def classOf (v : Int) : Nat := if v = 0 then 0 else if v < 0 then 1 else 2

-- ---------------------------------------------------------------- the length word (R353)

def lwL1 (w : Word) : Nat := (w.extractLsb' 0 5).toNat + 1
def lwL2 (w : Word) : Nat := (w.extractLsb' 8 5).toNat + 1
def lwLz (w : Word) : Nat := (w.extractLsb' 8 6).toNat + 1
def lwShift (w : Word) : Int := (w.extractLsb' 16 7).toInt
def lwRnd (w : Word) : Nat := (w.extractLsb' 24 4).toNat

/-- pd := MASK[c] (R354). -/
def Core.setClass (k : Core) (pd : PredNo) (lw : Word) (c : Nat) : Core := k.setPred pd.toNat (lw.getLsbD (28 + c))

-- ---------------------------------------------------------------- operands (R355)

/-- An operand in memory: where, how long, and how it is accessed. -/
structure Opnd where
  ea : Word
  n : Nat
  acc : Access
deriving DecidableEq, Repr

/-- The access checks of the operands in order (R355). -/
def State.judgeAll (s : State) (c : Nat) : List Opnd → Except Trap (List (List Mapped))
  | [] => .ok []
  | o :: t => match s.judge c o.acc (operand o.ea.toNat o.n) none with
    | .error e => .error e
    | .ok ms => match s.judgeAll c t with
      | .error e => .error e
      | .ok l => .ok (ms :: l)

/-- Reads the operands in order; one that its instruction only writes is not read, and stands as no bytes. -/
def State.readAll (s : State) (c : Nat) : List (List Mapped × Bool) → State × Except Trap (List (List Byte))
  | [] => (s, .ok [])
  | x :: t =>
    let r := if x.2 then s.loadPieces c x.1 else (s, .ok [])
    match r.2 with
    | .error e => (r.1, .error e)
    | .ok l =>
      let q := r.1.readAll c t
      match q.2 with
      | .error e => (q.1, .error e)
      | .ok ls => (q.1, .ok (l :: ls))

/-- Whether two mapped operands share a byte. -/
def sharesByte (a b : List Mapped) : Bool := a.any fun x => b.any fun y => overlaps x.pa x.n y.pa y.n

/-- Whether they overlap exactly: same start and same length (R366). -/
def sameOperand (a b : List Mapped) : Bool :=
  match a, b with
  | x :: _, y :: _ => x.pa == y.pa && (a.map Mapped.n).foldl (· + ·) 0 == (b.map Mapped.n).foldl (· + ·) 0
  | _, _ => false

/-- The 64-byte lines an operand reads. -/
def lines64 (ms : List Mapped) : Nat :=
  sumOf (fun m => (m.pa + m.n - 1) / 64 + 1 - m.pa / 64) ms

/-- A of R389, at its worst case. -/
def readCost (disp : Bool) (l : List (List Mapped)) : Nat :=
  sumOf (fun ms => lines64 ms * (loadWorst disp (typeOf ms) - 2)) l

/-- A of the operands that are read. -/
def readOf (disp : Bool) (l : List (List Mapped × Bool)) : Nat := readCost disp ((l.filter Prod.snd).map Prod.fst)

/-- The time t = T + A + W of R389: T fixed at its largest in constant-time mode (R390), 40 cc for each first touch. -/
def commercialCost (ct : Bool) (t tMax a touches : Nat) : Cost :=
  (if ct then ⟨tMax, tMax + a⟩ else upTo (t + a)).plus (cc (40 * touches))

/-- How many lines the commit of an operand first touches. -/
def State.commitTouches (s : State) (ms : List Mapped) : Nat :=
  s.touchCount (ms.flatMap fun m => linesOf m.pa m.n)

-- ---------------------------------------------------------------- the shared run

/-- What a decimal computation gives: the bytes to write to the destination and the class; an overflow with the bytes that DOT = 0
writes; or a trap. -/
inductive DecOut where
  | done (bytes : List Byte) (cls : Nat)
  | ovf (bytes : List Byte)
  | trap (vec code : Nat) (ea : Word)
deriving DecidableEq, Repr

/-- A decimal instruction: its operands in the order of their checks, whether shared bytes are undefined even when exact, the fault
of step 3, the validity of each operand, the effect on the operands' bytes, and the operand it writes, if any. -/
structure DecPlan where
  ops : List Opnd
  /-- which operands are read -/
  reads : List Bool
  apart : Bool
  early : Option (Nat × Nat × Word)
  bad : List (List Byte → Option Nat)
  eval : List (List Byte) → DecOut
  /-- index of the operand written -/
  dest : Option Nat
  t : Nat
  tMax : Nat

/-- The first invalid operand (R351): the address of its first invalid byte. -/
def firstInvalid : List Opnd → List (List Byte → Option Nat) → List (List Byte) → Option Word
  | o :: os, f :: fs, l :: ls => match f l with
    | some i => some (o.ea + BitVec.ofNat 32 i)
    | none => firstInvalid os fs ls
  | _, _, _ => none

/-- Whether two operands of a list share bytes in a way the plan leaves undefined. -/
def badOverlap (apart : Bool) (l : List (List Mapped)) : Bool :=
  match l with
  | [a, b] => sharesByte a b && (apart || !sameOperand a b)
  | _ => false

/-- Commits the result (R354, R356, R361). -/
def State.decCommit (s : State) (c : Nat) (pd : PredNo) (lw : Word) (p : DecPlan) (ms : List (List Mapped)) (a : Nat)
    (l : List Byte) (cls : Nat) : Res :=
  let k := s.core c
  match p.dest.bind fun i => ms[i]? with
  | none => .done (s.setCore c (k.setClass pd lw cls)) (commercialCost k.ct p.t p.tMax a 0)
  | some m =>
    let touches := s.commitTouches m
    match s.performCommit c [(m, l)] with
    | .trap s t => .trap s t
    | .wait s w => .wait s w
    | .undef r => .undef r
    | .ok s =>
      let k := s.core c
      let k := if cls = 3 then k.stick statDV else k
      .done (s.setCore c (k.setClass pd lw cls)) (commercialCost k.ct p.t p.tMax a touches)

/-- Steps 4 to 6 of R365, on operands that pass their checks; `a` is what reading them costs. -/
def State.evalDecimal (s : State) (c : Nat) (pd : PredNo) (lw : Word) (op1 : Word) (p : DecPlan) (ms : List (List Mapped)) (a : Nat) : Res :=
  let r := s.readAll c (ms.zip p.reads)
  match r.2 with
  | .error t => .trap r.1 t
  | .ok ls =>
    let s := (ms.zip p.reads).foldl (fun a m => if m.2 then a.mark false m.1 else a) r.1
    match firstInvalid p.ops p.bad ls with
    | some ea => .trap r.1 (trapAt 11 0x01 ea)
    | none => match p.eval ls with
      | .trap v code ea => .trap r.1 (trapAt v code ea)
      | .ovf l => if (s.core c).dot then .trap r.1 (trapAt 12 0x01 op1) else s.decCommit c pd lw p ms a l 3
      | .done l cls => s.decCommit c pd lw p ms a l cls

/-- Steps 2 to 6 of R365. A trap takes the instruction's time up to where it stops (R389, R390). -/
def State.runDecimal (s : State) (c : Nat) (pd : PredNo) (lw : Word) (op1 : Word) (p : DecPlan) : Res :=
  let x := fun (a : Nat) => commercialCost (s.core c).ct p.t p.tMax a 0
  match s.judgeAll c p.ops with
  | .error t => .trapLate s t (x 0)
  | .ok ms =>
    if ms.any meetsRegister then .undef 245
    else if badOverlap p.apart ms then .undef 366
    else match p.early with
    | some (v, code, ea) => .trapLate s (trapAt v code ea) (x 0)
    | none =>
      let a := readOf (s.displaced c) (ms.zip p.reads)
      (s.evalDecimal c pd lw op1 p ms a).late (x a)

-- ---------------------------------------------------------------- arithmetic (R359 to R366)

/-- The result of an operation into a packed field of `n` bytes, with the overflow of R361. -/
def intoPacked (n : Nat) (v : Int) : DecOut :=
  if packedOver n v then .ovf (packInt n v) else .done (packInt n v) (classOf v)

/-- A two-operand instruction with op2 read and op1 read and written. -/
def decTwo (k : Core) (rd rs : Reg) (lw : Word) (f : Int → Int → Int) : DecPlan :=
  let l1 := lwL1 lw
  let l2 := lwL2 lw
  { ops := [⟨k.reg rs, l2, accLoad⟩, ⟨k.reg rd, l1, accStore⟩], reads := [true, true], apart := false, early := none, bad := [packedBad, packedBad],
    eval := fun ls => match ls with
      | [b, a] => intoPacked l1 (f (packedVal a) (packedVal b))
      | _ => .trap 11 0x01 0
    dest := some 1, t := 14 + 2 * ceilDiv (max l1 l2) 4, tMax := 30 }

/-- DZAD does not examine op1, which it only writes (R359). -/
def decZad (k : Core) (rd rs : Reg) (lw : Word) : DecPlan :=
  { decTwo k rd rs lw (fun _ b => b) with bad := [packedBad, fun _ => none], reads := [true, false] }

/-- DCMP writes nothing, so op1 is checked as a load (R355, R359). -/
def decCmp (k : Core) (rd rs : Reg) (lw : Word) : DecPlan :=
  { decTwo k rd rs lw (fun a b => a - b) with
    ops := [⟨k.reg rs, lwL2 lw, accLoad⟩, ⟨k.reg rd, lwL1 lw, accLoad⟩]
    eval := fun ls => match ls with
      | [b, a] => .done [] (classOf (packedVal a - packedVal b))
      | _ => .trap 11 0x01 0
    dest := none }

/-- DMUL: the leading L2 bytes of op1 hold zero digits, or vector 11 (R362). -/
def decMul (k : Core) (rd rs : Reg) (lw : Word) : DecPlan :=
  let l1 := lwL1 lw
  let l2 := lwL2 lw
  { decTwo k rd rs lw (fun a b => a * b) with
    apart := true
    eval := fun ls => match ls with
      | [b, a] => if allZero (a.take l2) then intoPacked l1 (packedVal a * packedVal b) else .trap 11 0x01 (k.reg rd)
      | _ => .trap 11 0x01 0
    t := 20 + (2 * l2 - 1) * (4 + ceilDiv l1 4), tMax := 392 }

/-- DDIV: quotient in the first L1 - L2 bytes, remainder in the last L2 (R363). -/
def divideInto (l1 l2 : Nat) (ea1 ea2 : Word) (a b : Int) : DecOut :=
  if b = 0 then .trap 12 0x02 ea2
  else
    let q := a.tdiv b
    let r := a.tmod b
    if packedOver (l1 - l2) q then .trap 12 0x03 ea1
    else .done (packInt (l1 - l2) q ++ packInt l2 r) (classOf q)

def decDiv (k : Core) (rd rs : Reg) (lw : Word) : DecPlan :=
  let l1 := lwL1 lw
  let l2 := lwL2 lw
  { decTwo k rd rs lw (fun a b => a * b) with
    apart := true
    eval := fun ls => match ls with
      | [b, a] => divideInto l1 l2 (k.reg rd) (k.reg rs) (packedVal a) (packedVal b)
      | _ => .trap 11 0x01 0
    t := 30 + (2 * (l1 - l2) - 1) * (8 + 2 * ceilDiv (2 * l2 - 1) 16), tMax := 640 }

/-- Whether 1 is added to the kept magnitude: the fraction is num / den (R364). -/
def roundsUp (rnd : Nat) (neg : Bool) (kept num den : Nat) : Bool :=
  if rnd = 0 then false
  else if rnd = 1 then decide (den ≤ 2 * num)
  else if rnd = 2 then decide (den < 2 * num) || (decide (den = 2 * num) && kept % 2 == 1)
  else if rnd = 3 then decide (0 < num)
  else if rnd = 4 then decide (0 < num) && !neg
  else decide (0 < num) && neg

/-- DSRP of a value (R364). -/
def shiftRound (l1 : Nat) (shift : Int) (rnd : Nat) (a : Int) : DecOut :=
  let m := a.natAbs
  if 0 ≤ shift then intoPacked l1 (a * 10 ^ shift.toNat)
  else
    let d := 10 ^ (-shift).toNat
    let kept := m / d
    let up := roundsUp rnd (decide (a < 0)) kept (m % d) d
    let r : Int := ((if up then kept + 1 else kept : Nat) : Int)
    intoPacked l1 (if a < 0 then -r else r)

def decSrp (k : Core) (rd : Reg) (lw : Word) : DecPlan :=
  let l1 := lwL1 lw
  { ops := [⟨k.reg rd, l1, accStore⟩], reads := [true], apart := false,
    early := if 5 < lwRnd lw then some (11, 0x02, k.pc) else none,
    bad := [packedBad],
    eval := fun ls => match ls with
      | [a] => shiftRound l1 (lwShift lw) (lwRnd lw) (packedVal a)
      | _ => .trap 11 0x01 0
    dest := some 0, t := 18 + 2 * ceilDiv l1 4, tMax := 34 }

/-- DTST reports an invalid operand as class 3 (R351, R354). -/
def decTst (k : Core) (rd : Reg) (lw : Word) : DecPlan :=
  let l1 := lwL1 lw
  { ops := [⟨k.reg rd, l1, accLoad⟩], reads := [true], apart := false, early := none, bad := [fun _ => none],
    eval := fun ls => match ls with
      | [a] => .done [] (if (packedBad a).isSome then 3 else classOf (packedVal a))
      | _ => .trap 11 0x01 0
    dest := none, t := 8 + ceilDiv l1 4, tMax := 16 }

/-- The lengths of DMUL and DDIV (R360). -/
def lengthsBad (lw : Word) : Bool := decide (16 < lwL2 lw) || decide (lwL1 lw ≤ lwL2 lw)

/-- Runs a decimal instruction: the lengths first (R365). -/
def State.decimal (s : State) (ins : Instr) (c : CoreId) (g : Guard) (enc : Option Nat) (pd : PredNo) (rd rt : Reg)
    (badLen : Word → Bool) (plan : Core → Word → DecPlan) : Host.Outcome State Fault Refusal :=
  s.runInstr c ins g enc false false (cc 1) fun s =>
    let k := s.core c
    let lw := k.reg rt
    let p := plan k lw
    if badLen lw then .trapLate s (trapAt 4 0x08 k.pc) (commercialCost k.ct p.tMax p.tMax 0 0)
    else s.runDecimal c pd lw (k.reg rd) p

/-- Lengths that are always good. -/
def anyLength (_ : Word) : Bool := false

def execDadd (c : CoreId) (g : Guard) (pd : PredNo) (rd rs rt : Reg) (s : State) :=
  s.decimal (.dadd c g pd rd rs rt) c g none pd rd rt anyLength fun k lw => decTwo k rd rs lw (fun a b => a + b)
def execDsub (c : CoreId) (g : Guard) (pd : PredNo) (rd rs rt : Reg) (s : State) :=
  s.decimal (.dsub c g pd rd rs rt) c g none pd rd rt anyLength fun k lw => decTwo k rd rs lw (fun a b => a - b)
def execDzad (c : CoreId) (g : Guard) (pd : PredNo) (rd rs rt : Reg) (s : State) :=
  s.decimal (.dzad c g pd rd rs rt) c g none pd rd rt anyLength fun k lw => decZad k rd rs lw
def execDcmp (c : CoreId) (g : Guard) (pd : PredNo) (rd rs rt : Reg) (s : State) :=
  s.decimal (.dcmp c g pd rd rs rt) c g none pd rd rt anyLength fun k lw => decCmp k rd rs lw
def execDmul (c : CoreId) (g : Guard) (pd : PredNo) (rd rs rt : Reg) (s : State) :=
  s.decimal (.dmul c g pd rd rs rt) c g none pd rd rt lengthsBad fun k lw => decMul k rd rs lw
def execDdiv (c : CoreId) (g : Guard) (pd : PredNo) (rd rs rt : Reg) (s : State) :=
  s.decimal (.ddiv c g pd rd rs rt) c g none pd rd rt lengthsBad fun k lw => decDiv k rd rs lw
def execDsrp (c : CoreId) (g : Guard) (pd : PredNo) (rd rt : Reg) (s : State) :=
  s.decimal (.dsrp c g pd rd rt) c g none pd rd rt anyLength fun k lw => decSrp k rd lw
def execDtst (c : CoreId) (g : Guard) (pd : PredNo) (rd rt : Reg) (s : State) :=
  s.decimal (.dtst c g pd rd rt) c g none pd rd rt anyLength fun k lw => decTst k rd lw

-- ---------------------------------------------------------------- conversions (R367 to R369)

/-- A zoned operand of one byte (R360). -/
def zonedShort (lw : Word) : Bool := lwLz lw == 1

/-- CVPZ: zoned source, packed result. -/
def decPack (k : Core) (rd rs : Reg) (lw : Word) : DecPlan :=
  let l1 := lwL1 lw
  let lz := lwLz lw
  { ops := [⟨k.reg rs, lz, accLoad⟩, ⟨k.reg rd, l1, accStore⟩], reads := [true, false], apart := true, early := none, bad := [zonedBad, fun _ => none],
    eval := fun ls => match ls with
      | z :: _ => intoPacked l1 (zonedVal z)
      | _ => .trap 11 0x01 0
    dest := some 1, t := 12 + 2 * ceilDiv lz 8, tMax := 28 }

/-- CVZP: packed source, zoned result. -/
def decUnpack (k : Core) (rd rs : Reg) (lw : Word) : DecPlan :=
  let l1 := lwL1 lw
  let lz := lwLz lw
  { ops := [⟨k.reg rs, l1, accLoad⟩, ⟨k.reg rd, lz, accStore⟩], reads := [true, false], apart := true, early := none, bad := [packedBad, fun _ => none],
    eval := fun ls => match ls with
      | p :: _ =>
        let v := packedVal p
        if 10 ^ (lz - 1) ≤ v.natAbs then .ovf (zonedOf lz v) else .done (zonedOf lz v) (classOf v)
      | _ => .trap 11 0x01 0
    dest := some 1, t := 12 + 2 * ceilDiv lz 8, tMax := 28 }

/-- CVBP: a pair to packed. -/
def decFromBinary (k : Core) (rd rs : Reg) (lw : Word) : DecPlan :=
  let l1 := lwL1 lw
  let v := (k.pair rs).toInt
  { ops := [⟨k.reg rd, l1, accStore⟩], reads := [false], apart := true, early := none, bad := [fun _ => none],
    eval := fun _ => intoPacked l1 v
    dest := some 0, t := 70, tMax := 70 }

def execCvpz (c : CoreId) (g : Guard) (pd : PredNo) (rd rs rt : Reg) (s : State) :=
  s.decimal (.cvpz c g pd rd rs rt) c g none pd rd rt zonedShort fun k lw => decPack k rd rs lw
def execCvzp (c : CoreId) (g : Guard) (pd : PredNo) (rd rs rt : Reg) (s : State) :=
  s.decimal (.cvzp c g pd rd rs rt) c g none pd rd rt zonedShort fun k lw => decUnpack k rd rs lw
def execCvbp (c : CoreId) (g : Guard) (pd : PredNo) (rd rs rt : Reg) (s : State) :=
  s.decimal (.cvbp c g pd rd rs rt) c g (oddPair rs) pd rd rt anyLength fun k lw => decFromBinary k rd rs lw

/-- CVPB: packed to a pair, the low 64 bits on an overflow with DOT = 0 (R368). With DOT = 1 the EADDR of vector 12 is "op1's
address" (R361), and CVPB has no op1 in memory: a free value (log 6). -/
def State.toBinary (s : State) (c : Nat) (pd : PredNo) (rd rs : Reg) (lw : Word) : Res :=
  let k := s.core c
  let l1 := lwL1 lw
  let o : Opnd := ⟨k.reg rs, l1, accLoad⟩
  let x := fun (a : Nat) => commercialCost k.ct (12 + 3 * (2 * l1 - 1)) 201 a 0
  match s.judgeAll c [o] with
  | .error t => .trapLate s t (x 0)
  | .ok ms =>
    if ms.any meetsRegister then .undef 245
    else
      let a := readCost (s.displaced c) ms
      let r := s.readAll c (ms.map fun m => (m, true))
      match r.2 with
      | .error t => .trapLate r.1 t (x a)
      | .ok ls => match firstInvalid [o] [packedBad] ls with
        | some ea => .trapLate r.1 (trapAt 11 0x01 ea) (x a)
        | none =>
          let v := packedVal (ls.headD [])
          let ovf := decide (v < -(2 ^ 63)) || decide (2 ^ 63 ≤ v)
          let s := ms.foldl (fun a m => a.mark false m) r.1
          let k := s.core c
          if ovf ∧ k.dot then .trapLate r.1.drawn (trapAt 12 0x01 (BitVec.ofNat 32 r.1.freeVal)) (x a)
          else
            let k := k.setPair rd (BitVec.ofInt 64 v)
            let k := if ovf then k.stick statDV else k
            .done (s.setCore c (k.setClass pd lw (if ovf then 3 else classOf v))) (x a)

def execCvpb (c : CoreId) (g : Guard) (pd : PredNo) (rd rs rt : Reg) (s : State) : Host.Outcome State Fault Refusal :=
  s.runInstr c (.cvpb c g pd rd rs rt) g (oddPair rd) false false (cc 1) fun s =>
    s.toBinary c pd rd rs ((s.core c).reg rt)

end Sys2Proof.Machine
end

