-- ==== Sys2Proof/Machine/Microcode.lean ====
section
/-!
DEFINITION. User microcode: microwords and nano-words (R445 to R450), the CUSTn engine (R451 to R454), the loader's checks and cycle sums
(R455 to R458), and the reload after a parity error (R461 to R463).
-/

namespace Sys2Proof.Machine

-- ---------------------------------------------------------------- the words (R445, R449)

/-- A microword. -/
structure MicroWord where
  nano : Nat
  next : Nat
  seq : Nat
  cond : Nat
  cyc : Nat
  commit : Bool
deriving DecidableEq, Repr

def decodeMicro (w : Nat) : MicroWord :=
  { nano := w / 2 ^ 22 % 1024, next := w / 2 ^ 11 % 2048, seq := w / 256 % 8, cond := w / 32 % 8, cyc := w / 4 % 8,
    commit := natBit w 1 }

/-- A nano-word's user fields. -/
structure NanoWord where
  asel : Nat
  bsel : Nat
  dsel : Nat
  alu : Nat
  dgt : Nat
  shf : Nat
  lit : Nat
  mem : Nat
  msz : Nat
  cnt : Nat
  flg : Bool
deriving DecidableEq, Repr

def decodeNano (w : Nat) : NanoWord :=
  let f := fun lo n => w / 2 ^ lo % 2 ^ n
  { asel := f 106 6, bsel := f 100 6, dsel := f 94 6, alu := f 88 6, dgt := f 85 3, shf := f 80 4, lit := f 72 8, mem := f 68 4,
    msz := f 66 2, cnt := f 58 4, flg := natBit w 57 }

/-- Microword `i` and nano-word `j` of a user image (R456). -/
def imgMicro (l : List Byte) (i : Nat) : Nat := leField l (320 + 4 * i) 4
def imgM (l : List Byte) : Nat := leField l 18 2
def imgNn (l : List Byte) : Nat := leField l 20 2
def imgNanoAt (l : List Byte) : Nat := (320 + 4 * imgM l + 7) / 8 * 8
def imgNano (l : List Byte) (j : Nat) : Nat := leField l (imgNanoAt l + 16 * j) 14
def imgMask (l : List Byte) : Nat := leField l 16 2

/-- A slot entry: entry microword, class and region limit. -/
def imgEntry (l : List Byte) (n : Nat) : Nat := leField l (64 + 16 * n) 2
def imgResumable (l : List Byte) (n : Nat) : Bool := leField l (66 + 16 * n) 1 == 1
def imgLimit (l : List Byte) (n : Nat) : Nat := leField l (67 + 16 * n) 1

/-- The microword at a micro-store address, and its nano-word. -/
def microAt (l : List Byte) (a : Nat) : MicroWord := decodeMicro (imgMicro l (a - 1792))
def nanoAt (l : List Byte) (a : Nat) : NanoWord := decodeNano (imgNano l (a - 960))

/-- Cycles of a CYC code (R447). -/
def cycOf (c : Nat) : Nat := [1, 2, 3, 4, 6, 8, 12, 16].getD c 1

/-- The successors of a microword that are named by its NEXT field (R446, R458 check 0x02). -/
def MicroWord.targets (w : MicroWord) (a : Nat) : List Nat :=
  match w.seq with
  | 0 => [w.next]
  | 1 => [w.next, Nat.xor w.next 1]
  | 2 => [w.next, a + 1]
  | 4 => natRange w.next 8
  | 6 => [w.next]
  | _ => []

/-- The microwords reachable from a list of addresses, by name, with fuel. -/
def reachFrom (l : List Byte) : Nat → List Nat → List Nat → List Nat
  | 0, _, seen => seen
  | _, [], seen => seen
  | f + 1, a :: t, seen =>
    if seen.contains a ∨ a < 1792 ∨ 1792 + imgM l ≤ a then reachFrom l f t seen
    else reachFrom l f ((microAt l a).targets a ++ t) (a :: seen)

/-- The microwords of the routine of a slot. -/
def routine (l : List Byte) (n : Nat) : List Nat := reachFrom l 4096 [1792 + imgEntry l n] []

/-- Whether a routine reads or writes the odd member of a field: 4 rd, 5 rs, 6 rt (R450). -/
def usesOdd (l : List Byte) (n sel : Nat) : Bool :=
  (routine l n).any fun a =>
    let x := nanoAt l (microAt l a).nano
    x.asel == sel || x.bsel == sel || x.dsel == sel

-- ---------------------------------------------------------------- the engine (R446 to R452)

/-- The micro registers while a routine runs, with the writes held for its next application point (R448). -/
structure Micro where
  t : Tab Word
  mdr : DWord
  mar : Word
  cnt : Nat
  z : Bool
  n : Bool
  c : Bool
  v : Bool
  inv : Bool
  stack : List Nat
  held : List (Reg × Word)
  stores : List (List Mapped × List Byte)
  cycles : Nat
  /-- worst case of the memory accesses beyond their microwords -/
  extra : Nat
  /-- free values drawn -/
  free : Nat
  /-- the execution is a resumption (R358, R447) -/
  resumed : Bool
deriving DecidableEq, Repr

/-- The registers named by an instruction. -/
structure CustRegs where
  rd : Reg
  rs : Reg
  rt : Reg
  sub : BitVec 3
deriving DecidableEq, Repr

/-- Entry: micro registers and flags are undefined, so free (R446 to R448; log 6). -/
def Micro.start (f : Nat) (resumed : Bool) : Micro :=
  let w := fun i => Config.freeBits (f + i)
  { t := (natRange 0 8).map fun i => (i, BitVec.ofNat 32 (w i)), mdr := BitVec.ofNat 64 (w 8), mar := BitVec.ofNat 32 (w 9),
    cnt := w 10 % 256, z := natBit (w 11) 0, n := natBit (w 11) 1, c := natBit (w 11) 2, v := natBit (w 11) 3,
    inv := natBit (w 11) 4, stack := [], held := [], stores := [], cycles := 4, extra := 0, free := f + 12,
    resumed := resumed }

/-- What is kept at a chunk boundary that no event interrupts, and going on from it (R451). -/
def Micro.keep (m : Micro) (next : Nat) : MicroCtx :=
  { next := next, t := m.t, mdr := m.mdr, mar := m.mar, cnt := m.cnt, z := m.z, n := m.n, c := m.c, v := m.v, inv := m.inv,
    stack := m.stack, resumed := m.resumed }

def MicroCtx.go (x : MicroCtx) (f : Nat) : Micro :=
  { t := x.t, mdr := x.mdr, mar := x.mar, cnt := x.cnt, z := x.z, n := x.n, c := x.c, v := x.v, inv := x.inv, stack := x.stack,
    held := [], stores := [], cycles := 0, extra := 0, free := f, resumed := x.resumed }

/-- A source (R450). -/
def Micro.source (m : Micro) (k : Core) (r : CustRegs) (lit sel : Nat) : Word :=
  match sel with
  | 0x01 => k.reg r.rd
  | 0x02 => k.reg r.rs
  | 0x03 => k.reg r.rt
  | 0x04 => k.reg (r.rd ||| 1)
  | 0x05 => k.reg (r.rs ||| 1)
  | 0x06 => k.reg (r.rt ||| 1)
  | 0x10 => loWord m.mdr
  | 0x11 => hiWord m.mdr
  | 0x12 => BitVec.ofNat 32 lit
  | 0x13 => BitVec.ofNat 32 m.cnt
  | 0x14 => r.sub.zeroExtend 32
  | 0x15 => k.stat
  | _ => if 8 ≤ sel ∧ sel < 16 then Tab.get 0 m.t (sel - 8) else 0

/-- A result with its carry and signed overflow. -/
structure AluOut where
  val : Word
  carry : Bool
  ovf : Bool
deriving DecidableEq, Repr

/-- The ALU (R450): the carry of a subtraction is its borrow (log 32). -/
def microAlu (op : Nat) (a b : Word) (c : Bool) : AluOut :=
  let i := if c then 1 else 0
  let add := fun (x : Nat) => (⟨BitVec.ofNat 32 (a.toNat + b.toNat + x), decide (2 ^ 32 ≤ a.toNat + b.toNat + x),
    !fitsS32 (a.toInt + b.toInt + x)⟩ : AluOut)
  let sub := fun (x : Nat) => (⟨a - b - BitVec.ofNat 32 x, decide (a.toNat < b.toNat + x), !fitsS32 (a.toInt - b.toInt - x)⟩ : AluOut)
  match op with
  | 1 => add 0
  | 2 => sub 0
  | 3 => ⟨a &&& b, false, false⟩
  | 4 => ⟨a ||| b, false, false⟩
  | 5 => ⟨a ^^^ b, false, false⟩
  | 6 => add i
  | 7 => sub i
  | 8 => ⟨minU a b, false, false⟩
  | 9 => ⟨maxU a b, false, false⟩
  | _ => ⟨a, false, false⟩

/-- The eight digits of a word are decimal. -/
def digitsOk (a : Word) : Bool := (natRange 0 8).all fun i => decide (a.toNat / 16 ^ i % 16 < 10)

/-- The value of eight packed digits, and back. -/
def digits8 (a : Word) : Nat := digitsVal ((natRange 0 8).reverse.map fun i => a.toNat / 16 ^ i % 16)
def pack8 (n : Nat) : Word := BitVec.ofNat 32 (bcd 8 n)

/-- Four ASCII digits to four nibbles, byte 0 to nibble 0, and back (R450). -/
def packAscii (a : Word) : Word := BitVec.ofNat 32 (sumOf (fun i => a.toNat / 256 ^ i % 16 * 16 ^ i) (natRange 0 4))
def unpackAscii (a : Word) : Word := BitVec.ofNat 32 (sumOf (fun i => (0x30 + a.toNat / 16 ^ i % 16) * 256 ^ i) (natRange 0 4))

/-- The digit operations (R450); none where the spec states no result. -/
def microDigit (op : Nat) (a b : Word) (c : Bool) : Option AluOut :=
  let i := if c then 1 else 0
  match op with
  | 1 =>
    if digitsOk a && digitsOk b then
      let x := digits8 a + digits8 b + i
      some ⟨pack8 (x % 10 ^ 8), decide (10 ^ 8 ≤ x), false⟩
    else none
  | 2 =>
    if digitsOk a && digitsOk b then
      let y := digits8 b + i
      some ⟨pack8 ((digits8 a + 2 * 10 ^ 8 - y) % 10 ^ 8), decide (digits8 a < y), false⟩
    else none
  | 4 => if (natRange 0 4).all (fun j => decide (0x30 ≤ a.toNat / 256 ^ j % 256) && decide (a.toNat / 256 ^ j % 256 ≤ 0x39))
      then some ⟨packAscii a, false, false⟩ else none
  | 5 => if (natRange 0 4).all (fun j => decide (a.toNat / 16 ^ j % 16 < 10)) then some ⟨unpackAscii a, false, false⟩ else none
  | 6 => if digitsOk a then some ⟨pack8 (10 ^ 8 - 1 - digits8 a), false, false⟩ else none
  | _ => none

/-- SHF (R450). -/
def microShift (op lit : Nat) (a : Word) : Word :=
  match op with
  | 1 => a <<< 4
  | 2 => a >>> 4
  | 3 => a <<< 8
  | 4 => a >>> 8
  | 5 => bswapW a
  | 6 => a <<< (lit % 32)
  | 7 => a >>> (lit % 32)
  | _ => a

/-- The result of a nano-word's datapath with its flags; an unstated result is free (log 6). -/
def Micro.compute (m : Micro) (x : NanoWord) (a b : Word) : AluOut × Nat :=
  if x.dgt = 0 then (microAlu x.alu a b m.c, m.free)
  else match microDigit x.dgt a b m.c with
  | some r => (r, m.free)
  | none => (⟨BitVec.ofNat 32 (Config.freeBits m.free), natBit (Config.freeBits (m.free + 1)) 0, false⟩, m.free + 2)

/-- Writes a destination (R448, R450). -/
def Micro.put (m : Micro) (r : CustRegs) (sel : Nat) (v : Word) : Micro :=
  match sel with
  | 0x01 => { m with held := m.held ++ [(r.rd, v)] }
  | 0x02 => { m with held := m.held ++ [(r.rs, v)] }
  | 0x03 => { m with held := m.held ++ [(r.rt, v)] }
  | 0x04 => { m with held := m.held ++ [(r.rd ||| 1, v)] }
  | 0x05 => { m with held := m.held ++ [(r.rs ||| 1, v)] }
  | 0x06 => { m with held := m.held ++ [(r.rt ||| 1, v)] }
  | 0x10 => { m with mdr := pairOf (hiWord m.mdr) v }
  | 0x11 => { m with mdr := pairOf v (loWord m.mdr) }
  | 0x16 => { m with mar := v }
  | _ => if 8 ≤ sel ∧ sel < 16 then { m with t := Tab.insert (sel - 8) v m.t } else m

/-- The datapath of a nano-word: sources are read first (log 32), then result, flags and counter. -/
def Micro.datapath (m : Micro) (k : Core) (r : CustRegs) (x : NanoWord) : Micro :=
  let a := m.source k r x.lit x.asel
  let b := m.source k r x.lit x.bsel
  let q := m.compute x a b
  let v := microShift x.shf x.lit q.1.val
  let m := { (m.put r x.dsel v) with free := q.2 }
  let m := if x.flg then { m with z := v == 0, n := v.getLsbD 31, c := q.1.carry, v := q.1.ovf } else m
  let m := if x.dgt = 3 then { m with inv := !digitsOk a } else m
  match x.cnt with
  | 1 => { m with cnt := x.lit }
  | 2 => { m with cnt := m.cnt - 1 }
  | _ => m

/-- Whether a descriptor type is within a region limit (R452, R456). -/
def withinLimit (limit t : Nat) : Bool :=
  t == 0 || (t == 1 && decide (1 ≤ limit)) || ((t == 2 || t == 3) && decide (2 ≤ limit))

/-- The checks of a memory operation (R452). -/
def State.microJudge (s : State) (c : Nat) (a : Access) (limit ea n : Nat) : Except Trap (List Mapped) :=
  match (halves ea n).findSome? (fun p => match (s.core c).find p.ea with
      | some d => if withinLimit limit d.type then none else some (a.trap 9 0x04 p.ea)
      | none => none) with
  | some t => .error t
  | none => s.judge c a (halves ea n) none

/-- What one memory operation answers. -/
inductive MicroMem where
  | ok (s : State) (m : Micro)
  | trap (s : State) (t : Trap)

/-- The memory operation of a nano-word, at MAR and MDR as they stood when it began (R452; log 32). -/
def State.microMem (s : State) (c : Nat) (limit : Nat) (x : NanoWord) (mar : Word) (mdr : DWord) (m : Micro) : MicroMem :=
  let n := 2 ^ x.msz
  let step := fun (m : Micro) => if x.mem = 3 ∨ x.mem = 4 then { m with mar := mar + BitVec.ofNat 32 n } else m
  if x.mem = 1 ∨ x.mem = 3 then
    match s.microJudge c accLoad limit mar.toNat n with
    | .error t => .trap s t
    | .ok ms =>
      let r := s.loadPieces c ms
      match r.2 with
      | .error t => .trap r.1 t
      | .ok l => .ok (r.1.mark false ms) (step { m with
          mdr := BitVec.ofNat 64 (leNat l), extra := m.extra + (s.loadCost c ms n).hi })
  else if x.mem = 2 ∨ x.mem = 4 then
    match s.microJudge c accStore limit mar.toNat n with
    | .error t => .trap s t
    | .ok ms => .ok s (step { m with stores := m.stores ++ [(ms, leBytes n mdr.toNat)] })
  else .ok s m

/-- A condition (R447). -/
def Micro.cond (m : Micro) (rs : Bool) (code : Nat) : Bool :=
  match code with
  | 0 => true
  | 1 => m.z
  | 2 => m.n
  | 3 => m.c
  | 4 => m.cnt == 0
  | 5 => m.inv
  | 6 => m.v
  | _ => rs

/-- The held writes reach the registers (R448). -/
def Core.applyHeld (k : Core) (l : List (Reg × Word)) : Core := l.foldl (fun a x => a.setReg x.1 x.2) k

/-- The cost of an execution or chunk: its cycles, or its full sum in constant-time mode (R454), and memory beyond them. -/
def Micro.cost (m : Micro) (ct : Bool) (sum touches : Nat) : Cost :=
  let n := if ct then sum else m.cycles
  ⟨n + 40 * touches, n + m.extra + 40 * touches⟩

/-- Applies held writes and buffered stores (R448, R452): all at one instant, first touches first. -/
def State.applyMicro (s : State) (c : Nat) (m : Micro) : StoreRes :=
  match (if m.stores = [] then .ok s else s.performCommit c m.stores : StoreRes) with
  | .ok s => .ok (s.setCore c ((s.core c).applyHeld m.held))
  | r => r

/-- How many lines the buffered stores first touch. -/
def State.microTouches (s : State) (m : Micro) : Nat := s.commitTouches (m.stores.flatMap Prod.fst)

/-- A microtrap (R453). -/
def microTrap (lit : Nat) (mar : Word) : Option Trap :=
  match lit with
  | 1 => some (trapAt 11 0x01 mar)
  | 2 => some (trapAt 12 0x01 mar)
  | 3 => some (trapAt 12 0x02 mar)
  | _ => none

/-- A bad word among the microword at `a` and its nano-word (R461). -/
def Core.badAt (k : Core) (a nano : Nat) : Option BadWord := k.ucodeBad.find? fun w => w == ⟨0, a⟩ || w == ⟨1, nano⟩

/-- Runs a routine from microword `a`, with fuel; `done` says that the commit has been applied. -/
def State.micro_ (s : State) (c : Nat) (img : List Byte) (limit sum : Nat) (r : CustRegs) : Nat → Nat → Bool → Nat → Micro → Res
  | 0, _, _, _, _ => .undef 458
  | f + 1, a, committed, touches, m =>
    let w := microAt img a
    let k := s.core c
    match (if committed then none else k.badAt a w.nano) with
    | some b => .hold b
    | none =>
      let x := nanoAt img w.nano
      let mar := m.mar
      let mdr := m.mdr
      let m := { (m.datapath k r x) with cycles := m.cycles + cycOf w.cyc }
      match s.microMem c limit x mar mdr m with
      | .trap s t => .trap s t
      | .ok s m =>
        let fin := fun (s : State) (m : Micro) (t : Nat) => { s with freeCtr := max s.freeCtr m.free }
          |> fun s => Res.done s (m.cost k.ct sum t)
        let go := fun (s : State) (done : Bool) (t : Nat) (m : Micro) (b : Nat) => s.micro_ c img limit sum r f b done t m
        let on := fun (s : State) (done : Bool) (t : Nat) (m : Micro) =>
          match w.seq with
          | 0 => go s done t m w.next
          | 1 => go s done t m (if m.cond m.resumed w.cond then Nat.xor w.next 1 else w.next)
          | 2 => go s done t { m with stack := (a + 1) :: m.stack } w.next
          | 3 => match m.stack with
            | b :: st => go s done t { m with stack := st } b
            | [] => .undef 458
          | 4 => go s done t m (w.next + (if w.cond = 0 then r.sub.toNat else (Tab.get 0 m.t 0).toNat % 8))
          | 5 =>
            if done then fin s m t
            else
              let n := s.microTouches m
              match s.applyMicro c m with
              | .ok s => fin s m n
              | .wait s y => .wait s y
              | .trap s e => .trap s e
              | .undef y => .undef y
          | 6 =>
            let n := s.microTouches m
            match s.applyMicro c m with
            | .ok s =>
              let s := { s with freeCtr := max s.freeCtr m.free }
              .again (s.setCore c { s.core c with micro := some (m.keep w.next) }) (m.cost k.ct sum n)
            | .wait s y => .wait s y
            | .trap s e => .trap s e
            | .undef y => .undef y
          | _ => match microTrap x.lit m.mar with
            | some e => .trap s e
            | none => .undef 458
        if w.commit ∧ ¬ committed then
          let n := s.microTouches m
          match s.applyMicro c m with
          | .ok s => on s true n { m with held := [], stores := [] }
          | .wait s y => .wait s y
          | .trap s e => .trap s e
          | .undef y => .undef y
        else on s committed touches m

/-- CUSTn: a routine between two chunks goes on where it stands; otherwise it is entered at its entry, on a fresh start and on a
resumption alike (R451). One command runs a resumable routine to its next chunk boundary. -/
def State.runCust (s : State) (c n : Nat) (r : CustRegs) : Res :=
  let img := s.micro.image
  let go := s.micro_ c img (imgLimit img n) (Tab.get 0 s.micro.sums n) r 8192
  match (s.core c).micro with
  | some x => go x.next false 0 (x.go s.freeCtr)
  | none => go (1792 + imgEntry img n) false 0 (Micro.start s.freeCtr (s.core c).rs)

/-- The encoding faults of CUSTn, whatever its guard: not loaded (R311), then an odd pair field (R450, R574). -/
def State.custEnc (s : State) (n : Nat) (rd rs rt : Reg) : Option Nat :=
  if ¬ s.micro.loaded.getLsbD n then some 0x07
  else
    let odd := fun (sel : Nat) (r : Reg) => usesOdd s.micro.image n sel && oddReg r
    if odd 4 rd || odd 5 rs || odd 6 rt then some 0x04 else none

def execCust (c : CoreId) (g : Guard) (n : BitVec 4) (sub : BitVec 3) (rd rs rt : Reg) (s : State) :
    Host.Outcome State Fault Refusal :=
  s.runInstr c (.cust c g n sub rd rs rt) g (s.custEnc n.toNat rd rs rt) (imgResumable s.micro.image n.toNat) false (cc 1) fun s =>
    s.runCust c n.toNat ⟨rd, rs, rt, sub⟩

-- ---------------------------------------------------------------- the loader's checks (R455, R458)

/-- A refusal of an image: code and address, 0xFFFF when none applies (R460). -/
structure ImgRefusal where
  code : Nat
  addr : Nat
deriving DecidableEq, Repr

/-- Check 0x01. -/
def imgFormat (l : List Byte) : Bool :=
  let m := imgM l
  let nn := imgNn l
  let fin := imgNanoAt l
  leField l 0 4 == 0x54585543 && leField l 4 2 == 1 && leField l 6 2 == 64 && leField l 8 4 == l.length &&
  leField l 12 4 == crc 0 (patch l 12 (zeros 4)) && decide (1 ≤ m) && decide (m ≤ 256) && decide (nn ≤ 64) &&
  l.length == fin + 16 * nn && allZero (sliceZ l 22 2) && allZero (sliceZ l 28 36) &&
  allZero (sliceZ l (320 + 4 * m) (fin - (320 + 4 * m))) &&
  (natRange 0 nn).all (fun j => allZero (sliceZ l (fin + 16 * j + 14) 2)) &&
  (natRange 0 16).all (fun n =>
    if natBit (imgMask l) n then allZero (sliceZ l (68 + 16 * n) 12) && decide (imgEntry l n < m) &&
      decide (leField l (66 + 16 * n) 1 ≤ 1) && decide (imgLimit l n ≤ 2)
    else allZero (sliceZ l (64 + 16 * n) 16))

/-- The slots an image defines, and the microwords they reach. -/
def imgSlots (l : List Byte) : List Nat := (natRange 0 16).filter fun n => natBit (imgMask l) n
def imgReach (l : List Byte) : List Nat :=
  (natRange 1792 (imgM l)).filter fun a => (imgSlots l).any fun n => (routine l n).contains a

/-- Check 0x02 of a microword. -/
def rangeBad (l : List Byte) (a : Nat) : Bool :=
  let w := microAt l a
  decide (w.nano < 960) || decide (960 + imgNn l ≤ w.nano) ||
  (w.targets a).any fun t => decide (t < 1792) || decide (1792 + imgM l ≤ t)

/-- The number of one bits of a number below 2^n. -/
def onesIn (v n : Nat) : Nat := sumOf (fun i => if natBit v i then 1 else 0) (natRange 0 n)

/-- Check 0x03. -/
def microOdd (w : Nat) : Bool := onesIn w 32 % 2 == 1
def nanoOdd (w : Nat) : Bool := [0, 28, 56, 84].all fun lo => onesIn (w / 2 ^ lo % 2 ^ 28) 28 % 2 == 1

/-- Check 0x04: every field of a nano-word holds a user code (R449, R450, R452). -/
def srcCode (s : Nat) : Bool :=
  decide (s ≤ 6) || (decide (8 ≤ s) && decide (s ≤ 0x15))
def dstCode (s : Nat) : Bool := decide (s ≤ 6) || (decide (8 ≤ s) && decide (s ≤ 0x11)) || s == 0x16
def nanoUser (w : Nat) : Bool :=
  let x := decodeNano w
  srcCode x.asel && srcCode x.bsel && dstCode x.dsel && decide (x.alu ≤ 9) && decide (x.dgt ≤ 6) && decide (x.shf ≤ 7) &&
  decide (x.mem ≤ 4) && decide (x.cnt ≤ 2) && w / 2 ^ 62 % 16 == 0 && w / 2 ^ 29 % 2 ^ 27 == 0 && w / 2 % 2 ^ 27 == 0
def microUser (l : List Byte) (a : Nat) : Bool :=
  let w := microAt l a
  (w.seq != 7 || (microTrap (nanoAt l w.nano).lit 0).isSome) && (w.seq != 4 || decide (w.cond ≤ 1))

/-- A place on a path: address, and the micro-stack with the routine each entry was called for. -/
abbrev Place := Nat × List (Nat × Nat)

/-- The successors of a place; none for a return with an empty stack, a call deeper than 4, or a recursion. -/
def follow (l : List Byte) (p : Place) : Option (List Place) :=
  let w := microAt l p.1
  match w.seq with
  | 2 => if p.2.length = 4 ∨ p.2.any (fun e => e.2 == w.next) then none else some [(w.next, (p.1 + 1, w.next) :: p.2)]
  | 3 => match p.2 with
    | e :: t => some [(e.1, t)]
    | [] => none
  | _ => some ((w.targets p.1).map fun t => (t, p.2))

/-- The successors that do not lie at or below their own address, returns included. -/
def forward (l : List Byte) (p : Place) (q : List Place) : List Place :=
  if (microAt l p.1).seq = 3 then q else q.filter fun x => decide (p.1 < x.1)

/-- Check 0x05: the first place on a path that breaks it. -/
def pathBad (l : List Byte) : Nat → Place → Option Nat
  | 0, _ => none
  | f + 1, p => match follow l p with
    | none => some p.1
    | some [] => none
    | some q => match forward l p q with
      | [] => some p.1
      | q => q.findSome? (pathBad l f)

/-- Check 0x06: the first place that breaks the rules of R451. -/
def commitBad (l : List Byte) (resum : Bool) : Nat → Place → Bool → Option Nat
  | 0, _, _ => none
  | f + 1, p, com =>
    let w := microAt l p.1
    let x := nanoAt l w.nano
    if resum then
      if w.commit then some p.1
      else ((follow l p).getD []).filter (fun q => decide (p.1 < q.1) || w.seq == 3) |>.findSome? fun q => commitBad l resum f q com
    else if w.seq = 6 then some p.1
    else if com ∧ (w.commit ∨ x.mem ≠ 0 ∨ x.dsel ≠ 0) then some p.1
    else
      let com := com || w.commit
      if w.seq = 5 then (if com then none else some p.1)
      else if w.seq = 7 then (if com then some p.1 else none)
      else ((follow l p).getD []).filter (fun q => decide (p.1 < q.1) || w.seq == 3) |>.findSome? fun q => commitBad l resum f q com

/-- Whether a routine's commit lies on a path from a place to the backward branch at `b`: it would be made once for each turn (R451). -/
def commitInLoop (l : List Byte) (b : Nat) : Nat → Place → Bool
  | 0, _ => false
  | f + 1, p =>
    if p.2 = [] ∧ b < p.1 then false
    else (microAt l p.1).commit || (p.1 != b && ((follow l p).getD []).any fun q => commitInLoop l b f q)

/-- A backward successor of a microword. -/
def backs (l : List Byte) (a : Nat) : List Nat := ((microAt l a).targets a).filter fun t => decide (t ≤ a)

/-- Whether every path from a place to the branch at `b` holds exactly one CNT op 2, no CNT op 1 and no other such branch. -/
def bodyOk (l : List Byte) (b : Nat) : Nat → Place → Nat → Bool
  | 0, _, _ => true
  | f + 1, p, n =>
    let x := nanoAt l (microAt l p.1).nano
    let n := if x.cnt = 2 then n + 1 else n
    if x.cnt = 1 then false
    else if p.1 = b ∧ p.2 = [] then n == 1
    else if backs l p.1 ≠ [] then false
    else if p.2 = [] ∧ b < p.1 then true
    else ((follow l p).getD []).all fun q => bodyOk l b f q n

/-- Check 0x07 of a microword. -/
def loopBad (l : List Byte) (a : Nat) : Bool :=
  let w := microAt l a
  match backs l a with
  | [] => false
  | t => !(w.seq == 1 && w.cond == 4 && t == [w.next] && bodyOk l a 4200 (w.next, []) 0)

/-- The largest count a routine loads (R455). -/
def largestCount (l : List Byte) (n : Nat) : Nat :=
  ((routine l n).map fun a =>
    let x := nanoAt l (microAt l a).nano
    if x.cnt = 1 then x.lit else 0).foldl max 1

/-- Whether a nano-word reads MDR: as a source, or for a store. -/
def NanoWord.readsMdr (x : NanoWord) : Bool :=
  x.asel == 0x10 || x.asel == 0x11 || x.bsel == 0x10 || x.bsel == 0x11 || x.mem == 2 || x.mem == 4

/-- Check 0x08 along the paths from a place: `since` is the time since the last load began, capped at `lam`; `n` counts the stores since
the last application point; `left` says how often each loop's branch may still go back. -/
def memBad (l : List Byte) (lam count : Nat) : Nat → Place → Nat → Nat → Tab Nat → Option Nat
  | 0, _, _, _, _ => none
  | f + 1, p, since, n, left =>
    let w := microAt l p.1
    let x := nanoAt l w.nano
    let load := x.mem == 1 || x.mem == 3
    let n := if x.mem = 2 ∨ x.mem = 4 then n + 1 else n
    if (x.readsMdr ∨ load) ∧ since < lam then some p.1
    else if 8 < n then some p.1
    else
      let since := min lam ((if load then 0 else since) + cycOf w.cyc)
      let n := if w.seq = 6 ∨ w.commit then 0 else n
      ((follow l p).getD []).findSome? fun q =>
        if p.1 < q.1 ∨ w.seq = 3 then memBad l lam count f q since n left
        else
          let k := Tab.get (count - 1) left p.1
          if k = 0 then none else memBad l lam count f q since n (Tab.insert p.1 (k - 1) left)

/-- The longest forward path in cycles from a place to a stop: SEQ 5, 6 or 7, or the branch at `b`; each counted loop met adds its body
`count` - 1 times more (R455). -/
def longest (l : List Byte) (count : Nat) (b : Nat) : Nat → Place → Nat
  | 0, _ => 5000
  | f + 1, p =>
    let w := microAt l p.1
    let own := cycOf w.cyc
    if w.seq = 5 ∨ w.seq = 6 ∨ w.seq = 7 ∨ (p.1 = b ∧ p.2 = []) then own
    else
      let q := forward l p ((follow l p).getD [])
      let again := match backs l p.1 with
        | [] => 0
        | t :: _ => (count - 1) * longest l count p.1 f (t, [])
      own + again + (q.map (longest l count b f)).foldl max 0

/-- The places from which a chunk of a resumable routine can start: its entry and what follows its chunk boundaries. -/
def chunkStarts (l : List Byte) : Nat → Place → List Place
  | 0, _ => []
  | f + 1, p =>
    let q := forward l p ((follow l p).getD [])
    (if (microAt l p.1).seq = 6 then q else []) ++ q.flatMap (chunkStarts l f)

/-- The cycle sum S of the routine of a slot (R455). -/
def cycleSum (l : List Byte) (n : Nat) : Nat :=
  let e : Place := (1792 + imgEntry l n, [])
  let starts := if imgResumable l n then e :: chunkStarts l 4200 e else [e]
  4 + (starts.map (longest l (largestCount l n) 4096 4200)).foldl max 0

/-- λ of a region limit (R458). -/
def lambdaOf (limit : Nat) : Nat := if limit = 0 then 2 else if limit = 1 then 14 else 64

/-- The first refusal of a list. -/
def firstImg : List (Option ImgRefusal) → Option ImgRefusal
  | [] => none
  | some r :: _ => some r
  | none :: t => firstImg t

/-- A check of addresses: the first that fails refuses. -/
def imgEach (code : Nat) (p : Nat → Bool) (l : List Nat) : Option ImgRefusal := (l.find? p).map fun a => ⟨code, a⟩

/-- A check of the routines of the slots. -/
def imgPaths (code : Nat) (p : Nat → Option Nat) (l : List Nat) : Option ImgRefusal := (l.findSome? p).map fun a => ⟨code, a⟩

/-- Whether a plan DOMAIN counts slot `n` in a cost vector. -/
def planCounts (d : List Byte) (n : Nat) : Bool :=
  let has := fun (base : Nat) (deg : Bool) => (parseSection d base deg).tasks.any fun t => t.w.getD (48 + n) 0 != 0
  d != [] && (has 0 false || (leField d 56 4 != 0 && has (leField d 56 4) true))

/-- Whether the active plan or an admitted shadow plan counts a slot (R458 check 0x0A). -/
def State.slotCounted (s : State) (n : Nat) : Bool :=
  (s.plans.state != 2 && planCounts s.plans.active n) || (s.plans.shadowState != 0 && planCounts s.plans.shadow n) ||
  planCounts s.plans.pending n

/-- The loader's checks of a user image in the order of R458. -/
def State.checkImage (s : State) (l : List Byte) : Option ImgRefusal :=
  if ¬ imgFormat l then some ⟨0x01, 0xFFFF⟩
  else
    let reach := imgReach l
    let slots := imgSlots l
    let entry := fun n => ((1792 + imgEntry l n, []) : Place)
    firstImg [
      imgEach 0x02 (rangeBad l) reach,
      imgEach 0x03 (fun a => !microOdd (imgMicro l (a - 1792))) (natRange 1792 (imgM l)),
      imgEach 0x03 (fun a => !nanoOdd (imgNano l (a - 960))) (natRange 960 (imgNn l)),
      imgEach 0x04 (fun a => !nanoUser (imgNano l (a - 960))) (natRange 960 (imgNn l)),
      imgEach 0x04 (fun a => !microUser l a) reach,
      imgPaths 0x05 (fun n => pathBad l 4200 (entry n)) slots,
      imgPaths 0x06 (fun n => commitBad l (imgResumable l n) 4200 (entry n) false) slots,
      imgEach 0x06 (fun a => (backs l a).any fun t => commitInLoop l a 4200 (t, [])) reach,
      imgEach 0x07 (loopBad l) reach,
      imgPaths 0x08 (fun n => let lam := lambdaOf (imgLimit l n); memBad l lam (largestCount l n) 4200 (entry n) lam 0 []) slots,
      imgPaths 0x09 (fun n =>
        if (if imgResumable l n then 2048 else 4096) < cycleSum l n then some (1792 + imgEntry l n) else none) slots,
      if s.micro.loading.isSome ∨ (natRange 0 16).any (fun n => s.slotCounted n) then some ⟨0x0A, 0xFFFF⟩ else none]

-- ---------------------------------------------------------------- the reload (R461 to R463)

/-- Barista's reload engine has rewritten the affected store of the core that it serves: the core goes on where it was held, at most 24 µs for each reload
that was ahead and its own later (R461, R462). A golden ROM word with an uncorrectable error stops it, and the core is treated as one that reports a
fault (R463). -/
def State.reloadDone (s : State) (c : Nat) : State :=
  let k := s.core c
  match k.parityHold, s.reloadQueue with
  | some w, (c', ahead) :: rest =>
    if c' ≠ c then s
    else
    let s := { s with micro := { s.micro with reloads := rest } }
    let s := ((s.count (okey 0x1402 1) 1 32).roSet (okey 0x1402 2) c).roSet (okey 0x1402 3) w.store
    let s := s.roSet (okey 0x1402 4) w.addr
    match s.micro.goldenBad with
    | a :: _ => (s.logEvent 0x0603 3 (leBytes 2 a)).setCore c { k with parityHold := none } |>.reportFault c 2
    | [] =>
      let s := s.logEvent 0x0602 1 ([BitVec.ofNat 8 c, BitVec.ofNat 8 w.store] ++ leBytes 2 w.addr)
      let s := s.setCore c { k with
        parityHold := none
        ucodeBad := k.ucodeBad.filter fun x => x.store != w.store
        reloaded := (w, s.timer.frame) :: k.reloaded.filter fun p => decide (s.timer.frame ≤ p.2 + 1000) }
      s.charge c ⟨0, 36000 * (ahead + 1)⟩
  | _, _ => s

def execMicrocodeReloadComplete (c : CoreId) (s : State) : Host.Outcome State Fault Refusal := .next (s.reloadDone c)

end Sys2Proof.Machine
end

