-- ==== Sys2Proof/Machine/FrameTick.lean ====
section
/-!
DEFINITION. FRAME_TICK (R43): the tick ends one frame and begins the next across all units.
-/

namespace Sys2Proof.Machine

-- ---------------------------------------------------------------- the audit (R37, R40, R41)

/-- Q and I: media operations queued, and issued (R37, R218). -/
def State.qCount (s : State) : Nat := (s.media.queue.filter fun o => !o.issued).length
def State.iCount (s : State) : Nat := (s.media.queue.filter fun o => o.issued).length
def State.sCount (s : State) : Nat := 4096 - s.media.queue.length

/-- The frame-end audit (R40). -/
def State.auditOk (s : State) : Bool :=
  s.granted + s.freeCredits + s.inUse == s.pool && s.allocated + s.freeCells == s.pool && s.inUse == s.allocated &&
  s.qCount + s.iCount + s.sCount == 4096

/-- Event 0x0309 with the latched values, as pairs of U32 (R41, R507). -/
def State.logAudit (s : State) : State :=
  let pr := fun (a b : Nat) => a % 2 ^ 32 + b % 2 ^ 32 * 2 ^ 32
  s.logEvent 0x0309 3 (leBytes 4 s.granted ++ leBytes 4 s.freeCredits)
    [(pr s.inUse s.allocated, []), (pr s.freeCells s.qCount, []), (pr s.iCount s.sCount, [])]

-- ---------------------------------------------------------------- tasks (R61 to R63)

/-- A task still running at the tick is abandoned: its context is discarded and its core idles (R61; log 35). -/
def State.abandonTask (s : State) (l : Nat) : State :=
  match (s.lcore l).carrier with
  | none => s
  | some c =>
    let k := s.core c
    if k.task = none then s
    else
      let s := s.modLcore l fun x => { x with miss := (x.miss + 1) % 2 ^ 32 }
      let s := (s.unlock c).giveUp c
      s.setCore c { k with
        task := none, run := if k.run = .running then .idle else k.run, wait := none, micro := none, rs := false, shadow := [], touchHeld := []
        inNmi := false, inMc := false, fastDepth := 0, bsDepth := 0, fbInt := [], bsInt := [], inDebug := false, budgetPend := false }

def State.abandonTasks (s : State) : State := (natRange 0 64).foldl State.abandonTask s

/-- Overruns on any core in consecutive frames (R63). -/
def State.countOverruns (s : State) : State :=
  let any := (natRange 0 64).any fun l => (s.lcore l).ovrNow
  { s with plans := { s.plans with ovrFrames := if any then s.plans.ovrFrames + 1 else 0 } }

/-- The classes with records whose processing frame `f` has ended and that no task took, with their number (R62). -/
def State.processingMisses (s : State) (f : Nat) : State :=
  let lost := s.adm.recs.filter fun r => r.derived.isNone && !r.taken &&
    (match r.again with | some p => p == f | none => r.frame + 1 == f)
  (natRange 0 64).foldl (fun a k =>
    let n := (lost.filter fun r => r.cls == k).length
    if n = 0 then a else a.logEvent 0x0102 1 ([BitVec.ofNat 8 k, 0, 0, 0] ++ leBytes 4 n)) s

/-- Every core's buffered stores are performed, and what cores have stored to code may be fetched everywhere (R264, R265). -/
def State.drainCores (s : State) : State :=
  { s.cores.foldl (fun a x => a.drainAll x.1) s with stale := [] }

-- ---------------------------------------------------------------- policies, budgets, voids (R98, R102)

/-- The policy that the objects of a class hold (R101). -/
def State.policyOf (s : State) (k : Nat) : ClassPolicy :=
  let o := 0x0800 + k
  ⟨s.objNat (okey o 1) 0, s.objNat (okey o 2) 0, s.objNat (okey o 3) 1, s.objNat (okey o 4) 0 != 0, s.objNat (okey o 5) 0⟩

/-- The policies of every class come into force from their objects (R102); a change of retention class is in the history (R205). -/
def State.takePolicies (s : State) : State :=
  (natRange 0 64).foldl (fun a k =>
    let p := a.policyOf k
    let old := match (a.media.retentions.filter fun x => x.2.1 == k).getLast? with | some x => x.2.2 | none => 0
    let a := if old = p.retention then a
      else { a with media := { a.media with retentions := a.media.retentions ++ [(a.timer.frame, k, p.retention)], sysDirty := true } }
    { a with adm := { a.adm with policy := Tab.put ClassPolicy.default k p a.adm.policy } }) s

/-- What begins afresh with a frame: class budgets, stale answers, egress budgets, units used. -/
def State.freshFrame (s : State) : State :=
  { s with
    adm := { s.adm with bytes := [], count := [], staleAcked := [] }
    egress := { s.egress with sentBytes := [], sentCount := [], perPartner := [], readUsed := [] }
    perc := { s.perc with used := [] } }

/-- The grants of entries disabled since the last tick return to F (R98). -/
def State.doVoids (s : State) : State :=
  let s := s.adm.voidPend.foldl State.voidGrants s
  { s with adm := { s.adm with voidPend := [] } }

-- ---------------------------------------------------------------- presenting again (R189)

/-- The cells of a restored record move to the home of its class (R54, R112). -/
def State.rehome (s : State) (r : Rec) (dram : Bool) : State :=
  if r.dram = dram then s
  else
    let c : BitVec 16 := BitVec.ofNat 16 r.cells
    let p := s.partner r.partner
    let a := (s.adm.subAlloc r.dram r.cells).addAlloc dram r.cells
    let a := a.setFree r.dram (a.free r.dram + r.cells)
    let s := { s with adm := a.setFree dram (a.free dram - r.cells) }
    s.setPartner r.partner (if dram then { p with uS := p.uS - c, uD := p.uD + c } else { p with uS := p.uS + c, uD := p.uD - c })

/-- A restored record is loaded into the arena of its class and presented in the frame that begins (R186 step 9, R189). -/
def State.presentRec (s : State) (r : Rec) : State :=
  match s.arena (.cls r.cls) with
  | none => s.setRecord { r with again := some s.timer.frame, data := [] }
  | some a =>
    let r' := { r with base := a.base, ring := a.cells, pos := a.pos, dram := a.dram, again := some s.timer.frame, data := [] }
    let s := (s.rehome r a.dram).setArena (a.take r.cells)
    (s.setRecord r').pokeRec r' r.data

/-- The restored records of one admission frame, in order. -/
def State.presentFrame (s : State) (f : Nat) : State :=
  (s.adm.recs.filter fun r => r.frame == f && r.again == some (2 ^ 64)).foldl State.presentRec s

/-- At the tick at which recovery ends, the records to be presented again are loaded into their arenas, each at the place that it takes when it is
presented (R186 step 9). -/
def State.loadAgain (s : State) : State :=
  let t := s.adm.represent.foldl State.presentFrame s
  { s with mem := t.mem, upsets := t.upsets, poison := t.poison }

/-- One admission frame is presented in each frame, from the first tick after the one at which recovery ends (`ends`), at the first ceiling; admission
reopens with the last (R186, R189; log 47). -/
def State.presentAgain (s : State) (ends : Bool) : State :=
  if s.carafe.ceilings = [] then s
  else match s.adm.represent with
  | [] => { s with adm := { s.adm with closed := false } }
  | f :: t =>
    if ends then s.loadAgain
    else
      let s := s.presentFrame f
      { s with adm := { s.adm with represent := t, closed := !t.isEmpty } }

-- ---------------------------------------------------------------- acknowledgements of a tick (R119, R120, R189)

/-- A durable acknowledgement, on the last port of the entry (R119). -/
def State.sendDurable (s : State) (n : Nat) : State := s.sendAck (s.partner n).lastPort 2 n 0

/-- A state acknowledgement after recovery (R120). -/
def State.sendState (s : State) (n : Nat) : State :=
  let p := s.partner n
  if p.en ∧ p.isOpen then s.sendAck p.lastPort 3 n 0 else s

/-- The state acknowledgements of R120: in the first 64 frames after recovery every partner that is open gets one, in increasing order, and its durable
acknowledgement with the restored A_dur in the frame after (R189). They come after the tick at which recovery ends, and wait for a plan, so that they
carry grants, but no longer than the 64 frames (log 36). A partner that opens by a hello within them gets its own. -/
def State.restoredAcks (s : State) (ends : Bool) : State :=
  let last := decide (s.adm.recFrame + 63 ≤ s.timer.frame)
  if s.adm.stateDue = [] ∨ ends ∨ (s.section.isNone ∧ ¬ last) then s
  else
    let ns := s.adm.stateDue.filter fun n => (s.partner n).en && (s.partner n).isOpen
    let rest := s.adm.stateDue.filter fun n => !ns.contains n
    let s := ns.foldl State.sendState s
    { s with adm := { s.adm with stateDue := if last then [] else rest, announceDue := ns } }

/-- The acknowledgements of a tick whose audit has passed. -/
def State.tickAcks (s : State) (ends : Bool) : State :=
  let due := s.adm.durableDue
  let s := due.foldl State.sendDurable { s with adm := { s.adm with durableDue := [] } }
  let ann := s.adm.announceDue
  let s := ann.foldl State.sendDurable { s with adm := { s.adm with announceDue := [] } }
  s.restoredAcks ends

-- ---------------------------------------------------------------- images (R233 to R235)

/-- Whether a request is bound to a version of an image (R234). -/
def State.bound (s : State) (num ver : Nat) : Bool :=
  s.egress.reqs.any fun r => match r.kind with | .image n v _ _ => n == num && v == ver && r.refuse.isNone | _ => false

/-- How many blocks the image cache holds, and where a slot of it lies (R235, R242). -/
def State.cacheBlocks (s : State) : Nat := s.roGet (okey 0x0E02 2) / 4096
def State.cachePa (s : State) (slot : Nat) : Nat := s.roGet (okey 0x0E02 1) + 4096 * slot

/-- Whether an image is resident (0x0E01.06). -/
def State.resident (s : State) (num : Nat) : Bool := s.objNat (wkey 0x0E01 6 num) 0 != 0

/-- A slot for a block: a free one, else that of the least recently sent block of an image that is not resident. -/
def State.cacheSlot (s : State) : Option (Nat × Option CacheEntry) :=
  match (natRange 0 s.cacheBlocks).find? fun k => !(s.egress.cache.any fun e => e.slot == k) with
  | some k => some (k, none)
  | none => (s.egress.cache.reverse.find? fun e => !s.resident e.num).map fun e => (e.slot, some e)

/-- A block is copied into the cache with its tag (R235). -/
def State.cacheLoad (s : State) (num ver b : Nat) (tag : DWord) (data : List Byte) : State :=
  if s.egress.cache.any fun e => e.num == num && e.version == ver && e.block == b then s
  else match s.cacheSlot with
  | none => s
  | some (k, old) =>
    let rest := match old with | some e => s.egress.cache.erase e | none => s.egress.cache
    let s := s.enginePoke (s.cachePa k) data
    { s with egress := { s.egress with cache := ⟨num, ver, b, k, tag⟩ :: rest } }

/-- The data of an image's block as bulk storage holds it. -/
def State.imageData (s : State) (place : Nat) : List Byte :=
  match s.bulkBlockAt place with | some x => sliceZ x.data 0 4096 | none => zeros 4096

/-- Every block of an image is loaded into the cache, at a start and when a version becomes current. -/
def State.loadResident (s : State) (i : BootImage) : State :=
  if ¬ s.resident i.num then s
  else ((natRange 0 i.blocks.length).zip i.blocks).foldl (fun a x => a.cacheLoad i.num i.version x.1 x.2.2 (a.imageData x.2.1)) s

/-- Stored versions become current; an older version stays while a request is bound to it, and the blocks of one that goes leave the cache (R233 to
R235). -/
def State.currentImages (s : State) : State :=
  let fresh := s.egress.images.filter fun i => i.stored && !i.current &&
    !(s.egress.images.any fun j => j.num == i.num && j.stored && decide (i.version < j.version))
  let imgs := s.egress.images.map fun i =>
    if fresh.any fun j => j.num == i.num && j.version == i.version then { i with current := true }
    else if fresh.any fun j => j.num == i.num && decide (i.version < j.version) then { i with current := false } else i
  let imgs := imgs.filter fun i => i.current || !i.stored || s.bound i.num i.version
  let cache := s.egress.cache.filter fun e => imgs.any fun i => i.num == e.num && i.version == e.version
  let s := { s with egress := { s.egress with images := imgs, cache := cache } }
  fresh.foldl State.loadResident s

-- ---------------------------------------------------------------- microcode, debug (R459, R571)

/-- The loads and unloads of user microcode that a tick makes; the write of an image completes with step 1 (R459). -/
def State.microTick (s : State) : State :=
  let m := s.micro
  let m := { m with loaded := m.loaded &&& ~~~ m.unloadDue, unloadDue := 0 }
  match m.loading with
  | none => { s with micro := m }
  | some img =>
    if m.loadStage = 0 then ({ s with micro := { m with loaded := 0, image := img, loadStage := 1 } } : State).answerWait PendStore.user 0
    else if m.loadStage = 2 then
      { s.roSet (okey 0x1400 3) 0 with micro := { m with
        loaded := BitVec.ofNat 16 (imgMask img), imageId := leField img 24 4, loading := none, loadStage := 0
        sums := (imgSlots img).map fun n => (n, cycleSum img n) } }
    else { s with micro := m }

/-- Debug enable takes effect; while debug is disabled every breakpoint is cleared (R571). -/
def State.debugTick (s : State) : State :=
  let on := s.objNat (okey 0x1310 1) 0 != 0
  let s := { s with jtag := { s.jtag with debug := on } }
  if on then s
  else { s with cores := s.cores.map fun x => (x.1, { x.2 with brks := [], haltPend := false }) }

-- ---------------------------------------------------------------- degrade triggers (R63, R81 to R83)

/-- Whether a logical core of the section has neither carrier nor spare (R537). -/
def State.coreLost (s : State) : Bool :=
  ((natRange 0 s.nl).any fun l => (s.lcore l).carrier.isNone) && ((natRange 0 68).find? s.spareReady).isNone

/-- Whether what the sets still have to place is more than the journal can take: the media can no longer meet R21 (R83, R207). -/
def State.starved (s : State) : Bool :=
  let left := sumOf (fun (x : ChangeSet) => sumOf (fun (c : Chunk) => c.blocks - c.placed) x.todo) s.perc.sets
  decide (sumOf s.headOf s.useGroups < 4096 * left)

/-- The trigger of R81 that stands at this tick: 1 core loss, 2 media, 3 energy, 4 overrun. DESIGN CHOICE (log 57): where several stand, the first in
this order decides and is logged. -/
def State.trigger (s : State) (missed : Bool) : Option Nat :=
  match s.section with
  | none => none
  | some p =>
    if s.coreLost ∨ s.nGood < p.nl then some 1
    else if missed ∨ s.starved ∨ ¬ s.mediaPasses p then some 2
    else if s.plans.state = 0 ∧ 64 ≤ s.plans.lowFrames ∧ s.canDegrade 3 then some 3
    else if s.plans.state = 0 ∧ natBit p.flags 1 ∧ p.nov ≤ s.plans.ovrFrames ∧ s.degradedSection.isSome then some 4
    else none

/-- The triggers are found at the tick, after the frames that have ended; then the frame that begins counts if B_floor is below B_plan (R81). -/
def State.findTrigger (s : State) (missed : Bool) : State :=
  let s := if s.plans.stopping then s else { s with plans := { s.plans with degradeDue := s.trigger missed } }
  let low := match s.section with | some p => decide (s.carafe.bFloor < p.bPlan) | none => false
  { s with plans := { s.plans with lowFrames := if low then s.plans.lowFrames + 1 else 0 } }

/-- R82: when everything admitted and changed is durable and acknowledged, the plan state becomes "no plan". -/
def State.finishStop (s : State) : State :=
  if s.plans.stopping ∧ (s.perc.sets.all fun x => x.complete.isSome) ∧ s.adm.recs.isEmpty then
    let s := s.deactivate
    { s with adm := { s.adm with stopped := false } }
  else s

-- ---------------------------------------------------------------- the saved plan (R79)

/-- Whether the degraded section of a saved DOMAIN passes by itself (R79). -/
def State.savedDegraded (s : State) (l : List Byte) : Bool :=
  (headerChecks l 0 false).isNone && leField l 56 4 != 0 &&
  (match s.checkDegraded l (parseSection l 0 false) with | .admitted => true | _ => false)

/-- Segments that the scan of recovery did not reach are no part of the journal any more. -/
def Group.forget (x : Group) : Group := { x with blocks := x.blocks.filter fun b => !(b.2.kind == 4 && decide (x.seq ≤ leField b.2.data 8 8)) }

/-- After recovery, each group opens a segment of kind 2 at the tick of the first ceiling (R186 step 10). -/
def State.openGroups (s : State) : State :=
  (s.useGroups.filter fun g => (s.group g).fresh).foldl (fun a g =>
    let a := a.setGroup g (a.group g).forget
    match a.unitPlace g with
    | none => a
    | some p => a.enqueueBuilt g p fun s n => s.buildFixed g p false n [] ⟨[], 0⟩) s

/-- The saved plan is checked against the first ceiling and activated; otherwise its degraded section, otherwise there is no plan (R79). -/
def State.savedCheck (s : State) : State :=
  if ¬ s.plans.checkSaved ∨ s.carafe.ceilings = [] then s
  else
    let s := { s with plans := { s.plans with checkSaved := false } }
    let l := s.media.savedPlan
    if s.section.isSome ∨ l = [] then s
    else
      let go := fun (st : Nat) =>
        let t := s.activate l st
        match t.section with
        | some p => { (t.copyImages p []) with plans := { t.plans with placed := true } }
        | none => t
      match s.checkPlan l none with
      | .admitted => go 0
      | _ => if s.savedDegraded l then go 1 else s

-- ---------------------------------------------------------------- the tick

/-- The next instant at which plant time, modulo the period, equals the phase (R43). -/
def nextTick (now period phase : Nat) : Nat :=
  if now < phase then phase else phase + ((now - phase) / period + 1) * period

/-- The number and the time of the frame that begins: the first tick of a start carries the number that boot or recovery set (R44). 1PPS_OUT falls
with the tick at which its width is past (R50). -/
def State.turnTimer (s : State) : State :=
  let t := s.timer
  let s := if s.section.isNone then s.roSet (okey 0x0400 5) (s.objNat (okey 0x0400 5) 0) else s
  let now := nextTick t.plantNs t.period (s.roGet (okey 0x0400 5))
  { s with timer := { t with
      frame := if t.running then (t.frame + 1) % 2 ^ 64 else t.frame
      running := true
      plantNs := now
      ppsOut := t.ppsOut && decide (now % 1000000000 < 1000 * s.objNat (okey 0x0400 11) 100000) } }

/-- The counts of the media queue at the tick (R226). -/
def State.latchQueue (s : State) : State :=
  ((s.roSet (okey 0x0D70 1) s.qCount).roSet (okey 0x0D70 2) s.iCount).roSet (okey 0x0D70 3) s.sCount

/-- What a tick that ends frame `f` does before its audit: tasks abandoned, misses, the set closed, words swapped, cells released. `dm` and
the misses are those of the section in force in frame `f`. -/
def State.endOfFrame (s : State) (f : Nat) : State :=
  let dm := dmOf s.section
  let s := s.drainCores
  let s := s.processingMisses f
  let s := s.countOverruns.abandonTasks
  let s := (s.closeSet f dm).swapWords
  let s := s.settle
  s.endFrame f

/-- What follows a passed audit, before the arenas turn: voids, budgets and policies, the ceilings, the period and the credits of the frame. -/
def State.settleFrame (s : State) (w : TickFacts) : State :=
  let s := s.doVoids.freshFrame.takePolicies
  let s := (s.testComes.newCeiling w).breach
  let s := s.finishStop.setPeriod
  let s := s.setReserves.coreGrants.reserveDerived.startSchedules
  { s with carafe := { s.carafe with dirtyAtTick := s.perc.dirty } }

/-- The saved plan, at the first ceiling, and the records presented again (R79, R186, R189); `first`: recovery ends at this tick. -/
def State.resumePlan (s : State) (first : Bool) : State :=
  let s := s.savedCheck
  let s := if first then s.openGroups else s
  s.presentAgain first

/-- Whether the rotation of cores is due at this tick (R540). -/
def State.rotateAt (s : State) : Bool :=
  match s.section with
  | some p => s.plans.state == 0 && p.nrot != 0 && s.timer.frame % p.nrot == 0
  | none => false

/-- The rest of the frame's beginning: windows, images, microcode, debug, triggers, tables (the ended frame is `f`). -/
def State.openFrame (s : State) (f : Nat) (missed : Bool) : State :=
  let s := (s.turnArenas.writeClassWindows f).writeRingWindows f
  let s := s.occupancy.currentImages.microTick.debugTick.retireAtTick
  let s := s.findTrigger missed
  let s := { s with repair := { s.repair with rotateDue := s.rotateAt } }
  s.dropSets.fillImages.retryJobs.sysTry

/-- What follows a passed audit, in the frame that has begun after `f`. The acknowledgements of a switch tick follow the core grants of the incoming
plan (R115). -/
def State.startOfFrame (s : State) (f : Nat) (missed : Bool) (w : TickFacts) : State :=
  let s := s.settleFrame w
  let first := s.plans.checkSaved && s.carafe.ceilings != []
  let s := (s.resumePlan first).openFrame f missed
  if s.switchDue ∨ s.plans.degradeDue.isSome then s else s.tickAcks first

-- ---------------------------------------------------------------- switches (R77, R78, R81, R82)

/-- At the switch tick the incoming plan replaces the outgoing one, with its images in place; the tick's acknowledgements follow (R77, R115, R496). -/
def execPlanSwitch (s : State) : Host.Outcome State Fault Refusal :=
  if s.switchDue ∧ s.plans.pendPlaced then .next (s.switchNow.tickAcks false) else .next s

/-- A trigger of R81 has come at this tick: the degraded section takes over where it can; otherwise, after the loss of a core or a media
failure, admission stops and what is admitted is made durable (R82). DESIGN CHOICE (log 57): both take effect at this tick. -/
def execDegradedSwitch (s : State) : Host.Outcome State Fault Refusal :=
  match s.plans.degradeDue with
  | none => .next s
  | some t =>
    if s.failing then .next s
    else if s.canDegrade t ∧ ¬ (t = 2 ∧ s.starved) then
      let planNl := leField s.plans.active 26 1
      let degNl := leField s.plans.active (leField s.plans.active 56 4 + 26) 1
      let s := s.logEvent 0x0103 2 [BitVec.ofNat 8 t]
      let s := s.activate s.plans.active 1
      let s := if t = 1 then s.lendCarriers planNl degNl else s
      let s := { s with plans := { s.plans with placed := false } }
      .next ((s.writeClassWindows (s.timer.frame - 1)).tickAcks false)
    else
      let s := { s with plans := { s.plans with degradeDue := none } }
      let s := if t ≤ 2 then { s with adm := { s.adm with stopped := true }, plans := { s.plans with stopping := true } } else s
      .next (s.tickAcks false)

/-- A tick while a power-fail sequence runs: the frame number goes on, and nothing else begins (R183; log 37). The first tick of a start
ends no frame. -/
def State.frameTick (s : State) (w : TickFacts) : Host.Outcome State Fault Refusal :=
  if ¬ s.timer.armed ∨ s.barista.stage ≠ .up then .next s
  else if s.failing then .next s.turnTimer
  else
    let f := s.timer.frame
    let was := s.timer.running
    let s := s.turnTimer
    let s := if was then s.endOfFrame f else s
    let s := s.latchQueue
    if ¬ s.auditOk then .next ((s.testComes.newCeiling w).logAudit.startPowerFail 3)
    else if s.pf.shutdownAsked then .next ((s.testComes.newCeiling w).startPowerFail 4)
    else
      let r := if was then s.missSets f else (s, false)
      .next (r.1.startOfFrame f r.2 w)

end Sys2Proof.Machine
end

