-- ==== Sys2Proof/Machine/Reset.lean ====
section
/-!
DEFINITION. The resets of types 1 and 2 (R513): what NAND, NOR, OTP and the log hold survives, everything else is as after PORST_N.
-/

namespace Sys2Proof.Machine

/-- What the flash keeps of a group: its blocks and parity, where the units lie, and which stripes are programmed. The fold point comes from the system
area (R205). -/
def Group.survives (x : Group) : Group :=
  { Group.empty with
    sets := x.sets, blocks := x.blocks, parity := x.parity, remap := x.remap, next := x.next, seq := x.seq, used := x.used }

/-- What a LUN keeps: the role and number under which it was written, and that it is being retired; the rest comes from discovery and from the system
area (logs 48, 69). -/
def Lun.survives (x : Lun) : Lun := { Lun.absent with role := x.role, num := x.num, rebuilding := x.rebuilding }

/-- What the media keep: what is programmed, the images of the system area among it. -/
def Media.survives (m : Media) : Media :=
  { State.reset.media with
    luns := m.luns.map fun x => (x.1, x.2.survives)
    groups := m.groups.map fun x => (x.1, x.2.survives)
    bulkBlocks := m.bulkBlocks, bulkParity := m.bulkParity, bulkUsed := m.bulkUsed, sysImages := m.sysImages, sysVersion := m.sysVersion }

/-- What NOR, OTP and the ROMs keep; THERMTRIP_N stays until PORST_N (R502). -/
def Barista.survives (b : Barista) (type : Nat) : Barista :=
  { State.reset.barista with
    slotA := b.slotA, slotB := b.slotB, counter := b.counter, lastReset := type, thermtrip := b.thermtrip && type == 2
    serial := b.serial, ec := b.ec, otp := b.otp, golden := b.golden, rom := b.rom }

/-- Counters that only PORST_N resets: R104, R214, R460, R542, R556, R571. -/
def sincePorst (key : Nat) : Bool :=
  let i := key / 256
  decide (0x0220 ≤ i ∧ i < 0x0224) || (decide (0x0D40 ≤ i ∧ i < 0x0D50) && key % 256 == 2) ||
  [okey 0x1200 6, okey 0x1301 3, okey 0x1310 2, okey 0x1402 1].contains key

/-- A reset of type 1 or 2: the device stands before boot step 1. -/
def State.coldReset (s : State) (type : Nat) : State :=
  { State.reset with
    media := s.media.survives
    egress := { State.reset.egress with images := s.egress.images.filter BootImage.stored }
    log := { s.log with lost := if type = 1 then 0 else s.log.lost }
    barista := s.barista.survives type
    micro := { State.reset.micro with image := s.micro.image, goldenBad := s.micro.goldenBad }
    repair := { State.reset.repair with fuses := s.repair.fuses, ship := s.repair.ship, retired := s.repair.retired, rows := s.repair.rows.filter RowRepair.done, luns := s.repair.luns }
    power := { State.reset.power with trans := if type = 1 then [] else s.power.trans }
    nor := s.nor
    domains := s.domains
    ro := s.ro.filter fun x => x.1 == okey 0x1203 4 || (type == 2 && sincePorst x.1)
    out := s.out
    freeCtr := s.freeCtr
    pending := s.pending }

/-- PORST_N resets the device at once; a flush in progress stops (R184, R512, R560). -/
def execPorstAssert (s : State) : Host.Outcome State Fault Refusal := .next (s.coldReset 1)

end Sys2Proof.Machine
end

