-- ==== Sys2Proof/Machine/Boot.lean ====
section
/-!
DEFINITION. BOOT and BOOT_RESUME (R515, R516, R549, R550, R560): the slot, the configuration area, the domains, the media and the DRAM as
they are found, homes and carriers (R527), and the start on media without a journal (R44, R100).
-/

namespace Sys2Proof.Machine

-- ---------------------------------------------------------------- firmware slots (R514, R516, R518, R520)

/-- A slot by number: 0 A, 1 B. -/
def Barista.slot (b : Barista) (n : Nat) : Slot := if n = 0 then b.slotA else b.slotB
def Barista.setSlot (b : Barista) (n : Nat) (x : Slot) : Barista := if n = 0 then { b with slotA := x } else { b with slotB := x }

/-- The rollback counter: the largest value held by any word (R518). -/
def Barista.rollback (b : Barista) : Nat := b.counter.foldl max 0

/-- A slot changes its state, which is logged (R520). -/
def State.slotTo (s : State) (n : Nat) (x : Slot) : State :=
  let s := { s with barista := s.barista.setSlot n x }
  s.logEvent 0x0903 0 ([BitVec.ofNat 8 n, BitVec.ofNat 8 x.state, 0, 0] ++ leBytes 4 x.version)

/-- A slot that boot skips becomes invalid (R516). -/
def State.slotSkip (s : State) (n reason : Nat) : State :=
  (s.logEvent 0x0902 2 [BitVec.ofNat 8 n, BitVec.ofNat 8 reason]).slotTo n { (s.barista.slot n) with state := 0, attempts := 0 }

/-- A trial slot with no attempts left becomes invalid. -/
def State.slotSpent (s : State) (n : Nat) : State :=
  if (s.barista.slot n).state = 3 ∧ (s.barista.slot n).attempts = 0 then s.slotSkip n 4 else s

/-- The slot tried first: a trial slot, otherwise the good slot with the higher version, A on a tie. -/
def Barista.firstSlot (b : Barista) : Option Nat :=
  if b.slotA.state = 3 then some 0
  else if b.slotB.state = 3 then some 1
  else if b.slotA.state = 1 ∧ (b.slotB.state ≠ 1 ∨ b.slotB.version ≤ b.slotA.version) then some 0
  else if b.slotB.state = 1 then some 1
  else none

/-- Why a slot fails: 1 format, 2 signature, 3 rollback (log 16). -/
def State.slotFault (s : State) (w : BootFacts) (n : Nat) : Option Nat :=
  let pick := fun (x : Bool × Bool) => if n = 0 then x.1 else x.2
  if ¬ pick w.slotFormat then some 1
  else if ¬ pick w.slotSigned then some 2
  else if (s.barista.slot n).rollback < s.barista.rollback then some 3
  else none

/-- A trial slot that is tried spends an attempt. -/
def State.spendTry (s : State) (n : Nat) : State :=
  let x := s.barista.slot n
  if x.state = 3 then { s with barista := s.barista.setSlot n { x with attempts := x.attempts - 1 } } else s

/-- Slot `n` is tried, then the other one if it is good or trial; none: rescue mode. -/
def State.trySlots (s : State) (w : BootFacts) (n : Nat) : State × Option Nat :=
  let s := s.spendTry n
  match s.slotFault w n with
  | none => (s, some n)
  | some r =>
    let s := s.slotSkip n r
    let m := 1 - n
    if (s.barista.slot m).state = 1 ∨ (s.barista.slot m).state = 3 then
      let s := s.spendTry m
      match s.slotFault w m with
      | none => (s, some m)
      | some r => (s.slotSkip m r, none)
    else (s, none)

/-- Boot step 3. -/
def State.chooseSlot (s : State) (w : BootFacts) : State × Option Nat :=
  let s := (s.slotSpent 0).slotSpent 1
  match s.barista.firstSlot with
  | none => (s, none)
  | some n => s.trySlots w n

-- ---------------------------------------------------------------- the configuration area and the log (R472, R509)

/-- The AES keys that the configuration area holds (R493). -/
def storedKeys (nor : Tab (List Byte)) : Tab (List Byte) :=
  (nor.filter fun x => x.1 % 2 ^ 24 == okey 0x0A00 2).map fun x => (x.1 / 2 ^ 24 - 1, x.2)

/-- The partner configurations that it holds, their guarded fields zero (R96, R97). -/
def storedPartners (nor : Tab (List Byte)) : Tab Partner :=
  (nor.filter fun x => x.1 % 2 ^ 24 == okey 0x0900 3).foldl (fun t x => Tab.put Partner.zero (x.1 / 2 ^ 24 - 1) (Partner.ofBytes (sliceZ x.2 0 34 ++ zeros 30)) t) []

/-- Every persistent object takes its stored value, or its default (R472). -/
def State.loadConfig (s : State) (lost : Bool) : State :=
  let s := if lost then { (s.logEvent 0x0803 2 []) with nor := [] } else s
  { s with obj := s.nor, adm := { s.adm with keys := storedKeys s.nor, partners := storedPartners s.nor } }

/-- Inserts a log entry by falling sequence, once. -/
def insertEntry (x : Nat × List Byte) : List (Nat × List Byte) → List (Nat × List Byte)
  | [] => [x]
  | y :: t => if y.1 < x.1 then x :: y :: t else if y.1 = x.1 then y :: t else y :: insertEntry x t

/-- The entries of the ring whose tags verify. -/
def EventLog.verified (l : EventLog) (bad : List Nat) : EventLog := { l with ring := l.ring.filter fun e => !bad.contains e.1 }

/-- A ring without entries is refilled from the two mirrors; the next sequence follows the highest found anywhere. -/
def EventLog.refill (l : EventLog) : EventLog :=
  let all := (l.nand ++ l.nor).foldl (fun a x => insertEntry x a) []
  let ring := if l.ring = [] then all.take 65536 else l.ring
  let next := match ring, all with
    | [], [] => l.nextSeq
    | [], x :: _ => x.1 + 1
    | x :: _, [] => x.1 + 1
    | x :: _, y :: _ => max x.1 y.1 + 1
  { l with ring := ring, nextSeq := next % 2 ^ 32 }

-- ---------------------------------------------------------------- values in force from this start

/-- Objects that take effect at the next start keep the value of this start under the same key of `ro`: image cache, query rings, phase,
CAN FD node and enable, regulator address (R51, R242, R486, R556). -/
def State.startValues (s : State) : State :=
  let keep := fun (s : State) (x : Nat × Nat) => s.roSet x.1 (s.objNat x.1 x.2)
  let s := [(okey 0x0E02 1, 0), (okey 0x0E02 2, 0), (okey 0x0E10 1, 0), (okey 0x0E10 2, 64), (okey 0x0400 5, 0), (okey 0x0206 1, 1), (okey 0x0200 1, 46230),
    (okey 0x0206 2, 500), (okey 0x0206 3, 2000),
    (okey 0x0206 4, 1), (okey 0x0204 1, 0), (okey 0x0205 1, 0), (okey 0x1301 1, 0)].foldl keep s
  let s := s.roSet (okey 0x0206 5) (if s.roGet (okey 0x0206 4) = 0 then 0 else 1)
  { s with timer := { s.timer with srcState := if s.objNat (okey 0x0400 4) 0 = 0 then 0 else 1 } }

-- ---------------------------------------------------------------- DRAM (R251, R252)

/-- A DRAM channel as training finds it: the highest rate within the limit, in steps of 400 MT/s (R250, R251). -/
def State.dramFound (s : State) (c : Nat) (f : DramFacts) : State :=
  let i := 0x0A30 + c
  let rate := min f.rate (s.objNat (okey i 1) 6400) / 400 * 400
  if rate < 3200 then s.setDomain (109 + c) 0
  else (((s.roSet (okey i 2) rate).roSet (okey i 3) f.capacity).roSet (okey i 4) f.width).roSet (okey i 5) f.ranks

-- ---------------------------------------------------------------- media (R194 to R200, R202, R210, R224)

/-- The rate of a channel: the highest timing mode that every LUN declares and at which training passes, within 0x0D00.01 and what the interface
supports (R194, R195); 0 out of service. -/
def chanRate (f : ChanFacts) (limit : Nat) : Nat :=
  let top := if f.iface = 1 then 1200 else if f.iface = 2 then 3600 else 0
  (f.modes.filter fun r => decide (r ≤ limit) && decide (r ≤ top)).foldl max 0

/-- A channel out of service: training failed, or its LUNs differ (R195, R197). -/
def State.chanDead (s : State) (f : ChanFacts) : Bool := chanRate f (s.objNat (okey 0x0D00 1) 3600) == 0 || f.mismatch.isSome

/-- P: the largest of 224, 256 and 320 within the spare bytes less the metadata (R202). -/
def codeParity (spare : Nat) : Nat := ([224, 256, 320].filter fun p => decide (p + 288 ≤ spare)).foldl max 0

/-- Whether a LUN can serve its role (R194, R196 to R198). -/
def State.lunServes (s : State) (f : ChanFacts) (x : LunFacts) (n : Nat) : Bool :=
  !s.chanDead f && x.verifies && f.bitsPerCell != 2 && f.pageBytes % 4096 == 0 && decide (512 ≤ f.spare) &&
  (s.roleOf n == 2 || (s.roleOf n == 1 && (f.bitsPerCell == 1 || s.slcOf n)))

/-- A LUN as discovery finds it. The number stays with a LUN that keeps its role; 4096 stands for none. -/
def State.lunFound (s : State) (f : ChanFacts) (n : Nat) : Lun :=
  let old := s.lun n
  match f.luns.find? fun x => x.pos.val == n % 32 with
  | none => { old with state := 0 }
  | some x =>
    if s.repair.luns.contains n then { old with state := 3, role := 0 }
    else
      { old with
        role := s.roleOf n, slc := s.slcOf n, num := if old.role = s.roleOf n then old.num else 4096
        state := if s.lunServes f x n ∧ ¬ old.rebuilding then 1 else 2
        bpc := f.bitsPerCell, blocks := f.blocks, multi := if f.planes = 0 then 0 else f.blocks / f.planes, endurance := f.endurance }

/-- A channel is discovered. -/
def State.chanFound (s : State) (ch : Nat) (f : ChanFacts) : State :=
  let s := match f.mismatch with
    | some m => s.logEvent 0x0401 2 [BitVec.ofNat 8 ch, BitVec.ofNat 8 m.1, BitVec.ofNat 8 m.2]
    | none => s
  let rate := chanRate f (s.objNat (okey 0x0D00 1) 3600)
  let sPg := f.planes * f.pageBytes
  let c : Chan := { Chan.off with
    sPg := sPg, tXfer := ceilDiv (1000 * sPg) rate, tCmd := f.tCmd, iface := f.iface.toNat, rate := rate
    nBlk := if f.planes = 0 then 0 else f.blocks / f.planes, bpc := f.bitsPerCell, pageProg := f.tProg, pageRead := f.tRead, pageErase := f.tErase
    pagePages := f.pages, suspProg := f.suspendProgram, suspErase := f.suspendErase, levels := min f.levels 15, codeP := codeParity f.spare }
  let c := { c with pages := s.slcFigure c 4 f.pages }
  { s with media := { s.media with chans := Tab.put Chan.off ch (if s.chanDead f then Chan.off else c) s.media.chans } }

/-- The LUNs of a channel as they are found; media with no system area are scanned for factory-bad blocks (R196, R210). -/
def State.lunsFound (s : State) (scan : Bool) (ch : Nat) (f : ChanFacts) : State :=
  (natRange (32 * ch) 32).foldl (fun a n =>
    let x := a.lunFound f n
    let bad := match f.luns.find? fun y => y.pos.val == n % 32 with | some y => y.factoryBad | none => []
    a.setLun n (if scan then { x with factoryBad := bad } else x)) s

/-- The LUNs of a role of a channel that serve, in order of chip enable, then LUN. -/
def State.serving (s : State) (ch role : Nat) : List Nat :=
  (natRange (32 * ch) 32).filter fun n => (s.lun n).role == role && (s.lun n).state == 1

/-- The LUNs of a role are numbered (R200): in order while the group holds nothing of the role's area, otherwise a LUN that has a number keeps it and
the others take the first ones free (log 69). -/
def State.numberLuns (s : State) (blank : Bool) (ch role : Nat) : State :=
  let ls := s.serving ch role
  if blank then
    let s := (natRange (32 * ch) 32).foldl (fun a n => if (a.lun n).role = role then a.setLun n { a.lun n with num := 4096 } else a) s
    ((natRange 0 ls.length).zip ls).foldl (fun a x => a.setLun x.2 { a.lun x.2 with num := x.1 }) s
  else ls.foldl (fun a n =>
    if (a.lun n).num ≠ 4096 then a
    else
      let taken := ((natRange (32 * ch) 32).filter fun m => (a.lun m).role == role && (a.lun m).state != 0).map fun m => ((a.lun m).num, ())
      a.setLun n { a.lun n with num := Tab.fresh taken 0 64 }) s

/-- Whether a group holds nothing in its journal, in bulk storage. -/
def State.blankJournal (s : State) (g : Nat) : Bool := (s.group g).blocks == []
def State.blankBulk (s : State) (g : Nat) : Bool := !(s.media.bulkBlocks.any fun b => b.1 / 2 ^ 40 == g)

/-- A group as it is found: its stripe sets, and the stripes out of use (R200, R210, R211). A set that holds something stays. -/
def State.groupFound (s : State) (g : Nat) : State :=
  let ls := (natRange (8 * g) 8).map fun ch => (s.serving ch 1).length
  let n := ls.foldl min 4096
  let x := s.group g
  (s.setGroup g { x with sets := if s.blankJournal g then n else max x.sets n, fresh := x.seq != 0 }).markStripes g

/-- A retirement that a start has cut goes on; a LUN with more than 2 % of its blocks grown bad is retired (R540). -/
def State.retirements (s : State) : State :=
  s.media.luns.foldl (fun a x =>
    let l := a.lun x.1
    if l.rebuilding then a.queueMoves (a.lunRefs x.1)
    else if l.state = 1 ∧ l.blocks < 50 * l.grownBad.length then a.leaveService x.1 else a) s

/-- Discovery of the 32 channels (R196): parameter pages, interface, then the system area's tables, and the LUNs and groups as they follow from them. -/
def State.discover (s : State) (w : BootFacts) : State :=
  let fs := (natRange 0 32).zip w.chans
  let s := fs.foldl (fun a x => a.chanFound x.1 x.2) s
  let img := newestImage w.sysGood s.media.sysImages
  let s := match img with | some i => s.takeRoles i.tables | none => s
  let s := fs.foldl (fun a x => a.lunsFound img.isNone x.1 x.2) s
  let s := match img with | some i => s.takeTables i.tables | none => s.tableChanged
  let s := (natRange 0 32).foldl (fun a ch =>
    ((a.numberLuns (a.blankJournal (ch / 8)) ch 1).numberLuns (a.blankBulk (ch / 8)) ch 2).refreshL ch) s
  let s := (natRange 0 4).foldl State.groupFound s
  { s.retirements with media := { s.retirements.media with present := s.useGroups != [] } }

/-- Whether the media hold a journal: a segment has been opened on them. -/
def State.hasJournal (s : State) : Bool := s.media.groups.any fun x => x.2.seq != 0

-- ---------------------------------------------------------------- homes and carriers (R526, R527)

/-- The home of logical core `n`, and its first carrier: the first cluster from `n` mod 17 on with a good core that is not yet given. -/
def State.homeFor (s : State) (given : List Nat) (n : Nat) : Option (Nat × Nat) :=
  let free := fun (cl : Nat) => (natRange (4 * cl) 4).filter fun c => !given.contains c && !s.repair.retired.contains c
  (((natRange 0 17).map fun i => (n + i) % 17).find? fun cl => !(free cl).isEmpty).map fun cl => (cl, (free cl).headD 0)

/-- Logical cores in increasing order. -/
def State.assignHomes (s : State) : List Nat → List Nat → State
  | [], _ => s
  | n :: t, given => match s.homeFor given n with
    | none => s.assignHomes t given
    | some (cl, c) =>
      let s := s.setLcore n { LCore.reset with carrier := some c, home := cl }
      (s.setCore c { ((s.core c).srSet 0x036 (BitVec.ofNat 32 n)) with run := .idle }).assignHomes t (c :: given)

/-- The row repairs that the fuses record: a later entry for a row replaces an earlier one (R523, R524). -/
def fuseRows (l : List Word) : List RowRepair :=
  (l.filter fun w => fuseValid w && decide (2 ≤ (w.extractLsb' 28 4).toNat) && decide ((w.extractLsb' 28 4).toNat ≤ 4)).foldl (fun rs w =>
    let r : RowRepair := ⟨(w.extractLsb' 28 4).toNat, (w.extractLsb' 23 5).toNat, (w.extractLsb' 8 15).toNat, true⟩
    rs.filter (fun x => x.kind != r.kind || x.unit != r.unit) ++ [r]) []

/-- Whether no copy of the field repair map verifies: neither that of the configuration area nor that of the system area (R526). -/
def State.mapLost (s : State) (w : BootFacts) : Bool := w.configLost && (newestImage w.sysGood s.media.sysImages).isNone

/-- The repair map in force: the fuses together with the field map where a copy of it verifies (R524, R526). -/
def State.applyMap (s : State) (w : BootFacts) : State :=
  let s := if s.mapLost w then { s with repair := { s.repair with retired := [], luns := [], rows := fuseRows s.repair.fuses } } else s
  let fused := (s.repair.fuses.filter fun w => fuseValid w && w.extractLsb' 28 4 == 1#4).map fun w => (w.extractLsb' 8 15).toNat
  let all := (s.repair.retired ++ fused).eraseDups
  let s := { s with repair := { s.repair with retired := all } }
  (natRange 0 68).foldl (fun a c => a.setCore c { Core.reset with state := if all.contains c then .retired else .ready, run := .idle }) s

-- ---------------------------------------------------------------- domains (R549, R550)

/-- The boot groups in order. -/
def bootGroups : List (List Nat) :=
  [natRange 109 2, natRange 105 4, natRange 85 16, 111 :: natRange 101 4, natRange 68 17, natRange 0 23, natRange 23 23, natRange 46 22]

/-- Whether boot turns a domain ON: not a retired core's tile, not a port engine in mode 4. -/
def State.bootsOn (s : State) (d : Nat) : Bool :=
  if d < 68 then !s.repair.retired.contains d
  else if 101 ≤ d ∧ d ≤ 104 then s.objNat (okey (0x0210 + (d - 101)) 1) 0 != 4
  else true

/-- Whether a domain belongs to the cores: a core tile or a cluster (R550). -/
def coreDomain (d : Nat) : Bool := decide (d < 85)

/-- The domain's power good is gone. -/
def State.badPower (s : State) (d : Nat) : State := { s with power := { s.power with good := s.power.good &&& ~~~ (1#112 <<< d) } }

/-- A core tile or a cluster that has lost power, or never had it: its cores report a fault (R502, R535). -/
def State.coresFault (s : State) (d : Nat) : State :=
  let fault := fun (s : State) (c : Nat) => if s.repair.retired.contains c then s else s.reportFault c 4
  if d < 68 then (if s.repair.retired.contains d then s else (s.setCore d { s.core d with scratchLost := true }).reportFault d 2)
  else if d < 85 then (natRange (4 * (d - 68)) 4).foldl fault s
  else s

/-- Power good is lost: event 0x0704, and what R502 does for a core tile or a cluster. -/
def State.powerLost (s : State) (d : Nat) : State := ((s.badPower d).logEvent 0x0704 3 [BitVec.ofNat 8 d]).coresFault d

/-- The groups go ON one after another; a dead domain outside the cores stops boot (R550). -/
def State.powerUp (s : State) (dead : List Nat) : List (List Nat) → State × Bool
  | [] => (s, true)
  | g :: t =>
    let on := g.filter s.bootsOn
    let s := on.foldl (fun a d => a.setDomain d 2) s
    let bad := on.filter dead.contains
    let s := bad.foldl (fun a d => (a.badPower d).logEvent 0x1302 3 [BitVec.ofNat 8 d]) s
    if bad.all coreDomain then s.powerUp dead t else (s, false)

-- ---------------------------------------------------------------- the start on media without a journal (R44, R100)

/-- The epoch held in the configuration area; 0 when it holds none. -/
def State.storedEpoch (s : State) : Nat := leNat (Tab.get [] s.nor (okey 0x0901 1))

/-- The epoch of this start, written to the configuration area; the counts of derived records, and Barista's, begin with it (R100, R127). -/
def State.newEpoch (s : State) (e : Nat) : State :=
  let e := if e = 0 then 1 else e
  { s with
    adm := { s.adm with epoch := e }, perc := { s.perc with baristaCount := 0 }
    lcores := s.lcores.map fun (x : Nat × LCore) => (x.1, { x.2 with emitted := 0 }), nor := Tab.put [] (okey 0x0901 1) (leBytes 4 e) s.nor }

/-- Guarded fields of a restored entry on such a start: those of an EN 0-to-1 transition (R98, R100). -/
def Partner.opened (p : Partner) : Partner := if p.flags.getLsbD 0 then { p with aDur := 0xFF#8 } else p

/-- The first capacitance test is due, and the timer may start, at a period that opens this start's history (R44, R170, R205). -/
def State.arm (s : State) (frame period : Nat) : State :=
  { s with timer := { s.timer with armed := true, frame := frame }, carafe := { s.carafe with testDue := true } }.takePeriod period

def State.freshStart (s : State) : State :=
  let s := s.newEpoch ((s.storedEpoch + 1) % 2 ^ 32)
  let s := s.arm 0 (s.objNat (okey 0x0400 2) 250000)
  { s with adm := { s.adm with partners := s.adm.partners.map fun x => (x.1, x.2.opened) } }

/-- The images that are resident are loaded into the cache (R235). -/
def State.loadImages (s : State) : State := (s.egress.images.filter BootImage.current).foldl State.loadResident s

-- ---------------------------------------------------------------- the user image (R459)

/-- The stored user image is loaded with the golden microcode (boot step 6). -/
def State.loadStored (s : State) : State :=
  let img := s.micro.image
  if img = [] then s
  else { s with micro := { s.micro with
    loaded := BitVec.ofNat 16 (imgMask img), imageId := leField img 24 4, sums := (imgSlots img).map fun n => (n, cycleSum img n) } }

-- ---------------------------------------------------------------- the rows

/-- Boot steps 5 and 6. -/
def State.bootRest (s : State) (w : BootFacts) : State :=
  let r := (s.applyMap w).powerUp w.deadDomains bootGroups
  let s := r.1
  if ¬ r.2 then { s with barista := { s.barista with stage := .stuck } }
  else
    let s := (s.dramFound 0 w.dram.1).dramFound 1 w.dram.2
    let s := (s.discover w).assignHomes (natRange 0 64) []
    let s := (w.deadDomains.filter fun d => coreDomain d && s.bootsOn d).foldl State.powerLost s
    let s := s.loadStored.loadImages
    let s := { s with adm := { s.adm with policy := (natRange 0 64).map fun k => (k, s.policyOf k) } }
    let s := { s with barista := { s.barista with stage := .up, bootMs := w.bootMs } }
    let s := s.logEvent 0x0901 0 ([BitVec.ofNat 8 s.barista.lastReset, 0, 0, 0] ++ leBytes 4 w.bootMs)
    if s.hasJournal then s else s.freshStart

/-- The ring is kept, or refilled (R509). -/
def State.logKept (s : State) (w : BootFacts) : State := { s with log := (s.log.verified w.ringBad).refill }

/-- Boot runs after a reset: the boot ROM's choice, Barista with its configuration and its log, and the rest unless PFAIL_N is asserted. The ring is
kept or refilled first, so that the events of step 3 continue its sequence (R505, R509; log 47). -/
def execBoot (w : BootFacts) (s : State) : Host.Outcome State Fault Refusal :=
  if s.barista.stage ≠ .reset then .next s
  else
    let r := (s.logKept w).chooseSlot w
    let s := { r.1 with barista := { r.1.barista with bootFacts := some w } }
    match r.2 with
    | none => .next { s with barista := { s.barista with stage := .rescue } }
    | some n =>
      let s := { s with barista := { s.barista with running := n, firmware := (s.barista.slot n).version } }
      let s := (s.loadConfig w.configLost).startValues
      .next (if w.pfail then { s with barista := { s.barista with stage := .waitPfail, pfail := true } } else s.bootRest w)

/-- PFAIL_N has been deasserted for 10 ms (R560). -/
def execBootResume (s : State) : Host.Outcome State Fault Refusal :=
  match s.barista.stage, s.barista.bootFacts with
  | .waitPfail, some w => .next ({ s with barista := { s.barista with pfail := false } }.bootRest w)
  | _, _ => .next s

end Sys2Proof.Machine
end

