-- ==== Sys2Proof/Machine/Barista.lean ====
section
/-!
DEFINITION. Barista at work (17, 19): the watchdog, the sensor round, power good, NMI_N, the mirrors of the log, adaptive voltage scaling.
-/

namespace Sys2Proof.Machine

/-- Whether Barista's firmware runs. -/
def State.firmwareUp (s : State) : Bool := s.barista.stage == .waitPfail || s.barista.stage == .stuck || s.barista.stage == .up

/-- A write of 1 to 0x0C00.02: the sequence starts at the next tick (R176); a device restart follows it on request (R513). -/
def State.askShutdown (s : State) (restart : Bool) : State :=
  if s.failing then s else { s with pf := { s.pf with shutdownAsked := true, restart := s.pf.restart || restart } }

-- ---------------------------------------------------------------- the watchdog (R500)

/-- Barista's firmware starts again: sessions end, and everything outside goes on (R483, R500). -/
def State.restartFirmware (s : State) : State :=
  let s := { s with zdp := { s.zdp with sessions := [], backlog := [], can := none }, barista := { s.barista with lastReset := 3 } }
  s.logEvent 0x0904 2 []

/-- The watchdog expires: a trial slot gives way to a device restart, otherwise the firmware restarts alone. -/
def execWatchdogExpiry (s : State) : Host.Outcome State Fault Refusal :=
  if ¬ s.firmwareUp then .next s
  else if (s.barista.slot s.barista.running).state = 3 then .next (s.askShutdown true)
  else .next s.restartFirmware

-- ---------------------------------------------------------------- sensors (R501 to R504)

/-- A 16-bit signed object. -/
def i16 (v : Nat) : Int := (BitVec.ofNat 16 v).toInt

/-- The thresholds of 0x1001. -/
def State.warnLimit (s : State) : Int := i16 (s.objNat (okey 0x1001 1) (if s.barista.ec then 950 else 1050))
def State.critLimit (s : State) : Int := i16 (s.objNat (okey 0x1001 2) 1100)

/-- The recommended minimum and maximum of a rail, in mV (R504, R565). -/
def railLow (n : Nat) : Nat := [700, 760, 870, 1160, 1067, 1140, 1710, 3135].getD n 0
def railHigh (n : Nat) : Nat := [880, 840, 930, 1240, 1133, 1260, 1890, 3465].getD n 0

/-- Whether a rail's sample lies within its limits. -/
def State.railWithin (s : State) (n mv : Nat) : Bool :=
  decide (s.objNat (okey 0x1003 (n + 1)) (railLow n) ≤ mv) && decide (mv ≤ s.objNat (okey 0x1003 (n + 9)) (railHigh n))

/-- One rail's sample: the third in a row outside its limits is logged once; 100 within them arm the event again. -/
def State.railSample (s : State) (n mv : Nat) : State :=
  let b := s.barista
  let s := s.roSet (okey 0x1002 (n + 1)) mv
  if s.railWithin n mv then
    let good := min 100 (Tab.get 0 b.railGood n + 1)
    { s with barista := { b with
      railBad := Tab.erase n b.railBad, railGood := Tab.put 0 n good b.railGood
      railLatched := if good = 100 then b.railLatched.filter (· != n) else b.railLatched } }
  else
    let bad := min 3 (Tab.get 0 b.railBad n + 1)
    let fire := decide (bad = 3) && !b.railLatched.contains n
    let s := { s with barista := { b with
      railBad := Tab.put 0 n bad b.railBad, railGood := Tab.erase n b.railGood
      railLatched := if fire then n :: b.railLatched else b.railLatched } }
    if fire then s.logEvent 0x0703 2 ([BitVec.ofNat 8 n, 0] ++ leBytes 2 mv) else s

/-- The first sensor at or above a limit, with its temperature. -/
def hotSensor (temps : List Int) (limit : Int) : Option (Nat × Int) :=
  ((natRange 0 temps.length).zip temps).find? fun x => decide (limit ≤ x.2)

/-- An event that carries a sensor and its temperature. -/
def State.heatEvent (s : State) (code sev : Nat) (x : Nat × Int) : State :=
  s.logEvent code sev ([BitVec.ofNat 8 x.1, 0] ++ leBytes 2 (BitVec.ofInt 16 x.2).toNat)

/-- The thermal round. -/
def State.thermal (s : State) (temps : List Int) : State :=
  let s := ((natRange 0 24).zip temps).foldl (fun a x => a.roSet (okey 0x1000 (x.1 + 1)) (BitVec.ofInt 16 x.2).toNat) s
  let s := s.roSet (okey 0x1000 25) (BitVec.ofInt 16 (temps.foldl max (temps.headD 0))).toNat
  let s := match hotSensor temps s.warnLimit with
    | some x => if s.barista.warnLatched then s else { (s.heatEvent 0x0701 1 x) with barista := { s.barista with warnLatched := true } }
    | none => if temps.all fun t => decide (t ≤ s.warnLimit - 20) then { s with barista := { s.barista with warnLatched := false } } else s
  let s := match hotSensor temps s.critLimit with
    | some x => (s.heatEvent 0x0702 3 x).askShutdown false
    | none => s
  s

/-- Power good is lost by a domain that is ON: its cores report a fault, or an orderly shutdown is requested (R502). -/
def State.losePower (s : State) (d : Nat) : State :=
  if s.domain d ≠ 2 ∨ ¬ s.power.good.getLsbD d then s
  else if coreDomain d then s.powerLost d
  else (s.powerLost d).askShutdown false

/-- The bank's voltage and current (R168, R504), in mV and mA. With a divider or a shunt that is no number, or no positive one, the spec states no
figure: it is free. -/
def State.bankSample (s : State) (w : SensorFacts) : State :=
  let mv := ((s.codeVolts w.bankCode.toNat).mul ⟨1000, 1⟩).floor
  if s.testStated ∧ mv < 2 ^ 32 then { s with barista := { s.barista with bankMv := mv, bankMa := s.bankAmps w.isenseUV } }
  else { s.drawn with barista := { s.barista with bankMv := s.freeVal % 2 ^ 32, bankMa := (BitVec.ofNat 32 (s.freeVal / 2 ^ 32)).toInt } }

/-- THERMTRIP_N is asserted by hardware, whether the firmware runs or not, until PORST_N (R502). -/
def State.tripped (s : State) (temps : List Int) : State :=
  if (hotSensor temps 1150).isSome then { s with barista := { s.barista with thermtrip := true } } else s

/-- The 1 ms sensor round. -/
def execSensorSample (w : SensorFacts) (s : State) : Host.Outcome State Fault Refusal :=
  let s := s.tripped w.temps
  if ¬ s.firmwareUp then .next s
  else
    let s := s.thermal w.temps
    let s := ((natRange 0 8).zip w.rails).foldl (fun a x => a.railSample x.1 x.2) s
    let s := s.bankSample w
    .next (((natRange 0 112).filter fun d => !w.good.getLsbD d).foldl State.losePower s)

def execPowerGoodLost (domain : Fin 112) (s : State) : Host.Outcome State Fault Refusal :=
  if s.barista.stage = .up then .next (s.losePower domain) else .next s

-- ---------------------------------------------------------------- domains (R550)

/-- A domain that boot or a port mode has turned ON has not reported power good in four times its time. -/
def execDomainPowerTimeout (domain : Fin 112) (s : State) : Host.Outcome State Fault Refusal :=
  let d : Nat := domain
  if s.barista.stage ≠ .up ∨ s.domain d ≠ 2 then .next s
  else
    let s := s.logEvent 0x1302 3 [BitVec.ofNat 8 d]
    .next (if coreDomain d then s.powerLost d else s.badPower d)

-- ---------------------------------------------------------------- NMI (R511, R559)

/-- NMI becomes pending on the logical cores of the active plan in a mask. -/
def State.nmiMask (s : State) (mask : Nat) : State :=
  (natRange 0 s.nl).foldl (fun a l => match natBit mask l, (a.lcore l).carrier with
    | true, some c => a.setCore c { a.core c with nmiPend := true }
    | _, _ => a) s

/-- A recognised assertion of NMI_N is logged; before the end of boot step 6 and after t0 it reaches no core. -/
def execNmiNAssert (s : State) : Host.Outcome State Fault Refusal :=
  let s := s.logEvent 0x0906 0 []
  if s.barista.stage ≠ .up ∨ s.failing then .next s
  else .next (s.nmiMask (s.objNat (okey 0x1030 1) (2 ^ 64 - 1)))

-- ---------------------------------------------------------------- the mirrors of the log (R508)

/-- The ring's entries that are newer than a mirror's newest, oldest first. -/
def EventLog.unmirrored (l : EventLog) (m : List (Nat × List Byte)) : List (Nat × List Byte) :=
  (match m with
    | [] => l.ring
    | x :: _ => l.ring.takeWhile fun e => e.1 != x.1).reverse

/-- A block of at most 128 entries goes to the NAND log area in a slot of Barista's quota, one block at a time, until t0 (R205, R218). -/
def execLogNandMirror (s : State) : Host.Outcome State Fault Refusal :=
  let b := (s.log.unmirrored s.log.nand).take 128
  if ¬ s.media.present ∨ s.failing ∨ b = [] ∨ s.freeSlots .barista = 0 ∨ (s.media.queue.any fun o => o.issuer == .barista && o.area == .system) then .next s
  else match s.sysTarget (s.log.nextSeq / 128) with
  | none => .next s
  | some g => .next (s.enqueue { mkOp .barista .program (s.journalLun (8 * g) 0) g (s.unitNs (8 * g)) with
      area := .system, stripe := s.sysStripe g, data := b.flatMap Prod.snd })

/-- The oldest entry of sufficient severity that the NOR region does not hold yet goes there, until SAFE. -/
def execLogNorMirror (s : State) : Host.Outcome State Fault Refusal :=
  if s.barista.stage = .reset ∨ s.pf.stage = .safe then .next s
  else
    let sev := s.objNat (okey 0x1010 7) 2
    match (s.log.unmirrored s.log.nor).find? fun e => decide (sev ≤ leField e.2 14 1) with
    | none => .next s
    | some e => .next { s with log := { s.log with nor := (e :: s.log.nor).take 65536 } }

-- ---------------------------------------------------------------- adaptive voltage scaling (R553 to R556)

/-- Whether AVS is enabled: the regulator address of this start is not 0, and the regulator has the one mode that is supported (R553, R556). -/
def State.avsOn (s : State) : Bool := s.barista.stage == .up && s.roGet (okey 0x1301 1) != 0 && !s.power.avsOff

/-- One step of VOUT_COMMAND towards a target, at most 5 mV; the first command of a start is the target itself (log 49). -/
def avsStep (cur target : Nat) : Nat :=
  if cur = 0 then target
  else if cur < target then min target (cur + 5)
  else max target (cur - 5)

/-- Barista recomputes the target; one held at an end of the range is logged once. -/
def execAvsUpdate (targetMv : Nat) (s : State) : Host.Outcome State Fault Refusal :=
  if ¬ s.avsOn ∨ s.power.avsFaulted then .next s
  else
    let t := max 700 (min 850 targetMv)
    let lim := decide (targetMv ≤ 700) || decide (850 ≤ targetMv)
    let s := s.roSet (okey 0x1301 2) t
    let s := if lim ∧ ¬ s.power.avsLimited then s.logEvent 0x1303 1 ([0, 0] ++ leBytes 2 t) else s
    .next { s with power := { s.power with avsMv := avsStep s.power.avsMv t, avsLimited := lim } }

/-- A PMBus transaction, first or retried: one that is not acknowledged, or a status with a fault bit, is logged and stops the changes of
VOUT_COMMAND until a retry succeeds (R556). A VOUT_MODE other than ULINEAR16 leaves AVS disabled, and is logged (R553). -/
def execPmbusRetry (ack : Bool) (status : PmbusStatus) (s : State) : Host.Outcome State Fault Refusal :=
  if ¬ s.avsOn then .next s
  else if ack ∧ ¬ status.linear then
    .next ({ s with power := { s.power with avsOff := true } }.logEvent 0x1301 2 ([BitVec.ofNat 8 (s.roGet (okey 0x1301 1)), 0] ++ leBytes 2 status.word.toNat))
  else if ack ∧ status.word = 0 then .next { s with power := { s.power with avsFaulted := false } }
  else
    let s := s.count (okey 0x1301 3) 1 32
    let s := s.logEvent 0x1301 2 ([BitVec.ofNat 8 (s.roGet (okey 0x1301 1)), 0] ++ leBytes 2 (if ack then status.word.toNat else 0xFFFF))
    .next { s with power := { s.power with avsFaulted := true } }

end Sys2Proof.Machine
end

