-- ==== Sys2Proof/Machine/Ingress.lean ====
section
/-!
DEFINITION. The port engines (R84 to R87): VRT datagrams (R88 to R92), their judgement (R103 to R111), hellos (R119) and the acceptance of
requests (R227, R228, R234, R236, R241).
-/

namespace Sys2Proof.Machine

-- ---------------------------------------------------------------- ports (R87)

/-- An object of port `p`. -/
def portKey (p sub : Nat) : Nat := okey (0x0210 + p) sub

/-- A drop counter of port `p` (R104). -/
def dropKey (p code : Nat) : Nat := okey (0x0220 + p) code

/-- The VRT port (0x0201.01). -/
def State.vrtPort (s : State) : Nat := s.objNat (okey 0x0201 1) 46228

/-- The mode of a port, and whether its link is up (0x0210+p.01, .06). -/
def State.portMode (s : State) (p : Nat) : Nat := s.objNat (portKey p 1) 0
def State.linkUp (s : State) (p : Nat) : Bool := natBit (s.roGet (portKey p 6)) 0

/-- The port's own addresses; 0 disables one (R87). -/
def State.ip4 (s : State) (p : Nat) : Nat := s.objNat (portKey p 4) 0
def State.ip6 (s : State) (p : Nat) : Nat := beNat (s.objGet (portKey p 5) (zeros 16))

/-- Whether an address is the port's own. An IPv4 address is written ::ffff:a.b.c.d (R96). -/
def State.ownAddress (s : State) (p : Nat) (ip6 : Bool) (a : BitVec 128) : Bool :=
  if ip6 then s.ip6 p != 0 && a.toNat == s.ip6 p else s.ip4 p != 0 && a.toNat == 0xFFFF00000000 + s.ip4 p

/-- Whether frames arrive on a port: the device is up, the port is not off and its link is up. -/
def State.portOpen (s : State) (p : Nat) : Bool := s.barista.stage == .up && s.portMode p != 4 && s.linkUp p

/-- A datagram or record is dropped: its counter rises (R104). -/
def State.drop (s : State) (p code : Nat) : State := s.count (dropKey p code) 1

-- ---------------------------------------------------------------- messages (R88, R89)

/-- A VRT message: its 32 header bytes, its payload and its GCM tag. -/
structure VrtMsg where
  head : List Byte
  payload : List Byte
  tag : List Byte
deriving DecidableEq, Repr

def VrtMsg.type (m : VrtMsg) : Nat := beField m.head 1 1
def VrtMsg.flags (m : VrtMsg) : Nat := beField m.head 2 1
def VrtMsg.pc (m : VrtMsg) : Bool := natBit m.flags 0
def VrtMsg.g (m : VrtMsg) : Bool := natBit m.flags 1
def VrtMsg.more (m : VrtMsg) : Bool := natBit m.flags 2
def VrtMsg.cls (m : VrtMsg) : Nat := beField m.head 3 1 % 64
def VrtMsg.partner (m : VrtMsg) : Nat := beField m.head 4 4 % 2 ^ 17
def VrtMsg.alive (m : VrtMsg) : BitVec 8 := BitVec.ofNat 8 (beField m.head 8 1)
def VrtMsg.len (m : VrtMsg) : Nat := m.payload.length
def VrtMsg.epoch (m : VrtMsg) : Nat := beField m.head 12 4
def VrtMsg.time (m : VrtMsg) : Nat := beField m.head 16 8

/-- The messages of a UDP payload, none when the lengths do not add up (R90). -/
def splitMsgs : Nat → List Byte → Option (List VrtMsg)
  | 0, _ => none
  | f + 1, l =>
    if l = [] then some []
    else
      let n := beField l 10 2
      let g := if natBit (beField l 2 1) 1 then 16 else 0
      if l.length < 32 + n + g then none
      else match splitMsgs f (l.drop (32 + n + g)) with
      | none => none
      | some t => some (⟨l.take 32, (l.drop 32).take n, (l.drop (32 + n)).take g⟩ :: t)

/-- M is 1 in every message but the last. -/
def moreOk : List VrtMsg → Bool
  | [] => true
  | [m] => !m.more
  | m :: t => m.more && moreOk t

/-- Whether a request has the payload length of its layout; type 0x07 does not come from a partner (R227, R228). -/
def requestOk (m : VrtMsg) : Bool :=
  match m.type with
  | 4 => m.len == 24
  | 5 => decide (8 ≤ m.len) && decide (m.len ≤ 248)
  | 6 => m.len == 24
  | _ => false

/-- What a well-formed datagram holds. -/
inductive DgKind where
  | records | hello | requests
deriving DecidableEq, Repr

/-- The kind of the messages of a datagram (R90). -/
def dgKind (ms : List VrtMsg) : Option DgKind :=
  if ms.all fun m => m.type == 1 then some .records
  else if ms.all fun m => 4 ≤ m.type && m.type ≤ 7 then (if ms.all requestOk then some .requests else none)
  else match ms with
  | [m] => if m.type = 3 ∧ m.len = 0 then some .hello else none
  | _ => none

/-- The conditions of R90 and the payload limit of R88; the datagram's kind and messages when they hold. -/
def wellFormedDg (l : List Byte) : Option (DgKind × List VrtMsg) :=
  match splitMsgs (l.length + 1) l with
  | none => none
  | some [] => none
  | some (m :: t) =>
    let ms := m :: t
    if moreOk ms && (ms.all fun x => beField x.head 0 1 == 1 && sliceZ x.head 4 4 == sliceZ m.head 4 4 && x.epoch == m.epoch &&
        decide (x.len ≤ 9000)) then
      match dgKind ms with
      | some k => some (k, ms)
      | none => none
    else none

/-- A reserved field of a header or of a request is not zero: an undefined case (R10, chapters 03 and 07). -/
def msgReserved (m : VrtMsg) : Bool :=
  decide (8 ≤ m.flags) || decide (64 ≤ beField m.head 3 1) || decide (2 ^ 17 ≤ beField m.head 4 4) || beField m.head 9 1 != 0 ||
  beField m.head 28 4 != 0 ||
  (match m.type with
   | 4 => beField m.payload 4 4 != 0
   | 5 => beField m.payload 4 4 != 0
   | 6 => beField m.payload 6 2 != 0 || !allZero (sliceZ m.payload 18 6)
   | _ => false)

-- ---------------------------------------------------------------- datagram-level checks (R103)

/-- The first datagram-level code that a frame meets before its messages are read: 0x01 to 0x04. -/
def State.frameCode (s : State) (d : Datagram) : Option Nat :=
  if d.fragment then some 0x01
  else if ¬ d.udp ∨ d.udpDst.toNat ≠ s.vrtPort ∨ 1 < d.tags ∨ d.pause ∨ d.size < 64 then some 0x02
  else if d.options ∨ (¬ d.ip6 ∧ ¬ d.ipSumGood) ∨ ¬ s.ownAddress d.port d.ip6 d.dst then some 0x03
  else if d.udpSum = .bad ∨ (d.udpSum = .zero ∧ d.ip6) then some 0x04
  else none

/-- Whether a datagram matches its partner's binding (R96, R103 code 0x07). -/
def Partner.bound (p : Partner) (d : Datagram) : Bool :=
  p.addr == d.src && natBit p.portMask.toNat d.port &&
  (if p.vlan.getLsbD 15 then d.tags == 1 && d.vid == p.vlan.extractLsb' 0 12 else d.tags == 0)

/-- Admission of records is stopped by R82 or closed by R189. -/
def State.admissionShut (s : State) : Bool := s.adm.stopped || s.adm.closed

/-- The first datagram-level code 0x06 to 0x0C of a well-formed datagram. -/
def State.datagramCode (s : State) (d : Datagram) (k : DgKind) (m : VrtMsg) : Option Nat :=
  let p := s.partner m.partner
  if ¬ p.en then some 0x06
  else if ¬ p.bound d then some 0x07
  else if k ≠ .hello ∧ m.epoch ≠ s.adm.epoch then some 0x08
  else if k ≠ .hello ∧ s.section.isNone then some 0x09
  else if s.acksStop ∨ (k = .records ∧ s.admissionShut) then some 0x0A
  else if p.kb ∧ s.adm.ackDone.contains m.partner then some 0x0B
  else if k = .records ∧ s.adm.held then some 0x0C
  else none

-- ---------------------------------------------------------------- record-level checks (R103)

/-- Whether a message's GCM tag verifies under its partner's key; an empty slot does not (R92). -/
def State.gcmGood (s : State) (p : Partner) (m : VrtMsg) : Bool :=
  let key := s.keyOf p
  !key.isEmpty && gcmTag key (sliceZ m.head 4 4 ++ sliceZ m.head 16 8) (m.head ++ m.payload) == m.tag

/-- Whether the partner CRC of a message matches (R91). -/
def crcGood (poly : Nat) (m : VrtMsg) : Bool :=
  crc poly (patch m.head 24 (zeros 4) ++ m.payload) == beField m.head 24 4

/-- d of R105. -/
def aliveDist (p : Partner) (m : VrtMsg) : Nat := (m.alive - p.e).toNat

/-- The record-level codes that do not depend on the record's budget: 0x10 to 0x15, by the mask that the kind names (R228). -/
def State.accessCode (s : State) (port : Nat) (p : Partner) (mask : ClassEnt → Nat) (m : VrtMsg) (repeats : Bool) : Option Nat :=
  let k := m.cls
  let pol := s.policy k
  let ent := match s.section with | some x => x.cls k | none => none
  if ¬ natBit p.classMask.toNat k then some 0x10
  else if (match ent with | some e => !natBit (mask e) port | none => true) then some 0x11
  else if repeats ∧ 128 ≤ aliveDist p m then some 0x12
  else if m.g ∧ p.kb ∧ ¬ s.gcmGood p m then some 0x13
  else if (pol.gcm ∧ ¬ m.g) ∨ (m.g ∧ ¬ p.kb) then some 0x14
  else none

/-- The class entry of a record that passed code 0x11. -/
def State.entryOf (s : State) (k : Nat) : Option ClassEnt := match s.section with | some x => x.cls k | none => none

/-- The first record-level code of a record; `behind`: an earlier one of the datagram was not admitted for a code other than 0x12. -/
def State.recordCode (s : State) (port : Nat) (m : VrtMsg) (behind : Bool) : Option Nat :=
  let p := s.partner m.partner
  let pol := s.policy m.cls
  match s.accessCode port p ClassEnt.ingress m true with
  | some c => some c
  | none =>
    let n := cellsOf (32 + m.len)
    match s.entryOf m.cls with
    | none => some 0x11
    | some e =>
      if pol.pcrc ≠ 0 ∧ ((m.pc ∧ ¬ crcGood pol.poly m) ∨ (pol.pcrc = 2 ∧ ¬ m.pc)) then some 0x15
      else if (if e.dram then p.gD else p.gS).toNat < n then some 0x16
      else if e.bb < Tab.get 0 s.adm.bytes m.cls + 32 + m.len then some 0x17
      else if e.nr < Tab.get 0 s.adm.count m.cls + 1 then some 0x18
      else if ¬ s.headroom (64 * n) then some 0x19
      else if behind then some 0x1C
      else none

-- ---------------------------------------------------------------- admitting a record (R107 to R109)

/-- The record as it is stored, its tag first (R108, R109, R126). -/
def State.admittedBytes (s : State) (m : VrtMsg) (gap : Bool) : List Byte :=
  let pol := s.policy m.cls
  let fl : Nat := (if m.pc ∧ pol.pcrc ≠ 0 then 1 else 0) + (if m.g then 2 else 0) + (if gap then 4 else 0)
  let body := leBytes 4 m.partner ++ [BitVec.ofNat 8 m.cls, BitVec.ofNat 8 fl] ++ leBytes 2 m.len ++ leBytes 8 s.timer.frame ++
    leBytes 8 m.time ++ m.payload
  let check := crc pol.poly (coveredBytes (zeros 8 ++ body))
  leBytes 8 (mkTag check m.alive pol.poly 1).toNat ++ body

/-- The datagram's source is recorded in its partner's entry (R96). -/
def Partner.heard (p : Partner) (d : Datagram) : Partner :=
  { p with mac := d.mac, status := (p.status &&& 0xF8#8) ||| BitVec.ofNat 8 (d.port + 4) }

/-- The partner's entry after an admission of `n` cells: credits move from g to u, E follows the counter (R105, R107, R115). -/
def Partner.admits (p : Partner) (dram : Bool) (n : Nat) (a : BitVec 8) : Partner :=
  let c : BitVec 16 := BitVec.ofNat 16 n
  let p := { p with e := a + 1 }
  if dram then { p with gD := p.gD - c, uD := p.uD + c } else { p with gS := p.gS - c, uS := p.uS + c }

/-- A record passes: cells, credits, budgets, the dirty count and its bytes, its tag last (R106, R107). -/
def State.admitRecord (s : State) (d : Datagram) (m : VrtMsg) (e : ClassEnt) (a : Arena) : State :=
  let n := cellsOf (32 + m.len)
  let p := s.partner m.partner
  let dist := aliveDist p m
  let r : Rec := {
    id := s.adm.nextRec, partner := m.partner, cls := m.cls, alive := m.alive, frame := s.timer.frame, base := a.base, ring := a.cells, pos := a.pos
    cells := n, bytes := 32 + m.len, dram := e.dram, derived := none, copied := true, src := 0, horizon := e.d, taken := false, again := none, data := []
    durable := none, order := none }
  let l := s.admittedBytes m (dist != 0)
  let s := if dist = 0 then s
    else (s.count (dropKey d.port 0x23) 1).logEvent 0x0201 0 (leBytes 4 m.partner ++ [p.e, BitVec.ofNat 8 dist])
  let s := s.setArena (a.take n)
  let s := s.setPartner m.partner ((p.admits e.dram n m.alive).heard d)
  let s := { s with
    adm := { (s.adm.addAlloc e.dram n) with
      recs := s.adm.recs ++ [r], nextRec := s.adm.nextRec + 1
      bytes := Tab.put 0 m.cls (Tab.get 0 s.adm.bytes m.cls + 32 + m.len) s.adm.bytes
      count := Tab.put 0 m.cls (Tab.get 0 s.adm.count m.cls + 1) s.adm.count }
    perc := { s.perc with dirty := s.perc.dirty + 64 * n, curRecs := r.id :: s.perc.curRecs }
    plans := { s.plans with lastAdmit := Tab.insert m.cls (s.timer.frame + 1) s.plans.lastAdmit } }
  let s := (s.count (okey (0x0840 + m.cls) 1) 1).count (okey (0x0840 + m.cls) 2) (32 + m.len)
  ((s.count (dropKey d.port 0x20) 1).count (dropKey d.port 0x21) (32 + m.len)).pokeRec r l

/-- How far a datagram of records has come: whether a record was refused for a code other than 0x12, the first code, and whether a receipt
acknowledgement is due (R103, R119). -/
structure DgTally where
  behind : Bool
  first : Nat
  ack : Bool
deriving DecidableEq, Repr

/-- One record of a datagram. -/
def State.judgeRec (d : Datagram) (x : State × DgTally) (m : VrtMsg) : State × DgTally :=
  let s := x.1
  let t := x.2
  match s.recordCode d.port m t.behind with
  | some c => (s.drop d.port c, ⟨t.behind || c != 0x12, if t.first = 0 then c else t.first, true⟩)
  | none =>
    match s.entryOf m.cls, s.arena (.cls m.cls) with
    | some e, some a => (s.admitRecord d m e a, { t with ack := t.ack || (s.policy m.cls).ack == 0 })
    | _, _ => (s.drop d.port 0x11, ⟨true, if t.first = 0 then 0x11 else t.first, true⟩)

/-- The records of a datagram in order, then its receipt acknowledgement on the arrival port. -/
def State.takeRecords (s : State) (d : Datagram) (n : Nat) (ms : List VrtMsg) : State :=
  let r := ms.foldl (State.judgeRec d) (s, ⟨false, 0, false⟩)
  if r.2.ack then r.1.sendAck d.port 1 n r.2.first else r.1

-- ---------------------------------------------------------------- hellos (R119)

/-- A hello: its GCM tag is judged, OPEN is set, and a state acknowledgement answers it. -/
def State.takeHello (s : State) (d : Datagram) (m : VrtMsg) : State :=
  let p := s.partner m.partner
  if p.kb ∧ m.g ∧ ¬ s.gcmGood p m then s.drop d.port 0x13
  else if p.kb ≠ m.g then s.drop d.port 0x14
  else (s.setPartner m.partner (p.heard d)).sendAck d.port 3 m.partner 0

-- ---------------------------------------------------------------- requests (R227, R228, R232 to R237, R241)

/-- How many accepted requests are not yet fully answered (R241). -/
def State.openRequests (s : State) : Nat := (s.egress.reqs.filter fun r => r.refuse.isNone).length

/-- Whether an entry of a class's query ring holds a query that is not yet answered (R236). -/
def State.slotBusy (s : State) (k slot : Nat) : Bool :=
  s.egress.reqs.any fun r => r.cls == k && r.refuse.isNone && r.kind == .query slot

/-- Whether a task of the active plan takes queries of a class. -/
def State.queryTask (s : State) (k : Nat) : Bool :=
  match s.section with | some p => p.tasks.any fun t => natBit t.mask k | none => false

/-- Adds a request. -/
def State.addRequest (s : State) (port : Nat) (m : VrtMsg) (kind : ReqKind) (refuse : Option Nat) : State :=
  { s with egress := { s.egress with
      reqs := s.egress.reqs ++ [⟨s.egress.nextOrder, m.partner, m.cls, port, beField m.payload 0 4, kind, refuse⟩]
      nextOrder := s.egress.nextOrder + 1 } }

/-- An accepted query is written to the next entry of its class's ring (R236). -/
def State.takeQuery (s : State) (port : Nat) (m : VrtMsg) : State :=
  let k := m.cls
  let slot := Tab.get 0 s.egress.ringNext k + 1
  if ¬ s.queryTask k then s.addRequest port m (.query 0) (some 4)
  else if s.ringSize = 0 ∨ s.slotBusy k slot then s.addRequest port m (.query 0) (some 3)
  else
    let body := m.payload.drop 8
    let l := leBytes 4 m.partner ++ leBytes 4 (beField m.payload 0 4) ++ leBytes 2 body.length ++ [BitVec.ofNat 8 port] ++ zeros 5 ++ body
    let s := s.enginePoke (s.ringBase k + 256 * slot) l
    let s := s.addRequest port m (.query slot) none
    { s with egress := { s.egress with
        ringNext := Tab.put 0 k (slot % s.ringSize) s.egress.ringNext
        ringCount := Tab.put 0 k (Tab.get 0 s.egress.ringCount k + 1) s.egress.ringCount } }

/-- The current version of an image (0x0E01.02). -/
def State.currentVersion (s : State) (num : Nat) : Nat :=
  match s.egress.images.find? fun i => i.num == num && i.current with
  | some i => i.version
  | none => 0

/-- A version of an image that is held: every block of it is programmed (R233, R234). -/
def State.imageAt (s : State) (num ver : Nat) : Option BootImage := (s.imageOf num ver).filter BootImage.stored

/-- An image request is bound to a version when it is accepted (R234). -/
def State.takeImage (s : State) (port : Nat) (m : VrtMsg) : State :=
  let num := beField m.payload 4 2
  let v := beField m.payload 8 4
  let ver := if v = 0 then s.currentVersion num else v
  let kind := ReqKind.image num ver (beField m.payload 12 4) (beField m.payload 16 2)
  s.addRequest port m kind (if ver = 0 ∨ (s.imageAt num ver).isNone then some 2 else none)

/-- One request of a datagram: its record-level codes, by the egress mask (R228), then its acceptance. -/
def State.takeRequest (d : Datagram) (s : State) (m : VrtMsg) : State :=
  match s.accessCode d.port (s.partner m.partner) ClassEnt.egress m false with
  | some c => s.drop d.port c
  | none =>
    if 8192 ≤ s.openRequests then s.addRequest d.port m (.query 0) (some 3)
    else match m.type with
    | 4 => s.addRequest d.port m (.read (beField m.payload 8 8) (beField m.payload 16 8)) none
    | 5 => s.takeQuery d.port m
    | _ => s.takeImage d.port m

-- ---------------------------------------------------------------- undefined cases (R7, R10)

/-- A list of counters and values takes any values of an undefined case, from place `i` on. -/
def State.freeRo (s : State) (u i : Nat) (l : List Nat) : State :=
  ((natRange i l.length).zip l).foldl (fun a x => a.roSet x.2 (Config.undefinedBits u x.1 % 2 ^ 64)) s

/-- The guarded fields of a partner's entry take any values, the reserved ones excepted. -/
def Partner.havoc (p : Partner) (u : Nat) : Partner :=
  let f := fun (i : Nat) => Config.undefinedBits u i
  { p with
    e := BitVec.ofNat 8 (f 0), aDur := BitVec.ofNat 8 (f 1), mac := BitVec.ofNat 48 (f 2), status := BitVec.ofNat 8 (f 3) &&& 0x07#8
    ackSeq := BitVec.ofNat 32 (f 4), gS := BitVec.ofNat 16 (f 5), uS := BitVec.ofNat 16 (f 6), gD := BitVec.ofNat 16 (f 7)
    uD := BitVec.ofNat 16 (f 8), tS := BitVec.ofNat 32 (f 9), tD := BitVec.ofNat 32 (f 10) }

/-- Every cell of an arena takes any value, and its ring position. -/
def State.havocArena (s : State) (u : Nat) (a : Arena) : State :=
  let s := (natRange a.base a.cells).foldl (fun t i => t.fixBytes (t.cellPa a.dram i) (undefinedBytes u (2 ^ 40 + t.cellPa a.dram i) 64)) s
  if a.outgoing then s
  else s.setArena { a with pos := Config.undefinedBits u (2 ^ 20 + a.base) % max 1 a.cells, count := Config.undefinedBits u (2 ^ 21 + a.base) % 2 ^ 32 }

/-- A datagram of a partner writes a reserved field non-zero: what the partner's datagrams can write takes any value (R7, R10; log 7). That is its entry's
guarded fields, the arenas of its classes with the books of their cells, the budgets and counters of its classes, and the counters of the port. -/
def State.havocPartner (s : State) (port n : Nat) : State :=
  let u := s.freeCtr
  let p := s.partner n
  let mine := s.adm.arenas.filter fun a => match a.kind with | .cls k => natBit p.classMask.toNat k | _ => false
  let s := mine.foldl (fun t a => t.havocArena u a) (({ s with freeCtr := u + 1 } : State).setPartner n (p.havoc u))
  let f := fun (i : Nat) => Config.undefinedBits u (100 + i)
  let ks := (natRange 0 64).filter fun k => natBit p.classMask.toNat k
  let s := s.freeRo u 1000 ((natRange 1 0x23).map (dropKey port) ++ ks.flatMap fun k => [okey (0x0840 + k) 1, okey (0x0840 + k) 2])
  { s with
    adm := { s.adm with
      freeS := f 0 % 2 ^ 20, freeD := f 1 % 2 ^ 40, allocS := f 2 % 2 ^ 20, allocD := f 3 % 2 ^ 40
      bytes := ks.foldl (fun t k => Tab.put 0 k (f (4 + k)) t) s.adm.bytes
      count := ks.foldl (fun t k => Tab.put 0 k (f (68 + k)) t) s.adm.count }
    perc := { s.perc with dirty := f 132 } }

-- ---------------------------------------------------------------- the rows

/-- A datagram dropped under 0x08 is answered, at most once per partner in a frame (R103). -/
def State.staleAck (s : State) (n : Nat) : State :=
  if s.adm.staleAcked.contains n then s
  else
    let s := { s with adm := { s.adm with staleAcked := n :: s.adm.staleAcked } }
    s.sendAck (s.partner n).lastPort 3 n 0

/-- A well-formed datagram. -/
def State.takeDatagram (s : State) (d : Datagram) (k : DgKind) (m : VrtMsg) (t : List VrtMsg) : State :=
  match s.datagramCode d k m with
  | some c =>
    let s := s.drop d.port c
    if c = 0x08 then s.staleAck m.partner else s
  | none => match k with
    | .records => s.takeRecords d m.partner (m :: t)
    | .hello => s.takeHello d m
    | .requests => (m :: t).foldl (State.takeRequest d) s

def execVrtDatagram (d : Datagram) (s : State) : Host.Outcome State Fault Refusal :=
  if ¬ s.portOpen d.port then .next s
  else if 9216 < d.size then .next (s.drop d.port 0x22)
  else match s.frameCode d with
  | some c => .next (s.drop d.port c)
  | none => match wellFormedDg d.data with
    | none => .next (s.drop d.port 0x05)
    | some (_, []) => .next (s.drop d.port 0x05)
    | some (k, m :: t) =>
      if ((m :: t).any msgReserved) ∧ (s.datagramCode d k m).isNone then .next (s.havocPartner d.port m.partner)
      else .next (s.takeDatagram d k m t)

/-- The index of a field port's objects (R486). -/
def fieldIndex (f : Bool) : Nat := if f then 0x0205 else 0x0204

/-- Whether a port takes frames. A field port does while the firmware runs, unless it is off (R485, R486). -/
def State.netOpen (s : State) : NetPort → Bool
  | .eth p => s.portOpen p
  | .field f => s.barista.stage == .up && s.roGet (okey (fieldIndex f) 1) != 2

/-- A port's own addresses; 0 disables one (R87, R486). -/
def State.netIp4 (s : State) : NetPort → Nat
  | .eth p => s.ip4 p
  | .field f => s.objNat (okey (fieldIndex f) 3) 0
def State.netIp6 (s : State) : NetPort → Nat
  | .eth p => s.ip6 p
  | .field f => beNat (s.objGet (okey (fieldIndex f) 4) (zeros 16))

/-- A frame that a port discards: a 100G port counts it under 0x02 (R86), a field port has no such counter (R485). -/
def State.discard (s : State) : NetPort → State
  | .eth p => s.drop p 0x02
  | .field _ => s

/-- ARP: answered for the port's own address, any other is a frame to discard (R86, R485). -/
def execArpRequest (port : NetPort) (target : BitVec 32) (s : State) : Host.Outcome State Fault Refusal :=
  if ¬ s.netOpen port then .next s
  else if s.netIp4 port ≠ 0 ∧ target.toNat = s.netIp4 port then .next { s with out := s.out ++ [.arp port target] }
  else .next (s.discard port)

/-- A neighbour solicitation: answered for the port's own address, any other is a frame to discard (R86, R485). -/
def execNeighbourSolicitation (port : NetPort) (target : BitVec 128) (s : State) : Host.Outcome State Fault Refusal :=
  if ¬ s.netOpen port then .next s
  else if s.netIp6 port ≠ 0 ∧ target.toNat = s.netIp6 port then .next { s with out := s.out ++ [.neighbour port target] }
  else .next (s.discard port)

/-- Any other frame is discarded. A 100G port counts it: an oversize one at 0x22, the others under 0x02 (R84, R86, R104); a field port has no
such counter (R485). -/
def execNonVrtFrame (port : NetPort) (why : NonVrt) (s : State) : Host.Outcome State Fault Refusal :=
  match port with
  | .eth p => if s.portOpen p then .next (s.drop p (if why = .oversize then 0x22 else 0x02)) else .next s
  | .field _ => .next s

/-- The link state of a port after a link or a sub-port's link changes (R87). -/
def linkState (old : Nat) (split up : Bool) (sub : Option (Fin 4)) : Nat :=
  match split, sub with
  | true, some n =>
    let m := 2 ^ (n.val + 1)
    let subs := old % 32 / 2 * 2
    let subs := if up then (if natBit subs (n.val + 1) then subs else subs + m) else (if natBit subs (n.val + 1) then subs - m else subs)
    subs + (if subs = 0 then 0 else 1)
  | true, none => old
  | false, _ => if up then 1 else 0

/-- A port that is off has no link (R87, R486). -/
def execPortLinkChange (port : NetPort) (up : Bool) (sub : Option (Fin 4)) (s : State) : Host.Outcome State Fault Refusal :=
  match port with
  | .eth p =>
    let md := s.portMode p
    if s.barista.stage ≠ .up ∨ md = 4 then .next s
    else .next (s.roSet (portKey p 6) (linkState (s.roGet (portKey p 6)) (md == 2 || md == 3) up sub))
  | .field f => if s.netOpen (.field f) then .next (s.roSet (okey (fieldIndex f) 6) (if up then 1 else 0)) else .next s

end Sys2Proof.Machine
end

