-- ==== Sys2Proof/Machine/Egress.lean ====
section
/-!
DEFINITION. Replies (R229 to R240): reads of stored records, image blocks, and the answers of tasks.
-/

namespace Sys2Proof.Machine

-- ---------------------------------------------------------------- items and messages (R229, R231)

/-- An item of a reply. -/
def itemBytes (kind status : Nat) (tag : DWord) (data : List Byte) : List Byte :=
  [BitVec.ofNat 8 kind, BitVec.ofNat 8 status] ++ beBytes 2 data.length ++ zeros 4 ++ (if kind = 3 then zeros 8 else beBytes 8 tag.toNat) ++ data

/-- A record as an item, by its outcome: good, retagged, or withheld. -/
def recordItem (outcome : Nat) (l : List Byte) : List Byte :=
  if outcome = 2 then itemBytes 3 2 0 (sliceZ l 8 24) else itemBytes 1 outcome (recTag l) (l.drop 8)

/-- The 32 header bytes of a reply. -/
def replyHead (partner cls len epoch : Nat) : List Byte :=
  [0x01#8, 0x07#8, 0, BitVec.ofNat 8 cls] ++ beBytes 4 partner ++ [0, 0] ++ beBytes 2 len ++ beBytes 4 epoch ++ zeros 16

/-- A reply that is ready to leave. -/
structure Reply where
  status : Nat
  count : Nat
  cont : List Byte
  items : List Byte
  withheld : Nat
  /-- the request is fully answered -/
  last : Bool
deriving DecidableEq, Repr

/-- The whole message of a reply. -/
def Reply.message (r : Reply) (q : Request) (epoch : Nat) : List Byte :=
  let pay := beBytes 4 q.reqId ++ [BitVec.ofNat 8 r.status, BitVec.ofNat 8 r.count, 0, 0] ++ r.cont ++ r.items
  replyHead q.partner q.cls pay.length epoch ++ pay

-- ---------------------------------------------------------------- reads (R232)

/-- Where an item of a read comes from. -/
inductive Source where
  | cells (r : Rec)
  | flash (refs : List FlashRef) (bytes : List Byte)
deriving DecidableEq, Repr

/-- A record that a read returns, with its place in its set. -/
structure Found where
  frame : Nat
  order : Nat
  bytes : Nat
  src : Source
deriving DecidableEq, Repr

/-- Whether a record found on flash, of a set and a place in it, is still held in cells. -/
def State.heldToo (s : State) (frame order : Nat) : Bool :=
  s.adm.recs.any fun r => r.derived.isNone && r.frame == frame && r.order == some order

/-- Inserts by frame, and by place in the set. -/
def insertFound (x : Found) : List Found → List Found
  | [] => [x]
  | y :: t => if x.frame < y.frame ∨ (x.frame = y.frame ∧ x.order < y.order) then x :: y :: t else y :: insertFound x t

/-- Whether a record is expired by the retention class of its class in its frame (R214 to R216). -/
def State.classExpired (s : State) (cls frame : Nat) : Bool := s.expired (s.retentionOf cls frame) frame

/-- The durable records of a partner in a range of admission frames that are not expired, in admission order: from cells, else from the unfolded journal,
else from bulk storage. -/
def State.foundRecords (s : State) (partner lo hi : Nat) : List Found :=
  let inR := fun (f : Nat) => decide (lo ≤ f) && decide (f ≤ hi)
  let a := (s.adm.recs.filter fun r => r.derived.isNone && r.partner == partner && (r.durable.isSome || r.again.isSome) && inR r.frame &&
      !s.classExpired r.cls r.frame).map fun r => (⟨r.frame, r.order.getD 0, r.bytes, .cells r⟩ : Found)
  let js := s.journalRecords.filter fun j => j.whole && !recDerived j.bytes && recPartner j.bytes == partner && inR (recFrame j.bytes) &&
    s.setComplete j.setFrame && s.setComplete (j.setFrame + 1) && s.stands j && !s.heldToo j.setFrame j.order &&
    !s.classExpired (recClass j.bytes) (recFrame j.bytes)
  let units := fun (j : JRec) => (j.places.map (s.unitStart j.grp)).eraseDups.map fun p => FlashRef.journal (Fin.ofNat 4 j.grp) p
  let b := js.map fun j => (⟨recFrame j.bytes, j.order, j.bytes.length, .flash (units j) j.bytes⟩ : Found)
  let c := (s.media.bulk.filter fun x => x.partner == partner && inR x.frame && !x.derived && !s.heldToo x.frame x.order &&
    !s.expired x.retention x.frame).map fun x => (⟨x.frame, x.order, x.len, .flash [.bulk x.id] (s.bulkBytes x)⟩ : Found)
  (a ++ b ++ c).foldl (fun l x => insertFound x l) []

/-- The records that fit in one reply, and the frame of the first that does not. -/
def fitFound : Nat → Nat → List Found → List Found × Option Nat
  | _, _, [] => ([], none)
  | room, count, x :: t =>
    let n := 16 + (x.bytes - 8)
    if room < n ∨ count = 0 then ([], some x.frame)
    else
      let r := fitFound (room - n) (count - 1) t
      (x :: r.1, r.2)

/-- Where a restored record will lie once it is presented; none before recovery has ended, when no arena holds it (R186 step 9). -/
def State.againPa (s : State) (r : Rec) : Option Nat :=
  if s.carafe.ceilings = [] then none
  else
    let t := s.adm.represent.foldl State.presentFrame s
    match t.record r.id with
    | some x => if x.ring = 0 then none else some (t.recPa x)
    | none => none

/-- A restored record that waits to be presented again is judged: a new tag, or Q, is written back to it, in its arena too (R138). -/
def State.judgeAgain (s : State) (point : Nat) (r : Rec) : State × Nat × List Byte :=
  let v := s.verifyAt point r.data
  let l := v.2.2
  if l = r.data then v
  else
    let t := v.1.setRecord { r with data := l }
    (match s.againPa r with
      | some pa => (t.poke pa (l.take 8)).poke (pa + 13) [l.getD 13 0]
      | none => t, v.2.1, l)

/-- The items of the records of a reply, each judged at point 3 (R238). A flash read that failed returns nothing: the item is left out. -/
def State.recordItems (s : State) : List Found → State × List (List Byte) × Nat
  | [] => (s, [], 0)
  | x :: t =>
    match x.src with
    | .cells r =>
      let v := if r.data = [] then s.judgeHeld 3 r else s.judgeAgain 3 r
      let q := v.1.recordItems t
      (q.1, recordItem v.2.1 v.2.2 :: q.2.1, q.2.2 + (if v.2.1 = 2 then 1 else 0))
    | .flash refs l =>
      if refs.any fun f => s.egress.fetched.contains (f, false) then s.recordItems t
      else
        let v := s.verifyAt 3 l
        let q := v.1.recordItems t
        (q.1, recordItem v.2.1 v.2.2 :: q.2.1, q.2.2 + (if v.2.1 = 2 then 1 else 0))

/-- The flash reads that an item needs. -/
def Found.refs (x : Found) : List FlashRef := match x.src with | .cells _ => [] | .flash l _ => l

-- ---------------------------------------------------------------- images (R233 to R235)

/-- The blocks of one reply to an image request: at most two, in index order. -/
def imageBlocks (i : BootImage) (first count : Nat) : List Nat := (natRange first (min (min count 2) (i.blocks.length - first)))

/-- A block's entry in the cache. -/
def State.cached (s : State) (num ver b : Nat) : Option CacheEntry :=
  s.egress.cache.find? fun e => e.num == num && e.version == ver && e.block == b

/-- Whether some bytes of memory hold an uncorrectable code word (R257). -/
def State.wordBad (s : State) (pa n : Nat) : Bool := s.mapped pa n && (cwsOf pa n).any fun cw => decide (Tab.get .none s.upsets cw = .uncorrectable)

/-- An image's block with its tag, from the cache or from bulk storage; the flag says that it could not be read (R235, R258). -/
def State.imageBlock (s : State) (i : BootImage) (b : Nat) : State × List Byte × DWord × Bool :=
  match s.cached i.num i.version b with
  | some e =>
    let r := s.engineRead (s.cachePa e.slot) 4096
    (r.1, r.2, e.tag, s.wordBad (s.cachePa e.slot) 4096)
  | none =>
    let x := i.blocks.getD b (0, 0)
    (s, s.imageData x.1, x.2, s.egress.fetched.contains (.image i.num i.version b, false))

/-- The new tag of a block in the cache is written back (R138). -/
def State.retagCached (s : State) (num ver b : Nat) (tag : DWord) : State :=
  { s with egress := { s.egress with cache := s.egress.cache.map fun e => if e.num = num ∧ e.version = ver ∧ e.block = b then { e with tag := tag } else e } }

/-- The items of image blocks, each judged at point 3; a block of outcome 2 ends the reply, and one that was read from bulk storage enters the cache
(R235, R238). An image block has no record header: its tag events show partner 0 and admission frame 0 (DESIGN CHOICE, log 57). -/
def State.imageItems (s : State) (i : BootImage) : List Nat → State × List (List Byte) × Option Nat
  | [] => (s, [], none)
  | b :: t =>
    let x := s.imageBlock i b
    let l := x.2.1
    let tag := x.2.2.1
    let d := tagDecide 0 tag (imageCovered i.num i.version b l)
    if x.2.2.2 then (if (s.cached i.num i.version b).isSome then x.1.tagEvent 3 3 0 0 tag 0 else x.1, [], some b)
    else if d.1 = 2 then (x.1.tagEvent 3 3 0 0 tag d.2.1, [], some b)
    else
      let new := if d.1 = 1 then d.2.2 else tag
      let s := if d.1 = 1 then (x.1.tagEvent 3 (if d.2.1 = tagCheck tag then 1 else 2) 0 0 tag d.2.1).retagCached i.num i.version b new else x.1
      let q := (s.cacheLoad i.num i.version b tag l).imageItems i t
      (q.1, itemBytes 2 d.1 new l :: q.2.1, q.2.2)

-- ---------------------------------------------------------------- answers of tasks (R237)

/-- The oldest submission that answers a query. -/
def State.answerOf (s : State) (q : Request) : Option Submission :=
  s.egress.subs.find? fun x => x.partner == q.partner && x.cls == q.cls && x.reqId == q.reqId

/-- A buffer that cannot be read whole is outcome 2 without a check (R258): Q is set in it, and its item is withheld. -/
def State.bufferLost (s : State) (pa : Nat) (head : List Byte) : State × List Byte × Nat :=
  let f := setQ head
  let s := if qSet head then s else s.tagEvent 3 3 (leField head 8 4) (leField head 16 8) (recTag head) 0
  (s.poke (pa + 13) [f.getD 13 0], recordItem 2 f, 1)

/-- The item of a submission: its buffer is a record, judged at point 3, and a new tag, or Q, is written back to it (R138, R237). A payload length over
9,000 is no record (R109): it is withheld. -/
def State.bufferItem (s : State) (pa : Nat) : State × List Byte × Nat :=
  let h := s.engineRead pa 32
  let len := leField h.2 14 2
  if s.wordBad pa 32 then h.1.bufferLost pa h.2
  else if 9000 < len then (h.1, recordItem 2 h.2, 1)
  else
    let r := h.1.engineRead pa (32 + len)
    if h.1.wordBad pa (32 + len) then r.1.bufferLost pa h.2
    else
      let v := r.1.verifyAt 3 r.2
      let l := v.2.2
      let s := if l = r.2 ∨ ¬ s.mapped pa (32 + len) then v.1 else (v.1.enginePoke pa (l.take 8)).enginePoke (pa + 13) [l.getD 13 0]
      (s, recordItem v.2.1 l, if v.2.1 = 2 then 1 else 0)

-- ---------------------------------------------------------------- one reply

/-- The flash reads that a request's next reply still needs. -/
def State.missingRefs (s : State) (q : Request) : List FlashRef :=
  let need := match q.kind with
    | .read lo hi => ((fitFound 9056 255 (s.foundRecords q.partner lo hi)).1.flatMap Found.refs)
    | .query _ => []
    | .image num ver first count => match s.imageAt num ver with
      | some i => ((imageBlocks i first count).filter fun b => (s.cached num ver b).isNone).map fun b => .image num ver b
      | none => []
  if q.refuse.isSome then [] else need.filter fun r => !(s.egress.fetched.any fun x => x.1 == r)

/-- Whether a request has a reply that can leave now. -/
def State.replyReady (s : State) (q : Request) : Bool :=
  q.refuse.isSome || (match q.kind with
    | .query _ => (s.answerOf q).isSome
    | _ => (s.missingRefs q).isEmpty)

/-- The reply to a request, and the state that its checks leave. -/
def State.replyTo (s : State) (q : Request) : State × Reply :=
  match q.refuse with
  | some st => (s, ⟨st, 0, zeros 8, [], 0, true⟩)
  | none => match q.kind with
    | .read lo hi =>
      let f := fitFound 9056 255 (s.foundRecords q.partner lo hi)
      let r := s.recordItems f.1
      let cont := match f.2 with | some x => x | none => hi + 1
      (r.1, ⟨if f.2.isSome then 1 else 0, r.2.1.length, beBytes 8 cont, r.2.1.flatten, r.2.2, true⟩)
    | .query _ => match s.answerOf q with
      | none => (s, ⟨0, 0, zeros 8, [], 0, false⟩)
      | some x =>
        let s := { s with egress := { s.egress with subs := s.egress.subs.erase x } }
        if x.addr = 0 then (s, ⟨x.status, 0, zeros 8, [], 0, x.last⟩)
        else
          let b := s.bufferItem x.addr
          (b.1, ⟨x.status, 1, zeros 8, b.2.1, b.2.2, x.last⟩)
    | .image num ver first count => match s.imageAt num ver with
      | none => (s, ⟨2, 0, zeros 8, [], 0, true⟩)
      | some i =>
        let bs := imageBlocks i first count
        let r := s.imageItems i bs
        let next := match r.2.2 with | some b => b | none => first + bs.length
        let more := r.2.2.isSome || decide (next < min (first + count) i.blocks.length)
        (r.1, ⟨if more then 1 else 0, r.2.1.length, beBytes 4 ver ++ beBytes 4 next, r.2.1.flatten, if r.2.2.isSome then 1 else 0, true⟩)

-- ---------------------------------------------------------------- visits and budgets (R239, R240)

/-- The oldest request of each partner on a port in a class. -/
def State.heads (s : State) (port cls : Nat) : List Request :=
  let rs := s.egress.reqs.filter fun r => r.port == port && r.cls == cls
  rs.filter fun r => !(rs.any fun x => x.partner == r.partner && decide (x.order < r.order))

/-- The next partner to visit: the lowest above the last one served, else the lowest. -/
def nextVisit (last : Nat) (l : List Request) : Option Request :=
  let low := fun (x : List Request) => x.foldl (fun (b : Option Request) r => match b with
    | none => some r
    | some y => if r.partner < y.partner then some r else some y) none
  match low (l.filter fun r => decide (last ≤ r.partner)) with
  | some r => some r
  | none => low l

/-- The partner cap of a class (0x0E20+k.01), and what a partner has been sent of it in this frame. -/
def State.partnerCap (s : State) (cls : Nat) : Nat := s.objNat (okey (0x0E20 + cls) 1) 4
def capKey (port cls partner : Nat) : Nat := (64 * port + cls) * 2 ^ 17 + partner

/-- The blocks of an image that a reply sent are the most recently sent of the cache (R235). -/
def State.touchCache (s : State) (q : Request) : State :=
  match q.kind with
  | .image num ver first count => match s.imageAt num ver with
    | some i =>
      let sent := fun (e : CacheEntry) => e.num == num && e.version == ver && (imageBlocks i first count).contains e.block
      { s with egress := { s.egress with cache := (s.egress.cache.filter sent).reverse ++ s.egress.cache.filter fun e => !sent e } }
    | none => s
  | _ => s

/-- A reply leaves: its budgets, its request, and what it had fetched. A version that waited for its last request goes (R234). -/
def State.sendReply (s : State) (q : Request) (need : List FlashRef) (r : Reply) : State :=
  let i := 64 * q.port + q.cls
  let l := r.message q s.adm.epoch
  let ck := capKey q.port q.cls q.partner
  let s := { s with
    out := s.out ++ [Out.vrt q.port q.partner (s.outAddr (s.partner q.partner)) l]
    egress := { s.egress with
      reqs := if r.last then s.egress.reqs.filter fun x => x.order != q.order else s.egress.reqs
      sentBytes := Tab.put 0 i (Tab.get 0 s.egress.sentBytes i + l.length) s.egress.sentBytes
      sentCount := Tab.put 0 i (Tab.get 0 s.egress.sentCount i + 1) s.egress.sentCount
      perPartner := Tab.put 0 ck (Tab.get 0 s.egress.perPartner ck + 1) s.egress.perPartner
      lastServed := Tab.put 0 i (q.partner + 1) s.egress.lastServed
      fetched := s.egress.fetched.filter fun x => !need.contains x.1 } }
  let s := s.touchCache q
  let kept := s.egress.images.filter fun (v : BootImage) =>
    v.current || s.bound v.num v.version || !(s.egress.images.any fun w => w.num == v.num && w.current && decide (v.version ≤ w.version))
  let s := { s with egress := { s.egress with images := kept } }
  let k := fun (sub : Nat) => okey (0x0E60 + q.port) sub
  ((s.count (k 1) 1).count (k 2) l.length).count (k 3) r.withheld

/-- The flash reads behind a request's next reply. -/
def State.replyRefs (s : State) (q : Request) : List FlashRef :=
  match q.kind with
  | .read lo hi => (fitFound 9056 255 (s.foundRecords q.partner lo hi)).1.flatMap Found.refs
  | .image num ver first count => (natRange first (min count 2)).map fun b => .image num ver b
  | .query _ => []

/-- One reply datagram of a class leaves a port, when a partner under its cap has one that the budgets cover; a reply that they do not cover is
counted as deferred. When no reply is ready, the flash reads of the next one are enqueued. -/
def execReplyTransmit (port : PortId) (cls : Fin 64) (s : State) : Host.Outcome State Fault Refusal :=
  match s.entryOf cls with
  | none => .next s
  | some e =>
    if ¬ s.portOpen port ∨ s.acksStop ∨ ¬ natBit e.egress port then .next s
    else
      -- a submission that answers no query in the ring has no port to leave by
      let subs := s.egress.subs.filter fun (x : Submission) => x.cls != cls.val ||
        s.egress.reqs.any fun q => q.refuse.isNone && q.partner == x.partner && q.cls == x.cls && q.reqId == x.reqId
      let s := { s with egress := { s.egress with subs := subs } }
      let i := 64 * port.val + cls.val
      let under := (s.heads port cls).filter fun q => decide (Tab.get 0 s.egress.perPartner (capKey port cls q.partner) < s.partnerCap cls)
      match nextVisit (Tab.get 0 s.egress.lastServed i) (under.filter s.replyReady) with
      | some q =>
        let r := s.replyTo q
        if e.eb < Tab.get 0 s.egress.sentBytes i + (r.2.message q s.adm.epoch).length ∨ e.ed < Tab.get 0 s.egress.sentCount i + 1 then
          .next (s.count (okey (0x0E60 + port.val) 4) 1)
        else .next (r.1.sendReply q (s.replyRefs q) r.2)
      | none => match nextVisit (Tab.get 0 s.egress.lastServed i) under with
        | some q => .next ((s.missingRefs q).foldl State.fetchRead s)
        | none => .next s

end Sys2Proof.Machine
end

