-- ==== Sys2Proof/Machine/Recovery.lean ====
section
/-!
DEFINITION. RECOVERY (R186 to R193): the scan of the journal, the close decision, durable pages, partner state, epoch and frame number, and
the records to be presented again.
-/

namespace Sys2Proof.Machine

-- ---------------------------------------------------------------- the scan (R186 step 3)

/-- A group's scan: its segments, the next sequence, and the link of the last one. -/
structure Scan where
  grp : Nat
  segs : List Seg
  seq : Nat
  link : List Byte
deriving DecidableEq, Repr

/-- A group is scanned from its fold point; a broken chain is logged. -/
def State.scanGroup (s : State) (g : Nat) : State × Scan :=
  let x := s.group g
  let r := x.scan (x.blocks.length + 1) x.foldSeq x.foldLink []
  let s := if r.2.2.2 then s.logEvent 0x0308 2 (leBytes 8 r.2.1) [(g, [])] else s
  (s, ⟨g, r.1, r.2.1, r.2.2.1⟩)

def State.scanAll (s : State) : List Nat → State × List Scan
  | [] => (s, [])
  | g :: t =>
    let r := s.scanGroup g
    let q := r.1.scanAll t
    (q.1, r.2 :: q.2)

/-- The blocks of the scanned segments. -/
def scannedBlocks (l : List Scan) : List Block := l.flatMap fun c => c.segs.flatMap Seg.blocks

/-- The newest frame and epoch found in the journal (R190). -/
def State.journalMax (s : State) (f : Block → Nat) : Nat :=
  s.media.groups.foldl (fun m g => g.2.blocks.foldl (fun n b => max n (f b.2)) m) 0

-- ---------------------------------------------------------------- the close (R187)

/-- A group's closing marker: it names the last segment. -/
def State.markerOf (s : State) (c : Scan) : Option Block :=
  match (s.group c.grp).blocks.find? fun b => b.2.kind == 5 && leField b.2.data 24 8 + 1 == c.seq && leField b.2.data 0 4 == 0x5458434D with
  | some b => some b.2
  | none => none

/-- The items of control blocks of a kind, of `n` 16-byte units each. -/
def controlItems (kind n : Nat) (bs : List Block) : List (List Byte) :=
  (bs.filter fun b => b.kind == 3 && leField b.data 0 1 == kind).flatMap fun b =>
    (natRange 0 (leField b.data 4 4)).map fun i => sliceZ b.data (16 + 16 * n * i) (16 * n)

/-- The cut frame of a clean close: each of the four groups holds a marker of one cut frame and epoch, its final link matches, and its digest is
that of the closing record. -/
def State.cleanCut (s : State) (l : List Scan) (bs : List Block) : Option Nat :=
  let ms := l.map fun c => (s.markerOf c, c.link)
  match ms with
  | (some m, _) :: _ =>
    let cut := leField m.data 8 8
    let ep := leField m.data 16 4
    let recs := (controlItems 3 4 (bs.filter fun b => b.epoch == ep)).map sha256
    let ok := ms.length == 4 && ms.all fun x => match x.1 with
      | none => false
      | some k => leField k.data 8 8 == cut && leField k.data 16 4 == ep && sliceZ k.data 32 32 == x.2 && recs.contains (sliceZ k.data 64 32)
    if ok then some cut else none
  | _ => none

/-- The sets of an epoch found in the journal: frame, block count, and the distinct blocks read. -/
def setsFound (ep : Nat) (bs : List Block) : List (Nat × Nat × Nat) :=
  let b := bs.filter fun x => x.setCount != 0 && x.epoch == ep
  ((b.map fun x => (x.setFrame, x.setCount)).eraseDups).map fun y =>
    (y.1, y.2, ((b.filter fun x => x.setFrame == y.1).map Block.setIndex).eraseDups.length)

/-- The incomplete sets. -/
def incomplete (l : List (Nat × Nat × Nat)) : List Nat := (l.filter fun x => decide (x.2.2 < x.2.1)).map Prod.fst

/-- F_c of a torn close: the sets up to it are complete. A frame that has left no block had nothing to write (log 46). -/
def tornFrame (before : Nat) (l : List (Nat × Nat × Nat)) : Nat :=
  let newest := l.foldl (fun m x => max m x.1) before
  (incomplete l).foldl (fun m f => min m (f - 1)) newest

-- ---------------------------------------------------------------- durable pages (R186 step 5)

/-- What an older close decided: an epoch before the newest whose decision the tables do not hold had a torn close (log 46). -/
def State.olderCuts (s : State) (ep : Nat) (bs : List Block) : List (Nat × Nat × List Nat) :=
  let known := s.media.cuts.filter fun c => c.1 != ep
  let eps := ((bs.filter fun b => b.setCount != 0).map Block.epoch).eraseDups.filter fun e => decide (e < ep) && !(known.any fun c => c.1 == e)
  known ++ eps.map fun e =>
    let l := (setsFound e bs).filter fun x => decide (s.media.imgFrame < x.1)
    (e, tornFrame s.media.imgFrame l, incomplete l)

/-- The pages of the durable image are loaded, with their keys; a lost image is zero (R541). -/
def State.loadImage (s : State) : State :=
  s.media.pages.foldl (fun a x => (a.poke (4096 * x.1) (s.pageBytes x.1)).setPageKey x.1 { PageKey.reset with key := x.2.key }) s

/-- Whether content of a frame is newer than what was folded of it (log 45). -/
def newer (t : Tab Nat) (i frame : Nat) : Bool := decide (Tab.get 0 t i ≤ frame + 1)

/-- A line image is judged at point 5 and applied, unless its tag gives outcome 2. One whose damaged tag names a reserved polynomial is retagged under
polynomial 0: there is no class to take one from (R135; DESIGN CHOICE, log 57). -/
def State.applyLine (s : State) (frame : Nat) (d : Nat × DWord) (l : List Byte) : State :=
  let r := tagDecide 0 d.2 (leBytes 8 d.1 ++ l)
  let s := if r.1 = 0 then s
    else s.tagEvent 5 (if r.1 = 2 then 3 else if r.2.1 = tagCheck d.2 then 1 else 2) 0 d.1 d.2 r.2.1
  if r.1 = 2 ∨ ¬ newer s.media.lineFrames (d.1 / 256) frame then s else s.poke d.1 l

/-- The line images of a block. -/
def State.applyLines (s : State) (b : Block) : State :=
  ((natRange 0 b.descs.length).zip b.descs).foldl (fun a x => a.applyLine b.setFrame x.2 (sliceZ b.data (256 * x.1) 256)) s

/-- The key items of a block. -/
def State.applyKeys (s : State) (b : Block) : State :=
  (controlItems 2 1 [b]).foldl (fun a i =>
    let page := leField i 0 8 / 4096
    if newer a.media.keyFrames page b.setFrame then a.setPageKey page { PageKey.reset with key := BitVec.ofNat 8 (leField i 8 1) } else a) s

/-- Inserts a block by its set's frame, behind those of the same frame. -/
def insertBlock (x : Block) : List Block → List Block
  | [] => [x]
  | y :: t => if x.setFrame < y.setFrame then x :: y :: t else y :: insertBlock x t

/-- What is not durable reads zero, with key 0 (R193). -/
def State.dropVolatile (s : State) : State :=
  { s with
    mem := s.mem.filter fun c => (s.pageKey c.1).key.getLsbD 7
    keys := s.keys.filter fun x => x.2.key.getLsbD 7 }

/-- Durable memory at tick F_c + 1. -/
def State.restorePages (s : State) (bs : List Block) : State :=
  let use := (bs.filter fun b => b.setCount != 0 && !s.discarded b.epoch b.setFrame).foldl (fun l b => insertBlock b l) []
  (use.foldl (fun a b => if b.kind = 2 then a.applyLines b else if b.kind = 3 then a.applyKeys b else a) s.loadImage).dropVolatile

-- ---------------------------------------------------------------- records and partners (R187 to R189)

/-- A record of which a block cannot be read is quarantined at point 5 when its header could be read (R187). -/
def State.replayTorn (s : State) (j : JRec) : State :=
  if j.bytes.length < 32 ∨ recDerived j.bytes then s
  else s.tagEvent 5 3 (leField j.bytes 8 4) (leField j.bytes 16 8) (recTag j.bytes) 0

/-- Each record that is replayed is judged at point 5; the records as they are restored. Derived records of discarded sets are not replayed. -/
def State.replay (s : State) : List JRec → State × List JRec
  | [] => (s, [])
  | j :: t =>
    if ¬ j.whole then (s.replayTorn j).replay t
    else if recDerived j.bytes ∧ ¬ s.stands j then s.replay t
    else
      let v := s.verifyAt 5 j.bytes
      let q := v.1.replay t
      (q.1, if s.stands j ∧ ¬ recDerived j.bytes then { j with bytes := v.2.2 } :: q.2 else q.2)

/-- Whether the cells of a class will lie in DRAM: its home in the saved plan (R54, R188). -/
def State.savedHome (s : State) (k : Nat) : Bool :=
  s.media.savedPlan != [] && (match (parseSection s.media.savedPlan 0 false).cls k with | some c => c.dram | none => false)

/-- A restored record that is presented again: durable, its cells counted in use in the home of its class (R188, R189). One that finds no room in DRAM
is counted in SRAM (log 47). -/
def State.holdAgain (s : State) (j : JRec) : State :=
  let l := j.bytes
  let n := cellsOf l.length
  let pn := recPartner l
  let dram := s.savedHome (recClass l) && decide (n ≤ s.adm.freeD)
  let r : Rec := {
    id := s.adm.nextRec, partner := pn, cls := recClass l, alive := tagAlive (recTag l), frame := recFrame l, base := 0, ring := 0, pos := 0, cells := n
    bytes := l.length, dram := dram, derived := none, copied := true, src := 0, horizon := 2, taken := false, again := some (2 ^ 64), data := l
    durable := none, order := some j.order }
  let p := s.partner pn
  let c := BitVec.ofNat 16 n
  let s := s.setPartner pn (if dram then { p with uD := p.uD + c } else { p with uS := p.uS + c })
  let a := s.adm.addAlloc dram n
  { s with adm := { (a.setFree dram (a.free dram - n)) with recs := a.recs ++ [r], nextRec := a.nextRec + 1 } }

/-- The guarded fields of one enabled partner. -/
def State.rebuildPartner (s : State) (snaps : List (List Byte)) (recs : List (List Byte)) (fc n : Nat) : State :=
  let mine := recs.filter fun l => recPartner l == n
  let snap := snaps.find? fun l => leField l 0 4 == n
  let folded := Tab.get [] s.media.snaps n
  let e : Byte := match snap, mine.getLast? with
    | some l, _ => l.getD 4 0
    | none, some l => tagAlive (recTag l) + 1
    | none, none => folded.getD 4 0
  let before := mine.filter fun l => decide (recFrame l < fc)
  let after := mine.filter fun l => decide (fc ≤ recFrame l)
  let dur : Byte := match before.getLast?, after with
    | some l, _ => tagAlive (recTag l)
    | none, l :: _ => tagAlive (recTag l) - 1
    | none, [] => e - 1
  let p := s.partner n
  let p := { p with e := e, aDur := dur, mac := 0, status := 0, ackSeq := 0, gS := 0, gD := 0, uS := 0, uD := 0, tS := 0, tD := 0 }
  s.setPartner n (match snap with
    | some l => { p with mac := BitVec.ofNat 48 (beField l 6 6), status := l.getD 12 0 }
    | none => p)

/-- The partners that recovery rebuilds. -/
def State.enabled (s : State) : List Nat := (s.adm.partners.filter fun x => x.2.flags.getLsbD 0).map Prod.fst

-- ---------------------------------------------------------------- groups (R186 step 10)

/-- The next place at which a segment can open: the start of a segment and of a program unit. -/
def State.segStart (s : State) (g place : Nat) : Nat :=
  let use := s.stripeUse g
  match (natRange place (use + 1)).find? fun p => p % use % 256 == 0 && (p % use % s.unitBlocks g == 0) with
  | some p => if s.dataBlocks g = 0 then 0 else p % s.dataBlocks g
  | none => place

/-- The units of a row that lie before a place, as programmed: their XOR, and how many there are. -/
def State.rowAcc (s : State) (g place : Nat) : List Byte × Nat :=
  let x := s.group g
  let ub := s.unitBlocks g
  let first := place - place % s.stripeUse g % (7 * ub)
  let unit := fun (m : Nat) => (natRange (first + m * ub) ub).flatMap fun p => match x.blockAt (s.heldPlace g p) with | some b => b.allBytes | none => zeros 4384
  let n := if ub = 0 then 0 else (place - first) / ub
  ((natRange 0 n).foldl (fun l m => xorBytes l (unit m)) [], n)

/-- A group continues behind what was written, with the sequence and the link of its last segment, and with the accumulator of the row that it
continues (R156). -/
def State.continueGroup (s : State) (c : Scan) : State :=
  let x := s.group c.grp
  let next := s.segStart c.grp x.next
  let r := s.rowAcc c.grp next
  s.setGroup c.grp { x with
    next := next, seq := c.seq, link := c.link, seg := none, fresh := true, cur := [], acc := r.1
    sinceParity := if s.rowClosed c.grp (s.parityGroup c.grp next) then 0 else r.2 }

-- ---------------------------------------------------------------- the row

/-- Step 4: the close and F_c (R187), with what the scan found; the decision is logged and kept. -/
def State.decideClose (s : State) (ep : Nat) (sc : List Scan) (ms : Nat) : State × Option Nat × Nat :=
  let bs := scannedBlocks sc
  let found := (setsFound ep bs).filter fun x => decide (s.media.imgFrame < x.1)
  let clean := s.cleanCut sc bs
  let older := s.olderCuts ep bs
  let before := older.foldl (fun m c => if c.1 < ep then max m c.2.1 else m) s.media.imgFrame
  let fc := match clean with | some f => f - 1 | none => tornFrame before found
  let s := s.logEvent 0x0307 (if clean.isSome then 0 else 2) (leBytes 8 fc)
  ({ s with
    media := { s.media with cuts := (ep, fc, incomplete found) :: older, sysDirty := true }
    perc := { s.perc with close := if clean.isSome then 1 else 2, recoveryMs := ms, lastComplete := fc } }, clean, fc)

/-- Steps 6 and 9's records: partner state, and the records to be presented again (R188, R189). -/
def State.restorePartners (s : State) (snaps : List (List Byte)) (recs : List JRec) (fc : Nat) : State :=
  let s := s.enabled.foldl (fun a n => a.rebuildPartner snaps (recs.map JRec.bytes) fc n) s.swapStaging
  let again := recs.filter fun j => decide (fc ≤ recFrame j.bytes)
  let s := again.foldl State.holdAgain s
  { s with adm := { s.adm with represent := (again.map fun j => recFrame j.bytes).foldl (fun l f => insertNat f l) [], closed := true } }

/-- Steps 3 to 7, and the frame number of step 8. Steps 9 and 10 follow at the tick of the first ceiling (R186). -/
def State.recover (s : State) (ms : Nat) : State :=
  let r := s.scanAll s.useGroups
  let bs := scannedBlocks r.2
  let ep := s.journalMax Block.epoch
  let newest := s.journalMax Block.setFrame
  let d := r.1.decideClose ep r.2 ms
  let s := d.1.restorePages bs
  let q := s.replay (s.recordsIn (r.2.map fun c => (c.grp, c.segs.flatMap fun x => natRange x.place x.blocks.length)))
  let snaps := match d.2.1 with
    | some f => controlItems 1 1 (bs.filter fun b => b.epoch == ep && b.setFrame == f)
    | none => []
  let s := q.1.restorePartners snaps q.2 d.2.2
  let s := r.2.foldl State.continueGroup s
  let s := s.newEpoch ((max ep s.storedEpoch + 1) % 2 ^ 32)
  let s := s.arm (newest + 1) s.idlePeriod
  { s with
    adm := { s.adm with recFrame := newest + 1, stateDue := s.enabled }
    zdp := { s.zdp with sessions := [] } }

/-- Recovery runs on a start on media that hold a journal; `ms` is the elapsed time it reports (R191). -/
def execRecovery (ms : Nat) (s : State) : Host.Outcome State Fault Refusal :=
  if s.barista.stage = .up ∧ s.hasJournal ∧ ¬ s.timer.armed then .next (s.recover ms) else .next s

end Sys2Proof.Machine
end

