-- ==== Sys2Proof/Machine/Jobs.lean ====
section
/-!
DEFINITION. The Grinder's jobs: folding a segment (R208, R209), and moving what a reference names (R213, R216). A job reads, writes bulk storage, and
ends with an image of the system area.
-/

namespace Sys2Proof.Machine

/-- The Grinder works while the media serve and no power failure is in progress (R225). -/
def State.grinds (s : State) : Bool := s.media.present && s.timer.running && !s.failing

/-- A new job. -/
def mkJob (id : Nat) (k : JobKind) : Job :=
  { id := id, kind := k, stage := .reading, left := 0, lost := [], recs := [], pages := [], gone := [], image := none, lineFrames := [], keyFrames := []
    snaps := [], newest := 0, fold := none }

/-- Whether a job of a kind was given up, and waits for a later frame (R220). -/
def State.jobWaits (s : State) (k : JobKind) : Bool := s.media.jobs.any fun j => j.kind == k && !j.active

-- ---------------------------------------------------------------- the segment at the fold point (R208, R209)

/-- The sequence that a group's fold point may not reach: that of the open segment, or of the next. -/
def Group.foldLimit (x : Group) : Nat := if x.seg.isSome then x.seq - 1 else x.seq

/-- The segment at the fold point; without a header that can be read, the blocks behind the fold point. -/
def Group.foldSeg (x : Group) : Option Seg :=
  if x.foldLimit ≤ x.foldSeq then none
  else match x.segment x.foldSeq with
  | some g => some g
  | none => some ⟨x.foldBlock, x.foldSeq, (natRange x.foldBlock 256).filterMap x.blockAt⟩

/-- The newest frame of the segment's sets. -/
def Seg.newest (g : Seg) (epoch : Nat) : Nat := (g.blocks.filter fun b => b.setCount != 0 && b.epoch == epoch).foldl (fun m b => max m b.setFrame) 0

/-- Whether a segment can be folded: all of it is programmed, and the sets of every frame up to its newest are complete, so that the fold never makes
durable what recovery would discard (R36, R187; log 46). -/
def State.foldable (s : State) (g : Nat) (x : Seg) : Bool :=
  !((s.media.queue ++ s.media.posted).any fun o => o.group == g && o.area == .journal && o.blocks.any fun b => b.1 / 256 == x.place / 256) &&
  s.perc.sets.all fun y => y.complete.isSome || decide (x.newest s.adm.epoch < y.frame)

/-- The units of a segment that hold something. -/
def State.segUnits (s : State) (g place : Nat) : List Nat :=
  (((natRange place 256).filter fun p => ((s.group g).blockAt p).isSome).map (s.unitStart g)).eraseDups

/-- The places of a segment that were lost: read without success, or not programmed though a later one is. -/
def Group.lostPlaces (x : Group) (place : Nat) (lost : List Nat) : List Nat :=
  let have_ := (natRange 0 256).filter fun i => (x.blockAt (place + i)).isSome && !lost.contains (place + i)
  let top := ((natRange 0 256).filter fun i => (x.blockAt (place + i)).isSome).foldl max 0
  (natRange 0 (top + 1)).filter fun i => !have_.contains i

/-- The first place of the next segment written after one, without its header: the next segment's room that holds anything. -/
def State.nextSegPlace (s : State) (g place : Nat) : Nat :=
  let x := s.group g
  let later := ((s.unfoldedPlaces g).filter fun p => s.stripeUse g != 0 && p % s.stripeUse g % 256 == 0 && p != place)
  match later.find? fun p => (natRange p 256).any fun q => (x.blockAt q).isSome with
  | some p => p
  | none => x.next

/-- The fold point behind a segment (R208 step 6, R209). After a lost block the link that the next header records stands for the predecessor's. -/
def State.foldAfter (s : State) (g : Nat) (x : Seg) (whole : Bool) : Nat × Nat × List Byte :=
  match (s.group g).segment (x.seq + 1) with
  | some n => (x.seq + 1, n.place, if whole then x.link else n.prev)
  | none => (x.seq + 1, s.nextSegPlace g x.place, x.link)

-- ---------------------------------------------------------------- content of a segment (R208 steps 2 to 4)

/-- A record as a fold copies it: its bytes, its retention class and its place in its set. -/
structure Folded where
  bytes : List Byte
  ret : Nat
  order : Nat

/-- A record of the segment: judged at point 4, then copied with its retention class unless it has expired. One that recovery gave up is left behind. -/
def State.foldRecord (s : State) (j : JRec) : State × List Folded :=
  if ¬ j.whole ∨ ¬ s.stands j then (s, [])
  else
    let v := s.verifyAt 4 j.bytes
    let ret := v.1.retentionOf (recClass j.bytes) (recFrame j.bytes)
    if v.1.expired ret (recFrame j.bytes) then (v.1.countExpired ret, []) else (v.1, [⟨v.2.2, ret, j.order⟩])

def State.foldRecords (s : State) : List JRec → State × List Folded
  | [] => (s, [])
  | j :: t =>
    let r := s.foldRecord j
    let q := r.1.foldRecords t
    (q.1, r.2 ++ q.2)

/-- The page images while a segment is folded: pages with their new image, and the frames folded of lines and pages. -/
structure FoldImages where
  pages : Tab (List Byte × Byte)
  lines : Tab Nat
  keys : Tab Nat

/-- The image of a page as it stands. -/
def State.foldPage (s : State) (x : FoldImages) (page : Nat) : List Byte × Byte :=
  match x.pages.find? fun p => p.1 == page with
  | some p => p.2
  | none => if s.media.pages.any fun p => p.1 == page then (s.pageBytes page, s.imageKey page) else ([], 0)

/-- A line image over the durable image: an older one does not replace a newer, nor revive a page that a newer key item dropped (log 45). -/
def State.foldLine (s : State) (x : FoldImages) (frame pa : Nat) (l : List Byte) : FoldImages :=
  let page := pa / 4096
  let old := s.foldPage x page
  if ¬ newer x.lines (pa / 256) frame ∨ (Tab.get 0 x.keys page > frame ∧ ¬ old.2.getLsbD 7) then x
  else { x with
    pages := Tab.insert page (patch (sliceZ old.1 0 4096) (pa % 4096) l, old.2) x.pages, lines := Tab.insert (pa / 256) (frame + 1) x.lines }

/-- A key item over the durable image: one with DUR clear takes the page out of it. -/
def State.foldKey (s : State) (x : FoldImages) (frame page : Nat) (key : Byte) : FoldImages :=
  if ¬ newer x.keys page frame then x
  else
    let old := s.foldPage x page
    { x with pages := Tab.insert page (if key.getLsbD 7 then old.1 else [], key) x.pages, keys := Tab.insert page (frame + 1) x.keys }

/-- The line images and key items of a block; those of a discarded set are left behind (R187). -/
def State.foldItems (s : State) (x : FoldImages) (b : Block) : FoldImages :=
  if b.setCount = 0 ∨ s.discarded b.epoch b.setFrame then x
  else if b.kind = 2 then
    ((natRange 0 b.descs.length).zip b.descs).foldl (fun a d => s.foldLine a b.setFrame d.2.1 (sliceZ b.data (256 * d.1) 256)) x
  else if b.kind = 3 then
    (controlItems 2 1 [b]).foldl (fun a i => s.foldKey a b.setFrame (leField i 0 8 / 4096) (BitVec.ofNat 8 (leField i 8 1))) x
  else x

-- ---------------------------------------------------------------- writing (R208 steps 3 to 5)

/-- An index entry for a record written at some places. -/
def State.foldedEntry (s : State) (i : Nat) (r : Folded) (at_ : List Nat × Nat) : BulkRec :=
  let l := r.bytes
  { id := s.media.nextBulk + i, partner := recPartner l, cls := recClass l, frame := recFrame l, retention := r.ret, derived := recDerived l
    places := at_.1, gran := at_.2, len := l.length, order := r.order }

/-- A block of index entries: the spec gives them no layout, and nothing but the device reads them (log 48). -/
def State.indexBlock (s : State) : Block := bulkBlock 3 0 (leBytes 4096 s.freeVal)

/-- Everything of a job is programmed: an image of the system area makes it true. -/
def State.jobProgrammed (s : State) (j : Job) : State := (s.setJob { j with stage := .programmed, left := 0 }).sysTry

/-- A job's writes are enqueued: records, page images, and the block of their index entries. None while slots or room do not last. -/
def State.writeJob (s : State) (j : Job) (recs : List Folded) (imgs : Tab (List Byte × Byte)) : Option State :=
  let live := imgs.filter fun x => !(x.2.1 == [] && !x.2.2.getLsbD 7)
  let gone := imgs.filter fun x => x.2.1 == [] && !x.2.2.getLsbD 7
  let rb := recordBlocks (recs.map Folded.bytes)
  let pb := live.map fun x => bulkBlock 2 0 (sliceZ x.2.1 0 4096)
  let index := if recs.isEmpty && imgs.isEmpty then [] else [s.indexBlock]
  match s.drawn.bulkWrite (some j.id) 4096 (rb ++ pb ++ index) with
  | none => none
  | some (t, places) =>
    let rp := recordPlaces (recs.map Folded.bytes) (places.take rb.length)
    let entries := ((natRange 0 recs.length).zip (recs.zip rp)).map fun x => s.foldedEntry x.1 x.2.1 x.2.2
    let pages := (live.zip (places.drop rb.length)).map fun x => (x.1.1, some (⟨x.2, x.1.2.2⟩ : PageImage))
    let t := { t with media := { t.media with nextBulk := s.media.nextBulk + recs.length } }
    let j : Job := { j with recs := entries, pages := pages ++ gone.map fun x => (x.1, none), left := t.jobOps j.id, stage := .programming }
    some (if j.left = 0 then t.jobProgrammed j else t.setJob j)

/-- Steps 2 to 5 of a fold, once the segment has been read. -/
def State.foldContent (s : State) (j : Job) (g : Nat) (x : Seg) : Option State :=
  let y := s.group g
  let lost := y.lostPlaces x.place j.lost
  let whole := lost.isEmpty && x.prev == y.foldLink
  let read := { y with blocks := y.blocks.filter fun b => !j.lost.contains b.1 }
  let blocks := ((natRange x.place 256).filterMap read.blockAt).filter fun b => b.kind != 5
  let img := blocks.foldl (fun a b => s.foldItems a b) (⟨[], s.media.lineFrames, s.media.keyFrames⟩ : FoldImages)
  let snaps := (controlItems 1 1 blocks).foldl (fun t l => Tab.insert (leField l 0 4) l t) s.media.snaps
  let newest := (blocks.filter fun b => b.setCount != 0 && !s.discarded b.epoch b.setFrame).foldl (fun m b => max m b.setFrame) 0
  let recs := ((s.setGroup g read).recordsAt g (natRange x.place 256)).foldl (fun l r => insertJRec r l) []
  let q := s.foldRecords recs
  let t := if whole then q.1
    else q.1.logEvent 0x0402 2 (leBytes 8 x.seq) [(g + 256 * lost.length + 2 ^ 24 * lost.headD 0, [])]
  t.writeJob { j with lineFrames := img.lines, keyFrames := img.keys, snaps := snaps, newest := newest, fold := some (s.foldAfter g x whole) } q.2 img.pages

/-- A job that ends without a write. -/
def State.endMove (s : State) (j : Job) (ref : FlashRef) : State :=
  let s := s.dropJob j.id
  { s with media := { s.media with relocate := s.media.relocate.filter fun r => r != ref } }

/-- A record is copied, with the tag that the check at point 4 left it, or dropped when it has expired (R213, R216). -/
def State.moveRecord (s : State) (j : Job) (b : BulkRec) : Option State :=
  let v := s.verifyAt 4 (s.bulkBytes b)
  if v.1.expired b.retention b.frame then some ((v.1.countExpired b.retention).jobProgrammed { j with gone := [b.id] })
  else match v.1.bulkWrite (some j.id) 64 (recordBlocks [v.2.2]) with
    | none => none
    | some (t, places) =>
      let at_ := (recordPlaces [v.2.2] places).headD ([], 0)
      some (t.setJob { j with recs := [{ b with places := at_.1, gran := at_.2 }], left := t.jobOps j.id, stage := .programming })

/-- One block is copied; `note` says what the job then holds. -/
def State.moveBlock (s : State) (j : Job) (b : Block) (note : Job → Nat → Job) : Option State :=
  match s.bulkWrite (some j.id) 1 [b] with
  | none => none
  | some (t, places) => some (t.setJob (note { j with left := t.jobOps j.id, stage := .programming } (places.headD 0)))

/-- What a reference names is copied to a fresh stripe. -/
def State.moveContent (s : State) (j : Job) (ref : FlashRef) : Option State :=
  match ref with
  | .bulk id => match s.media.bulk.find? fun b => b.id == id with
    | some b => s.moveRecord j b
    | none => some (s.endMove j ref)
  | .page n => match s.media.pages.find? fun x => x.1 == n with
    | some x => s.moveBlock j (bulkBlock 2 0 (s.pageBytes n)) fun k p => { k with pages := [(n, some { x.2 with place := p })] }
    | none => some (s.endMove j ref)
  | .image num ver b => match (s.imageOf num ver).bind fun i => i.blocks[b]? with
    | some x => s.moveBlock j (bulkBlock 3 0 (s.imageData x.1)) fun k p => { k with image := some (num, ver, b, p) }
    | none => some (s.endMove j ref)
  | .journal _ _ => some (s.endMove j ref)
  | .parity _ _ => some (s.endMove j ref)
  | .system => some (s.endMove j ref)

/-- The content of a job that has been read: it stays with the job while slots or room do not last. -/
def State.jobContent (s : State) (j : Job) : State :=
  let j := { j with stage := .content, left := 0 }
  let s := s.setJob j
  let r := match j.kind with
    | .fold g _ => (match (s.group g).foldSeg with | some x => s.foldContent j g x | none => some (s.dropJob j.id))
    | .move ref => s.moveContent j ref
  r.getD s

-- ---------------------------------------------------------------- a job's operations (R208, R218, R220)

/-- The reads of a job are enqueued. -/
def State.startReads (s : State) (k : JobKind) (refs : List FlashRef) : State :=
  let id := s.media.nextJob
  let j := { mkJob id k with left := refs.length }
  let s := { s with media := { s.media with nextJob := id + 1, jobs := s.media.jobs ++ [j] } }
  if refs = [] then s.jobContent j
  else refs.foldl (fun a ref =>
    let n := a.refLun ref
    a.enqueue { mkOp .grinder .read n (n / 256) (a.unitNs (n / 32)) with ref := some ref, job := some id }) s

/-- The fold of a group's segment begins, when no job is under way and its reads have slots. -/
def State.startFold (s : State) (g : Nat) : State :=
  match (s.group g).foldSeg with
  | none => s
  | some x =>
    let units := s.segUnits g x.place
    if ¬ s.foldable g x ∨ s.activeJob.isSome ∨ s.jobWaits (.fold g x.seq) ∨ s.freeSlots .grinder < units.length then s
    else s.startReads (.fold g x.seq) (units.map fun u => .journal (Fin.ofNat 4 g) u)

/-- The move of what a reference names begins. -/
def State.startMove (s : State) (ref : FlashRef) : State :=
  if s.activeJob.isSome ∨ s.jobWaits (.move ref) ∨ s.freeSlots .grinder = 0 then s else s.startReads (.move ref) [ref]

/-- A read of a job has ended; the last one lets its content be written. A unit of a segment that was not read is lost to it. -/
def State.jobRead (s : State) (id : Nat) (ref : FlashRef) (good : Bool) : State :=
  match s.job id with
  | none => s
  | some j =>
    let lost := match ref, good with
      | .journal g u, false => natRange u (s.unitBlocks g)
      | _, _ => []
    let j := { j with left := j.left - 1, lost := j.lost ++ lost }
    match j.kind, good with
    | .move r, false => s.endMove j r
    | _, _ => if j.left = 0 then s.jobContent j else s.setJob j

/-- A program of a job has ended well. -/
def State.jobWrote (s : State) (id : Nat) : State :=
  match s.job id with
  | none => s
  | some j => if j.left ≤ 1 then s.jobProgrammed j else s.setJob { j with left := j.left - 1 }

/-- A job is given up until a later frame (R220): its operations that have not been issued leave the queue. -/
def State.giveUpJob (s : State) (id : Nat) : State :=
  match s.job id with
  | none => s
  | some j =>
    let s := s.setJob { mkJob id j.kind with stage := .dropped s.timer.frame }
    { s with media := { s.media with queue := s.media.queue.filter fun o => !(o.job == some id) || o.issued } }

/-- What a job has written at some places lies at others (R211). -/
def Job.mapPlaces (j : Job) (f : Nat → Nat) : Job :=
  { j with
    recs := j.recs.map fun (r : BulkRec) => { r with places := r.places.map f }
    pages := j.pages.map fun (x : Nat × Option PageImage) => (x.1, x.2.map fun p => { p with place := f p.place })
    image := j.image.map fun x => (x.1, x.2.1, x.2.2.1, f x.2.2.2) }

end Sys2Proof.Machine
end

