-- ==== Sys2Proof/Machine/MediaOps.lean ====
section
/-!
DEFINITION. The media queue at work: MEDIA_OP_ISSUE (R218, R221 to R223), what a completion or a timeout does (R38, R154, R164, R203, R211, R220), and the
end of a LUN's rebuild (R540).
-/

namespace Sys2Proof.Machine

-- ---------------------------------------------------------------- what an operation needs (R221, R222)

/-- The channel of an operation, and the rank of its issuer: lower is served first. The flush is all that the Percolator writes then (R221). -/
def MediaOp.chan (o : MediaOp) : Nat := o.lun / 32
def MediaOp.rank (o : MediaOp) : Nat :=
  match o.issuer with | .percolator => 1 | .egress => 2 | .barista => 3 | .grinder => 4

/-- Whether an operation is a foreground one. -/
def MediaOp.foreground (o : MediaOp) : Bool := decide (o.rank ≤ 2)

/-- Whether an operation runs inside the Grinder's reserve: the Grinder's own, the mirror of the log and raw sequences (R219, R222, R508). -/
def MediaOp.reserved (o : MediaOp) : Bool := o.issuer == .grinder || (o.issuer == .barista && (o.kind == .raw || o.area == .system))

/-- How many 4 KiB pieces the data of a Grinder's read or bulk program moves in; 0 for an operation that moves its data at once (R222). -/
def State.pieces (s : State) (o : MediaOp) : Nat :=
  if o.issuer = .grinder ∧ (o.kind = .read ∨ (o.kind = .program ∧ o.area = .bulk)) then (s.chan o.chan).sPg / 4096 else 0

/-- The bus time of a piece. -/
def State.pieceNs (s : State) (o : MediaOp) : Nat := ceilDiv (s.chan o.chan).tXfer (max 1 (s.pieces o))

/-- Whether an issued operation still has pieces to move: its LUN is not held by it (R222). -/
def State.pieceLeft (s : State) (o : MediaOp) : Bool := o.issued && decide (o.sent < s.pieces o)

/-- Whether another operation of the channel comes first: a better rank, or the same and enqueued before. -/
def State.servedBefore (s : State) (o : MediaOp) : Bool :=
  s.media.queue.any fun p => !p.issued && p.chan == o.chan && p.id != o.id && (decide (p.rank < o.rank) || (p.rank == o.rank && decide (p.id < o.id)))

/-- The operation that keeps a LUN busy. -/
def State.busyOp (s : State) (lun id : Nat) : Option MediaOp :=
  s.media.queue.find? fun p => p.lun == lun && p.issued && p.susp != 2 && !s.pieceLeft p && p.id != id

/-- Replaces an operation of the queue. -/
def State.setOp (s : State) (o : MediaOp) : State :=
  { s with media := { s.media with queue := s.media.queue.map fun p => if p.id = o.id then o else p } }

def State.setChan (s : State) (ch : Nat) (c : Chan) : State :=
  { s with media := { s.media with chans := Tab.put Chan.off ch c s.media.chans } }

/-- Bus time of the reserve is spent. -/
def State.spendReserve (s : State) (ch n : Nat) : State :=
  let c := s.chan ch
  s.setChan ch { c with reserve := c.reserve - n }

-- ---------------------------------------------------------------- issue (R218, R221 to R223)

/-- What must be left of the reserve for an operation to be issued: all its bus time, or the command and one piece. -/
def State.needNs (s : State) (o : MediaOp) : Nat := if s.pieces o = 0 then o.busNs else (s.chan o.chan).tCmd + s.pieceNs o

/-- Whether the reserve covers an operation that runs inside it. -/
def State.reserveCovers (s : State) (o : MediaOp) : Bool := !o.reserved || decide (s.needNs o ≤ (s.chan o.chan).reserve)

/-- As many pieces as the reserve covers are moved; the first take the command with them. -/
def State.sendPieces (s : State) (o : MediaOp) : State :=
  let cmd := if o.sent = 0 then (s.chan o.chan).tCmd else 0
  let each := max 1 (s.pieceNs o)
  let n := min (s.pieces o - o.sent) (((s.chan o.chan).reserve - cmd) / each)
  if n = 0 then s else (s.setOp { o with issued := true, sent := o.sent + n }).spendReserve o.chan (cmd + n * s.pieceNs o)

/-- A foreground operation on a LUN discards the pieces that a Grinder's operation has moved to it or from it (R222). -/
def State.discardPieces (s : State) (lun : Nat) : State :=
  { s with media := { s.media with queue := s.media.queue.map fun (p : MediaOp) => if p.lun = lun ∧ s.pieceLeft p then { p with sent := 0 } else p } }

/-- The first command byte goes out: the operation is issued, bus time of the reserve is spent, and the first segment header to be written ends
SAFE (R218, R222, R512). -/
def State.issueOp (s : State) (o : MediaOp) : State :=
  if s.pieces o ≠ 0 then s.sendPieces o
  else
    let s := s.discardPieces o.lun
    let s := s.setOp { o with issued := true }
    let s := if o.reserved then s.spendReserve o.chan o.busNs else s
    if (o.blocks.any fun b => b.2.kind == 4) ∧ ¬ s.failing then { s with barista := { s.barista with safe := false } } else s

/-- A suspended operation is resumed from the reserve when its LUN is free (R223). -/
def State.resumeOp (s : State) (o : MediaOp) : State :=
  let c := s.chan o.chan
  if (s.busyOp o.lun o.id).isNone ∧ c.tCmd ≤ c.reserve then (s.setOp { o with susp := 0 }).spendReserve o.chan c.tCmd else s

/-- Whether a LUN can suspend an operation: a program or an erase of the Grinder, as the parameter page declares (R223). -/
def State.suspends (s : State) (b : MediaOp) : Bool :=
  b.issuer == .grinder && b.susp == 0 &&
  ((b.kind == .program && (s.chan b.chan).suspProg) || (b.kind == .erase && (s.chan b.chan).suspErase))

/-- An operation's turn on its channel. A LUN that is busy with a Grinder's program or erase is asked to suspend it for a foreground operation, which is
issued when its turn comes again; otherwise the operation waits (R223). -/
def execMediaOpIssue (id : Nat) (s : State) : Host.Outcome State Fault Refusal :=
  match s.media.queue.find? fun o => o.id == id with
  | none => .next s
  | some o =>
    if o.susp = 2 then .next (s.resumeOp o)
    else if (o.issued ∧ ¬ s.pieceLeft o) ∨ s.servedBefore o ∨ ¬ s.reserveCovers o then .next s
    else match s.busyOp o.lun o.id with
    | none => .next (s.issueOp o)
    | some b => .next (if o.foreground ∧ s.suspends b then s.setOp { b with susp := 1 } else s)

-- ---------------------------------------------------------------- a programmed unit (R148, R152 to R154, R164)

/-- The image of a line for the set of a frame is programmed: that set's capture slot is freed, or its PEND bit cleared, and a deferred page may swap
(R148, R152, R153). -/
def State.lineDone (s : State) (frame pa : Nat) : State :=
  match s.perc.captures.find? fun c => c.pa == pa && c.frame == frame with
  | some c => { s with perc := { s.perc with captures := s.perc.captures.erase c } }.lateSwap (pa / 4096)
  | none =>
    let k := s.pageKey pa
    let pend := k.pend &&& ~~~ (1#16 <<< (pa / 256 % 16))
    let s := if k.pendFrame = frame then s.setPageKey (pa / 4096) { k with pend := pend, pendFrame := if pend = 0 then 0 else frame } else s
    s.lateSwap (pa / 4096)

/-- A block of a set is programmed; the last one completes the set (R164). -/
def State.setBlockDone (s : State) (b : Block) : State :=
  if b.setCount = 0 then s
  else match s.perc.sets.find? fun x => x.frame == b.setFrame with
  | none => s
  | some x =>
    let n := x.programmed + 1
    let s := s.setChange { x with programmed := n, complete := if x.nBlocks ≤ n ∧ x.complete = none then some s.timer.frame else x.complete }
    if x.nBlocks ≤ n then { s with perc := { s.perc with lastComplete := max s.perc.lastComplete b.setFrame } } else s

/-- What is read back of a reference is judged from now on as scrubbed (R213). -/
def State.stamp (s : State) (ref : FlashRef) : State :=
  { s with media := { s.media with scrubbed := (ref, s.timer.plantNs) :: s.media.scrubbed.filter fun x => x.1 != ref } }

/-- The line images of a block are programmed. -/
def State.linesDone (s : State) (b : Block) : State :=
  if b.kind = 2 then (b.descs.map Prod.fst).foldl (fun a pa => a.lineDone b.setFrame pa) s else s

/-- A program unit of the journal has been programmed. -/
def State.unitDone (s : State) (o : MediaOp) : State :=
  let x := s.group o.group
  let s := s.setGroup o.group { x with blocks := o.blocks.reverse ++ x.blocks }
  let s := o.blocks.foldl (fun a b => a.setBlockDone b.2) s
  let s := o.blocks.foldl (fun a b => a.linesDone b.2) s
  let s := { s with perc := { s.perc with dirty := s.perc.dirty - o.dirty } }
  let s := match o.blocks with | b :: _ => s.stamp (.journal (Fin.ofNat 4 o.group) b.1) | [] => s
  s.settle.dropSets

/-- A parity unit of the journal has been programmed: the reference names its row. -/
def State.parityDone (s : State) (o : MediaOp) : State :=
  match o.ref with
  | some (.parity g n) =>
    let x := s.group o.group
    (s.setGroup o.group { x with parity := (n, o.data) :: x.parity.filter fun p => p.1 != n }).stamp (.parity g n)
  | _ => s

-- ---------------------------------------------------------------- a programmed unit of bulk storage (R208, R233)

/-- An operation of an image's write has ended, with the operations that replace it; when every block is programmed the write completes (R233, R490). -/
def State.imageOpDone (s : State) (id : Nat) (more : List Nat) : State :=
  match s.egress.images.find? fun i => i.left.contains id with
  | none => s
  | some i =>
    let i := { i with left := i.left.filter (fun n => n != id) ++ more }
    let s := (s.setImage i).imageFill i.todo.length i
    match s.imageOf i.num i.version with
    | none => s
    | some j => if j.stored then s.answerWait PendStore.image 0 else s

/-- A unit of bulk storage has been programmed. -/
def State.bulkDone (s : State) (o : MediaOp) : State :=
  let m := s.media
  let s := if o.parity then
      match o.stripe with
      | some row => { s with media := { m with bulkParity := (row, o.data) :: m.bulkParity.filter fun p => p.1 != row } }
      | none => s
    else { s with media := { m with bulkBlocks := o.blocks.reverse ++ m.bulkBlocks } }
  match o.job with
  | some j => s.jobWrote j
  | none => s.imageOpDone o.id []

/-- A block of the event log has been programmed: its entries of 32 bytes, oldest first, join the mirror, whose oldest are overwritten (R508). -/
def State.logDone (s : State) (o : MediaOp) : State :=
  let rows := (natRange 0 (o.data.length / 32)).map fun i => let e := sliceZ o.data (32 * i) 32; (leField e 8 4, e)
  { s with log := { s.log with nand := (rows.reverse ++ s.log.nand).take 2097152 } }

/-- A program has ended well, by its area. -/
def State.programDone (s : State) (o : MediaOp) : State :=
  match o.area with
  | .journal => if o.parity then s.parityDone o else s.unitDone o
  | .bulk => s.bulkDone o
  | .system => if o.issuer = .barista then s.logDone o else (s.stamp .system).sysDone o.group

-- ---------------------------------------------------------------- failures (R211, R540)

/-- The multi-plane block of a LUN that an operation works on. -/
def State.opBlock (s : State) (o : MediaOp) : Nat :=
  let nb := (s.chan o.chan).nBlk
  let of := fun (st : Nat) => if nb = 0 then 0 else st % nb
  match o.area, o.kind with
  | .system, _ => of (o.stripe.getD 0)
  | _, .erase => (match o.stripe with | some n => of (if n < 2 ^ 20 then n + 2 else n - 2 ^ 20) | none => 0)
  | .bulk, _ => (match o.stripe, o.blocks with
    | some row, _ => s.bulkBlockNo (row / 2 ^ 20)
    | none, b :: _ => s.bulkBlockNo (b.1 / 2 ^ 20)
    | none, [] => 0)
  | .journal, _ => (match o.ref, o.moved, o.blocks with
    | some (.parity _ row), _, _ => of (row / 2 ^ 20 + 2)
    | _, some p, _ => of (s.stripeOf o.group p)
    | _, none, b :: _ => of (s.stripeOf o.group b.1)
    | _, none, [] => 0)

/-- A block is grown bad: it is logged, its stripe goes out of use and its content is to be moved, and more than 2 % of a LUN's blocks retire the LUN
(R211, R540). -/
def State.growBad (s : State) (o : MediaOp) : State :=
  let b := s.opBlock o
  let l := s.lun o.lun
  let l := { l with grownBad := if l.grownBad.contains b then l.grownBad else b :: l.grownBad }
  let s := ((s.setLun o.lun l).logEvent 0x0403 1 (leBytes 2 o.lun ++ [0, 0] ++ leBytes 4 b)).tableChanged
  let g := o.lun / 256
  let s := if l.role = 1 then
      let st := l.num * (s.chan o.chan).nBlk + b
      (s.queueMoves (if st < 2 then [] else s.journalRefs g (st - 2))).markStripes g
    else s.queueMoves (s.stripeRefs (bulkKey g (l.num * (s.chan o.chan).nBlk + b)))
  if l.blocks < 50 * l.grownBad.length then s.leaveService o.lun else s

/-- An error is posted to the Percolator, which writes the unit again (R38, R183, R211). -/
def State.postUnit (s : State) (o : MediaOp) : State :=
  { s with media := { s.media with posted := s.media.posted ++ [{ o with issued := false, susp := 0 }] } }

/-- A program of the journal that failed is written again once, at the group's next position; a parity unit has no other position (R183, R211;
log 43). -/
def State.unitFailed (s : State) (o : MediaOp) : State :=
  let s := s.growBad o
  if o.retried ∨ o.parity then s else s.postUnit { o with retried := true }

/-- The unit of bulk storage is written again at the next position; what it is for follows it there (R211). None where no room or slot is left. -/
def State.bulkAgain (s : State) (o : MediaOp) : Option State :=
  match s.bulkUnit o.issuer o.job (o.blocks.map Prod.snd) with
  | none => none
  | some (t, places) =>
    let old := o.blocks.map Prod.fst
    let f := fun (p : Nat) => match (old.zip places).find? fun x => x.1 == p with | some x => x.2 | none => p
    let ids := natRange s.media.nextOp (t.media.nextOp - s.media.nextOp)
    let t := { t with media := { t.media with queue := t.media.queue.map fun (p : MediaOp) => if ids.contains p.id then { p with retried := true } else p } }
    match o.job.bind t.job with
    | some j => some (t.setJob { j.mapPlaces f with left := j.left + ids.length - 1 })
    | none => match t.egress.images.find? fun i => i.left.contains o.id with
      | some i => some ((t.setImage { i with blocks := i.blocks.map fun x => (f x.1, x.2) }).imageOpDone o.id ids)
      | none => some t

/-- A job whose unit cannot be written is given up until a later frame; an image's write ends with the abort for the store (R490). -/
def State.bulkLost (s : State) (o : MediaOp) : State :=
  match o.job with
  | some j => s.giveUpJob j
  | none => match s.egress.images.find? fun i => i.left.contains o.id with
    | none => s
    | some i =>
      let images := s.egress.images.filter fun x => !(x.num == i.num && x.version == i.version)
      ({ s with egress := { s.egress with images := images } } : State).answerWait PendStore.image abStore

/-- A unit of bulk storage that failed, or timed out, is written again once; a row whose parity unit failed goes without. -/
def State.bulkRetry (s : State) (o : MediaOp) : State :=
  if o.parity then (match o.job with | some j => s.jobWrote j | none => s.imageOpDone o.id [])
  else if o.retried then s.bulkLost o
  else (s.bulkAgain o).getD (s.bulkLost o)

/-- A program has failed, by its area. -/
def State.programFailed (s : State) (o : MediaOp) : State :=
  match o.area with
  | .journal => s.unitFailed o
  | .bulk => (s.growBad o).bulkRetry o
  | .system => if o.issuer = .barista then s.growBad o else (s.growBad o).sysFailed

-- ---------------------------------------------------------------- erases (R206, R211, R220)

/-- One LUN's part of a stripe's erase has ended: 0 well, 1 timed out, 2 failed. The last one makes the stripe ready again, when all ended well. -/
def State.eraseEnd (s : State) (g stripe how : Nat) : State :=
  let x := s.group g
  match x.erasing.find? fun e => e.1 == stripe with
  | none => s
  | some e =>
    let worst := max e.2.2 how
    let rest := x.erasing.filter fun y => y.1 != stripe
    if 1 < e.2.1 then s.setGroup g { x with erasing := (stripe, e.2.1 - 1, worst) :: rest }
    else if worst ≠ 0 then s.setGroup g { x with erasing := rest }
    else if 2 ^ 20 ≤ stripe then
      let key := bulkKey g (stripe - 2 ^ 20)
      let s := s.setGroup g { x with erasing := rest }
      { s with media := { s.media with
          bulkUsed := s.media.bulkUsed.filter fun k => k != key
          bulkBlocks := s.media.bulkBlocks.filter fun b => b.1 / 2 ^ 20 != key
          bulkParity := s.media.bulkParity.filter fun b => b.1 / 2 ^ 20 != key } }
    else
      let lo := stripe * s.stripeUse g
      let hi := lo + s.stripeUse g
      let out := fun (p : Nat) => !(decide (lo ≤ p) && decide (p < hi))
      s.setGroup g { x with
        erasing := rest, used := x.used.filter fun i => i != stripe, blocks := x.blocks.filter fun b => out b.1
        parity := x.parity.filter fun p => p.1 / 2 ^ 20 != stripe, remap := x.remap.filter fun r => out r.1 }

/-- An erase that succeeded: the block's erase count rises and its reads start again (R205, R213). -/
def State.eraseDone (s : State) (o : MediaOp) : State :=
  let b := s.opBlock o
  let l := s.lun o.lun
  (s.setLun o.lun { l with erases := Tab.put 0 b (Tab.get 0 l.erases b + 1) l.erases, reads := Tab.erase b l.reads }).tableChanged

-- ---------------------------------------------------------------- reads (R203, R204, R213, R541)

/-- The stages of R203 that one codeword's decoding takes, and their time. -/
def tryStage : ReadTry → Nat
  | .hard => 1
  | .retry _ => 2
  | .soft => 3
  | .fail => 4
def tryNs (c : Chan) (t : ReadTry) : Nat :=
  let one := c.tR + c.tXfer + 2000
  let soft := 2 * (c.tR + c.tXfer) + 8000
  match t with
  | .hard => one
  | .retry n => one + min n c.levels * one
  | .soft => one + c.levels * one + soft
  | .fail => one + c.levels * one + soft

/-- The bytes that the rows of a reference and its parity hold, as their XOR: zero where the parity group can give back any one of its members. -/
def State.parityXor (s : State) (ref : FlashRef) : List Byte :=
  let bulk := fun (p : Nat) =>
    let row := s.bulkRow p
    xorBytes (match s.media.bulkParity.find? fun x => x.1 == row with | some x => x.2 | none => []) (s.bulkRowXor row)
  let journal := fun (g row : Nat) =>
    let x := s.group g
    let ub := s.unitBlocks g
    let first := row / 2 ^ 20 * s.stripeUse g + row % 2 ^ 20 * 7 * ub
    let par := match x.parity.find? fun p => p.1 == row with
      | some p => p.2
      | none => if s.parityGroup g (x.next - 1) = row then x.acc else []
    (natRange 0 7).foldl (fun l m => xorBytes l ((natRange (first + m * ub) ub).flatMap fun p =>
      match x.blockAt (s.heldPlace g p) with | some b => b.allBytes | none => zeros 4384)) par
  match ref with
  | .journal g p => journal g (s.parityGroup g (s.physPlace g p))
  | .parity g row => journal g row
  | .system => []
  | .bulk _ | .image _ _ _ | .page _ => match s.refPlace ref with | some p => bulk p | none => []

/-- The LUNs of the other members of a reference's stripe. -/
def State.otherLuns (s : State) (ref : FlashRef) : List Nat :=
  let n := s.refLun ref
  let set := fun (g st : Nat) => (natRange (8 * g) 8).map fun ch => s.journalLun ch (if (s.chan (8 * g)).nBlk = 0 then 0 else st / (s.chan (8 * g)).nBlk)
  (match ref with
  | .journal g p => set g (s.stripeOf g (s.physPlace g p))
  | .parity g row => set g (row / 2 ^ 20 + 2)
  | .system => set s.sysGroup 0
  | .bulk _ | .image _ _ _ | .page _ => match s.refPlace ref with | some p => s.bulkLuns (p / 2 ^ 20) | none => []).filter fun m => m != n

/-- The stage at which a read ends (R203): a LUN that is being rebuilt is read at stage 4 straight away (R540), which fails when a member comes to
stage 4 too, or the group's parity does not hold. -/
def State.readStage (s : State) (ref : FlashRef) (own : ReadTry) (members : List ReadTry) : Nat :=
  let direct := (s.lun (s.refLun ref)).rebuilding
  if ¬ direct ∧ tryStage own < 4 then tryStage own
  else if (members.all fun m => decide (tryStage m < 4)) ∧ ¬ ((s.otherLuns ref).any fun m => (s.lun m).rebuilding) ∧
      ((s.parityXor ref).all fun b => b == 0) then 4
  else 5

/-- The time that a read spends in stages 2 to 4 (R203, R204). -/
def State.recoveryNs (s : State) (ref : FlashRef) (own : ReadTry) (members : List ReadTry) : Nat :=
  let n := s.refLun ref
  let c := s.chan (n / 32)
  let slowest := members.foldl (fun m t => max m (tryNs c t)) 0 + 1000
  if (s.lun n).rebuilding then slowest
  else tryNs c own - tryNs c .hard + (if own = .fail then slowest else 0)

/-- The read-disturb limit of a LUN's cell mode (R213, R226). -/
def State.disturbLimit (s : State) (l : Lun) : Nat :=
  if l.slc ∨ l.bpc ≤ 1 then s.objNat (okey 0x0D00 5) 100000
  else if l.bpc = 3 then s.objNat (okey 0x0D00 6) 20000
  else s.objNat (okey 0x0D00 7) 10000

/-- What a read of a page leaves behind: channel counters, the block's read count, and the relocation queue (R204, R213, R226). `ns`: the time of
stages 2 to 4, which a foreground read takes beyond the planned units. -/
def State.readDone (s : State) (ref : FlashRef) (stage ns corrected : Nat) (fore : Bool) : State :=
  let n := s.refLun ref
  let ch := n / 32
  let b := s.refBlock ref
  let l := s.lun n
  let reads := Tab.get 0 l.reads b + 1
  let s := s.setLun n { l with reads := Tab.put 0 b reads l.reads }
  let s := if 2 ≤ stage then s.count (okey (0x0D20 + ch) 10) 1 else s
  let s := if 4 ≤ stage then s.count (okey (0x0D20 + ch) 11) 1 else s
  let s := if stage = 5 then s.count (okey (0x0D20 + ch) 13) 1 else s
  let s := if fore then
      let c := s.chan ch
      s.setChan ch { c with unplanned := (c.unplanned + ns) % 2 ^ 64 }
    else s
  if 2 ≤ stage ∨ s.objNat (okey 0x0D00 4) 80 < corrected ∨ s.disturbLimit l ≤ reads then s.queueMove ref else s

/-- Event 0x0A0A (R541). -/
def State.logLost (s : State) (ref : FlashRef) : State := s.logEvent 0x0A0A 3 (leBytes 2 (s.refLun ref) ++ [0, 0] ++ leBytes 4 (s.refBlock ref))

/-- A block of bulk storage is lost. -/
def State.dropBulkBlock (s : State) (ref : FlashRef) : State :=
  match s.refPlace ref with
  | some p => { s with media := { s.media with bulkBlocks := s.media.bulkBlocks.filter fun b => b.1 != p } }
  | none => s

/-- What no stage could read is lost (R39, R209, R541): blocks of the journal are left out when their segment is folded, a bulk record leaves the index, a
page is zero at the next recovery. Each loss of bulk storage is logged, and each while a LUN of the stripe is being rebuilt. -/
def State.readLost (s : State) (ref : FlashRef) : State :=
  let rebuilding := (s.refLun ref :: s.otherLuns ref).any fun m => (s.lun m).rebuilding
  match ref with
  | .journal g p =>
    let t := if rebuilding then s.logLost ref else s
    let x := t.group g
    let u := t.unitStart g p
    t.setGroup g { x with blocks := x.blocks.filter fun b => !(decide (u ≤ b.1) && decide (b.1 < u + t.unitBlocks g)) }
  | .parity g row =>
    let x := s.group g
    s.setGroup g { x with parity := x.parity.filter fun p => p.1 != row }
  | .bulk id => { (s.logLost ref).tableChanged with media := { s.tableChanged.media with bulk := s.media.bulk.filter fun x => x.id != id } }
  | .page _ => (s.logLost ref).dropBulkBlock ref
  | .image _ _ _ => (s.logLost ref).dropBulkBlock ref
  | .system => { s.tableChanged with media := { s.tableChanged.media with sysImages := Tab.erase s.sysGroup s.media.sysImages } }

/-- A completed egress read is kept for its reply. -/
def State.fetchedRef (s : State) (ref : FlashRef) (good : Bool) : State :=
  { s with egress := { s.egress with fetched := s.egress.fetched ++ [(ref, good)] } }

/-- The records of what a reference names. -/
def State.refRecords (s : State) : FlashRef → List (List Byte)
  | .journal g p => ((s.recordsAt g (natRange (s.unitStart g p) (s.unitBlocks g))).filter JRec.whole).map JRec.bytes
  | .bulk id => (s.media.bulk.filter fun b => b.id == id).map s.bulkBytes
  | _ => []

/-- Records read from flash are judged at point 4; the flash stays as it is (R129, R139). -/
def State.judgeFlash (s : State) (l : List (List Byte)) : State := l.foldl (fun a x => (a.verifyAt 4 x).1) s

/-- A read is handed to what asked for it: a reply, a job, or the scrub. -/
def State.readTo (s : State) (o : MediaOp) (ref : FlashRef) (good : Bool) : State :=
  match o.issuer, o.job with
  | .egress, _ => s.fetchedRef ref good
  | _, some j => s.jobRead j ref good
  | _, none => if good then (s.judgeFlash (s.refRecords ref)).stamp ref else s

/-- A read has ended at a stage of R203. A read of an older place of what has moved since changes nothing but its slot. -/
def State.readEnd (s : State) (o : MediaOp) (ref : FlashRef) (own : ReadTry) (members : List ReadTry) (corrected : Nat) : State :=
  let stage := s.readStage ref own members
  let s := s.readDone ref stage (s.recoveryNs ref own members) corrected o.foreground
  (if stage = 5 then s.readLost ref else s).readTo o ref (stage != 5)

-- ---------------------------------------------------------------- completion (R218)

/-- An operation leaves the queue: its slot is free again. -/
def State.dropOp (s : State) (id : Nat) : State :=
  { s with media := { s.media with queue := s.media.queue.filter fun o => o.id != id } }

/-- A suspended operation of a LUN that has become free is resumed if the reserve allows (R223). -/
def State.resumeOn (s : State) (lun : Nat) : State :=
  match s.media.queue.find? fun o => o.lun == lun && o.susp == 2 with
  | some o => s.resumeOp o
  | none => s

/-- A raw sequence ends (R219): the status byte, and the bytes of a read. -/
def State.rawDone (s : State) (status : Byte) (data : List Byte) : State :=
  let s := s.roSet (okey 0x0D60 7) status.toNat
  if s.objNat (okey 0x0D60 4) 0 = 2 then { s with obj := Tab.put [] (okey 0x0D60 5) (data.take 65536) s.obj } else s

/-- The effect of a completion, by kind and result; a result that the kind cannot have changes nothing. -/
def State.complete (s : State) (o : MediaOp) (res : MediaResult) (data : List Byte) : Option State :=
  let t := s.dropOp o.id
  match o.kind, res with
  | .program, .done _ => some (t.programDone o)
  | .program, .failed => some (t.programFailed o)
  | .erase, .done _ => some (match o.stripe with | some st => (t.eraseDone o).eraseEnd o.group st 0 | none => t)
  | .erase, .failed => some (match o.stripe with | some st => (t.growBad o).eraseEnd o.group st 2 | none => t)
  | .read, .read own members corrected => some (match o.ref with | some ref => t.readEnd o ref own members corrected | none => t)
  | .raw, .done status => some (t.rawDone status data)
  | _, _ => none

/-- A suspend ends well: the LUN is free for the foreground operation (R223). -/
def State.suspendDone (s : State) (o : MediaOp) (res : MediaResult) : State :=
  match res with
  | .done _ => s.setOp { o with susp := 2 }
  | _ => s

-- ---------------------------------------------------------------- timeouts (R38, R220)

/-- Three timeouts within 1,000 frames take a LUN out of service, and it is retired under die parity (R220, R540). -/
def State.countTimeout (s : State) (n : Nat) : State :=
  let l := s.lun n
  let ts := s.timer.frame :: l.timeouts.filter fun f => decide (s.timer.frame < f + 1000)
  let s := (s.setLun n { l with timeouts := ts }).count (okey 0x0D70 4) 1 32
  if 3 ≤ ts.length ∧ l.state = 1 then (s.logEvent 0x0406 2 (leBytes 2 n)).leaveService n else s

/-- A read that timed out: an egress read has given no data; a job, or a scrub, is given up until a later frame. -/
def State.readTimedOut (s : State) (o : MediaOp) (ref : FlashRef) : State :=
  match o.issuer, o.job with
  | .egress, _ => s.fetchedRef ref false
  | _, some j => s.giveUpJob j
  | _, none =>
    let j := { mkJob s.media.nextJob (.move ref) with stage := .dropped s.timer.frame }
    { s with media := { s.media with nextJob := s.media.nextJob + 1, jobs := s.media.jobs ++ [j] } }

/-- The error is posted and the slot returned; its issuer receives it (R38, R220). -/
def State.opError (s : State) (o : MediaOp) : State :=
  let s := s.dropOp o.id
  match o.kind, o.area with
  | .program, .journal => s.postUnit o
  | .program, .bulk => (match o.job with | some j => s.giveUpJob j | none => s.bulkRetry o)
  | .program, .system => if o.issuer = .barista then s else s.sysFailed
  | .erase, _ => (match o.stripe with | some st => s.eraseEnd o.group st 1 | none => s)
  | .read, _ => (match o.ref with | some ref => s.readTimedOut o ref | none => s)
  | .raw, _ => s.roSet (okey 0x0D60 7) 0x4000

-- ---------------------------------------------------------------- the end of a rebuild (R540)

/-- The channel's next unused LUN of a role (R200). -/
def State.unusedLun (s : State) (ch role : Nat) : Option Nat :=
  let sets := if role = 1 then (s.group (ch / 8)).sets else s.bulkSets (ch / 8)
  (natRange (32 * ch) 32).find? fun m => (s.lun m).role == role && (s.lun m).state == 1 && decide (sets ≤ (s.lun m).num)

/-- The stripes of a LUN's set are re-formed with the channel's next unused LUN of its role; where there is none, they stay out of use. -/
def State.reform (s : State) (n role num : Nat) : State :=
  let ch := n / 32
  let s := match s.unusedLun ch role with
    | some m => s.setLun m { s.lun m with num := num }
    | none => s
  s.markStripes (ch / 8)

/-- The rebuild ends once nothing of the LUN is left: state 3, role 0, event 0x0A09; the retired LUN enters the field repair map (R526, R540). -/
def execLunRebuildComplete (n : Nat) (s : State) : Host.Outcome State Fault Refusal :=
  let x := s.lun n
  if ¬ x.rebuilding ∨ s.failing ∨ s.lunRefs n ≠ [] ∨ (s.media.queue.any fun o => o.lun == n) then .next s
  else
    let s := s.setLun n { x with state := 3, role := 0, rebuilding := false, num := 4096 }
    let s := (s.reform n x.role x.num).refreshL (n / 32)
    let s := { s with
      repair := { s.repair with luns := s.repair.luns ++ [n] }
      obj := Tab.erase (wkey 0x0D08 2 n) s.obj, nor := Tab.erase (wkey 0x0D08 2 n) s.nor }
    .next (s.tableChanged.logEvent 0x0A09 1 (leBytes 2 n))

end Sys2Proof.Machine
end

