-- ==== Sys2Proof/Machine/Timer.lean ====
section
/-!
DEFINITION. The time source of the frame timer (R46, R48, R49): the PTP slave with its choice of a port, 1PPS_IN, holdover; and 1PPS_OUT (R50).
-/

namespace Sys2Proof.Machine

/-- The time source selected (R48). -/
def State.timeSource (s : State) : Nat := s.objNat (okey 0x0400 4) 0

/-- The largest frequency correction: 200 ppm of the period (R46). -/
def maxSlew (period : Nat) : Nat := period / 5000

/-- The frequency correction that the timer settles on: at most 200 ppm either way; its value is free (R46). -/
def slewOf (f period : Nat) : Int := (f % (2 * maxSlew period + 1) : Nat) - (maxSlew period : Nat)

/-- One sync interval: the offset is taken, the timer leaves free running or holdover for acquiring, and counts the intervals inside the lock
threshold. Plant time steps only while acquiring with no plan (R46, R49, R51). -/
def State.syncTo (s : State) (offset : Int) : State :=
  let t := s.timer
  let st := if t.srcState = 0 ∨ t.srcState = 3 then 1 else t.srcState
  let n := if t.srcState = 0 ∨ t.srcState = 3 then 0 else t.lockCount
  let n := if offset.natAbs ≤ s.objNat (okey 0x0400 10) 100 then n + 1 else 0
  let now := if st = 1 ∧ s.section.isNone then ((t.plantNs : Int) - offset).toNat else t.plantNs
  { s.drawn with timer := { t with
      srcState := st, offset := offset, lockCount := n, plantNs := now, holdLogged := false, freq := slewOf s.freeVal t.period } }

/-- Whether a port belongs to the set of a time source: the field ports for 1 and 2, the 100G ports for 3 and 4 (R48). -/
def portOfSource (src : Nat) : NetPort → Bool
  | .field _ => src == 1 || src == 2
  | .eth _ => src == 3 || src == 4

/-- A PTP message arrives on an open port of the selected set, under the source's profile and in its domain (R48). -/
def State.ptpTaken (s : State) (m : PtpFacts) : Bool :=
  let src := s.timeSource
  s.netOpen m.port && portOfSource src m.port && m.profile.toNat == 2 - src % 2 &&
  m.domain.toNat == (if src % 2 = 1 then s.objNat (okey 0x0400 9) 0 else 0)

/-- The terms of the data set comparison in their order of weight, the smaller the better (R48; log 67). -/
def announceRank (a : Announce) : List Nat :=
  [a.priority1.toNat, a.clockClass.toNat, a.accuracy.toNat, a.variance.toNat, a.priority2.toNat, a.identity.toNat, a.steps.toNat, a.sender.toNat]

/-- Lexicographic order of two lists of one length. -/
def rankLt : List Nat → List Nat → Bool
  | a :: s, b :: t => decide (a < b) || (decide (a = b) && rankLt s t)
  | _, _ => false

/-- The port whose Announce is the best. -/
def bestPort : List (NetPort × Announce) → Option (NetPort × Announce)
  | [] => none
  | x :: t => match bestPort t with
    | none => some x
    | some y => some (if rankLt (announceRank y.2) (announceRank x.2) then y else x)

/-- An Announce: the newest of its port stands, and the best master clock algorithm chooses the port anew, within the selected set (R48). -/
def State.announced (s : State) (port : NetPort) (a : Announce) : State :=
  let l := (port, a) :: s.timer.announces.filter fun x => x.1 != port && portOfSource s.timeSource x.1
  { s with timer := { s.timer with announces := l, master := (bestPort l).map fun x => x.1 } }

/-- A sync interval ends on the chosen port: the slave asks for the delay of the path, by the mechanism of its profile, and takes the offset (R48,
R49; log 67). -/
def State.ptpSync (s : State) (port : NetPort) (offset : Int) : State :=
  if s.timer.master ≠ some port then s
  else ({ s with out := s.out ++ [.delayRequest port (s.timeSource % 2 == 0)] } : State).syncTo offset

/-- A PTP message. A 100G port discards and counts one that no selected source takes from it (R86); management and what is not known is ignored. -/
def execPtpMessage (m : PtpFacts) (s : State) : Host.Outcome State Fault Refusal :=
  if ¬ s.netOpen m.port then .next s
  else if s.ptpTaken m then
    match m.kind with
    | .announce a => .next (s.announced m.port a)
    | .sync off => .next (s.ptpSync m.port off)
    | .management | .unknown => .next s
  else if s.timeSource = 3 ∨ s.timeSource = 4 then .next s
  else .next (s.discard m.port)

/-- A rising edge of 1PPS_IN under source 5. -/
def execPpsInEdge (offset : Int) (s : State) : Host.Outcome State Fault Refusal :=
  if s.barista.stage = .up ∧ s.timeSource = 5 then .next (s.syncTo offset) else .next s

/-- The state becomes locked after 16 consecutive intervals inside the threshold (R49). -/
def execSourceLocked (s : State) : Host.Outcome State Fault Refusal :=
  if s.timer.srcState = 1 ∧ 16 ≤ s.timer.lockCount then .next { s with timer := { s.timer with srcState := 2 } } else .next s

/-- The source is lost: holdover, with the last frequency correction (R49). The ports are chosen anew when masters announce themselves again. -/
def execSourceLost (s : State) : Host.Outcome State Fault Refusal :=
  if s.timer.srcState = 1 ∨ s.timer.srcState = 2 then
    .next { s with timer := { s.timer with
      srcState := 3, lockCount := 0, holdLogged := false, holdNs := s.timer.plantNs, announces := [], master := none } }
  else .next s

/-- The 8 bytes of an I64. -/
def i64Bytes (x : Int) : List Byte := leBytes 8 (BitVec.ofInt 64 x).toNat

/-- Whether holdover has outlasted 0x0400.08, in ms (R49). -/
def State.heldTooLong (s : State) : Bool :=
  s.timer.srcState == 3 && decide (s.timer.holdNs + 1000000 * s.objNat (okey 0x0400 8) 10000 < s.timer.plantNs)

/-- Holdover outlasts its limit: logged once, and nothing stops (R49). -/
def execHoldoverExpiry (s : State) : Host.Outcome State Fault Refusal :=
  if s.heldTooLong ∧ ¬ s.timer.holdLogged then
    let s := s.logEvent 0x0101 1 (i64Bytes s.timer.offset)
    .next { s with timer := { s.timer with holdLogged := true } }
  else .next s

/-- The whole second that plant time has reached by the end of the running frame (R50). -/
def State.secondReached (s : State) : Nat := (s.timer.plantNs + s.timer.period - 1) / 1000000000

/-- 1PPS_OUT rises once for each whole second that plant time reaches; a width of 0 holds it low (R50). -/
def execPpsOut (s : State) : Host.Outcome State Fault Refusal :=
  if s.timer.running ∧ s.timer.ppsSecond ≠ some s.secondReached ∧ s.timer.plantNs ≤ 1000000000 * s.secondReached then
    .next { s with timer := { s.timer with ppsOut := s.objNat (okey 0x0400 11) 100000 != 0, ppsSecond := some s.secondReached } }
  else .next s

end Sys2Proof.Machine
end

