-- ==== Sys2Proof/Machine/Dictionary.lean ====
section
/-!
DEFINITION. The object dictionary (16): the table of objects (R465 to R469, R491), the windows, and what a read returns.
-/

namespace Sys2Proof.Machine

-- ---------------------------------------------------------------- types and rows (R466, R467)

/-- The types of R467 that objects of this manual have. -/
inductive OType where
  | bool | i16 | i32 | i64 | u8 | u16 | u32 | u64 | f32
  | vstr
  | ostr (n : Nat)
  | domain (max : Nat)
deriving DecidableEq, Repr

/-- The size of a fixed-size type. -/
def OType.size : OType → Option Nat
  | .bool => some 1 | .u8 => some 1
  | .i16 => some 2 | .u16 => some 2
  | .i32 => some 4 | .u32 => some 4 | .f32 => some 4
  | .i64 => some 8 | .u64 => some 8
  | .ostr n => some n
  | .vstr => none
  | .domain _ => none

/-- The largest value of a type, in bytes. -/
def OType.max : OType → Nat
  | .vstr => 255
  | .domain n => n
  | t => t.size.getD 0

/-- Access codes. -/
inductive OAcc where
  | ro | rw | wo | const | rc
deriving DecidableEq, Repr

/-- A row of the dictionary: `n` indexes from `index` on, `m` subindexes from `sub` on, with type, access, the minimum rings for reads and for
writes, persistence and a numeric default. -/
structure ORow where
  index : Nat
  n : Nat
  sub : Nat
  m : Nat
  ty : OType
  acc : OAcc
  rr : Nat
  rw : Nat
  pers : Bool
  dflt : Nat
deriving DecidableEq, Repr

/-- Rows of ring 0: read-only, read-write, persistent, write-only. -/
def rRO (i s : Nat) (t : OType) (n : Nat := 1) (m : Nat := 1) : ORow := ⟨i, n, s, m, t, .ro, 0, 0, false, 0⟩
def rRW (i s : Nat) (t : OType) (d : Nat) (n : Nat := 1) (m : Nat := 1) : ORow := ⟨i, n, s, m, t, .rw, 0, 0, false, d⟩
def rP (i s : Nat) (t : OType) (d : Nat) (n : Nat := 1) (m : Nat := 1) : ORow := ⟨i, n, s, m, t, .rw, 0, 0, true, d⟩
def rWO (i s : Nat) (t : OType) (n : Nat := 1) (m : Nat := 1) (p : Bool := false) : ORow := ⟨i, n, s, m, t, .wo, 0, 0, p, 0⟩

/-- A row with ring 3 for reads and ring 0 for writes. -/
def ORow.open3 (r : ORow) : ORow := { r with rr := 3 }

/-- A row with minimum ring 3. -/
def r3 (i s : Nat) (t : OType) (a : OAcc) (n : Nat := 1) (m : Nat := 1) : ORow := ⟨i, n, s, m, t, a, 3, 3, false, 0⟩

/-- Types and identity (R469, R492). -/
def rowsIdentity : List ORow := [
  r3 0x0001 1 .u16 .const 15, r3 0x0001 2 .vstr .const 15,
  r3 0x0100 1 .vstr .const 1 2, r3 0x0100 3 .vstr .ro, r3 0x0100 4 .u64 .ro, r3 0x0100 5 .vstr .const,
  r3 0x0101 1 .u16 .const, r3 0x0101 2 .u32 .ro 1 3, r3 0x0102 1 .vstr .const]

/-- Communication and ports (R486, R87, R104). -/
def rowsPorts : List ORow := [
  rP 0x0200 1 .u16 46230, rP 0x0200 2 .u16 60, rRO 0x0200 3 .u8, rRO 0x0200 4 .u32 1 2,
  rP 0x0201 1 .u16 46228,
  rP 0x0204 1 .u8 0 2, rP 0x0204 2 (.ostr 6) 0 2, rP 0x0204 3 .u32 0 2, rP 0x0204 4 (.ostr 16) 0 2, rP 0x0204 5 .u16 0 2, rRO 0x0204 6 .u8 2,
  rP 0x0206 1 .u8 1, rP 0x0206 2 .u16 500, rP 0x0206 3 .u16 2000, rP 0x0206 4 .bool 1, rRO 0x0206 5 .u8, rRO 0x0206 6 .u32,
  rWO 0x0208 1 (.ostr 32) 1 4 true,
  rP 0x0210 1 .u8 0 4, rP 0x0210 2 .u8 1 4, rP 0x0210 3 (.ostr 6) 0 4, rP 0x0210 4 .u32 0 4, rP 0x0210 5 (.ostr 16) 0 4, rRO 0x0210 6 .u8 4,
  rRO 0x0220 1 .u64 4 12, rRO 0x0220 0x10 .u64 4 10, rRO 0x0220 0x1C .u64 4, rRO 0x0220 0x20 .u64 4 4]

/-- Frames, plans and the dispatcher (R51, R63, R73, R76, R441). -/
def rowsFrames : List ORow := [
  rRO 0x0400 1 .u32, rRW 0x0400 2 .u32 250000, rRO 0x0400 3 .u64, rRW 0x0400 4 .u8 0, rRW 0x0400 5 .u32 0, rRO 0x0400 6 .u8, rRO 0x0400 7 .i64,
  rRW 0x0400 8 .u32 10000, rRW 0x0400 9 .u8 0, rRW 0x0400 10 .u32 100, rRW 0x0400 11 .u32 100000,
  rRO 0x0410 1 (.domain 4194304), rRO 0x0410 2 .u32, rRO 0x0410 3 .u8, rRO 0x0410 4 .u64,
  rWO 0x0411 1 (.domain 4194304), rWO 0x0412 1 .u8, rRO 0x0412 2 .u8, rRO 0x0412 3 .u64,
  rRO 0x0418 1 .u16, rRO 0x0418 2 .u8, rRO 0x0418 3 .u16, rRO 0x0418 4 .u64 1 2, rRO 0x0418 6 .u32, rRO 0x0418 7 .u64, rRO 0x0418 8 .u8,
  rRO 0x0420 1 .u32 2 64, { rRO 0x0422 1 .u32 2 64 with acc := .rc },
  r3 0x0430 1 .u32 .const 1 48, r3 0x0430 49 .u32 .ro 1 16]

/-- Partners, classes, keys, tags (R97, R101, R140, R493). -/
def rowsPartners : List ORow := [
  rRW 0x0800 1 .u8 0 64, rRW 0x0800 2 .u8 0 64, rRW 0x0800 3 .u8 1 64, rRW 0x0800 4 .bool 0 64, rRW 0x0800 5 .u8 0 64,
  rRO 0x0840 1 .u64 64 2,
  rRW 0x0900 1 .u32 0, rP 0x0900 2 (.ostr 64) 0, rP 0x0900 3 (.ostr 34) 0, rRO 0x0900 4 .u32, rRO 0x0901 1 .u32,
  rRW 0x0A00 1 .u16 0, rWO 0x0A00 2 (.ostr 32) 1 1 true, rRO 0x0A00 3 .u8, rWO 0x0A00 4 .u8 1 1 true,
  rRO 0x0A10 1 .u64 2 5, rRO 0x0A12 1 .u8 1 2, rRO 0x0A12 3 .u32, rRO 0x0A12 4 .u64 1 2, rRO 0x0A12 6 .u32, rRO 0x0A12 7 .u64]

/-- Memory, durability and the Carafe (R167, R175, R261). -/
def rowsMemory : List ORow := [
  rP 0x0A30 1 .u16 6400 2, rRO 0x0A30 2 .u16 2, rRO 0x0A30 3 .u64 2, rRO 0x0A30 4 .u8 2 2, rRO 0x0A30 6 .u64 2 3,
  rP 0x0A38 1 .u32 4, rP 0x0A38 2 .u32 24, rRO 0x0A38 3 .u64 1 5, rRO 0x0A38 8 .u32,
  rP 0x0C00 1 .u64 0, rWO 0x0C00 2 .u8, rP 0x0C00 3 .u32 0, rRO 0x0C00 4 .u16, rRO 0x0C00 5 .u64 1 3, rRO 0x0C00 8 .u32 1 2, rRO 0x0C00 10 .u8,
  rRO 0x0C00 11 .u32,
  rP 0x0C10 1 .f32 0x40C00000, rP 0x0C10 2 .f32 0x3BA3D70A, rP 0x0C10 3 .f32 0x3F59999A, rP 0x0C10 4 .f32 0x40E00000, rP 0x0C10 5 .f32 0x41000000,
  rP 0x0C10 6 .f32 0, rP 0x0C10 7 .f32 0, rP 0x0C10 8 .u32 600, rP 0x0C10 9 .u32 1000, rP 0x0C10 10 .f32 0x3F000000, rP 0x0C10 11 .f32 0,
  rRO 0x0C20 1 .u64 1 3, rRO 0x0C20 4 .f32 1 4, rRO 0x0C20 8 .u64, rRO 0x0C20 9 .f32]

/-- Media, retention and egress (R214, R226, R242). -/
def rowsMedia : List ORow := [
  rP 0x0D00 1 .u16 3600, rRO 0x0D00 2 .u8, rP 0x0D00 3 .u32 168, rP 0x0D00 4 .u16 80, rP 0x0D00 5 .u32 100000, rP 0x0D00 6 .u32 20000,
  rP 0x0D00 7 .u32 10000, rRO 0x0D00 8 .u64 1 2,
  rP 0x0D01 1 .u32 0 1 3, rP 0x0D01 4 .u16 0, rP 0x0D01 5 .u32 30000 1 2,
  rRW 0x0D08 1 .u16 0, rP 0x0D08 2 .u8 0, rP 0x0D08 3 .bool 0, rRO 0x0D08 4 .u8 1 2, rRO 0x0D08 6 .u32, rRO 0x0D08 7 .u8,
  rRO 0x0D20 1 .u8 32, rRO 0x0D20 2 .u32 32 6, rRO 0x0D20 8 .u8 32, rRO 0x0D20 9 .u16 32, rRO 0x0D20 10 .u64 32 4,
  rP 0x0D40 1 .u32 0 16, rRO 0x0D40 2 .u64 16,
  rRW 0x0D60 1 .u16 0, rRW 0x0D60 2 (.ostr 8) 0 1 2, rRW 0x0D60 4 .u8 0, rRW 0x0D60 5 (.domain 65536) 0, rWO 0x0D60 6 .u8, rRO 0x0D60 7 .u16,
  rRO 0x0D70 1 .u16 1 3, rRO 0x0D70 4 .u32, rRO 0x0D78 1 .u32 1 8,
  rRW 0x0E01 1 .u16 0, rRO 0x0E01 2 .u32 1 2, rWO 0x0E01 4 (.domain 268435456), rWO 0x0E01 5 .u8, rP 0x0E01 6 .bool 0,
  rP 0x0E02 1 .u64 0 1 2, rP 0x0E10 1 .u64 0, rP 0x0E10 2 .u16 64, rP 0x0E20 1 .u8 4 64, rRO 0x0E60 1 .u64 4 4]

/-- Barista, update, repair, power, debug, microcode, images (R460, R494, R497, R504, R510, R511, R513, R521, R542, R551, R556, R571). -/
def rowsBarista : List ORow := [
  (rRO 0x1000 1 .i16 1 25).open3, (rP 0x1001 1 .i16 1050).open3, (rP 0x1001 2 .i16 1100).open3, (rRO 0x1002 1 .u16 1 8).open3,
  (rRO 0x1002 9 .u32).open3, (rRO 0x1002 10 .i32).open3, (rP 0x1003 1 .u16 0 1 16).open3, (rRO 0x1004 1 .u64 1 2).open3,
  (rRO 0x1010 1 .u32 1 2).open3, (rRW 0x1010 3 .u32 0).open3, (rRO 0x1010 4 (.ostr 32)).open3, (rRO 0x1010 5 (.domain 4096)).open3,
  (rRO 0x1010 6 .u32).open3, (rP 0x1010 7 .u8 2).open3,
  rRO 0x1020 1 .u8, rWO 0x1020 2 .u8, rRO 0x1020 3 .u32,
  rP 0x1030 1 .u64 (2 ^ 64 - 1), rWO 0x1030 2 .u64 1 2,
  rWO 0x1100 1 (.domain 8388608), rRO 0x1100 2 .u8 1 3, rRO 0x1100 5 .u32 1 2, rRO 0x1100 7 .u64, rWO 0x1100 8 .u8, rRO 0x1100 9 .u8 1 3,
  (rRO 0x1200 1 .u8 1 2).open3, (rRO 0x1200 3 .u64).open3, (rRO 0x1200 4 .u8 1 2).open3, (rRO 0x1200 6 .u64).open3, (rRO 0x1200 7 .u8).open3,
  (rWO 0x1200 8 .u8).open3, (rWO 0x1200 11 .u16).open3, (rRO 0x1201 1 .u8 1 64).open3, (rRO 0x1202 1 .u8 1 68).open3,
  (rRO 0x1203 1 .u16 1 4).open3,
  (rRW 0x1300 1 .u8 0).open3, (rRO 0x1300 2 .u8).open3, (rWO 0x1300 3 .u8).open3, (rRO 0x1300 4 .u32).open3,
  rP 0x1301 1 .u8 0, rRO 0x1301 2 .u16, rRO 0x1301 3 .u32, rP 0x1310 1 .bool 0, rRO 0x1310 2 .u32,
  rRO 0x1400 1 .u32, rWO 0x1400 2 (.domain (2 ^ 32)), rRO 0x1400 3 .u8, rRO 0x1400 4 .u16 1 2, rWO 0x1400 6 .u16,
  rRO 0x1402 1 .u32, rRO 0x1402 2 .u8 1 2, rRO 0x1402 4 .u16,
  rRW 0x2000 1 (.domain 1048576) 0 4096, rP 0x2000 2 (.ostr 208) 0 4096, rRO 0x2000 3 .u32 4096,
  ⟨0x4000, 0x4000, 1, 1, .domain 65536, .rw, 1, 1, true, 0⟩]

/-- The dictionary (R491). -/
def dictionary : List ORow :=
  rowsIdentity ++ rowsPorts ++ rowsFrames ++ rowsPartners ++ rowsMemory ++ rowsMedia ++ rowsBarista

/-- Whether a row holds an index, and an object. -/
def ORow.hasIndex (r : ORow) (i : Nat) : Bool := decide (r.index ≤ i) && decide (i < r.index + r.n)
def ORow.has (r : ORow) (i sub : Nat) : Bool := r.hasIndex i && decide (r.sub ≤ sub) && decide (sub < r.sub + r.m)

/-- The row of an object; subindex 0 of a defined index is CONST, of minimum ring 3 (R465). -/
def objRow (i sub : Nat) : Option ORow :=
  if sub = 0 then
    (match dictionary.find? fun r => r.hasIndex i with
    | some _ => some (r3 i 0 .u8 .const)
    | none => none)
  else dictionary.find? fun r => r.has i sub

/-- Whether an index is defined. -/
def indexDefined (i : Nat) : Bool := dictionary.any fun r => r.hasIndex i

/-- The highest subindex of an index. -/
def topSub (i : Nat) : Nat := (dictionary.filter fun r => r.hasIndex i).foldl (fun m r => max m (r.sub + r.m - 1)) 0

-- ---------------------------------------------------------------- windows

/-- The selection of the window that an object belongs to: partner, key slot, LUN, image, domain. -/
def State.window (s : State) (i sub : Nat) : Option Nat :=
  let pick := fun (lo hi : Nat) => if lo ≤ sub ∧ sub ≤ hi then some (s.objNat (okey i 1) 0) else none
  if i = 0x0900 then pick 2 3
  else if i = 0x0A00 then pick 2 4
  else if i = 0x0D08 then pick 2 7
  else if i = 0x0E01 then pick 2 6
  else if i = 0x1300 then pick 2 4
  else none

/-- The key under which an object's value is held. -/
def State.keyFor (s : State) (i sub : Nat) : Nat :=
  match s.window i sub with
  | some w => wkey i sub w
  | none => okey i sub

-- ---------------------------------------------------------------- values of read-only objects

/-- Identity, ports, sessions. -/
def State.liveIdentity (s : State) (i sub : Nat) : Option Nat :=
  if i = 0x0100 then some s.barista.serial
  else if i = 0x0101 then some ([1, s.barista.firmware, s.barista.golden, s.barista.rom].getD (sub - 1) 0)
  else if i = 0x0200 ∧ sub = 3 then some (s.zdp.sessions.filter fun x => x.isOpen).length
  else none

/-- The frame timer, plans and the dispatcher. 0x0410.02 shows the Plan ID field of the section that is active: while that is the degraded section, its
own (DESIGN CHOICE, log 57). -/
def State.liveFrames (s : State) (i sub : Nat) : Option Nat :=
  let p := s.plans
  let x := s.lcore (sub - 1)
  if i = 0x0400 then
    (if sub = 1 then some (if s.section.isSome then s.timer.period else s.objNat (okey 0x0400 2) 250000)
    else if sub = 3 then some s.timer.frame
    else if sub = 6 then some s.timer.srcState
    else if sub = 7 then some (BitVec.ofInt 64 s.timer.offset).toNat
    else none)
  else if i = 0x0410 then some (if sub = 2 then (match s.section with | some x => x.id | none => 0) else if sub = 3 then p.state else p.switchFrame)
  else if i = 0x0412 then some (if sub = 2 then p.shadowState else if p.shadowState = 2 then s.switchAt (leField p.pending 20 4) (p.pendingFrame - s.timer.frame) else 0)
  else if i = 0x0418 then some (p.refusal.getD (sub - 1) 0)
  else if i = 0x0420 then some x.overrun
  else if i = 0x0421 then some x.miss
  else if i = 0x0422 then some x.peak
  else if i = 0x0423 then some x.excess
  else if i = 0x0430 then some (s.cycles (sub - 1))
  else none

/-- Partners, keys, memory and durability. -/
def State.liveMemory (s : State) (i sub : Nat) : Option Nat :=
  if i = 0x0900 then some (s.adm.partners.filter fun x => x.2.en && x.2.isOpen).length
  else if i = 0x0901 then some (if s.adm.epoch = 0 then 1 else s.adm.epoch)
  else if i = 0x0A00 then some (if Tab.get [] s.adm.keys (s.objNat (okey 0x0A00 1) 0) = [] then 0 else 1)
  else if i = 0x0A38 ∧ sub = 8 then some s.poison.length
  else if i = 0x0C00 then
    (if sub = 4 then some s.perc.captures.length
    else if sub = 5 then some s.perc.lastComplete
    else if sub = 6 then some s.unfoldedBytes
    else if sub = 7 then some (4096 * (s.keys.filter fun x => s.durable (4096 * x.1)).length)
    else if sub = 8 then some s.perc.misses
    else if sub = 9 then some s.perc.deferrals
    else if sub = 10 then some s.perc.close
    else some s.perc.recoveryMs)
  else if i = 0x0C20 then
    (if sub = 1 then some s.carafe.bMax
    else if sub = 2 then some s.carafe.bFloor
    else if sub = 3 then some s.carafe.dirtyAtTick
    else if sub = 8 then some s.carafe.lastTestFrame
    else if sub = 4 then some s.carafe.vUseF.toNat
    else if sub = 5 then some s.cFarad.f32.toNat
    else if sub = 6 then some s.carafe.eAvailF.toNat
    else if sub = 7 then some s.carafe.eFixedF.toNat
    else some s.carafe.lastDropF.toNat)
  else none

/-- Whether a LUN that has a role does not serve it (0x0D00.02 = 2; log 51). -/
def Lun.lame (l : Lun) : Bool := (l.role == 1 || l.role == 2) && l.state != 1

/-- Life left on the most-erased block, in percent of the declared endurance (R212). -/
def Lun.life (l : Lun) : Nat := 100 - (if l.endurance = 0 then 0 else min 100 (100 * l.erases.foldl (fun m x => max m x.2) 0 / l.endurance))

/-- Media, queue and images. -/
def State.liveMedia (s : State) (i sub : Nat) : Option Nat :=
  if i = 0x0D00 then
    (if sub = 2 then some (if ¬ s.media.present then 0 else if s.media.luns.any fun x => x.2.lame then 2 else 1)
    else if sub = 8 then some s.journalCap
    else some s.headroomMin)
  else if i = 0x0D08 then
    (let l := s.lun (s.objNat (okey 0x0D08 1) 0)
    some (if sub = 4 then l.state else if sub = 5 then l.bpc else if sub = 6 then l.grownBad.length else l.life))
  else if 0x0D20 ≤ i ∧ i < 0x0D40 then
    (let c := s.chan (i - 0x0D20)
    if sub < 10 then some ([c.l, c.sPg, c.tXfer, c.tCmd, c.tProg, c.tR, c.tSusp, c.iface, c.rate].getD (sub - 1) 0)
    else if sub = 12 then some c.unplanned
    else none)
  else if i = 0x0D60 then
    some ((s.roGet (okey 0x0D60 7) % 2 ^ 15) + (if s.media.queue.any fun o => o.kind == .raw then 2 ^ 15 else 0))
  else if i = 0x0D70 ∧ sub = 3 ∧ ¬ s.timer.running then some 4096
  else if i = 0x0E01 then
    (let n := s.objNat (okey 0x0E01 1) 0
    let v := s.currentVersion n
    some (if sub = 2 then v else match s.imageAt n v with | some x => x.length | none => 0))
  else none

/-- The spare rows left of a kind of SRAM (R542). -/
def State.rowsLeft (s : State) (kind banks : Nat) : Nat := banks * rowSpares kind - (s.repair.rows.filter fun r => r.kind == kind).length

/-- The good physical cores. -/
def State.goodCores (s : State) : List Nat := (natRange 0 68).filter fun c => !s.repair.retired.contains c

/-- Barista, update and repair. -/
def State.liveBarista (s : State) (i sub : Nat) : Option Nat :=
  let b := s.barista
  if i = 0x1002 ∧ sub = 9 then some b.bankMv
  else if i = 0x1002 ∧ sub = 10 then some (BitVec.ofInt 32 b.bankMa).toNat
  else if i = 0x1004 then some (s.power.good.toNat / 2 ^ (64 * (sub - 1)) % 2 ^ 64)
  else if i = 0x1010 then
    (if sub = 1 then some ((s.log.nextSeq + 2 ^ 32 - 1) % 2 ^ 32)
    else if sub = 2 then some (match s.log.ring.getLast? with | some e => e.1 | none => 0)
    else some (s.log.lost % 2 ^ 32))
  else if i = 0x1020 then some (if sub = 1 then b.lastReset else b.bootMs)
  else if i = 0x1100 then
    (let ver := fun (x : Slot) => if x.state = 0 then 0 else x.version
    if sub = 2 then some b.running
    else if sub = 3 then some b.slotA.state
    else if sub = 4 then some b.slotB.state
    else if sub = 5 then some (ver b.slotA)
    else if sub = 6 then some (ver b.slotB)
    else if sub = 7 then some b.rollback
    else if sub = 10 then some (if b.slotA.state = 3 then b.slotA.attempts else if b.slotB.state = 3 then b.slotB.attempts else 0)
    else if sub = 11 then some (128 - b.counter.length)
    else none)
  else none

/-- Repair, power and microcode. -/
def State.liveRepair (s : State) (i sub : Nat) : Option Nat :=
  if i = 0x1200 then
    (if sub = 1 then some s.repair.ship
    else if sub = 2 then some s.nGood
    else if sub = 3 then some (sumOf (fun c => if c < 64 then 2 ^ c else 0) s.goodCores)
    else if sub = 4 then some (sumOf (fun c => if c < 64 then 0 else 2 ^ (c - 64)) s.goodCores)
    else if sub = 5 then some ((natRange 0 68).filter s.spareReady).length
    else if sub = 7 then some (128 - s.repair.fuses.length)
    else none)
  else if i = 0x1201 then some (match (s.lcore (sub - 1)).carrier with | some c => if sub - 1 < s.nl then c else 0xFF | none => 0xFF)
  else if i = 0x1202 then
    (let c := sub - 1
    some (if s.repair.retired.contains c then 4
      else if (s.carries c).isSome then 0
      else match (s.core c).state with | .carrying => 0 | .ready => 1 | .underTest => 2 | .held => 3 | .retired => 4))
  else if i = 0x1203 then
    (if sub = 1 then some (s.rowsLeft 2 16) else if sub = 2 then some (s.rowsLeft 3 2) else if sub = 3 then some (s.rowsLeft 4 17) else none)
  else if i = 0x1300 then
    (let d := s.objNat (okey 0x1300 1) 0
    some (if sub = 2 then s.domain d else Tab.get 0 s.power.trans d))
  else if i = 0x1400 then (if sub = 1 then some (if s.micro.loaded = 0 then 0 else s.micro.imageId) else if sub = 5 then some s.micro.loaded.toNat else none)
  else none

/-- The number that a read-only object shows: a live figure, or the counter held in its own right. -/
def State.roValue (s : State) (i sub : Nat) : Nat :=
  match s.liveIdentity i sub, s.liveFrames i sub, s.liveMemory i sub, s.liveMedia i sub, s.liveBarista i sub, s.liveRepair i sub with
  | some v, _, _, _, _, _ => v
  | _, some v, _, _, _, _ => v
  | _, _, some v, _, _, _ => v
  | _, _, _, some v, _, _ => v
  | _, _, _, _, some v, _ => v
  | _, _, _, _, _, some v => v
  | _, _, _, _, _, _ => s.roGet (okey i sub)

-- ---------------------------------------------------------------- values of any object

/-- The size in bits and the name of a type (R467, R469). -/
def typeFacts (code : Nat) : Nat × String :=
  [(0, ""), (8, "BOOL"), (8, "I8"), (16, "I16"), (32, "I32"), (8, "U8"), (16, "U16"), (32, "U32"), (32, "F32"), (0, "VSTR"), (0, "OSTR(n)"),
    (0, "DOMAIN"), (64, "F64"), (64, "I64"), (64, "U64"), (0, "DEC(n)")].getD code (0, "")

/-- The strings of the dictionary. -/
def State.stringOf (s : State) (i sub : Nat) : String :=
  if i < 0x0010 then (typeFacts i).2
  else if i = 0x0102 then "B0"
  else if sub = 1 then "Craend Silicon"
  else if sub = 2 then "TX-6440"
  else if sub = 3 then (if s.barista.ec then "TX-6440-EC" else "TX-6440-EI")
  else "Tyxivex"

/-- An entry of the log ring by sequence, or 32 zero bytes (R510). -/
def State.logAt (s : State) (seq : Nat) : List Byte :=
  match s.log.ring.find? fun e => e.1 == seq % 2 ^ 32 with
  | some e => e.2
  | none => zeros 32

/-- The default of a read-write object. MAC addresses come from OTP. -/
def State.dfltBytes (s : State) (i sub : Nat) (r : ORow) : List Byte :=
  match r.ty with
  | .ostr n => sliceZ (Tab.get [] s.barista.otp (okey i sub)) 0 n
  | .domain _ => []
  | .vstr => []
  | t =>
    let n := t.size.getD 0
    let d := if i = 0x1001 ∧ sub = 1 ∧ s.barista.ec then 950
      else if i = 0x1003 then (if sub ≤ 8 then railLow (sub - 1) else railHigh (sub - 9))
      else if i = 0x0C10 ∧ sub = 6 then s.eByteDefault
      else r.dflt
    leBytes n d

/-- The octets of a read-only OSTR or DOMAIN, and of the objects that have a home of their own. -/
def State.homeBytes (s : State) (i sub : Nat) : Option (List Byte) :=
  if i = 0x0410 ∧ sub = 1 then some s.plans.active
  else if i = 0x0900 ∧ sub = 2 then some (s.partner (s.objNat (okey 0x0900 1) 0)).bytes
  else if i = 0x0900 ∧ sub = 3 then some ((s.partner (s.objNat (okey 0x0900 1) 0)).bytes.take 34)
  else if i = 0x1010 ∧ sub = 4 then some (s.logAt (s.objNat (okey 0x1010 3) 0))
  else if i = 0x1010 ∧ sub = 5 then some ((natRange 0 128).flatMap fun k => s.logAt (s.objNat (okey 0x1010 3) 0 + k))
  else if 0x2000 ≤ i ∧ i < 0x3000 ∧ sub = 1 then some (Tab.get [] s.domains i)
  else if 0x2000 ≤ i ∧ i < 0x3000 ∧ sub = 3 then some (leBytes 4 (Tab.get [] s.domains i).length)
  else none

/-- The value of an object, as a read returns it. -/
def State.readObject (s : State) (i sub : Nat) (r : ORow) : List Byte :=
  if sub = 0 then [BitVec.ofNat 8 (topSub i)]
  else match s.homeBytes i sub with
  | some l => l
  | none =>
    match r.ty with
    | .vstr => ascii (s.stringOf i sub)
    | t =>
      if r.acc = .rw then s.objGet (s.keyFor i sub) (s.dfltBytes i sub r)
      else if i < 0x0010 then leBytes 2 (typeFacts i).1
      else leBytes (t.size.getD 0) (s.roValue i sub)

/-- A read of an RC object clears it (R63). -/
def State.afterRead (s : State) (i sub : Nat) : State :=
  if i = 0x0422 then s.modLcore (sub - 1) fun x => { x with peak := 0 }
  else if i = 0x0423 then s.modLcore (sub - 1) fun x => { x with excess := 0 }
  else s

end Sys2Proof.Machine
end

