-- ==== Sys2Proof/Machine/ObjectHavoc.lean ====
section
/-!
DEFINITION. What an undefined case of the dictionary does (R7, R8, R10, R219, R498): everything that the session can write takes any value, and the
machine goes on (log 7). Fuses, the anti-rollback counter and the event log stay as they are.
-/

namespace Sys2Proof.Machine

/-- Free bytes for an object of a type: a DOMAIN of any length that it can have. -/
def undefinedValue (u key : Nat) (t : OType) : List Byte :=
  let n := match t.size with | some n => n | none => Config.undefinedBits u (2 ^ 70 + key) % (t.max + 1)
  undefinedBytes u (2 ^ 71 + 2 ^ 32 * key) n

/-- A value is held under a key, with its persistent copy. -/
def State.holdValue (s : State) (key : Nat) (v : List Byte) (pers : Bool) : State :=
  { s with obj := Tab.put [] key v s.obj, nor := if pers then Tab.put [] key v s.nor else s.nor }

/-- The keys that the values of an object are held under: one for each selection of its window. -/
def valueKeys (i sub : Nat) : List Nat :=
  if i = 0x0D08 ∧ 2 ≤ sub then (natRange 0 1024).map (wkey i sub)
  else if i = 0x0E01 ∧ 2 ≤ sub then (natRange 0 256).map (wkey i sub)
  else [okey i sub]

/-- The objects that hold a value of their own and that a ring may write, as their keys. -/
def ORow.freeKeys (r : ORow) : List Nat :=
  if r.acc ≠ .rw ∨ (r.index = 0x0900 ∧ 2 ≤ r.sub) ∨ (r.index = 0x2000 ∧ r.sub = 1) then []
  else (natRange r.index r.n).flatMap fun i => (natRange r.sub r.m).flatMap (valueKeys i)

/-- Every object that a ring may write takes any value. -/
def State.havocValues (s : State) (ring u : Nat) : State :=
  (dictionary.filter fun r => decide (ring ≤ r.rw)).foldl
    (fun t r => r.freeKeys.foldl (fun t k => t.holdValue k (undefinedValue u k r.ty) r.pers) t) s

/-- An entry with its reserved fields zero (R10, R96). -/
def Partner.clean (p : Partner) : Partner :=
  { p with
    vlan := p.vlan &&& 0x8FFF#16, keySlot := p.keySlot &&& 0x0FFF#16, portMask := p.portMask &&& 0x0F#8, flags := p.flags &&& 0x03#8
    status := p.status &&& 0x07#8 }

/-- The partner table takes any values, with its persistent copies (R97). -/
def State.havocPartners (s : State) (u : Nat) : State :=
  (natRange 0 131072).foldl (fun t n =>
    let p := (Partner.ofBytes (undefinedBytes u (2 ^ 72 + 64 * n) 64)).clean
    { t.setPartner n p with nor := Tab.put [] (wkey 0x0900 3 n) (p.bytes.take 34) t.nor }) s

/-- The keys and the ring credentials do (R484, R493): a slot may come to be empty. -/
def State.havocKeySlots (s : State) (u : Nat) : State :=
  let key := fun (n : Nat) => if natBit (Config.undefinedBits u (2 ^ 73 + n)) 0 then undefinedBytes u (2 ^ 74 + 32 * n) 32 else []
  let s := (natRange 0 4096).foldl (fun t n =>
    { t with adm := { t.adm with keys := Tab.put [] n (key n) t.adm.keys }, nor := Tab.put [] (wkey 0x0A00 2 n) (key n) t.nor }) s
  (natRange 1 4).foldl (fun t r => t.holdValue (okey 0x0208 r) (undefinedBytes u (2 ^ 75 + 32 * r) 32) true) s

/-- The program images do (R494). -/
def State.havocImages (s : State) (u : Nat) : State :=
  (natRange 0x2000 4096).foldl (fun t i => { t with domains := Tab.put [] i (undefinedValue u (okey i 1) (.domain 1048576)) t.domains }) s

/-- What write-only objects reach does: the shadow plan, the slot that is not running, the microcode, cores to retire, shutdowns, interrupts, the
domains of port engines (R76, R176, R459, R511, R513, R519, R540, R542, R551). -/
def State.havocCommands (s : State) (u : Nat) : State :=
  let f := fun (i : Nat) => Config.undefinedBits u (2 ^ 76 + i)
  let some_ := fun (i : Nat) => natBit (f i) 0
  let b := s.barista
  let slot : Slot := ⟨f 0 % 4, f 1 % 2 ^ 32, f 2 % 2 ^ 64, f 3 % 4, undefinedValue u 1 (.domain 8388608)⟩
  let s := { s with
    plans := { s.plans with
      shadow := undefinedValue u 2 (.domain 4194304), shadowState := f 4 % 3, pending := undefinedValue u 3 (.domain 4194304)
      pendingFrame := f 5 % 2 ^ 64, pendPlaced := false }
    barista := if b.running = 0 then { b with slotB := slot } else { b with slotA := slot }
    micro := { s.micro with
      loading := if some_ 6 then some (undefinedValue u 4 (.domain 4194304)) else none, loadStage := f 7 % 3
      unloadDue := BitVec.ofNat 16 (f 8) }
    pf := { s.pf with shutdownAsked := some_ 9, restart := some_ 10 }
    repair := { s.repair with retireDue := (s.goodCores.filter fun c => natBit (f 11) c).map fun c => (c, 3) } }
  let s := (natRange 0 4).foldl (fun t p => if some_ (12 + p) then t.setDomain (101 + p) (f (16 + p) % 3) else t) s
  (natRange 0 68).foldl (fun t c =>
    let k := t.core c
    t.setCore c { k with nmiPend := some_ (100 + c), ipend := (k.ipend &&& 0xFFFF#17) ||| (BitVec.ofNat 17 (f (200 + c)) &&& 0x10000#17) }) s

/-- A block with any content. -/
def Block.havoc (b : Block) (u i : Nat) : Block :=
  let f := fun (j : Nat) => Config.undefinedBits u (2 ^ 77 + 2 ^ 16 * i + j)
  { b with
    kind := f 0 % 256, flags := BitVec.ofNat 8 (f 1), index := f 2 % 2 ^ 32, setIndex := f 3 % 2 ^ 32, setCount := f 4 % 2 ^ 32, epoch := f 5 % 2 ^ 32
    setFrame := f 6 % 2 ^ 64, startMap := BitVec.ofNat 64 (f 7)
    descs := b.descs.map fun x => (f 8 % 2 ^ 40, x.2 ^^^ BitVec.ofNat 64 (f 9))
    data := undefinedBytes u (2 ^ 78 + 8192 * i) 4096 }

/-- What a LUN holds takes any value: a raw sequence programs, erases or reconfigures it while it is in service (R219). -/
def State.havocLun (s : State) (n u : Nat) : State :=
  let g := n / 256
  let x := s.group g
  let s := s.setGroup g { x with
    blocks := x.blocks.map fun b => if s.placeLun g b.1 = n then (b.1, b.2.havoc u b.1) else b
    parity := x.parity.map fun p => if s.parityLun g p.1 = n then (p.1, undefinedBytes u (2 ^ 79 + 2 ^ 20 * p.1) p.2.length) else p }
  { s with media := { s.media with
      bulkBlocks := s.media.bulkBlocks.map fun b => if s.bulkLunAt b.1 = n then (b.1, b.2.havoc u (2 ^ 50 + b.1)) else b
      bulkParity := s.media.bulkParity.map fun p =>
        if s.bulkParityLun p.1 = n then (p.1, undefinedBytes u (2 ^ 80 + 2 ^ 20 * p.1) p.2.length) else p } }

/-- An undefined case that a session of a ring meets. -/
def State.havocObjects (s : State) (ring : Nat) : State :=
  let u := s.freeCtr
  let t := ({ s with freeCtr := u + 1 } : State).havocValues ring u
  if ring ≠ 0 then t
  else
    let t := (((t.havocPartners u).havocKeySlots u).havocImages u).havocCommands u
    (natRange 0 1024).foldl (fun a n => if (a.lun n).state = 1 then a.havocLun n u else a) t

end Sys2Proof.Machine
end

