-- ==== Sys2Proof/Machine/Objects.lean ====
section
/-!
DEFINITION. Writes to objects: the checks of R468 and R470 in their order, the objects' own rules, and the effects that R474 ties to a write's
point of effect; with them the rows that are a write of one object.
-/

namespace Sys2Proof.Machine

/-- What the checks of a write decide: it goes on, it goes on and is answered later, it is aborted, or it is an undefined case. -/
inductive WriteRes where
  | ok (s : State)
  | wait (s : State)
  | abort (s : State) (code : Nat)
  | undef

-- ---------------------------------------------------------------- length, type and range (R468)

/-- Whether an index is a customer object (R497). -/
def customer (i : Nat) : Bool := decide (0x4000 ≤ i) && decide (i < 0x8000)

/-- The length and type rules of R468, for an object of an index. -/
def typeAbort (i : Nat) (t : OType) (v : List Byte) : Option Nat :=
  match t with
  | .domain m =>
    if i = 0x0411 then none
    else if m < v.length then some (if i = 0x0E01 then abRange else abLength)
    else if v = [] ∧ ¬ customer i then some abRange
    else none
  | .vstr => if 255 < v.length then some abLength else none
  | .bool => if v.length ≠ 1 then some abLength else if 1 < leNat v then some abRange else none
  | .f32 => if v.length ≠ 4 then some abLength else if 0x7F800000 < leNat v % 2 ^ 31 then some abRange else none
  | t => if v.length ≠ t.size.getD 0 then some abLength else none

/-- Whether a number lies in a range. -/
def within (lo hi n : Nat) : Bool := decide (lo ≤ n) && decide (n ≤ hi)

/-- The ranges that the objects' tables state: first index, indexes, subindex and the values allowed (R51, R87, R97, R101, R167, R175, R226,
R242, R261, R486, R493, R504, R510, R513, R521, R542, R551, R556). -/
def ranges : List (Nat × Nat × Nat × (Nat → Bool)) := [
  (0x0200, 1, 2, within 10 3600), (0x0204, 2, 1, within 0 2), (0x0206, 1, 1, within 0 31),
  (0x0206, 1, 2, fun n => [125, 250, 500, 1000].contains n), (0x0210, 4, 1, within 0 4), (0x0210, 4, 2, within 0 1),
  (0x0400, 1, 2, periodOk), (0x0400, 1, 4, within 0 5), (0x0400, 1, 11, within 0 500000), (0x0412, 1, 1, within 1 2),
  (0x0800, 64, 1, within 0 1), (0x0800, 64, 2, within 0 1), (0x0800, 64, 3, within 0 2), (0x0800, 64, 5, within 0 15),
  (0x0900, 1, 1, within 0 131071), (0x0A00, 1, 1, within 0 4095), (0x0A00, 1, 4, within 1 1), (0x0A38, 1, 1, within 1 3600)] ++ [
  (0x0A38, 1, 2, within 1 168), (0x0C00, 1, 1, fun n => n % 4096 == 0), (0x0C00, 1, 2, within 1 1), (0x0C00, 1, 3, within 0 268435456),
  (0x0C10, 1, 3, within 0x3F000000 0x3F800000), (0x0C10, 1, 9, within 100 10000), (0x0D08, 1, 1, within 0 1023), (0x0D08, 1, 2, within 0 2),
  (0x0D60, 1, 1, within 0 1023), (0x0D60, 1, 4, within 0 2), (0x0D60, 1, 6, within 1 1), (0x0E01, 1, 1, within 0 255), (0x0E01, 1, 5, within 1 1),
  (0x0E02, 1, 1, fun n => n % 4096 == 0), (0x0E10, 1, 1, fun n => n % 4096 == 0), (0x0E10, 1, 2, within 1 4095)] ++ [
  (0x0E20, 64, 1, within 1 255), (0x1010, 1, 7, within 0 3), (0x1020, 1, 2, within 1 1), (0x1100, 1, 8, within 1 3), (0x1200, 1, 8, within 0 67),
  (0x1200, 1, 11, within 0 1023), (0x1300, 1, 1, within 0 111), (0x1301, 1, 1, within 0 127)]

/-- A binary32 pattern that is no NaN, as a number that orders as its values do. -/
def f32Order (v : Nat) : Int := if v < 2 ^ 31 then v else -((v - 2 ^ 31 : Nat) : Int)

/-- Ranges that depend on other objects: the CAN data rate, the phase offset, V_warn, e_byte (R174), the thermal thresholds. -/
def State.rangeBy (s : State) (i sub n : Nat) : Bool :=
  if i = 0x0206 ∧ sub = 3 then
    (let r := s.objNat (okey 0x0206 2) 500
    n == r || ([1000, 2000, 4000, 5000, 8000].contains n && decide (r ≤ n)))
  else if i = 0x0400 ∧ sub = 5 then decide (n < s.timer.period)
  else if i = 0x0C10 ∧ sub = 5 then decide (f32Order (s.objNat (okey 0x0C10 4) 0x40E00000) < f32Order n)
  else if i = 0x0C10 ∧ sub = 6 then decide (f32Order s.eByteDefault ≤ f32Order n)
  else if i = 0x1001 ∧ sub = 1 then decide (0 ≤ i16 n) && decide (i16 n ≤ 1140)
  else if i = 0x1001 ∧ sub = 2 then decide (s.warnLimit < i16 n) && decide (i16 n ≤ 1140)
  else true

/-- Whether a value lies in the range of its object. -/
def State.valueInRange (s : State) (i sub n : Nat) : Bool :=
  (match ranges.find? fun r => decide (r.1 ≤ i) && decide (i < r.1 + r.2.1) && r.2.2.1 == sub with
    | some r => r.2.2.2 n
    | none => true) && s.rangeBy i sub n

-- ---------------------------------------------------------------- the shadow plan (R73 to R77)

/-- A refusal of the shadow object that names no section. -/
def shadowRef (code offset : Nat) : RefusalRec := ⟨code, 0, 0xFFFF, none, none, offset⟩

/-- A refused shadow write: the shadow becomes empty (R75). -/
def State.refuseShadow (s : State) (r : RefusalRec) : WriteRes :=
  .abort (({ s with plans := { s.plans with shadow := [], shadowState := 0 } } : State).putRefusal r 1) abPlan

/-- A DOMAIN of more than 4 MiB, or a transfer that announces one (R75, R479). -/
def State.refuseLong (s : State) : WriteRes :=
  if s.plans.shadowState = 2 then .abort (s.putRefusal (shadowRef 0x0A03 0) 1) abPlan else s.refuseShadow (shadowRef 0x0103 8)

/-- The shadow write (R75). -/
def State.writeShadow (s : State) (v : List Byte) : WriteRes :=
  if s.plans.shadowState = 2 ∨ 4194304 < v.length then s.refuseLong
  else match s.checkPlan v none with
  | .undefined => .undef
  | .refused r => s.refuseShadow r
  | .admitted => .ok ({ s with plans := { s.plans with shadow := v, shadowState := 1 } } : State).clearRefusal

/-- Command 1 of 0x0412.01 (R76). -/
def State.commitPlan (s : State) : WriteRes :=
  if s.plans.shadowState = 2 then .abort (s.putRefusal (shadowRef 0x0A03 0) 2) abPlan
  else if s.plans.shadowState = 0 then .abort (s.putRefusal (shadowRef 0x0A01 0) 2) abPlan
  else match s.checkPlan s.plans.shadow s.section with
  | .undefined => .undef
  | .refused r => .abort (s.putRefusal r 2) abPlan
  | .admitted =>
    let p := parseSection s.plans.shadow 0 false
    match s.inFlight p with
    | some r => .abort (s.putRefusal r 2) abPlan
    | none => .ok ({ s with plans := { s.plans with
        shadowState := 2, pending := s.plans.shadow, pendPlaced := false, pendingFrame := s.timer.frame + 2 } } : State).clearRefusal

/-- Command 2 of 0x0412.01 (R76). -/
def State.discardShadow (s : State) : WriteRes :=
  if s.plans.shadowState = 2 then .abort (s.putRefusal (shadowRef 0x0A03 0) 3) abPlan
  else .ok { s with plans := { s.plans with shadow := [], shadowState := 0 } }

-- ---------------------------------------------------------------- partner entries (R96 to R99)

/-- Whether the configuration part of an entry sets a reserved field. -/
def configReserved (v : List Byte) : Bool :=
  decide (leField v 24 2 / 4096 % 8 ≠ 0) || decide (leField v 26 2 / 4096 ≠ 0) || decide (leField v 32 1 / 16 ≠ 0) ||
  decide (leField v 33 1 / 4 ≠ 0)

/-- Whether the guarded part does. -/
def guardedReserved (v : List Byte) : Bool := decide (leField v 42 1 / 8 ≠ 0) || decide (leField v 43 1 ≠ 0)

/-- Guarded fields of an EN 0-to-1 transition (R98). -/
def Partner.enabled (p : Partner) : Partner :=
  { p with e := 0, aDur := 0xFF#8, status := p.status &&& 0xFB#8, ackSeq := 0, tS := 0, tD := 0 }

/-- The void that the next tick owes a disabled entry is made at once (R98). -/
def State.voidNow (s : State) (n : Nat) : State :=
  if s.adm.voidPend.contains n then
    let s := s.voidGrants n
    { s with adm := { s.adm with voidPend := s.adm.voidPend.filter (· != n) } }
  else s

/-- A write of an entry's configuration, with the effects of a change of EN (R98). -/
def State.configPartner (s : State) (n : Nat) (v : List Byte) : State :=
  let was := (s.partner n).en
  let new := fun (s : State) => Partner.ofBytes (sliceZ v 0 34 ++ (s.partner n).bytes.drop 34)
  let now := (new s).en
  if ¬ was ∧ now then
    let s := s.voidNow n
    let s := s.setPartner n (new s).enabled
    { s with adm := { s.adm with ackDone := s.adm.ackDone.filter (· != n) } }
  else
    let s := s.setPartner n (new s)
    if was ∧ ¬ now ∧ ¬ s.adm.voidPend.contains n then { s with adm := { s.adm with voidPend := n :: s.adm.voidPend } } else s

-- ---------------------------------------------------------------- objects in use (R79, R199, R494)

/-- Whether a plan DOMAIN names an image in a task of either section. -/
def planNames (d : List Byte) (img : Nat) : Bool :=
  let has := fun (base : Nat) (deg : Bool) => (parseSection d base deg).tasks.any fun t => t.image == img
  d != [] && (has 0 false || (leField d 56 4 != 0 && has (leField d 56 4) true))

/-- Whether the active plan or the admitted shadow references an image (R79). -/
def State.imageInUse (s : State) (img : Nat) : Bool :=
  (s.plans.state != 2 && planNames s.plans.active img) || (s.plans.shadowState != 0 && planNames s.plans.shadow img)

/-- Whether a LUN holds unfolded journal, bulk records or the durable image (R199). -/
def State.lunHolds (s : State) (n : Nat) : Bool := s.lunRefs n != []

/-- Whether a role or SLC-flag write would remove a LUN from its role (R198, R199). -/
def State.roleLost (s : State) (sub n v : Nat) : Bool :=
  let l := s.lun n
  s.lunHolds n && (if sub = 2 then l.role != v else l.role == 1 && l.bpc != 1 && v == 0)

-- ---------------------------------------------------------------- program images (R494, R495)

/-- Whether an image DOMAIN's header and placement are as R494 has them. -/
def imageGood (v : List Byte) : Bool :=
  let f := fun o n => leField v o n
  let size := v.length - 32
  decide (32 ≤ v.length) && f 0 4 == 0x54585047 && f 4 2 == 1 && f 6 2 == 32 && f 8 4 == v.length &&
  f 12 4 == crc 0 (patch v 12 (zeros 4)) && decide (f 16 1 ≤ 1) && f 20 4 % 8 == 0 && f 24 4 % 4 == 0 && f 28 4 % 8 == 0 &&
  decide (f 20 4 + size ≤ (if f 16 1 = 0 then 0x10000 else 0xFF800)) && decide (f 28 4 + 208 ≤ 0xFF800)

/-- Whether a descriptor set writes a reserved field, or a reserved bit of a descriptor register (R10, R286, R495). -/
def setReserved (v : List Byte) : Bool :=
  decide (16 ≤ leField v 12 1) || !allZero (sliceZ v 13 3) ||
  (natRange 0 16).any fun k => (natRange 0 3).any fun j =>
    decide ((BitVec.ofNat 32 (leField v (16 + 12 * k + 4 * j) 4) : Word) &&& srReserved (0x100 + 4 * k + j) ≠ 0)

/-- The rule of an image or a descriptor set. -/
def State.programImage (s : State) (i sub : Nat) (v : List Byte) : WriteRes :=
  if s.imageInUse i then .abort s abInUse
  else if sub = 1 then
    (if ¬ imageGood v then .abort s abImage
    else if ¬ allZero (sliceZ v 17 3) then .undef
    else .ok s)
  else if setReserved v then .undef
  else .ok s

/-- The bytes of all customer objects but one. -/
def State.customerBytes (s : State) (i : Nat) : Nat :=
  sumOf (fun (x : Nat × List Byte) => if customer (x.1 / 256) ∧ x.1 / 256 ≠ i then x.2.length else 0) s.obj

-- ---------------------------------------------------------------- boot images (R233, R234)

/-- The stored versions of an image. -/
def State.versions (s : State) (num : Nat) : List BootImage := s.egress.images.filter fun i => i.num == num

/-- The blocks that bulk storage can still take: the rest of the open stripe, and the erased stripes (R212). -/
def State.bulkRoom (s : State) : Nat :=
  (match s.media.bulkOpen with
    | some o => if s.bulkGood o.1 then s.bulkUse o.1 - o.2 else 0
    | none => 0) +
  sumOf s.bulkUse (s.bulkStripes.filter fun k => !s.media.bulkUsed.contains k && s.bulkGood k)

/-- The DOMAIN is stored in bulk storage as the next version of its image number, in blocks of 4,096 bytes, the last one padded with zeros. The write
completes when every block is programmed (R233). No room, or no media: it cannot be stored (R490). -/
def State.storeImage (s : State) (num : Nat) (v : List Byte) : WriteRes :=
  let held := s.versions num
  let blocks := (chunks 4096 (v.length / 4096 + 1) v).map fun b => sliceZ b 0 4096
  if 2 ≤ held.length then .abort s abInUse
  else if ¬ s.media.present ∨ s.bulkRoom < blocks.length then .abort s abStore
  else
    let i : BootImage := {
      num := num, version := held.foldl (fun m x => max m x.version) 0 + 1, length := v.length, blocks := [], todo := blocks, left := []
      current := false }
    .wait (({ s with egress := { s.egress with images := s.egress.images ++ [i] } } : State).imageFill blocks.length i)

/-- Every version that no request is bound to is deleted, from the cache too (0x0E01.05). -/
def State.deleteImages (s : State) (num : Nat) : State :=
  let keep := s.egress.images.filter fun (i : BootImage) => i.num != num || s.bound i.num i.version
  let live := fun (k : CacheEntry) => keep.any fun (i : BootImage) => i.num == k.num && i.version == k.version
  { s with egress := { s.egress with images := keep, cache := s.egress.cache.filter live } }

-- ---------------------------------------------------------------- user microcode (R456 to R460)

/-- A refused user image or unload: 0x1400.03 and .04 tell why. -/
def State.refuseMicro (s : State) (code addr : Nat) : WriteRes :=
  .abort ((s.roSet (okey 0x1400 3) code).roSet (okey 0x1400 4) addr) abImage

/-- A user image that passes is loaded from the next tick on, with which its write completes (R459). -/
def State.writeMicro (s : State) (v : List Byte) : WriteRes :=
  match s.checkImage v with
  | some r => s.refuseMicro r.code r.addr
  | none => .wait { s with micro := { s.micro with loading := some v, loadStage := 0 } }

def State.unloadSlots (s : State) (mask : Nat) : WriteRes :=
  if (natRange 0 16).any fun n => natBit mask n && s.slotCounted n then s.refuseMicro 0x0A 0xFFFF
  else .ok { s with micro := { s.micro with unloadDue := s.micro.unloadDue ||| BitVec.ofNat 16 mask } }

-- ---------------------------------------------------------------- update (R517 to R520)

/-- The format of an update image. -/
def updateFormat (v : List Byte) : Bool :=
  leField v 0 4 == 0x54584257 && leField v 4 2 == 1 && leField v 6 2 == 64 && leField v 8 4 == v.length && within 4096 8388608 v.length &&
  leField v 24 4 % 4 == 0

def State.refuseUpdate (s : State) (code : Nat) : WriteRes := .abort (s.roSet (okey 0x1100 9) code) abImage

/-- A write of 0x1100.01: checked and staged into the slot that is not running (R519). -/
def State.writeUpdate (s : State) (v : List Byte) : WriteRes :=
  let b := s.barista
  if (b.slot b.running).state = 3 then s.refuseUpdate 4
  else if ¬ updateFormat v then s.refuseUpdate 1
  else if ¬ allZero (sliceZ v 28 36) then .undef
  else if ¬ Config.firmwareSigned v then s.refuseUpdate 2
  else if leField v 16 8 < b.rollback then s.refuseUpdate 3
  else
    let s := s.roSet (okey 0x1100 9) 0
    .ok (s.slotTo (1 - b.running) ⟨2, leField v 12 4, leField v 16 8, 0, v⟩)

/-- `v` is programmed into the next of `n` unprogrammed words of the counter, and into the one after when it reads back another value: programming
only sets bits, so a word holds some of those of `v` (R518; log 6). -/
def State.burnCounter (v : Nat) : Nat → State → State
  | 0, s => s.logEvent 0x0905 2 (leBytes 8 s.barista.rollback)
  | n + 1, s =>
    let back := v &&& s.freeVal
    let s := { s.drawn with barista := { s.barista with counter := s.barista.counter ++ [back] } }
    if back = v then s else State.burnCounter v n s

/-- The rollback counter advances (R518). -/
def State.advanceCounter (s : State) (v : Nat) : State :=
  if v ≤ s.barista.rollback then s else State.burnCounter v (128 - s.barista.counter.length) s

/-- The commands of 0x1100.08 (R520). -/
def State.tryUpdate (s : State) : WriteRes :=
  let n := 1 - s.barista.running
  let x := s.barista.slot n
  if x.state = 2 then .ok (s.slotTo n { x with state := 3, attempts := 3 }) else .abort s abRange

def State.commitUpdate (s : State) : WriteRes :=
  let n := s.barista.running
  let x := s.barista.slot n
  if x.state = 3 then .ok ((s.slotTo n { x with state := 1, attempts := 0 }).advanceCounter x.rollback) else .abort s abRange

def State.discardUpdate (s : State) : WriteRes :=
  let n := 1 - s.barista.running
  let x := s.barista.slot n
  if x.state = 2 ∨ x.state = 3 then .ok (s.slotTo n { x with state := 0, attempts := 0 }) else .abort s abRange

-- ---------------------------------------------------------------- raw NAND commands (R219)

/-- Command bytes of a sequence that only reads: the read, status and identification commands of ONFI (PRESUMED, log 55). -/
def rawReads : List Byte :=
  [0x00#8, 0x05#8, 0x06#8, 0x30#8, 0x31#8, 0x32#8, 0x35#8, 0x3F#8, 0x70#8, 0x78#8, 0x90#8, 0xE0#8, 0xEC#8, 0xED#8, 0xEE#8]

/-- Writing 1 to 0x0D60.06 issues the sequence. How many bytes a read moves is the sequence's own affair (log 55). -/
def State.startRaw (s : State) : WriteRes :=
  let n := s.objNat (okey 0x0D60 1) 0
  let dir := s.objNat (okey 0x0D60 4) 0
  let c := s.chan (n / 32)
  if (s.media.queue.any fun o => o.kind == .raw) ∨ s.freeSlots .barista = 0 then .abort s abInUse
  else if (s.lun n).state = 1 ∧ (dir = 1 ∨ ¬ (s.objGet (okey 0x0D60 2) (zeros 8)).all fun b => rawReads.contains b) then .undef
  else
    let data := if dir = 1 then s.objGet (okey 0x0D60 5) [] else []
    let moved := if dir = 1 then data.length else if dir = 2 then s.freeVal % 65537 else 0
    let s := if dir = 2 then s.drawn else s
    .ok ((s.roSet (okey 0x0D60 7) 0).enqueue { mkOp .barista .raw n (n / 256) (c.tCmd + ceilDiv (moved * 1000) c.rate) with data := data })

-- ---------------------------------------------------------------- repair, domains, interrupts (R511, R536, R540, R551)

/-- A core is to be retired at the next tick; one that carries a logical core needs a ready spare (R542). -/
def State.askRetire (s : State) (c : Nat) : WriteRes :=
  if s.repair.retired.contains c ∨ (s.repair.retireDue.any fun x => x.1 == c) then .ok s
  else if (s.carries c).isSome ∧ ¬ (natRange 0 68).any s.spareReady then .abort s abInUse
  else .ok { s with repair := { s.repair with retireDue := s.repair.retireDue ++ [(c, 3)] } }

/-- OFF or RETAIN for a port engine in mode 4 (R551). -/
def State.askDomain (s : State) (d v : Nat) : WriteRes :=
  if 101 ≤ d ∧ d < 105 ∧ s.portMode (d - 101) = 4 ∧ v < 2 then .ok (s.setDomain d v) else .abort s abInUse

/-- IPEND.BAR of the logical cores in a mask (R511). -/
def State.barMask (s : State) (mask : Nat) : State :=
  (natRange 0 s.nl).foldl (fun a l => match natBit mask l, (a.lcore l).carrier with
    | true, some c => a.setCore c { a.core c with ipend := (a.core c).ipend ||| 0x10000#17 }
    | _, _ => a) s

-- ---------------------------------------------------------------- places in DRAM (07 and 08, Undefined cases)

/-- Whether two ranges of DRAM, each a base and a size, meet. -/
def spansMeet (a b : Nat × Nat) : Bool := decide (0 < a.2) && decide (0 < b.2) && decide (a.1 < b.1 + b.2) && decide (b.1 < a.1 + a.2)

/-- Whether a change of an object places staging cells, the image cache or a query ring in the DRAM key area, or makes the cache or a ring overlap
staging cells or each other: the objects as written count, whenever they come into force. -/
def State.placesBad (s : State) (i sub : Nat) (v : List Byte) : Bool :=
  let t := s.holdValue (okey i sub) v false
  let o := fun (a : State) (j k d : Nat) => a.objNat (okey j k) d
  let staging := (o t 0x0C00 1 0, 64 * o t 0x0C00 3 0)
  let cache := (o t 0x0E02 1 0, o t 0x0E02 2 0)
  let rings := (o t 0x0E10 1 0, 64 * 256 * (o t 0x0E10 2 64 + 1))
  let key := (s.keyArea, s.dramCap - s.keyArea)
  let d := if i = 0x0E10 ∧ sub = 2 then 64 else 0
  o t i sub d != o s i sub d &&
    (([staging, cache, rings].any fun x => spansMeet x key) ||
      (i != 0x0C00 && (spansMeet cache rings || spansMeet cache staging || spansMeet rings staging)))

-- ---------------------------------------------------------------- the objects' own rules (step 6 of R470)

/-- The rule of an object, tested last. For a write-only object that is not persistent it makes the write's effects too. -/
def State.ruleOf (s : State) (i sub win : Nat) (v : List Byte) : WriteRes :=
  let n := leNat v
  if i = 0x0411 then s.writeShadow v
  else if i = 0x0412 then (if n = 1 then s.commitPlan else s.discardShadow)
  else if (i = 0x0204 ∨ i = 0x0205) ∧ sub = 5 then (if n / 4096 % 8 = 0 then .ok s else .undef)
  else if i = 0x0900 ∧ sub = 2 then (if configReserved v || guardedReserved v then .undef else .ok s)
  else if i = 0x0900 ∧ sub = 3 then (if configReserved v then .undef else .ok s)
  else if i = 0x0C00 ∧ sub = 2 then .ok (s.askShutdown false)
  else if i = 0x0C00 ∨ i = 0x0E02 ∨ i = 0x0E10 then (if s.placesBad i sub v then .undef else .ok s)
  else if i = 0x0D08 ∧ sub ≠ 1 then (if s.roleLost sub win n then .abort s abInUse else .ok s)
  else if i = 0x0D60 ∧ sub = 6 then s.startRaw
  else if i = 0x0E01 ∧ sub = 4 then s.storeImage win v
  else if i = 0x0E01 ∧ sub = 5 then .ok (s.deleteImages win)
  else if i = 0x1020 then .ok (s.askShutdown true)
  else if i = 0x1030 ∧ sub = 2 then .ok (s.nmiMask n)
  else if i = 0x1030 ∧ sub = 3 then .ok (s.barMask n)
  else if i = 0x1100 ∧ sub = 1 then s.writeUpdate v
  else if i = 0x1100 then (if n = 1 then s.tryUpdate else if n = 2 then s.commitUpdate else s.discardUpdate)
  else if i = 0x1200 ∧ sub = 8 then s.askRetire n
  else if i = 0x1200 then .ok (s.leaveService n)
  else if i = 0x1300 ∧ sub = 3 then s.askDomain win n
  else if i = 0x1400 ∧ sub = 2 then s.writeMicro v
  else if i = 0x1400 then s.unloadSlots n
  else if 0x2000 ≤ i ∧ i < 0x3000 then s.programImage i sub v
  else if customer i then (if 4194304 < s.customerBytes i + v.length then .abort s abRange else .ok s)
  else .ok s

-- ---------------------------------------------------------------- the effects of a value (R474)

/-- Whether a partner authenticates with a key slot. -/
def Partner.names (p : Partner) (slot : Nat) : Bool := p.kb && (p.keySlot.extractLsb' 0 12).toNat == slot

/-- A key is loaded or erased, with its persistent copy (R493). The ack sequence of every partner that names the slot starts again (R121). -/
def State.putKey (s : State) (slot : Nat) (v : List Byte) : State :=
  let hit := fun (n : Nat) => (s.partner n).names slot
  { s with
    adm := { s.adm with
      keys := Tab.put [] slot v s.adm.keys, ackDone := s.adm.ackDone.filter fun n => !hit n
      partners := s.adm.partners.map fun x => if x.2.names slot then (x.1, { x.2 with ackSeq := 0 }) else x }
    nor := Tab.put [] (wkey 0x0A00 2 slot) v s.nor }

/-- A partner's persistent configuration (R97, R99). -/
def State.keepConfig (s : State) (n : Nat) (v : List Byte) : State := { s with nor := Tab.put [] (wkey 0x0900 3 n) (sliceZ v 0 34) s.nor }

/-- A credential is written: every other open session of its ring ends (R484). -/
def State.putCredential (s : State) (sid r : Nat) (v : List Byte) : State :=
  let s := s.holdValue (okey 0x0208 (r + 1)) v true
  { s with zdp := { s.zdp with sessions := s.zdp.sessions.filter fun (x : Session) => x.sid == sid || x.ring != r || !x.isOpen } }

/-- The link of a port retrains; the port engine's domain follows mode 4 (R87, R549). -/
def State.retrain (s : State) (p : Nat) (was : Nat) : State :=
  let s := s.roSet (okey (0x0210 + p) 6) 0
  let now := s.portMode p
  if now = 4 ∧ was ≠ 4 then s.setDomain (101 + p) 1
  else if was = 4 ∧ now ≠ 4 then s.setDomain (101 + p) 2
  else s

/-- What a value does when it takes effect, for the objects that hold one. -/
def State.effect (s : State) (sid i sub win : Nat) (r : ORow) (v : List Byte) : State :=
  let key := if (s.window i sub).isSome then wkey i sub win else okey i sub
  if i = 0x0208 then s.putCredential sid (sub - 1) v
  else if i = 0x0900 ∧ sub = 2 then (s.setPartner win (Partner.ofBytes v)).keepConfig win v
  else if i = 0x0900 ∧ sub = 3 then (s.configPartner win v).keepConfig win v
  else if i = 0x0A00 ∧ sub = 2 then s.putKey win v
  else if i = 0x0A00 ∧ sub = 4 then s.putKey win []
  else if 0x2000 ≤ i ∧ i < 0x3000 ∧ sub = 1 then { s with domains := Tab.put [] i v s.domains }
  else if r.acc ≠ .rw then s
  else
    let s := if 0x0D40 ≤ i ∧ i < 0x0D50 ∧ sub = 1 then s.lapse (i - 0x0D40) else s
    let s' := s.holdValue key v r.pers
    if i = 0x0400 ∧ sub = 2 then (if s.section.isNone then s'.setPeriod else s')
    else if i = 0x0400 ∧ sub = 4 then { s' with timer := { s'.timer with
      srcState := (if leNat v = 0 then 0 else 1), lockCount := 0, announces := [], master := none } }
    else if i = 0x0D01 then (natRange 0 32).foldl State.refreshL s'
    else if i = 0x0D08 then s'.tableChanged
    else if 0x0210 ≤ i ∧ i < 0x0214 ∧ sub ≤ 2 then s'.retrain (i - 0x0210) (s.portMode (i - 0x0210))
    else s'

-- ---------------------------------------------------------------- existence, ring and access (steps 1 to 3 of R470)

/-- Whether Barista serves the dictionary, and whether it has an index: rescue mode knows three groups (R516). -/
def State.served (s : State) : Bool := s.firmwareUp || s.barista.stage == .rescue
def State.indexServed (s : State) (i : Nat) : Bool :=
  s.firmwareUp || (decide (0x0100 ≤ i) && decide (i ≤ 0x0102)) || i == 0x1100

/-- Whether an index belongs to the unpublished vendor objects (R498). -/
def vendor (i : Nat) : Bool := decide (0xF000 ≤ i) && decide (i < 0x10000)

/-- The row of an object, or the abort of step 1. -/
def State.findObject (s : State) (i sub : Nat) : ORow ⊕ Nat :=
  if vendor i ∧ s.firmwareUp then
    (match Config.vendorObject i sub, Config.vendorObject i 0 with
    | some v, _ => .inl (rRW i sub (.ostr v.length) 0)
    | none, some _ => .inr abNoSub
    | none, none => .inr abNoObject)
  else if ¬ s.indexServed i ∨ ¬ indexDefined i then .inr abNoObject
  else match objRow i sub with
  | some r => .inl r
  | none => .inr abNoSub

/-- Steps 1 to 3 of R470 for a write by a session of ring `ring`. -/
def State.mayWrite (s : State) (ring i sub : Nat) : ORow ⊕ Nat :=
  match s.findObject i sub with
  | .inr a => .inr a
  | .inl r =>
    if r.rw < ring then .inr abRing
    else match r.acc with
    | .rw => .inl r
    | .wo => .inl r
    | _ => .inr abReadOnly

/-- Whether another session's transfer holds an object (R471). -/
def State.inTransfer (s : State) (sid key : Nat) : Bool :=
  s.zdp.sessions.any fun x => x.sid != sid && (match x.transfer with | some t => t.key == key | none => false)

/-- Steps 4 to 6 of R470. -/
def State.judgeValue (s : State) (i sub win : Nat) (r : ORow) (v : List Byte) : WriteRes :=
  if vendor i then .undef
  else match typeAbort i r.ty v with
  | some a => .abort s a
  | none =>
    let fixed := r.ty.size.isSome && !(match r.ty with | .ostr _ => true | _ => false)
    if fixed && !s.valueInRange i sub (leNat v) then .abort s abRange else s.ruleOf i sub win v

-- ---------------------------------------------------------------- a write with a row of its own

/-- The selection of an object's window, 0 without one. -/
def State.winOf (s : State) (i sub : Nat) : Nat := (s.window i sub).getD 0

/-- A write of an object by an open session, at its point of effect (R470, R474; log 52). -/
def State.directWrite (s : State) (i sub : Nat) (w : ObjWrite) : Host.Outcome State Fault Refusal :=
  match s.session w.sid with
  | none => .next s
  | some x =>
    if s.zdp.store.isSome ∨ ¬ s.served then .next s
    else if s.failing then .next (s.result w.sid i sub abPowerFail)
    else match s.mayWrite x.ring i sub with
    | .inr a => .next (s.result w.sid i sub a)
    | .inl r =>
      if s.inTransfer w.sid (okey i sub) then .next (s.result w.sid i sub abBusy)
      else
        let win := s.winOf i sub
        match s.judgeValue i sub win r w.value with
        | .undef =>
          let t := s.havocObjects x.ring
          .next (t.drawn.result w.sid i sub (t.freeVal % 2 ^ 32))
        | .abort t a => .next (t.result w.sid i sub a)
        | .wait t => .next { t with zdp := { t.zdp with store := some ⟨w.sid, [], i, sub, win, []⟩ } }
        | .ok t => .next ((t.effect w.sid i sub win r w.value).result w.sid i sub 0)

/-- A write whose row names one command of the object. -/
def State.commandWrite (s : State) (i sub cmd : Nat) (w : ObjWrite) : Host.Outcome State Fault Refusal :=
  if w.value = [BitVec.ofNat 8 cmd] then s.directWrite i sub w else .next s

-- ---------------------------------------------------------------- the rows

def execShadowPlanWrite (w : ObjWrite) (s : State) : Host.Outcome State Fault Refusal := s.directWrite 0x0411 1 w
def execPlanCommit (w : ObjWrite) (s : State) : Host.Outcome State Fault Refusal := s.commandWrite 0x0412 1 1 w
def execShadowDiscard (w : ObjWrite) (s : State) : Host.Outcome State Fault Refusal := s.commandWrite 0x0412 1 2 w
def execPartnerConfigWrite (w : ObjWrite) (s : State) : Host.Outcome State Fault Refusal := s.directWrite 0x0900 3 w
def execPartnerEntryWrite (w : ObjWrite) (s : State) : Host.Outcome State Fault Refusal := s.directWrite 0x0900 2 w
def execKeyWrite (w : ObjWrite) (s : State) : Host.Outcome State Fault Refusal := s.directWrite 0x0A00 2 w
def execKeyErase (w : ObjWrite) (s : State) : Host.Outcome State Fault Refusal := s.directWrite 0x0A00 4 w
def execOrderlyShutdown (w : ObjWrite) (s : State) : Host.Outcome State Fault Refusal := s.directWrite 0x0C00 2 w

/-- The mode of a port, or its FEC. -/
def execPortModeWrite (port : PortId) (fec : Bool) (w : ObjWrite) (s : State) : Host.Outcome State Fault Refusal :=
  s.directWrite (0x0210 + port) (if fec then 2 else 1) w

def execRawCommandStart (w : ObjWrite) (s : State) : Host.Outcome State Fault Refusal := s.directWrite 0x0D60 6 w
def execImageWrite (w : ObjWrite) (s : State) : Host.Outcome State Fault Refusal := s.directWrite 0x0E01 4 w
def execImageDelete (w : ObjWrite) (s : State) : Host.Outcome State Fault Refusal := s.directWrite 0x0E01 5 w

/-- A program image, or its descriptor set. -/
def execProgramImageWrite (n : BitVec 12) (set : Bool) (w : ObjWrite) (s : State) : Host.Outcome State Fault Refusal :=
  s.directWrite (0x2000 + n.toNat) (if set then 2 else 1) w

def execCustomerObjectWrite (n : BitVec 14) (w : ObjWrite) (s : State) : Host.Outcome State Fault Refusal :=
  s.directWrite (0x4000 + n.toNat) 1 w

def execUserImageWrite (w : ObjWrite) (s : State) : Host.Outcome State Fault Refusal := s.directWrite 0x1400 2 w

/-- Every physical core is written: the slots become loaded at the next tick (R459 step 3). -/
def execUserImageLoaded (s : State) : Host.Outcome State Fault Refusal :=
  if s.micro.loading.isSome ∧ s.micro.loadStage = 1 then .next { s with micro := { s.micro with loadStage := 2 } } else .next s

def execSlotUnload (w : ObjWrite) (s : State) : Host.Outcome State Fault Refusal := s.directWrite 0x1400 6 w
def execDeviceRestart (w : ObjWrite) (s : State) : Host.Outcome State Fault Refusal := s.directWrite 0x1020 2 w
def execUpdateImageWrite (w : ObjWrite) (s : State) : Host.Outcome State Fault Refusal := s.directWrite 0x1100 1 w
def execUpdateTry (w : ObjWrite) (s : State) : Host.Outcome State Fault Refusal := s.commandWrite 0x1100 8 1 w
def execUpdateCommit (w : ObjWrite) (s : State) : Host.Outcome State Fault Refusal := s.commandWrite 0x1100 8 2 w
def execUpdateDiscard (w : ObjWrite) (s : State) : Host.Outcome State Fault Refusal := s.commandWrite 0x1100 8 3 w
def execRetireCore (w : ObjWrite) (s : State) : Host.Outcome State Fault Refusal := s.directWrite 0x1200 8 w
def execRetireLun (w : ObjWrite) (s : State) : Host.Outcome State Fault Refusal := s.directWrite 0x1200 11 w
def execDomainRequest (w : ObjWrite) (s : State) : Host.Outcome State Fault Refusal := s.directWrite 0x1300 3 w
def execRaiseNmi (w : ObjWrite) (s : State) : Host.Outcome State Fault Refusal := s.directWrite 0x1030 2 w
def execRaiseBar (w : ObjWrite) (s : State) : Host.Outcome State Fault Refusal := s.directWrite 0x1030 3 w

def execCredentialWrite (ring : Fin 4) (w : ObjWrite) (s : State) : Host.Outcome State Fault Refusal :=
  s.directWrite 0x0208 (ring + 1) w

end Sys2Proof.Machine
end

