-- ==== Sys2Proof/Machine/Zdp.lean ====
section
/-!
DEFINITION. The Zhoesk Dictionary Protocol (R471 to R484) and its CAN FD carriage (R486 to R489): messages, sessions, sequence numbers, transfers,
and writes that wait for their persistent copy.
-/

namespace Sys2Proof.Machine

-- ---------------------------------------------------------------- OPEN and PROVE (R481 to R484)

/-- Failed proofs are counted by source address, whatever its port (R483). -/
def clientSource : Client → Client
  | .udp _ a _ => .udp false a 0
  | .can => .can

/-- Whether a client is on the CAN FD channel. -/
def clientOnCan : Client → Bool
  | .can => true
  | _ => false

/-- The credential of a ring: the written one, else that of OTP, else zero; rescue mode knows OTP's only (R484, R516). -/
def State.credential (s : State) (r : Nat) : List Byte :=
  let otp := sliceZ (Tab.get [] s.barista.otp (okey 0x0208 (r + 1))) 0 32
  if s.barista.stage = .rescue then otp else s.objGet (okey 0x0208 (r + 1)) otp

/-- P and K_s (R482). -/
def proofOf (label : String) (cred : List Byte) (sid : Nat) (nc nd : List Byte) : List Byte :=
  hmac cred (ascii label ++ beBytes 4 sid ++ nc ++ nd)

/-- The sessions of a client's network, and how many it holds (R483). -/
def State.tableFull (s : State) (c : Client) : Bool :=
  decide ((if (clientOnCan c) then 1 else 8) ≤ (s.zdp.sessions.filter fun x => (clientOnCan x.client) == (clientOnCan c)).length)

/-- A session ID that is not 0 and not in use: which one is Barista's own choice (R481). -/
def State.newSid (s : State) : Nat :=
  let l := (natRange (s.freeVal % 2 ^ 32) 11).map fun n => n % 2 ^ 32
  (l.find? fun n => n != 0 && (s.anySession n).isNone).getD 0

/-- A refused OPEN opens nothing. -/
def State.refuseOpen (s : State) (src : Client) (b : List Byte) (code : Nat) : State := s.send src (response b 0 none (mTotal b) code [])

def State.serveOpen (s : State) (src : Client) (b : List Byte) : Host.Outcome State Fault Refusal :=
  let d := mData b
  let r := beField d 0 1
  if s.zdp.locked.contains (clientSource src) then .next s
  else if headReserved b ∨ (d.length = 20 ∧ ¬ allZero (sliceZ d 1 3)) then .next s.drawn
  else if d.length ≠ 20 then .next (s.refuseOpen src b abLength)
  else if 3 < r ∨ (s.barista.stage = .rescue ∧ r ≠ 0) then .next (s.refuseOpen src b abRange)
  else
    let s := if allZero (s.credential r) then s.logEvent 0x0802 1 [BitVec.ofNat 8 r] else s
    if s.tableFull src then .next (s.refuseOpen src b abCapacity)
    else
      let sid := s.newSid
      let nd := beBytes 16 (Config.nonce s.zdp.opens).toNat
      let a := response b sid none (mTotal b) 0 nd
      let x : Session := { sid := sid, client := src, ring := r, nc := d.drop 4, nd := nd, key := [], isOpen := false, lastSeq := mSeq b, busy := false
                           lastResp := a, transfer := none }
      .next ((({ s with zdp := { s.zdp with sessions := s.zdp.sessions ++ [x], opens := s.zdp.opens + 1 } } : State).drawn).send src a)

/-- The UDP port of a client's source; 0 on CAN FD. -/
def clientPort : Client → Nat
  | .udp _ _ p => p.toNat
  | .can => 0

/-- A failed proof: counted, logged; the fourth within 60 s locks the source out (R483; log 53). -/
def State.failedProof (s : State) (src : Client) (ring : Nat) : State :=
  let s := s.count (okey 0x0200 5) 1 32
  let s := s.logEvent 0x0801 1 ([BitVec.ofNat 8 ring, if (clientOnCan src) then 1 else 0] ++ leBytes 2 (clientPort src))
  let now := s.timer.plantNs
  let k := (clientSource src)
  let l := (k, now) :: s.zdp.fails.filter fun x => decide (now < x.2 + 60000000000)
  let four := decide (4 ≤ (l.filter fun x => x.1 == k).length)
  { s with zdp := { s.zdp with
      fails := if four then l.filter fun x => x.1 != k else l
      locked := if four then k :: s.zdp.locked else s.zdp.locked } }

/-- The proof is decided first, then the tag, which is under the key that a right proof gives (log 53). -/
def State.serveProve (s : State) (src : Client) (b : List Byte) : Host.Outcome State Fault Refusal :=
  match s.zdp.sessions.find? fun x => x.sid == mSid b && !x.isOpen && x.client == src with
  | none => .next s.discardMsg
  | some x =>
    if mSeq b < x.lastSeq then .next s.discardMsg
    else if mSeq b = x.lastSeq then .next (s.send src x.lastResp)
    else
      let c := s.credential x.ring
      if mData b ≠ proofOf "ZDP-P" c x.sid x.nc x.nd then
        (if headReserved b then .next s.drawn
        else .next (((s.failedProof src x.ring).endSession x.sid).send src (response b x.sid none (mTotal b) abAuth [])))
      else
        let k := proofOf "ZDP-K" c x.sid x.nc x.nd
        if ¬ tagGood k b then .next s.discardMsg
        else if headReserved b then .next (s.havocObjects x.ring)
        else .next ((s.setSession { x with key := k, isOpen := true, lastSeq := mSeq b }).refuse x.sid b 0)

-- ---------------------------------------------------------------- READ, WRITE, WRITE_SEG, CANCEL (R470, R472, R474, R478, R479)

/-- A READ (R478); an RC object is cleared by it. -/
def State.doRead (s : State) (x : Session) (b : List Byte) : State :=
  let i := mIndex b
  let sub := mSub b
  match s.findObject i sub with
  | .inr a => s.refuse x.sid b a
  | .inl r =>
    if r.rr < x.ring then s.refuse x.sid b abRing
    else if r.acc = .wo then s.refuse x.sid b abWriteOnly
    else
      let v := if vendor i then (Config.vendorObject i sub).getD [] else s.readObject i sub r
      if v.length < mOff b then s.refuse x.sid b abSegment
      else
        let s := s.answer x.sid b v.length 0 ((v.drop (mOff b)).take (mLen b))
        if r.acc = .rc then s.afterRead i sub else s

/-- A write is answered later: the session is busy with it (R472, R480). -/
def State.waits (s : State) (x : Session) (b : List Byte) (i sub win : Nat) (v : List Byte) : State :=
  ({ s with zdp := { s.zdp with store := some ⟨x.sid, b.take 32, i, sub, win, v⟩ } } : State).setSession { x with busy := true }

/-- A whole value is written: a persistent one is answered when its NOR copy is programmed (R472). -/
def State.writeValue (s : State) (x : Session) (b : List Byte) (r : ORow) (v : List Byte) : Host.Outcome State Fault Refusal :=
  let i := mIndex b
  let sub := mSub b
  let win := s.winOf i sub
  match s.judgeValue i sub win r v with
  | .undef =>
    let t := s.havocObjects x.ring
    .next (t.drawn.refuse x.sid b (t.freeVal % 2 ^ 32))
  | .abort t a => .next (t.refuse x.sid b a)
  | .wait t => .next (t.waits x b i sub win [])
  | .ok t =>
    if r.pers then
      .next (t.waits x b i sub win v)
    else .next ((t.effect x.sid i sub win r v).refuse x.sid b 0)

/-- Steps 1 to 3 of R470, then the transfer of another session: the row, or the abort. -/
def State.canWrite (s : State) (x : Session) (i sub : Nat) : ORow ⊕ Nat :=
  match s.mayWrite x.ring i sub with
  | .inr a => .inr a
  | .inl r => if s.inTransfer x.sid (okey i sub) then .inr abBusy else .inl r

/-- A WRITE: the whole value, at offset 0. -/
def State.doWrite (s : State) (x : Session) (b : List Byte) : Host.Outcome State Fault Refusal :=
  if s.failing then .next (s.refuse x.sid b abPowerFail)
  else match s.canWrite x (mIndex b) (mSub b) with
  | .inr a => .next (s.refuse x.sid b a)
  | .inl r =>
    if mOff b ≠ 0 ∨ mTotal b ≠ mLen b then .next (s.refuse x.sid b abSegment) else s.writeValue x b r (mData b)

/-- A transfer grows, or is whole: then the checks from step 4 on run. -/
def State.growTransfer (s : State) (x : Session) (b : List Byte) (r : ORow) (data : List Byte) : Host.Outcome State Fault Refusal :=
  if data.length = mTotal b then
    let x := { x with transfer := none }
    (s.setSession x).writeValue x b r data
  else
    let t : Transfer := ⟨okey (mIndex b) (mSub b), mTotal b, data⟩
    .next ((s.setSession { x with transfer := some t }).refuse x.sid b 0)

/-- The first segment of a transfer. -/
def State.openTransfer (s : State) (x : Session) (b : List Byte) : Host.Outcome State Fault Refusal :=
  let i := mIndex b
  if mOff b ≠ 0 then .next (s.refuse x.sid b abNoTransfer)
  else match s.canWrite x i (mSub b) with
  | .inr a => .next (s.refuse x.sid b a)
  | .inl r =>
    if vendor i then
      (let t := s.havocObjects x.ring
      .next (t.drawn.refuse x.sid b (t.freeVal % 2 ^ 32)))
    else if i = 0x0411 ∧ 4194304 < mTotal b then
      (match s.refuseLong with
      | .abort t a => .next (t.refuse x.sid b a)
      | _ => .next s)
    else if r.ty.max < mTotal b then .next (s.refuse x.sid b (if i = 0x0E01 ∧ mSub b = 4 then abRange else abLength))
    else if mTotal b < mLen b then .next (s.refuse x.sid b abSegment)
    else s.growTransfer x b r (mData b)

/-- A WRITE_SEG (R479). A segment that does not continue the transfer ends it. -/
def State.doSegment (s : State) (x : Session) (b : List Byte) : Host.Outcome State Fault Refusal :=
  if s.failing then .next ((s.setSession { x with transfer := none }).refuse x.sid b abPowerFail)
  else match x.transfer with
  | none => s.openTransfer x b
  | some t =>
    if t.key ≠ okey (mIndex b) (mSub b) ∨ t.total ≠ mTotal b ∨ t.data.length ≠ mOff b ∨ t.total < t.data.length + mLen b then
      .next ((s.setSession { x with transfer := none }).refuse x.sid b abSegment)
    else match s.findObject (mIndex b) (mSub b) with
    | .inr a => .next ((s.setSession { x with transfer := none }).refuse x.sid b a)
    | .inl r => s.growTransfer x b r (t.data ++ mData b)

/-- A CANCEL (R479). -/
def State.doCancel (s : State) (x : Session) (b : List Byte) : State :=
  match x.transfer with
  | none => s.refuse x.sid b abNoTransfer
  | some _ => (s.setSession { x with transfer := none }).refuse x.sid b 0

/-- The command codes of R476 that an open session may carry, and OPEN and PROVE. -/
def knownCommand (n : Nat) : Bool := [1, 2, 3, 4, 0x10, 0x11, 0x12, 0x13].contains n

/-- An accepted request is executed. -/
def State.perform (s : State) (x : Session) (b : List Byte) : Host.Outcome State Fault Refusal :=
  match mCmd b with
  | 0x03 => .next ((s.refuse x.sid b 0).endSession x.sid)
  | 0x04 => .next (s.refuse x.sid b 0)
  | 0x10 => .next (s.doRead x b)
  | 0x11 => s.doWrite x b
  | 0x12 => s.doSegment x b
  | 0x13 => .next (s.doCancel x b)
  | _ => .next (s.refuse x.sid b abCommand)

/-- A request of an open session: authentication (R477), then its sequence (R480). -/
def State.serveRequest (s : State) (src : Client) (b : List Byte) : Host.Outcome State Fault Refusal :=
  match s.session (mSid b) with
  | none => .next s.discardMsg
  | some x =>
    if x.client ≠ src ∨ ¬ tagGood x.key b then .next s.discardMsg
    else if headReserved b then .next (s.havocObjects x.ring)
    else if mSeq b < x.lastSeq then .next s.discardMsg
    else if mSeq b = x.lastSeq then .next (if x.busy then s else s.send src x.lastResp)
    else if x.busy then .next (s.send src (response b x.sid (some x.key) (mTotal b) abBusy []))
    else
      let x := { x with lastSeq := mSeq b }
      (s.setSession x).perform x b

-- ---------------------------------------------------------------- arrival (R471, R485, R516)

/-- Whether a field port hears its own address of the source's family (R485, R486). -/
def State.fieldOpen (s : State) (field : Bool) (a : BitVec 128) : Bool :=
  let i := fieldIndex field
  s.roGet (okey i 1) != 2 &&
  (if a.toNat / 2 ^ 32 = 0xFFFF then s.objNat (okey i 3) 0 != 0 else !allZero (s.objGet (okey i 4) (zeros 16)))

/-- Whether the CAN FD channel serves ZDP: enabled at this start, and not bus off; always in rescue mode (R487, R516). -/
def State.canOpen (s : State) : Bool :=
  s.barista.stage == .rescue || (s.roGet (okey 0x0206 4) != 0 && s.roGet (okey 0x0206 5) != 3)

/-- Whether a frame has the 802.1Q tags that a field port takes: one with its VLAN ID, or none (R485, R486). -/
def State.fieldVlan (s : State) (field : Bool) (m : ZdpMsg) : Bool :=
  let v := s.objNat (okey (fieldIndex field) 5) 0
  if natBit v 15 then m.tags == 1 && m.vid.toNat == v % 4096 else m.tags == 0

/-- Whether CAN FD frames reach the server. -/
def State.canReaches (s : State) : Bool := s.served && s.canOpen

/-- Whether a message reaches the server: a field port discards, uncounted, what is not for its ZDP port, its address or its VLAN (R485). -/
def State.reaches (s : State) (m : ZdpMsg) : Bool :=
  match m.src with
  | .udp f a _ => s.served && s.barista.stage != .rescue && s.fieldOpen f a && s.fieldVlan f m && m.dport.toNat == s.zdpPort
  | .can => s.canReaches

/-- One message is served. -/
def State.serve (s : State) (m : ZdpMsg) : Host.Outcome State Fault Refusal :=
  let b := m.bytes
  if ¬ msgGood b then .next s.discardMsg
  else if mCmd b = 1 then s.serveOpen m.src b
  else if mCmd b = 2 then s.serveProve m.src b
  else s.serveRequest m.src b

/-- A message arrives. Requests are served one at a time: while a write waits for its persistent copy, the others wait, except those of its own
session, which R480 decides at once (R471, R480). -/
def State.receive (s : State) (m : ZdpMsg) : Host.Outcome State Fault Refusal :=
  if ¬ s.reaches m then .next s
  else match s.zdp.store with
  | some p =>
    if mSid m.bytes = p.sid then s.serve m else .next { s with zdp := { s.zdp with backlog := s.zdp.backlog ++ [m] } }
  | none => s.serve m

/-- The waiting messages are served in their order. -/
def State.receiveAll : List ZdpMsg → State → Host.Outcome State Fault Refusal
  | [], s => .next s
  | m :: t, s => match s.receive m with
    | .next s => State.receiveAll t s
    | o => o

/-- What waited for a write is served once that write has been answered, in its order (R471). -/
def State.serveWaiting (s : State) : Host.Outcome State Fault Refusal :=
  if s.zdp.store.isSome then .next s
  else State.receiveAll s.zdp.backlog { s with zdp := { s.zdp with backlog := [] } }

/-- A message arrives after those that wait. -/
def State.receiveNext (s : State) (m : ZdpMsg) : Host.Outcome State Fault Refusal :=
  match s.serveWaiting with
  | .next t => t.receive m
  | o => o

/-- A row that carries one command of R476. -/
def State.receiveAs (s : State) (cmd : Nat) (m : ZdpMsg) : Host.Outcome State Fault Refusal :=
  if mCmd m.bytes = cmd then s.receiveNext m else .next s

-- ---------------------------------------------------------------- the rows

def execZdpOpen (m : ZdpMsg) (s : State) : Host.Outcome State Fault Refusal := s.receiveAs 0x01 m
def execZdpProve (m : ZdpMsg) (s : State) : Host.Outcome State Fault Refusal := s.receiveAs 0x02 m
def execZdpClose (m : ZdpMsg) (s : State) : Host.Outcome State Fault Refusal := s.receiveAs 0x03 m
def execZdpNop (m : ZdpMsg) (s : State) : Host.Outcome State Fault Refusal := s.receiveAs 0x04 m
def execZdpRead (m : ZdpMsg) (s : State) : Host.Outcome State Fault Refusal := s.receiveAs 0x10 m
def execZdpWrite (m : ZdpMsg) (s : State) : Host.Outcome State Fault Refusal := s.receiveAs 0x11 m
def execZdpWriteSeg (m : ZdpMsg) (s : State) : Host.Outcome State Fault Refusal := s.receiveAs 0x12 m
def execZdpCancel (m : ZdpMsg) (s : State) : Host.Outcome State Fault Refusal := s.receiveAs 0x13 m

/-- A request whose command code R476 does not list (R476). -/
def execUnknownCommand (m : ZdpMsg) (s : State) : Host.Outcome State Fault Refusal :=
  if knownCommand (mCmd m.bytes) then .next s else s.receiveNext m

/-- A transfer has had no segment for 10 s (R479). -/
def execTransferTimeout (sid : Nat) (s : State) : Host.Outcome State Fault Refusal :=
  match s.anySession sid with
  | none => .next s
  | some x => .next (s.setSession { x with transfer := none })

/-- A session has had no accepted request within its idle timeout (R483); one whose request is in progress has. -/
def execSessionIdleTimeout (sid : Nat) (s : State) : Host.Outcome State Fault Refusal :=
  match s.anySession sid with
  | none => .next s
  | some x => .next (if x.busy then s else s.endSession sid)

/-- OPENs from a source are served again (R483). -/
def execOpenLockoutEnd (src : Client) (s : State) : Host.Outcome State Fault Refusal :=
  .next { s with zdp := { s.zdp with locked := s.zdp.locked.filter (· != (clientSource src)) } }

/-- The NOR copy of a persistent write is programmed, or its program fails: the write takes its effects at this point or not at all, and it is
answered; one whose copy is not whole at t0 is abandoned (R472, R474). Then the waiting messages are served. -/
def execPersistentStoreComplete (good : Bool) (s : State) : Host.Outcome State Fault Refusal :=
  match s.zdp.store with
  | none => .next s
  | some p =>
    if p.byRule then .next s
    else
    let s := { s with zdp := { s.zdp with store := none } }
    let s := if s.failing then s.refuse p.sid p.req abPowerFail
      else if ¬ good then s.refuse p.sid p.req abStore
      else match s.findObject p.index p.sub with
        | .inl r => (s.effect p.sid p.index p.sub p.win r p.value).refuse p.sid p.req 0
        | .inr a => s.refuse p.sid p.req a
    s.serveWaiting

-- ---------------------------------------------------------------- CAN FD (R487 to R489)

/-- A partial message is discarded and counted (R489). -/
def State.dropCan (s : State) : State := { s.count (okey 0x0206 6) 1 32 with zdp := { s.zdp with can := none } }

/-- The message is whole with the last frame: bytes past its end are ignored. -/
def State.endCan (s : State) (l : List Byte) : Host.Outcome State Fault Refusal :=
  ({ s with zdp := { s.zdp with can := none } } : State).receiveNext { src := .can, bytes := l.take (mSize l) }

/-- A frame goes to the reassembly: one with F starts a message, one with L ends it (R488, R489). -/
def execCanFdFrame (f : CanFrame) (s : State) : Host.Outcome State Fault Refusal :=
  match f.data with
  | [] => .next s
  | h :: d =>
    if ¬ s.canReaches ∨ f.ident.toNat ≠ 0x5C0 + s.canNode then .next s
    else
      let start := h.getLsbD 7
      let final := h.getLsbD 6
      let seq := h.toNat % 64
      match start, s.zdp.can with
      | true, _ => if final then s.endCan d else .next { s with zdp := { s.zdp with can := some (1, d) } }
      | false, none => .next s.dropCan
      | false, some (n, l) =>
        if seq ≠ n then .next s.dropCan
        else if final then s.endCan (l ++ d)
        else .next { s with zdp := { s.zdp with can := some ((n + 1) % 64, l ++ d) } }

/-- More than 100 ms have passed since the last frame of a partial message. -/
def execCanReassemblyTimeout (s : State) : Host.Outcome State Fault Refusal :=
  match s.zdp.can with
  | none => .next s
  | some _ => .next s.dropCan

/-- The number of a bus state in 0x0206.05. -/
def canCode : CanState → Nat
  | .errorActive => 1
  | .errorPassive => 2
  | .busOff => 3

/-- Fault confinement moves the channel; out of bus off only the recovery leads (R486, R487). -/
def execCanFaultConfinement (st : CanState) (s : State) : Host.Outcome State Fault Refusal :=
  let now := s.roGet (okey 0x0206 5)
  if now = 0 ∨ now = 3 then .next s else .next (s.roSet (okey 0x0206 5) (canCode st))

/-- 128 occurrences of 11 recessive bits have been seen (R487). -/
def execCanBusOffRecovery (s : State) : Host.Outcome State Fault Refusal :=
  if s.roGet (okey 0x0206 5) = 3 then .next (s.roSet (okey 0x0206 5) 1) else .next s

end Sys2Proof.Machine
end

