-- ==== Sys2Proof/Machine/Completion.lean ====
section
/-!
DEFINITION. What can be the end of a write that waits, after which the requests that waited for it are served (R471): a media operation's end,
MEDIA_OP_COMPLETE (R154, R164, R203, R211) and MEDIA_OP_TIMEOUT (R38, R220), for the store of a boot image (R233); and FRAME_TICK, for the load of a user
image (R459).
-/

namespace Sys2Proof.Machine

/-- An operation completes, or the suspend of one does. -/
def execMediaOpComplete (id : Nat) (res : MediaResult) (data : List Byte) (s : State) : Host.Outcome State Fault Refusal :=
  match s.media.queue.find? fun o => o.id == id && o.issued && o.susp != 2 && !s.pieceLeft o with
  | none => .next s
  | some o =>
    if o.susp = 1 then .next (s.suspendDone o res)
    else match s.complete o res data with
      | some t => (t.resumeOn o.lun).serveWaiting
      | none => .next s

/-- The controller resets the LUN: what was suspended on it has ended in error too, and pieces moved are discarded. -/
def execMediaOpTimeout (id : Nat) (s : State) : Host.Outcome State Fault Refusal :=
  match s.media.queue.find? fun o => o.id == id && o.issued with
  | none => .next s
  | some o =>
    let hit := s.media.queue.filter fun p => p.id == id || (p.lun == o.lun && p.susp == 2)
    ((hit.foldl State.opError (s.discardPieces o.lun)).countTimeout o.lun).serveWaiting

/-- A tick: what the frame that has ended owes, then what the tick begins (R16, R44). -/
def execFrameTick (w : TickFacts) (s : State) : Host.Outcome State Fault Refusal :=
  match s.frameTick w with
  | .next t => t.serveWaiting
  | o => o

end Sys2Proof.Machine
end

