-- ==== Sys2Proof/Machine/Control.lean ====
section
/-!
DEFINITION. Control transfer and the return stack (R294, R325), hardware loops (R296, R326), repeat (R300, R301), system calls and
returns (R407, R408, R411), TEND (R58), and the reserved encodings (R308).
-/

namespace Sys2Proof.Machine

-- ---------------------------------------------------------------- transfers

/-- The target of a B-format transfer (R325). -/
def brTarget (pc : Word) (disp : BitVec 22) : Word := pc + (disp.signExtend 32) * 4

/-- The time of a transfer of `n` cc that is taken, with what its target adds (R425, R426); in constant-time mode a guarded one takes 3 (R328). -/
def State.xferCost (s : State) (c : Nat) (g : Guard) (n : Nat) (target : Word) : Cost :=
  if (s.core c).ct ∧ g ≠ 0#4 then (cc 3).plus (s.targetAdd c target) else s.goTo c n target

/-- The time of a B-format transfer that is taken, and of one that is not (R425). -/
def brTaken (disp : BitVec 22) : Nat := if disp.getLsbD 21 then 1 else 3
def brFalse (disp : BitVec 22) : Cost := if disp.getLsbD 21 then upTo 3 else cc 1

/-- The false-guard time of a transfer in the state it meets, 3 cc in constant-time mode (R328). -/
def State.falseCost (s : State) (c : Nat) (x : Cost) : Cost := if (s.core c).applyDue.ct then cc 3 else x

/-- What a push or a spill of the return stack answers. -/
inductive StackRes where
  | ok (s : State)
  | wait (s : State) (w : WaitWhy)
  | trap (s : State) (t : Trap)
  | undef (rule : Nat)

/-- Whether every byte of a word at an address is translated by a return-stack descriptor (R294). -/
def Core.onReturnStack (k : Core) (ea : Nat) : Bool :=
  (halves ea 4).all fun p => match k.find p.ea with
    | some d => d.type == 6
    | none => false

/-- Spills the oldest buffered entry: RSP := RSP - 4, and the entry is stored there (R294). -/
def State.spillOldest (s : State) (c : Nat) : StackRes :=
  let k := s.core c
  let sp := k.srGet 0x018 - 4
  if ¬ k.onReturnStack sp.toNat then .trap s (trapAt 14 0x01 sp)
  else match s.judge c { accStore with spill := true } (halves sp.toNat 4) none with
  | .error t => .trap s t
  | .ok ms => match s.performPut c ms (k.rstack.getLastD 0).toNat 4 with
    | .trap s t => .trap s t
    | .undef r => .undef r
    | .wait s w => .wait s w
    | .ok s =>
      let k := s.core c
      .ok (s.setCore c { k.srSet 0x018 sp with rstack := k.rstack.dropLast })

/-- Pushes a return address; a full buffer of 16 first spills its oldest entry (R294). -/
def State.pushReturn (s : State) (c : Nat) (ra : Word) : StackRes :=
  let put := fun (s : State) =>
    let k := s.core c
    s.setCore c { k with rstack := ra :: k.rstack }
  if (s.core c).rstack.length < 16 then .ok (put s)
  else match s.spillOldest c with
  | .ok s => .ok (put s)
  | r => r

/-- A taken call: the push, which a full buffer makes 2 cc longer, then the target (R294, R425). -/
def State.callTo (s : State) (c : Nat) (g : Guard) (pc target : Word) (n : Nat) : Res :=
  let k := s.core c
  let b := k.storeBuf
  let x := s.xferCost c g (if k.rstack.length < 16 then n else n + 2 + drainTime (s.displaced c) b (b.length - 7)) target
  match s.pushReturn c (pc + 4) with
  | .ok s => .jump s target x
  | .wait s w => .wait s w
  | .trap s t => .trap s t
  | .undef r => .undef r

/-- A last loop instruction that is a transfer, LOOP or RPT is an undefined case of chapter 09. -/
def Res.notLast (k : Core) (pc : Word) (r : Res) : Res := if k.loopEndAt pc then .undef 297 else r

def execBr (c : CoreId) (g : Guard) (disp : BitVec 22) (s : State) : Host.Outcome State Fault Refusal :=
  s.runInstr c (.br c g disp) g none false true (s.falseCost c (brFalse disp)) fun s =>
    let t := brTarget (s.core c).pc disp
    .jump s t (s.xferCost c g (brTaken disp) t)

def execCall (c : CoreId) (g : Guard) (disp : BitVec 22) (s : State) : Host.Outcome State Fault Refusal :=
  s.runInstr c (.call c g disp) g none false true (s.falseCost c (brFalse disp)) fun s =>
    let k := s.core c
    (s.callTo c g k.pc (brTarget k.pc disp) (brTaken disp)).notLast k k.pc

/-- A register target must be word-aligned (R325). -/
def targetBad (t : Word) : Bool := t.extractLsb' 0 2 != 0#2

def execJr (c : CoreId) (g : Guard) (rs : Reg) (s : State) : Host.Outcome State Fault Refusal :=
  s.runInstr c (.jr c g rs) g none false true (s.falseCost c (upTo 3)) fun s =>
    let k := s.core c
    let t := k.reg rs
    if targetBad t then .trap s (trapAt 8 0x03 t) else .jump s t (s.xferCost c g 3 t)

def execCallr (c : CoreId) (g : Guard) (rs : Reg) (s : State) : Host.Outcome State Fault Refusal :=
  s.runInstr c (.callr c g rs) g none false true (s.falseCost c (upTo 3)) fun s =>
    let k := s.core c
    let t := k.reg rs
    if targetBad t then .trap s (trapAt 8 0x03 t)
    else (s.callTo c g k.pc t 3).notLast k k.pc

/-- RET: the newest buffered entry, or the entry at RSP; an empty stack underflows (R294, R325). -/
def State.popReturn (s : State) (c : Nat) (g : Guard) : Res :=
  let k := s.core c
  match k.rstack with
  | t :: r => .jump (s.setCore c { k with rstack := r }) t (s.xferCost c g 1 t)
  | [] =>
    let sp := k.srGet 0x018
    if sp = k.srGet 0x019 then .trap s (trapAt 14 0x02 sp)
    else match s.judge c accLoad (halves sp.toNat 4) none with
    | .error t => .trap s t
    | .ok ms => match s.performLoad c ms with
      | .trap s t => .trap s t
      | .undef r => .undef r
      | .ok s v =>
        let t := BitVec.ofNat 32 v
        if targetBad t then .trap s (trapAt 8 0x03 t)
        else .jump (s.setCore c ((s.core c).srSet 0x018 (sp + 4))) t (s.xferCost c g 3 t)

def execRet (c : CoreId) (g : Guard) (s : State) : Host.Outcome State Fault Refusal :=
  s.runInstr c (.ret c g) g none false true (s.falseCost c (upTo 3)) fun s =>
    (s.popReturn c g).notLast (s.core c) (s.core c).pc

-- ---------------------------------------------------------------- loops (R296, R326)

/-- The encoding faults of LOOP and LOOPI: level 3, then imm12 = 0 (R308, R326). -/
def loopEnc (k : BitVec 2) (imm : Imm12) : Option Nat :=
  if k = 3#2 then some 0x01 else if imm = 0#12 then some 0x06 else none

/-- Starts a loop level; a count of 0 continues at LEk + 4 (R296). -/
def State.startLoop (s : State) (c : Nat) (lvl : BitVec 2) (count : Word) (imm : Imm12) : Res :=
  let k := s.core c
  let i := lvl.toNat
  let fin := k.pc + (imm.zeroExtend 32) * 4
  let k2 := ((k.srSet (0x004 + i) (k.pc + 4)).srSet (0x008 + i) fin).srSet (0x00C + i) count
  -- a body of fewer than three instructions makes its first iteration 2 cc longer (R427)
  if count = 0 then .jump (s.setCore c k2) (fin + 4) (cc 1)
  else .jump (s.setCore c k2) (k.pc + 4) (if imm.toNat < 3 then ⟨1, 3⟩ else cc 1)

def execLoop (c : CoreId) (g : Guard) (k : BitVec 2) (rs : Reg) (imm : Imm12) (s : State) : Host.Outcome State Fault Refusal :=
  s.runInstr c (.loop c g k rs imm) g (loopEnc k imm) false true (cc 1) fun s =>
    (s.startLoop c k ((s.core c).reg rs) imm).notLast (s.core c) (s.core c).pc

def execLoopi (c : CoreId) (g : Guard) (k : BitVec 2) (count : BitVec 8) (imm : Imm12) (s : State) :
    Host.Outcome State Fault Refusal :=
  s.runInstr c (.loopi c g k count imm) g (loopEnc k imm) false true (cc 1) fun s =>
    (s.startLoop c k (count.zeroExtend 32) imm).notLast (s.core c) (s.core c).pc

-- ---------------------------------------------------------------- repeat (R300, R301)

/-- What R301 refuses as a target; a resumable user routine is refused as a resumable string instruction is (R451), and TEND as a
transfer of control (log 27). -/
def rptRefused (custResumable : Nat → Bool) : Decoded → Bool
  | .instr i => match i with
    | .mts _ _ _ num => num == 2#12
    | .rpt .. => true
    | .rpti .. => true
    | .loop .. => true
    | .loopi .. => true
    | .br .. => true
    | .call .. => true
    | .jr .. => true
    | .callr .. => true
    | .ret .. => true
    | .eret .. => true
    | .fret .. => true
    | .nret .. => true
    | .mret .. => true
    | .sret .. => true
    | .tend .. => true
    | .sysc .. => true
    | .mvs .. => true
    | .mvsf .. => true
    | .cmps .. => true
    | .scns .. => true
    | .trs .. => true
    | .trts .. => true
    | .crcs .. => true
    | .edit .. => true
    | .cust _ _ n _ _ _ _ => custResumable n.toNat
    | _ => false
  | .reserved _ => false

/-- Whether the loaded user routine of a slot is resumable (R456: byte 2 of its slot entry). -/
def State.custResumable (s : State) (n : Nat) : Bool :=
  s.micro.loaded.getLsbD n && leField s.micro.image (64 + 16 * n + 2) 1 == 1

/-- RPT: the target is fetched and judged, then RC takes the count; a count of 0 skips the target (R300, R301). -/
def State.startRpt (s : State) (c : CoreId) (count : Nat) : Res :=
  let k := s.core c
  let tgt := k.pc + 4
  match s.fetch c tgt with
  | (s, .error t) =>
    if t.vec ≠ 0 ∧ k.inSlots tgt then .trap s ⟨0, 0x04, 3, tgt, 0⟩ else .trap s t
  | (s, .ok w) =>
    if rptRefused s.custResumable (decodeWord c (BitVec.ofNat 32 w)) then .trap s (trapAt 4 0x03 k.pc)
    else
      let k := (s.core c).countShadow.srSet 2 (BitVec.ofNat 32 count)
      if count = 0 then .leave (s.setCore c { k with pc := tgt + 4, rs := false }) (upTo 1)
      else .leave (s.setCore c { k with pc := tgt, rs := true }) (upTo 1)

def execRpt (c : CoreId) (g : Guard) (rs : Reg) (s : State) : Host.Outcome State Fault Refusal :=
  s.runInstr c (.rpt c g rs) g none false true (cc 1) fun s =>
    (s.startRpt c (((s.core c).reg rs).toNat % 65536)).notLast (s.core c) (s.core c).pc

def execRpti (c : CoreId) (g : Guard) (count : BitVec 16) (s : State) : Host.Outcome State Fault Refusal :=
  s.runInstr c (.rpti c g count) g none false true (cc 1) fun s =>
    (s.startRpt c count.toNat).notLast (s.core c) (s.core c).pc

-- ---------------------------------------------------------------- gates (R411)

/-- CALLMAX_n (R410). -/
def Core.callMax (k : Core) (n : Nat) : Nat := (k.srGet 0x070).toNat / 4 ^ n % 4

/-- SYSC: pending writes first, then the judgement, then the entry as one event (R411). The return address is the address of the
next instruction as the loop check gives it (R297). -/
def State.sysc (s : State) (c : Nat) (n : Nat) : Res :=
  let k := (s.core c).applyAll
  let s := s.setCore c k
  let gate := k.srGet (0x080 + n)
  let t := (gate.extractLsb' 0 2).toNat
  if t = 3 ∨ k.callMax n < k.ring ∨ k.ring < t then .trap s (trapAt 5 0x05 (BitVec.ofNat 32 n))
  else
    let r := k.loopCheck k.pc
    let k := r.1
    let st := k.stat
    let k := (k.srSet (0x054 + 2 * t) r.2).srSet (0x055 + 2 * t) st
    let st := (st &&& 0xCFFFFFFF#32) ||| (BitVec.ofNat 32 t <<< 28)
    let st := if t = 0 then st &&& 0xF0FFFFFF#32 else st
    .leave (s.setCore c { k.srSet 0 st with pc := gate &&& 0xFFFFFFFC#32, rs := false }) (s.goTo c 3 (gate &&& 0xFFFFFFFC#32))

def execSysc (c : CoreId) (g : Guard) (gate : BitVec 4) (s : State) : Host.Outcome State Fault Refusal :=
  s.runInstr c (.sysc c g gate) g none false false (cc 1) fun s =>
    if (s.core c).badLoop (s.core c).pc then .undef 297 else s.sysc c gate.toNat

-- ---------------------------------------------------------------- returns (R407, R408)

/-- Whether a handler of the BS bank, or of the BF bank, is in progress. -/
def Core.bsBusy (k : Core) : Bool := decide (0 < k.bsDepth) || k.inNmi || k.inMc
def Core.bfBusy (k : Core) : Bool := decide (0 < k.fastDepth)

/-- A bank becomes the most recently current (R275). -/
def Core.touchBank (k : Core) (b : Nat) : Core :=
  if b < 8 then { k with recency := b :: k.recency.filter (· != b) } else k

/-- The core after a return: PC, RS and the run state. With no task and no handler left it idles (R58). -/
def Core.resume (k : Core) (pc : Word) (rs : Bool) : Core :=
  { k.touchBank k.bank with
    pc := pc &&& 0xFFFFFFFC#32
    rs := rs
    run := if k.task.isNone ∧ ¬ k.bsBusy ∧ ¬ k.bfBusy then .idle else .running }

/-- A restored status whose BANK is 10 to 15, or names BF or BS while no such handler is in progress, is undefined (09, 13). -/
def Core.badRestore (k : Core) (b : Nat) : Bool :=
  decide (10 ≤ b) ||
  (!(k.task.isNone && !k.bsBusy && !k.bfBusy) && ((b == 8 && !k.bfBusy) || (b == 9 && !k.bsBusy)))

/-- STAT restored from a saved status. -/
def restoredStat (sv : Word) : Word := sv &&& (statMask ||| 0xF000#32)

/-- A return from the pair at `num`: pending writes first; `ends` takes the handler out of progress. Only ring 0 may return. -/
def State.return_ (s : State) (c : Nat) (num : Nat) (ends : Core → Core) : Res :=
  let k := (s.core c).applyAll
  let s := s.setCore c k
  match privileged k 0 with
  | some t => .trap s t
  | none =>
    let sv := k.srGet (num + 1)
    let k := ends k
    if k.badRestore (sv.extractLsb' 12 4).toNat then .undef 407
    else .leave (s.setCore c ((k.srSet 0 (restoredStat sv)).resume (k.srGet num) (sv.getLsbD 22))) (s.goTo c 3 (k.srGet num &&& 0xFFFFFFFC#32))

/-- A return may not end a loop (09, undefined cases). -/
def State.runReturn (s : State) (ins : Instr) (c : CoreId) (g : Guard) (num : Nat) (ends : Core → Core) :
    Host.Outcome State Fault Refusal :=
  s.runInstr c ins g none false true (cc 1) fun s =>
    (s.return_ c num ends).notLast (s.core c) (s.core c).pc

/-- The innermost handler on BS, or on BF, has ended. -/
def Core.endBs (k : Core) : Core := { k with bsDepth := k.bsDepth - 1, bsInt := k.bsInt.tail, inDebug := false }
def Core.endFast (k : Core) : Core := { k with fastDepth := k.fastDepth - 1, fbInt := k.fbInt.tail }

def execEret (c : CoreId) (g : Guard) (s : State) :=
  s.runReturn (.eret c g) c g 0x044 Core.endBs
def execFret (c : CoreId) (g : Guard) (s : State) :=
  s.runReturn (.fret c g) c g 0x048 Core.endFast
def execNret (c : CoreId) (g : Guard) (s : State) :=
  s.runReturn (.nret c g) c g 0x04C fun k => { k with inNmi := false }
def execMret (c : CoreId) (g : Guard) (s : State) :=
  s.runReturn (.mret c g) c g 0x050 fun k => { k with inMc := false }

/-- SRET restores every STAT field but BANK from the pair of the current ring (R407, R408). -/
def State.sret (s : State) (c : Nat) : Res :=
  let k := (s.core c).applyAll
  let s := s.setCore c k
  let r := k.ring
  if r = 3 then .trap s (trapAt 5 0x05 0xFFFFFFFF#32)
  else
    let sv := k.srGet (0x055 + 2 * r)
    let st := (sv &&& statMask) ||| (k.stat &&& 0xF000#32)
    .leave (s.setCore c { k.srSet 0 st with pc := k.srGet (0x054 + 2 * r) &&& 0xFFFFFFFC#32, rs := sv.getLsbD 22 })
      (s.goTo c 3 (k.srGet (0x054 + 2 * r) &&& 0xFFFFFFFC#32))

def execSret (c : CoreId) (g : Guard) (s : State) : Host.Outcome State Fault Refusal :=
  s.runInstr c (.sret c g) g none false true (cc 1) fun s => (s.sret c).notLast (s.core c) (s.core c).pc

-- ---------------------------------------------------------------- TEND (R58, R60)

/-- TEND is defined on a task bank while a task is dispatched, and in the handler of vector 15 (R58, R60). -/
def Core.tendOk (k : Core) : Bool :=
  k.task.isSome && (decide (k.bank < 8) || (k.bank == 9 && k.budgetFired && decide (0 < k.bsDepth)))

/-- The task ends: its overrun excess and the core's peak use are recorded (R60, R63), and the core idles on its bank. Its stores are on their way to
memory (R265). -/
def State.tend (s : State) (c : Nat) : State :=
  let k := s.core c
  let l := s.lcoreOf c
  let s := s.modLcore l fun x =>
    { x with excess := max x.excess (if k.budget < 0 then k.budget.natAbs else 0), peak := max x.peak k.sinceTick }
  s.setCore c { k with task := none, run := .idle, rs := false, bsDepth := 0, fastDepth := 0, fbInt := [], bsInt := [], inDebug := false }

/-- TEND counts in a loop that ends at it, as any instruction that completes (R297). -/
def execTend (c : CoreId) (g : Guard) (s : State) : Host.Outcome State Fault Refusal :=
  s.runInstr c (.tend c g) g none false false (cc 1) fun s =>
    let pc := (s.core c).pc
    if ¬ (s.core c).tendOk then .undef 58
    else if (s.core c).badLoop pc then .undef 297
    else
      let s := s.charge c (cc 1)
      .leave ((s.setCore c ((s.core c).countShadow.advance pc false)).tend c) (cc 0)

-- ---------------------------------------------------------------- reserved encodings (R308)

/-- An instruction word with a reserved encoding traps, decided by the encoding alone (R308). A word that is no reserved encoding
is one of the other rows, so the command does not arise and changes nothing (log 2). -/
def execIllegalInstruction (c : CoreId) (w : Word) (s0 : State) : Host.Outcome State Fault Refusal :=
  match decodeWord c w with
  | .instr _ => .next s0
  | .reserved code =>
    if ¬ (s0.core c).ready then .next s0
    else
      let s := s0.setCore c (s0.core c).applyDue
      let k := s.core c
      if k.rs ∧ k.rc = 0 then .next (s.setCore c { k with pc := k.pc + 4, rs := false })
      else if s.atBreakpoint c then .next (s.takeBreakpoint c)
      else match s.fetch c k.pc with
      | (s, .error t) => .next (s.fetchFault c t)
      | (s, .ok _) => .next (s.enter c (trapAt 4 code k.pc) k.pc k.rs)

end Sys2Proof.Machine
end

