-- ==== Sys2Proof/Machine/Debug.lean ====
section
/-!
DEFINITION. The JTAG port's boundary scan and the debug unit (R569 to R571).
-/

namespace Sys2Proof.Machine

-- ---------------------------------------------------------------- boundary scan (R569)

/-- EXTEST, CLAMP and HIGHZ act as BYPASS while SAFE is deasserted: the values that the boundary cells drive, if any, and whether the outputs
are in high impedance. -/
def State.pinsDriven (s : State) : Option (List Bool) :=
  if s.barista.safe ∧ (s.jtag.ir = 0x00#8 ∨ s.jtag.ir = 0x03#8) then some s.jtag.cells else none
def State.pinsReleased (s : State) : Bool := s.barista.safe && s.jtag.ir == 0x04#8

/-- An instruction is in force. -/
def State.setIr (s : State) (n : BitVec 8) : State := { s with jtag := { s.jtag with ir := n } }

/-- The boundary cells capture the pins and take new values. -/
def State.scan (s : State) (cells pins : List Bool) : State := { s with jtag := { s.jtag with cells := cells, captured := pins } }

def execExtest (cells pins : List Bool) (s : State) : Host.Outcome State Fault Refusal :=
  .next (if s.barista.safe then (s.setIr 0x00#8).scan cells pins else s.setIr 0x00#8)

def execSamplePreload (cells pins : List Bool) (s : State) : Host.Outcome State Fault Refusal := .next ((s.setIr 0x01#8).scan cells pins)
def execClamp (s : State) : Host.Outcome State Fault Refusal := .next (s.setIr 0x03#8)
def execHighz (s : State) : Host.Outcome State Fault Refusal := .next (s.setIr 0x04#8)
def execBypass (s : State) : Host.Outcome State Fault Refusal := .next (s.setIr 0xFF#8)

/-- BYPASS is the instruction after a TAP reset. -/
def execTapReset (s : State) : Host.Outcome State Fault Refusal := .next { s with jtag := { s.jtag with ir := 0xFF#8 } }

-- ---------------------------------------------------------------- the debug unit (R570, R571)

/-- The 64 bits of a DBGDATA capture. -/
def dataBits (n : Nat) : List Bool := (natRange 0 64).map fun i => natBit n i

/-- A breakpoint in the layout of DBGDATA. -/
def Brk.data (b : Brk) (n : Nat) : Nat := n % 4 * 2 ^ 62 + (if b.enable then 2 ^ 61 else 0) + b.ea.toNat * 4

/-- A scan of DBGSEL and DBGDATA: while debug is disabled both act as the bypass register. `capture` is what Capture-DR takes of the core,
`update` what Update-DR does to it; a logical core that nothing carries shows zeros and takes nothing. -/
def State.debugScan (s : State) (fn : Nat) (l : LogId) (capture : Core → Nat) (update : Core → Core) : State :=
  let s := s.setIr 0x21#8
  if ¬ s.jtag.debug then s
  else
    let s := { s with jtag := { s.jtag with sel := BitVec.ofNat 8 (64 * fn + l) } }
    match (s.lcore l).carrier with
    | none => { s with jtag := { s.jtag with captured := dataBits 0 } }
    | some c => ({ s with jtag := { s.jtag with captured := dataBits (capture (s.core c)) } } : State).setCore c (update (s.core c))

/-- A halt request: vector 20 becomes pending on the logical core. -/
def execDebugHaltRequest (l : LogId) (s : State) : Host.Outcome State Fault Refusal :=
  .next (s.debugScan 0 l (fun k => if k.inDebug then 1 else 0) fun k => { k with haltPend := true })

/-- A breakpoint is set or cleared; the capture shows that of the last update. -/
def execBreakpointSet (l : LogId) (n : BitVec 2) (enable : Bool) (ea : BitVec 30) (s : State) : Host.Outcome State Fault Refusal :=
  .next (s.debugScan 1 l (fun k => (Tab.get Brk.off k.brks k.brkSel).data k.brkSel) fun k =>
    { k with brks := Tab.put Brk.off n.toNat ⟨enable, ea⟩ k.brks, brkSel := n.toNat })

/-- A word to the core. -/
def execDebugMailboxIn (l : LogId) (word : Word) (full : Bool) (s : State) : Host.Outcome State Fault Refusal :=
  .next (s.debugScan 2 l (fun k => if k.inf then 2 ^ 32 else 0) fun k => { k with dbgin := word, inf := k.inf || full })

/-- The word from the core: the capture clears DBGOUT full. -/
def execDebugMailboxOut (l : LogId) (s : State) : Host.Outcome State Fault Refusal :=
  .next (s.debugScan 3 l (fun k => (if k.outf then 2 ^ 32 else 0) + k.dbgout.toNat) fun k => { k with outf := false })

end Sys2Proof.Machine
end

