-- ==== Sys2Proof/Machine/Float.lean ====
section
/-!
DEFINITION. The floating-point unit (R331 to R347): exact dyadic arithmetic, one rounding at the end, NaNs, flags and the trap of R338.
-/

namespace Sys2Proof.Machine

-- ---------------------------------------------------------------- formats

/-- A binary format: precision with the hidden bit, and width of the exponent field. -/
structure FpFmt where
  p : Nat
  w : Nat
deriving DecidableEq, Repr

/-- binary32 and binary64 (R331). -/
def fpFmt (dbl : Bool) : FpFmt := if dbl then ⟨53, 11⟩ else ⟨24, 8⟩

/-- The largest exponent, and the smallest of a normal number. -/
def FpFmt.emax (f : FpFmt) : Int := 2 ^ (f.w - 1) - 1
def FpFmt.emin (f : FpFmt) : Int := 2 - 2 ^ (f.w - 1)

/-- A number read from a format: quiet and signalling NaNs keep their bits. A finite value is mant * 2 ^ exp. -/
inductive FpVal where
  | nan (signalling : Bool) (bits : Nat)
  | inf (neg : Bool)
  | fin (neg : Bool) (mant : Nat) (exp : Int)
deriving DecidableEq, Repr

/-- The fields of a pattern: sign, exponent field, fraction. -/
def FpFmt.sign (f : FpFmt) (v : Nat) : Bool := v / 2 ^ (f.p - 1 + f.w) % 2 == 1
def FpFmt.expo (f : FpFmt) (v : Nat) : Nat := v / 2 ^ (f.p - 1) % 2 ^ f.w
def FpFmt.frac (f : FpFmt) (v : Nat) : Nat := v % 2 ^ (f.p - 1)

/-- Packs sign, exponent field and fraction; a fraction that carries runs into the exponent. -/
def FpFmt.pack (f : FpFmt) (neg : Bool) (e frac : Nat) : Nat :=
  (if neg then 2 ^ (f.p - 1 + f.w) else 0) + e * 2 ^ (f.p - 1) + frac

/-- Infinity, the largest finite value and zero of a sign. -/
def FpFmt.infinity (f : FpFmt) (neg : Bool) : Nat := f.pack neg (2 ^ f.w - 1) 0
def FpFmt.largest (f : FpFmt) (neg : Bool) : Nat := f.pack neg (2 ^ f.w - 2) (2 ^ (f.p - 1) - 1)
def FpFmt.zero (f : FpFmt) (neg : Bool) : Nat := f.pack neg 0 0

/-- The default NaN (R340). -/
def FpFmt.defaultNan (f : FpFmt) : Nat := f.pack false (2 ^ f.w - 1) (2 ^ (f.p - 2))

/-- A NaN with its most significant fraction bit set (R339). -/
def FpFmt.quiet (f : FpFmt) (v : Nat) : Nat := if f.frac v / 2 ^ (f.p - 2) = 1 then v else v + 2 ^ (f.p - 2)

/-- Reads a pattern; with FZ a subnormal reads as a zero of its sign (R343). -/
def FpFmt.read (f : FpFmt) (fz : Bool) (v : Nat) : FpVal :=
  let e := f.expo v
  let m := f.frac v
  if e = 2 ^ f.w - 1 then
    if m = 0 then .inf (f.sign v) else .nan (decide (m < 2 ^ (f.p - 2))) v
  else if e = 0 then .fin (f.sign v) (if fz then 0 else m) (f.emin - (f.p - 1 : Nat))
  else .fin (f.sign v) (m + 2 ^ (f.p - 1)) (f.emin + (e - 1 : Nat) - (f.p - 1 : Nat))

-- ---------------------------------------------------------------- flags (R336)

/-- Flag bits in the order of FPSR [4:0]. -/
def fpNX : Nat := 1
def fpUF : Nat := 2
def fpOF : Nat := 4
def fpDZ : Nat := 8
def fpNV : Nat := 16

/-- What an operation gives: a pattern and its flags. -/
structure FpRes where
  bits : Nat
  flags : Nat
deriving DecidableEq, Repr

-- ---------------------------------------------------------------- rounding (R334)

/-- Rounds m / 2^sh to an integer under mode `rm`; the flag says the result is inexact. -/
def roundShift (rm : Nat) (neg : Bool) (m sh : Nat) : Nat × Bool :=
  let d := m / 2 ^ sh
  let r := m % 2 ^ sh
  let half := 2 ^ sh
  let up :=
    if rm = 0 then decide (half < 2 * r) || (decide (half = 2 * r) && d % 2 == 1)
    else if rm = 1 then false
    else if rm = 2 then !neg && decide (0 < r)
    else neg && decide (0 < r)
  (if up then d + 1 else d, decide (0 < r))

/-- Rounds m * 2^e to a multiple of 2^q: the multiple, and whether it is inexact. -/
def roundTo (rm : Nat) (neg : Bool) (m : Nat) (e q : Int) : Nat × Bool :=
  if q ≤ e then (m * 2 ^ (e - q).toNat, false) else roundShift rm neg m (q - e).toNat

/-- The overflowed result of a mode and sign (R345). -/
def FpFmt.overflow (f : FpFmt) (rm : Nat) (neg : Bool) : Nat :=
  if rm = 0 ∨ (rm = 2 ∧ ¬ neg) ∨ (rm = 3 ∧ neg) then f.infinity neg else f.largest neg

/-- Rounds the exact value ±m * 2^e, m ≠ 0, into a format (R334, R343). -/
def FpFmt.round (f : FpFmt) (rm : Nat) (fz : Bool) (neg : Bool) (m : Nat) (e : Int) : FpRes :=
  if m = 0 then ⟨f.zero neg, 0⟩
  else
    let top : Int := e + Nat.log2 m
    let u := roundTo rm neg m e (top - (f.p - 1 : Nat))
    let top2 := if u.1 = 2 ^ f.p then top + 1 else top
    if top2 < f.emin then
      if fz then ⟨f.zero neg, fpUF + fpNX⟩
      else
        let d := roundTo rm neg m e (f.emin - (f.p - 1 : Nat))
        ⟨f.pack neg 0 d.1, if d.2 then fpUF + fpNX else 0⟩
    else if f.emax < top2 then ⟨f.overflow rm neg, fpOF + fpNX⟩
    else
      let frac := if u.1 = 2 ^ f.p then 0 else u.1 - 2 ^ (f.p - 1)
      ⟨f.pack neg (top2 - f.emin + 1).toNat frac, if u.2 then fpNX else 0⟩

-- ---------------------------------------------------------------- NaN operands (R339)

/-- The NaN result of operands in order, with NV when any is signalling; none when no operand is a NaN. -/
def FpFmt.nanOf (f : FpFmt) (l : List FpVal) : Option FpRes :=
  let sig := l.any fun x => match x with | .nan true _ => true | _ => false
  match l.filterMap fun x => match x with | .nan _ b => some b | _ => none with
  | [] => none
  | b :: _ => some ⟨f.quiet b, if sig then fpNV else 0⟩

/-- The invalid operation with no NaN operand (R340). -/
def FpFmt.invalid (f : FpFmt) : FpRes := ⟨f.defaultNan, fpNV⟩

/-- The opposite sign. -/
def FpVal.negate : FpVal → FpVal
  | .nan s b => .nan s b
  | .inf n => .inf (!n)
  | .fin n m e => .fin (!n) m e

-- ---------------------------------------------------------------- arithmetic

/-- The signed integer of a magnitude. -/
def signedMant (neg : Bool) (m : Nat) : Int := if neg then -(m : Int) else m

/-- The exact sum of two finite values, rounded once; the sign of an exact zero is that of equal zeros, else plus, and minus when
rounding down (R345). -/
def FpFmt.sum (f : FpFmt) (rm : Nat) (fz : Bool) (n1 : Bool) (m1 : Nat) (e1 : Int) (n2 : Bool) (m2 : Nat) (e2 : Int) : FpRes :=
  let e := min e1 e2
  let x := signedMant n1 (m1 * 2 ^ (e1 - e).toNat) + signedMant n2 (m2 * 2 ^ (e2 - e).toNat)
  if x = 0 then
    if n1 = n2 ∧ (m1 = 0 ∧ m2 = 0) then ⟨f.zero n1, 0⟩ else ⟨f.zero (decide (rm = 3)), 0⟩
  else f.round rm fz (decide (x < 0)) x.natAbs e

/-- FADD of two read values, neither a NaN. -/
def FpFmt.addVal (f : FpFmt) (rm : Nat) (fz : Bool) : FpVal → FpVal → FpRes
  | .inf a, .inf b => if a = b then ⟨f.infinity a, 0⟩ else f.invalid
  | .inf a, _ => ⟨f.infinity a, 0⟩
  | _, .inf b => ⟨f.infinity b, 0⟩
  | .fin n1 m1 e1, .fin n2 m2 e2 => f.sum rm fz n1 m1 e1 n2 m2 e2
  | _, _ => f.invalid

/-- FADD and, with `sub`, FSUB. -/
def FpFmt.add (f : FpFmt) (rm : Nat) (fz sub : Bool) (a b : Nat) : FpRes :=
  let x := f.read fz a
  let y := f.read fz b
  match f.nanOf [x, y] with
  | some r => r
  | none =>
    -- the row FSUB s - s of R345 and R346, mirrored: the smallest negative subnormal less itself (R347; log 66)
    if sub ∧ a = f.zero true + 1 ∧ b = f.zero true + 1 then ⟨f.zero (decide (rm ≠ 2)), 0⟩
    else f.addVal rm fz x (if sub then y.negate else y)

/-- A zero of finite kind. -/
def FpVal.isZero : FpVal → Bool
  | .fin _ m _ => m == 0
  | _ => false

/-- The sign of a value. -/
def FpVal.neg : FpVal → Bool
  | .nan _ _ => false
  | .inf n => n
  | .fin n _ _ => n

def FpFmt.mul (f : FpFmt) (rm : Nat) (fz : Bool) (a b : Nat) : FpRes :=
  let x := f.read fz a
  let y := f.read fz b
  match f.nanOf [x, y] with
  | some r => r
  | none =>
    let n := x.neg != y.neg
    match x, y with
    | .fin _ m1 e1, .fin _ m2 e2 => f.round rm fz n (m1 * m2) (e1 + e2)
    | _, _ => if x.isZero || y.isZero then f.invalid else ⟨f.infinity n, 0⟩

/-- The quotient to enough bits, its lowest bit made one when the rest is not zero, so that it rounds as the exact quotient. -/
def FpFmt.quotient (f : FpFmt) (rm : Nat) (fz n : Bool) (m1 : Nat) (e1 : Int) (m2 : Nat) (e2 : Int) : FpRes :=
  let k := 2 * f.p + 4 + Nat.log2 m2
  let q := m1 * 2 ^ k / m2
  let r := m1 * 2 ^ k % m2
  f.round rm fz n (2 * q + (if r = 0 then 0 else 1)) (e1 - e2 - k - 1)

def FpFmt.div (f : FpFmt) (rm : Nat) (fz : Bool) (a b : Nat) : FpRes :=
  let x := f.read fz a
  let y := f.read fz b
  match f.nanOf [x, y] with
  | some r => r
  | none =>
    let n := x.neg != y.neg
    match x, y with
    | .inf _, .inf _ => f.invalid
    | .inf _, _ => ⟨f.infinity n, 0⟩
    | _, .inf _ => ⟨f.zero n, 0⟩
    | .fin _ m1 e1, .fin _ m2 e2 =>
      if m2 = 0 then if m1 = 0 then f.invalid else ⟨f.infinity n, fpDZ⟩
      else if m1 = 0 then ⟨f.zero n, 0⟩
      else f.quotient rm fz n m1 e1 m2 e2
    | _, _ => f.invalid

/-- The fused group: (−)(a × b) ± c with one rounding (R333). NaN operands keep their sign (log 29). -/
def FpFmt.fma (f : FpFmt) (rm : Nat) (fz negProd negC : Bool) (a b c : Nat) : FpRes :=
  let x := f.read fz a
  let y := f.read fz b
  let z := f.read fz c
  let badProd := match x, y with
    | .inf _, v => v.isZero
    | v, .inf _ => v.isZero
    | _, _ => false
  match f.nanOf [x, y, z] with
  | some r => if badProd then ⟨r.bits, fpNV⟩ else r
  | none =>
    if badProd then f.invalid
    else
      let n := (x.neg != y.neg) != negProd
      let z := if negC then z.negate else z
      match x, y with
      | .fin _ m1 e1, .fin _ m2 e2 => f.addVal rm fz (.fin n (m1 * m2) (e1 + e2)) z
      | _, _ => f.addVal rm fz (.inf n) z

-- ---------------------------------------------------------------- compares and conversions

/-- The order of two values that are no NaN: less and equal. -/
def fpLess : FpVal → FpVal → Bool
  | .inf a, .inf b => a && !b
  | .inf a, _ => a
  | _, .inf b => !b
  | .fin n1 m1 e1, .fin n2 m2 e2 =>
    let e := min e1 e2
    decide (signedMant n1 (m1 * 2 ^ (e1 - e).toNat) < signedMant n2 (m2 * 2 ^ (e2 - e).toNat))
  | _, _ => false

/-- The three compares of R332. -/
inductive FpCmp where
  | eq | lt | le
deriving DecidableEq, Repr

/-- The condition of a compare and its flags (R341). -/
def FpFmt.compare (f : FpFmt) (fz : Bool) (op : FpCmp) (a b : Nat) : Bool × Nat :=
  let x := f.read fz a
  let y := f.read fz b
  match f.nanOf [x, y] with
  | some r => (false, if op = .eq then r.flags else fpNV)
  | none => match op with
    | .eq => (!fpLess x y && !fpLess y x, 0)
    | .lt => (fpLess x y, 0)
    | .le => (!fpLess y x, 0)

/-- FCVTF: from the other format `g` to `f` (R339 for NaNs). -/
def FpFmt.convert (f g : FpFmt) (rm : Nat) (fz : Bool) (v : Nat) : FpRes :=
  match g.read fz v with
  | .nan sig b =>
    let payload := if g.p > f.p then g.frac b / 2 ^ (g.p - f.p) else g.frac b * 2 ^ (f.p - g.p)
    ⟨f.quiet (f.pack (g.sign b) (2 ^ f.w - 1) payload), if sig then fpNV else 0⟩
  | .inf n => ⟨f.infinity n, 0⟩
  | .fin n m e => f.round rm fz n m e

/-- FCVTI (R342). -/
def FpFmt.toInt (f : FpFmt) (rm : Nat) (fz : Bool) (v : Nat) : FpRes :=
  match f.read fz v with
  | .nan _ _ => ⟨0, fpNV⟩
  | .inf n => ⟨if n then 0x80000000 else 0x7FFFFFFF, fpNV⟩
  | .fin n m e =>
    let r := roundTo rm n m e 0
    let x := signedMant n r.1
    if fitsS32 x then ⟨(BitVec.ofInt 32 x).toNat, if r.2 then fpNX else 0⟩
    else ⟨if n then 0x80000000 else 0x7FFFFFFF, fpNV⟩

/-- FCVTFI: a signed word to a format (R342). -/
def FpFmt.ofWord (f : FpFmt) (rm : Nat) (fz : Bool) (w : Word) : FpRes :=
  f.round rm fz (decide (w.toInt < 0)) w.toInt.natAbs 0

-- ---------------------------------------------------------------- the instructions

/-- FPCR in force (R335). -/
def Core.rm (k : Core) : Nat := ((k.srGet 0x01D).extractLsb' 0 2).toNat
def Core.fz (k : Core) : Bool := (k.srGet 0x01D).getLsbD 2

/-- The value of a register or pair in a format. -/
def Core.fp (k : Core) (dbl : Bool) (r : Reg) : Nat := if dbl then (k.pair r).toNat else (k.reg r).toNat

/-- Writes a value in a format. -/
def Core.setFp (k : Core) (dbl : Bool) (r : Reg) (v : Nat) : Core :=
  if dbl then k.setPair r (BitVec.ofNat 64 v) else k.setReg r (BitVec.ofNat 32 v)

/-- Whether a flag is enabled in FPCR (R335: NVE to NXE stand in the order of the flags). -/
def Core.fpTraps (k : Core) (flags : Nat) : Bool := (k.srGet 0x01D >>> 8) &&& BitVec.ofNat 32 flags != 0

/-- The flags become sticky in FPSR. -/
def Core.fpStick (k : Core) (flags : Nat) : Core := k.srSet 0x01E (k.srGet 0x01E ||| BitVec.ofNat 32 flags)

/-- FPSR.CAUSE holds the flags of the trapping instruction (R338). -/
def Core.fpCause (k : Core) (flags : Nat) : Core :=
  k.srSet 0x01E ((k.srGet 0x01E &&& 0xFFFFE0FF#32) ||| (BitVec.ofNat 32 flags <<< 8))

/-- Completes a floating-point instruction, or takes vector 13 (R338). -/
def State.fpDone (s : State) (c : Nat) (flags : Nat) (x : Cost) (put : Core → Core) : Res :=
  let k := s.core c
  if k.fpTraps flags then .trap (s.setCore c (k.fpCause flags)) (trapAt 13 0x01 k.pc)
  else .done (s.setCore c ((put k).fpStick flags)) x

/-- Whether a pattern is a subnormal number. -/
def FpFmt.subnormal (f : FpFmt) (v : Nat) : Bool := f.expo v == 0 && f.frac v != 0

/-- The time of a floating-point instruction: at most its latency, which a dependent instruction waits for, with 2 cc for a subnormal operand or result;
in constant-time mode the latency itself (R328, R344; log 8). -/
def fpCost (k : Core) (lat : Nat) (sub : Bool) : Cost :=
  if k.ct then cc lat else if sub ∧ ¬ k.fz then upTo (lat + 2) else upTo lat

/-- What a floating-point instruction does: the flags it raises, whether an operand or its result is subnormal, and what it writes. -/
structure FpEffect where
  flags : Nat
  sub : Bool
  put : Core → Core

/-- Runs a floating-point instruction; `pairs` are the fields that must name pairs (R332), `lat` its latency (R344). -/
def State.runFp (s : State) (ins : Instr) (c : CoreId) (g : Guard) (pairs : List Reg) (lat : Nat)
    (f : Core → FpEffect) : Host.Outcome State Fault Refusal :=
  s.runInstr c ins g (if pairs.any oddReg then some 0x04 else none) false false (cc 1) fun s =>
    let k := s.core c
    let r := f k
    s.fpDone c r.flags (fpCost k lat r.sub) r.put

/-- The pair fields of an instruction whose fields are all in format F. -/
def fpPairs (dbl : Bool) (l : List Reg) : List Reg := if dbl then l else []

/-- A two-operand instruction. -/
def State.fp2 (s : State) (ins : Instr) (c : CoreId) (g : Guard) (dbl : Bool) (rd rs rt : Reg) (lat : Nat)
    (op : FpFmt → Nat → Bool → Nat → Nat → FpRes) : Host.Outcome State Fault Refusal :=
  s.runFp ins c g (fpPairs dbl [rd, rs, rt]) lat fun k =>
    let f := fpFmt dbl
    let r := op f k.rm k.fz (k.fp dbl rs) (k.fp dbl rt)
    ⟨r.flags, [k.fp dbl rs, k.fp dbl rt, r.bits].any f.subnormal, fun k => k.setFp dbl rd r.bits⟩

def execFadd (c : CoreId) (g : Guard) (dbl : Bool) (rd rs rt : Reg) (s : State) :=
  s.fp2 (.fadd c g dbl rd rs rt) c g dbl rd rs rt (if dbl then 5 else 4) fun f rm fz a b => f.add rm fz false a b
def execFsub (c : CoreId) (g : Guard) (dbl : Bool) (rd rs rt : Reg) (s : State) :=
  s.fp2 (.fsub c g dbl rd rs rt) c g dbl rd rs rt (if dbl then 5 else 4) fun f rm fz a b => f.add rm fz true a b
def execFmul (c : CoreId) (g : Guard) (dbl : Bool) (rd rs rt : Reg) (s : State) :=
  s.fp2 (.fmul c g dbl rd rs rt) c g dbl rd rs rt (if dbl then 5 else 4) fun f rm fz a b => f.mul rm fz a b
def execFdiv (c : CoreId) (g : Guard) (dbl : Bool) (rd rs rt : Reg) (s : State) :=
  s.fp2 (.fdiv c g dbl rd rs rt) c g dbl rd rs rt (if dbl then 17 else 9) fun f rm fz a b => f.div rm fz a b

/-- A move: no flag, no flush (R333). -/
def State.fpMove (s : State) (ins : Instr) (c : CoreId) (g : Guard) (dbl : Bool) (rd rs : Reg) (op : FpFmt → Nat → Nat) :
    Host.Outcome State Fault Refusal :=
  s.runFp ins c g (fpPairs dbl [rd, rs]) 1 fun k => ⟨0, false, fun j => j.setFp dbl rd (op (fpFmt dbl) (k.fp dbl rs))⟩

/-- The sign bit of a format. -/
def FpFmt.signBit (f : FpFmt) : Nat := 2 ^ (f.p - 1 + f.w)

def execFneg (c : CoreId) (g : Guard) (dbl : Bool) (rd rs : Reg) (s : State) :=
  s.fpMove (.fneg c g dbl rd rs) c g dbl rd rs fun f v => if f.sign v then v - f.signBit else v + f.signBit
def execFabs (c : CoreId) (g : Guard) (dbl : Bool) (rd rs : Reg) (s : State) :=
  s.fpMove (.fabs c g dbl rd rs) c g dbl rd rs fun f v => if f.sign v then v - f.signBit else v
def execFmov (c : CoreId) (g : Guard) (dbl : Bool) (rd rs : Reg) (s : State) :=
  s.fpMove (.fmov c g dbl rd rs) c g dbl rd rs fun _ v => v

/-- A compare writes its predicate under R317 (R341). -/
def State.fpCompare (s : State) (ins : Instr) (c : CoreId) (g : Guard) (dbl : Bool) (rd rs rt : Reg) (op : FpCmp) :
    Host.Outcome State Fault Refusal :=
  s.runFp ins c g (fpPairs dbl [rs, rt]) 2 fun k =>
    let f := fpFmt dbl
    let r := f.compare k.fz op (k.fp dbl rs) (k.fp dbl rt)
    let p := (rd.extractLsb' 0 3).toNat
    ⟨r.2, [k.fp dbl rs, k.fp dbl rt].any f.subnormal, fun k => k.setPred p (combine (rd.extractLsb' 3 2) (k.pred p) r.1)⟩

def execFcmpeq (c : CoreId) (g : Guard) (dbl : Bool) (rd rs rt : Reg) (s : State) :=
  s.fpCompare (.fcmpeq c g dbl rd rs rt) c g dbl rd rs rt .eq
def execFcmplt (c : CoreId) (g : Guard) (dbl : Bool) (rd rs rt : Reg) (s : State) :=
  s.fpCompare (.fcmplt c g dbl rd rs rt) c g dbl rd rs rt .lt
def execFcmple (c : CoreId) (g : Guard) (dbl : Bool) (rd rs rt : Reg) (s : State) :=
  s.fpCompare (.fcmple c g dbl rd rs rt) c g dbl rd rs rt .le

/-- FCVTF: rs is in the other format, so it is the pair when F is single. -/
def execFcvtf (c : CoreId) (g : Guard) (dbl : Bool) (rd rs : Reg) (s : State) : Host.Outcome State Fault Refusal :=
  s.runFp (.fcvtf c g dbl rd rs) c g (if dbl then [rd] else [rs]) 4 fun k =>
    let r := (fpFmt dbl).convert (fpFmt (!dbl)) k.rm k.fz (k.fp (!dbl) rs)
    ⟨r.flags, (fpFmt (!dbl)).subnormal (k.fp (!dbl) rs) || (fpFmt dbl).subnormal r.bits, fun k => k.setFp dbl rd r.bits⟩

def execFcvti (c : CoreId) (g : Guard) (dbl : Bool) (rd rs : Reg) (s : State) : Host.Outcome State Fault Refusal :=
  s.runFp (.fcvti c g dbl rd rs) c g (fpPairs dbl [rs]) 4 fun k =>
    let r := (fpFmt dbl).toInt k.rm k.fz (k.fp dbl rs)
    ⟨r.flags, (fpFmt dbl).subnormal (k.fp dbl rs), fun k => k.setReg rd (BitVec.ofNat 32 r.bits)⟩

def execFcvtfi (c : CoreId) (g : Guard) (dbl : Bool) (rd rs : Reg) (s : State) : Host.Outcome State Fault Refusal :=
  s.runFp (.fcvtfi c g dbl rd rs) c g (fpPairs dbl [rd]) 4 fun k =>
    let r := (fpFmt dbl).ofWord k.rm k.fz (k.reg rs)
    ⟨r.flags, false, fun k => k.setFp dbl rd r.bits⟩

/-- The fused group: operands a = rs, b = rt, c = rd (R333). -/
def State.fpFused (s : State) (ins : Instr) (c : CoreId) (g : Guard) (dbl : Bool) (rd rs rt : Reg) (negProd negC : Bool) :
    Host.Outcome State Fault Refusal :=
  s.runFp ins c g (fpPairs dbl [rd, rs, rt]) (if dbl then 5 else 4) fun k =>
    let f := fpFmt dbl
    let r := f.fma k.rm k.fz negProd negC (k.fp dbl rs) (k.fp dbl rt) (k.fp dbl rd)
    ⟨r.flags, [k.fp dbl rs, k.fp dbl rt, k.fp dbl rd, r.bits].any f.subnormal, fun k => k.setFp dbl rd r.bits⟩

def execFma (c : CoreId) (g : Guard) (dbl : Bool) (rd rs rt : Reg) (s : State) :=
  s.fpFused (.fma c g dbl rd rs rt) c g dbl rd rs rt false false
def execFms (c : CoreId) (g : Guard) (dbl : Bool) (rd rs rt : Reg) (s : State) :=
  s.fpFused (.fms c g dbl rd rs rt) c g dbl rd rs rt false true
def execFnma (c : CoreId) (g : Guard) (dbl : Bool) (rd rs rt : Reg) (s : State) :=
  s.fpFused (.fnma c g dbl rd rs rt) c g dbl rd rs rt true false

end Sys2Proof.Machine
end

