-- ==== Sys2Proof/Machine/Grinder.lean ====
section
/-!
DEFINITION. The Grinder's commands (06): folding, flash scrub, relocation, erases, wear levelling, expiry, the scrubs of SRAM and DRAM (R259), and
the job misses (R217).
-/

namespace Sys2Proof.Machine

-- ---------------------------------------------------------------- folding (R208)

/-- The job of a group's fold, where it waits for room or slots. -/
def State.foldJob (s : State) (g : Nat) : Option Job :=
  s.media.jobs.find? fun j => j.stage == .content && (match j.kind with | .fold x _ => x == g | .move _ => false)

/-- A fold begins, or goes on where it waits. -/
def State.foldOn (s : State) (g : Nat) : State := match s.foldJob g with | some j => s.jobContent j | none => s.startFold g

/-- The Grinder folds the segment at the fold point of a group: its reads are enqueued, and what they have read is written as room and slots allow. -/
def execFoldSegment (grp : GroupId) (s : State) : Host.Outcome State Fault Refusal := .next (if s.grinds then s.foldOn grp else s)

-- ---------------------------------------------------------------- flash scrub and relocation (R213)

/-- Whether a reference names something programmed. -/
def State.refHeld (s : State) : FlashRef → Bool
  | .journal g p => ((s.group g).blockAt p).isSome
  | .parity g row => (s.group g).parity.any fun p => p.1 == row
  | .bulk id => s.media.bulk.any fun b => b.id == id
  | .page n => s.media.pages.any fun x => x.1 == n
  | .image num ver b => (s.imageOf num ver).any fun i => i.stored && decide (b < i.blocks.length)
  | .system => s.media.sysImages != []

/-- The codeword that a scrub read names. Of the journal `part` is the stripe and `item` the block in it or its row; of an image they are version and
block; a record and a page are known by `part` alone, and the system area is read whole. -/
def State.scrubRef (s : State) (area : FlashArea) (part item : Nat) : FlashRef :=
  match area with
  | .journal g => .journal g (part * s.stripeUse g + item)
  | .parity g => .parity g (part * 2 ^ 20 + item)
  | .bulk => .bulk part
  | .image num => .image num part item
  | .pages => .page part
  | .system => .system

/-- A scrub read is enqueued, in the Grinder's quota; what it finds comes with its completion (R203, R218). One that timed out is retried on a later
frame (R220). -/
def execFlashScrubRead (area : FlashArea) (part item : Nat) (s : State) : Host.Outcome State Fault Refusal :=
  let ref := s.scrubRef area part item
  if ¬ s.grinds ∨ ¬ s.refHeld ref ∨ s.freeSlots .grinder = 0 ∨ s.jobWaits (.move ref) ∨
      (s.media.queue.any fun o => o.ref == some ref && o.issuer == .grinder) then .next s
  else
    let n := s.refLun ref
    .next (s.enqueue { mkOp .grinder .read n (n / 256) (s.unitNs (n / 32)) with ref := some ref })

/-- A reference leaves the relocation queue. -/
def State.moved (s : State) (ref : FlashRef) : State :=
  { s with media := { s.media with relocate := s.media.relocate.filter fun r => r != ref } }

/-- Whether what a reference names is still to be moved: of the journal, what is not yet folded. -/
def State.refLive (s : State) (ref : FlashRef) : Bool :=
  match ref with
  | .journal g p => s.refHeld ref && (s.unfoldedPlaces g).contains p
  | .parity g row => s.refHeld ref && (s.unfoldedPlaces g).any fun p => s.parityGroup g (s.physPlace g p) == row
  | _ => s.refHeld ref

/-- The job of a move, where it waits for room or slots. -/
def State.moveJob (s : State) (ref : FlashRef) : Option Job := s.media.jobs.find? fun j => j.stage == .content && j.kind == .move ref

/-- The content of a queued page is relocated: of the journal by folding its group's oldest segment, so that its records go to a fresh stripe with the
tags that the check leaves them (R139; log 48); the system area's by its next image; anything else by a job of its own. -/
def execRelocation (ref : FlashRef) (s : State) : Host.Outcome State Fault Refusal :=
  if ¬ s.grinds ∨ ¬ s.media.relocate.contains ref then .next s
  else if ¬ s.refLive ref then .next (s.moved ref)
  else match ref with
  | .journal g _ => .next (s.foldOn g)
  | .parity g _ => .next (s.foldOn g)
  | .system => .next (s.tableChanged.moved ref).sysTry
  | .bulk _ | .page _ | .image _ _ _ => match s.moveJob ref with
    | some j => .next (s.jobContent j)
    | none => .next (s.startMove ref)

-- ---------------------------------------------------------------- erases (R206, R208, R211)

/-- Whether a journal stripe lies wholly before the fold point, and nothing of it is on its way. -/
def State.stripeFolded (s : State) (g i : Nat) : Bool :=
  let use := s.stripeUse g
  let here := fun (p : Nat) => use != 0 && (p / use == i || s.physPlace g p / use == i)
  !((s.unfoldedPlaces g).any here) &&
  !((s.media.queue ++ s.media.posted).any fun o => o.group == g && o.kind == .program && o.area == .journal && o.blocks.any fun b => here b.1) &&
  !(use != 0 && (s.group g).next % use != 0 && (s.group g).next / use == i)

/-- The eight LUNs of a stripe. -/
def State.stripeLuns (s : State) (g : Nat) (bulk : Bool) (i : Nat) : List Nat :=
  if bulk then s.bulkLuns (bulkKey g i)
  else
    let nb := (s.chan (8 * g)).nBlk
    (natRange (8 * g) 8).map fun ch => s.journalLun ch (if nb = 0 then 0 else (i + 2) / nb)

/-- The erase of a stripe: eight operations in the Grinder's quota. -/
def State.eraseStripe (s : State) (g : Nat) (bulk : Bool) (i : Nat) : State :=
  let key := if bulk then 2 ^ 20 + i else i
  let x := s.group g
  let s := s.setGroup g { x with erasing := (key, 8, 0) :: x.erasing }
  (s.stripeLuns g bulk i).foldl (fun a n => a.enqueue { mkOp .grinder .erase n g (a.chan (n / 32)).tCmd with
    stripe := some key, area := if bulk then .bulk else .journal }) s

/-- Whether a stripe may be erased: it has been written since its last erase, every member block is good, and it holds nothing unfolded, or nothing that
bulk storage uses. -/
def State.erasable (s : State) (g : Nat) (bulk : Bool) (i : Nat) : Bool :=
  let x := s.group g
  !(x.erasing.any fun e => e.1 == (if bulk then 2 ^ 20 + i else i)) &&
  if bulk then s.media.bulkUsed.contains (bulkKey g i) && s.bulkGood (bulkKey g i) && s.bulkEmpty (bulkKey g i)
  else x.used.contains i && s.stripeGood g (i + 2) && s.stripeFolded g i

def execJournalErase (grp : GroupId) (bulk : Bool) (stripe : Nat) (s : State) : Host.Outcome State Fault Refusal :=
  if ¬ s.grinds ∨ s.freeSlots .grinder < 8 ∨ ¬ s.erasable grp bulk stripe then .next s
  else .next (s.eraseStripe grp bulk stripe)

-- ---------------------------------------------------------------- wear and expiry (R212, R216)

/-- The least erased of the bulk stripes of a LUN that hold anything. -/
def State.leastWorn (s : State) (lun : Nat) : Option Nat :=
  (s.media.bulkUsed.filter fun k => (s.bulkLuns k).contains lun && s.stripeRefs k != []).foldl (fun b k => match b with
    | none => some k
    | some j => if s.stripeWear k < s.stripeWear j then some k else some j) none

/-- Whether the erase counts of a LUN's blocks spread by more than a tenth of the declared endurance. -/
def Lun.uneven (l : Lun) : Bool :=
  let top := l.erases.foldl (fun m x => max m x.2) 0
  let low := if l.erases.length < l.multi then 0 else l.erases.foldl (fun m x => min m x.2) top
  decide (l.endurance < 10 * (top - low))

/-- The content of the least-erased stripe of a LUN is to be moved; its relocation takes it from there. -/
def execWearLevelling (lun : Nat) (s : State) : Host.Outcome State Fault Refusal :=
  if ¬ s.grinds ∨ ¬ (s.lun lun).uneven ∨ (s.lun lun).state ≠ 1 then .next s
  else match s.leastWorn lun with
  | none => .next s
  | some k => .next (s.queueMoves (s.stripeRefs k))

/-- A record in bulk storage that has reached its retention period is read, judged at point 4, and leaves the index. -/
def execRecordExpiry (id : Nat) (s : State) : Host.Outcome State Fault Refusal :=
  if ¬ s.grinds then .next s
  else match s.media.bulk.find? fun b => b.id == id with
  | none => .next s
  | some b => .next (if s.expired b.retention b.frame then s.startMove (.bulk id) else s)

-- ---------------------------------------------------------------- scrubs of SRAM and DRAM (R256, R257, R259, R538)

/-- How many wrong symbols of a code word are corrected: RS(36,32), and RS(80,64) in DRAM (R249, R253). -/
def symbolLimit (pa : Nat) : Nat := if memOf pa = 3 then 8 else 2

/-- The wrong symbols of a finding. -/
def wrongSymbols (f : EccFinding) : Nat := (((f.wrong.filter fun x => x.2 != 0).map Prod.fst).eraseDups).length

/-- What a code word is found to hold. Within the code's limit it is correctable; beyond it the error is detected, or the decoder makes other data of it
(R249, R253; log 11). An error does not replace a worse one. -/
def State.takeFinding (s : State) (cw : Nat) (f : EccFinding) : State :=
  let was := Tab.get .none s.upsets cw
  if wrongSymbols f = 0 ∨ was = .uncorrectable then s
  else if wrongSymbols f ≤ symbolLimit cw then { s with upsets := Tab.put .none cw .correctable s.upsets }
  else match Config.eccWrong (memOf cw) (s.bytes cw (codeWord (memOf cw))) f.wrong with
  | none => { s with upsets := Tab.put .none cw .uncorrectable s.upsets }
  | some l => { s with mem := memWriteBut [] cw (sliceZ l 0 (codeWord (memOf cw))) s.mem, upsets := Tab.put .none cw .correctable s.upsets }

/-- A code word has been scrubbed (R259). -/
def State.scrubbed (s : State) (cw : Nat) : State :=
  { s with repair := { s.repair with scrubbed := Tab.put 0 cw (s.timer.plantNs + 1) s.repair.scrubbed } }

/-- A scrub reads one code word: it corrects it, or poisons it and posts it to Barista. -/
def State.scrubWord (s : State) (cw : Nat) : State :=
  let r := s.meetWord cw
  if r.2 then r.1.logEvent 0x0501 2 (leBytes 8 cw) else r.1

/-- The SRAM scrub period that is running, counted in plant time. -/
def State.scrubPeriod (s : State) : Nat := s.timer.plantNs / (1000000000 * max 1 (s.objNat (okey 0x0A38 1) 4))

/-- A corrected code word counts once in its row and scrub period; periods without one end the count (R538). -/
def State.hitRow (s : State) (cw : Nat) : State :=
  let r := rowOf cw
  let key := r.1 * 2 ^ 15 + r.2
  let e := Tab.get 0 s.repair.rowHits key
  let now := s.scrubPeriod
  let n := if e % 4 ≠ 0 ∧ e / 4 = now then e % 4 else if e % 4 ≠ 0 ∧ e / 4 + 1 = now then min 3 (e % 4 + 1) else 1
  { s with repair := { s.repair with rowHits := Tab.put 0 key (4 * now + n) s.repair.rowHits } }

/-- The addresses of record, partner and cluster SRAM (R243). -/
def sramAt (pa : Nat) : Bool :=
  (decide (recordBase ≤ pa) && decide (pa < recordBase + recordSize)) ||
  (decide (partnerBase ≤ pa) && decide (pa < partnerBase + partnerSize)) ||
  (decide (clusterBase ≤ pa) && decide (pa < clusterBase + 17 * clusterSize))

/-- A scrub slot of cluster, record or partner SRAM. -/
def execSramScrub (addr : BitVec 40) (found : EccFinding) (s : State) : Host.Outcome State Fault Refusal :=
  if ¬ sramAt addr.toNat then .next s
  else
    let cw := cwOf addr.toNat
    let s := s.takeFinding cw found
    .next (((if s.upset cw = .correctable then s.hitRow cw else s).scrubWord cw).scrubbed cw)

/-- The scrub of a line of populated DRAM. -/
def execDramScrub (addr : BitVec 40) (found : EccFinding) (s : State) : Host.Outcome State Fault Refusal :=
  if memOf addr.toNat ≠ 3 ∨ s.dramCap ≤ addr.toNat then .next s
  else
    let cw := cwOf addr.toNat
    .next (((s.takeFinding cw found).scrubWord cw).scrubbed cw)

-- ---------------------------------------------------------------- deadlines (R217)

/-- How long this start has run, in ns of nominal frames. -/
def State.runNs (s : State) : Nat := s.ageNs s.adm.recFrame

/-- Whether a memory has a code word that was not scrubbed for a period: `n` words in all, those of `of`. -/
def State.scrubLate (s : State) (of : Nat → Bool) (n ns : Nat) : Bool :=
  let seen := s.repair.scrubbed.filter fun x => of x.1
  decide (ns < s.runNs) && (decide (seen.length < n) || seen.any fun x => decide (x.2 + ns ≤ s.timer.plantNs))

/-- What the flash holds, as scrub reads name it. -/
def State.heldRefs (s : State) : List FlashRef :=
  ((natRange 0 4).flatMap fun g =>
    (((s.group g).blocks.map fun b => s.unitStart g b.1).eraseDups.map fun u => .journal (Fin.ofNat 4 g) u) ++
    ((s.group g).parity.map fun p => .parity (Fin.ofNat 4 g) p.1)) ++
  (s.media.bulk.map fun b => .bulk b.id) ++ (s.media.pages.map fun x => .page x.1) ++
  (s.egress.images.flatMap fun i => (natRange 0 i.blocks.length).map fun b => .image i.num i.version b) ++
  (if s.media.sysImages = [] then [] else [.system])

/-- Whether some of the flash was not scrubbed for the scrub period (R213). -/
def State.flashLate (s : State) : Bool :=
  let ns := 3600000000000 * s.objNat (okey 0x0D00 3) 168
  decide (ns < s.runNs) && s.heldRefs.any fun r => match s.media.scrubbed.find? fun x => x.1 == r with
    | some x => decide (x.2 + ns < s.timer.plantNs)
    | none => true

/-- Whether a job of R217 has passed its deadline. Wear levelling has none. -/
def State.jobLate (s : State) (job : Nat) : Bool :=
  if job = 0 then
    s.scrubLate sramAt ((recordSize + partnerSize + 17 * clusterSize) / 32) (1000000000 * s.objNat (okey 0x0A38 1) 4) ||
    s.scrubLate (fun pa => memOf pa == 3) (s.dramCap / 64) (3600000000000 * s.objNat (okey 0x0A38 2) 24)
  else if job = 1 then s.flashLate
  else if job = 2 then s.useGroups.any fun g => decide (s.headOf g * 4 < s.groupCap g)
  else if job = 3 then s.useGroups.any fun g => (s.unitPlace g).isNone
  else if job = 4 then false
  else if job = 5 then s.media.bulk.any fun b => s.expiredBy b.retention b.frame 24
  else if job = 6 then s.rotateAt && (natRange 0 68).any fun c => (s.core c).state == .underTest
  else s.carafe.testDue || s.carafe.testing

/-- A job that misses its deadline (R217): its counter and event 0x0405, with the shortfall. -/
def execGrinderJobMiss (job : Fin 8) (shortfallMs : Nat) (s : State) : Host.Outcome State Fault Refusal :=
  if ¬ s.jobLate job then .next s
  else .next ((s.count (okey 0x0D78 (job.val + 1)) 1 32).logEvent 0x0405 1 ([BitVec.ofNat 8 (job.val + 1), 0, 0, 0] ++ leBytes 4 shortfallMs))

end Sys2Proof.Machine
end

