-- ==== Sys2Proof/Machine/Posting.lean ====
section
/-!
DEFINITION. The POST family (R382 to R388) and the line locks (R260).
-/

namespace Sys2Proof.Machine

-- ---------------------------------------------------------------- line locks (R260)

/-- Whether a core may take a line: it holds it already, or no core does and no other has waited longer for it. -/
def State.lockFree (s : State) (line c : Nat) : Bool :=
  s.locks.contains (line, c) || !(s.locks.any fun x => x.1 == line) &&
  (match s.lockQueue.find? fun x => x.1 == line with
   | some x => x.2 == c
   | none => true)

/-- A core takes a line. -/
def State.takeLock (s : State) (line c : Nat) : State :=
  { s with
    locks := if s.locks.contains (line, c) then s.locks else s.locks ++ [(line, c)]
    lockQueue := s.lockQueue.filter fun x => x != (line, c) }

/-- Takes lines in increasing physical address order; the first that is not free is waited for, with those taken held. -/
def State.takeLocks (s : State) (c : Nat) : List (Nat × Word) → State × Option WaitWhy
  | [] => (s, none)
  | (line, ea) :: t =>
    if s.lockFree line c then (s.takeLock line c).takeLocks c t
    else ({ s with lockQueue := if s.lockQueue.contains (line, c) then s.lockQueue else s.lockQueue ++ [(line, c)] },
          some (.lock line ea))

-- ---------------------------------------------------------------- the posting list (R383)

/-- Whether a posting list may lie under a descriptor type. -/
def listType (t : Nat) : Bool := t == 0 || t == 1 || t == 2

/-- The checks of a posting list of `n` bytes, in the order of R383 (log 62). -/
def State.judgeList (s : State) (c ea n : Nat) : Except Trap (List Mapped) :=
  let k := s.core c
  if ea % 32 ≠ 0 then .error (accNone.trap 8 0x06 ea)
  else
    let ds := (operand ea n).map fun p => (p, k.find p.ea)
    if ds.all (fun x => x.2.isNone) then .error (accLoad.trap 9 0x01 ea)
    else if ¬ oneDesc ds then .error (accNone.trap 8 0x01 ea)
    else if ds.any (fun x => match x.2 with | some d => !listType d.type | none => true) then .error (accNone.trap 9 0x06 ea)
    else s.judge c accLoad (operand ea n) none

/-- The checks of one account address or of the journal entry's (R386 step 2; log 62). -/
def State.judgeLine (s : State) (c : Nat) (ea : Word) : Except Trap Mapped :=
  let a := ea.toNat
  if a % 64 ≠ 0 then .error (accNone.trap 8 0x05 a)
  else match (s.core c).find a with
  | none => .error (accStore.trap 9 0x01 a)
  | some d =>
    if d.type ≠ 2 then .error (accNone.trap 9 0x04 a)
    else match s.judge c accStore [⟨a, 64⟩] none with
    | .error t => .error t
    | .ok (m :: _) => .ok m
    | .ok [] => .error (accStore.trap 9 0x01 a)

/-- The checks of the lines in order. -/
def State.judgeLines (s : State) (c : Nat) : List Word → Except Trap (List Mapped)
  | [] => .ok []
  | ea :: t => match s.judgeLine c ea with
    | .error e => .error e
    | .ok m => match s.judgeLines c t with
      | .error e => .error e
      | .ok l => .ok (m :: l)

/-- One leg: its account line, the amount, and the account's bytes once read (R382, R383). -/
structure Leg where
  ea : Word
  line : Mapped
  amount : Int
  bytes : List Byte
deriving DecidableEq, Repr

def Leg.balance (g : Leg) : Int := packedVal (sliceZ g.bytes 0 16)
def Leg.limit (g : Leg) : Int := packedVal (sliceZ g.bytes 16 16)
def Leg.closed (g : Leg) : Bool := natBit (leField g.bytes 40 4) 0
def Leg.new (g : Leg) : Int := g.balance + g.amount
def Leg.posts (g : Leg) : Nat := (leField g.bytes 44 4 + 1) % 2 ^ 32

/-- Reserved fields of a posting list, and of an account record, that are not zero: an undefined case (R10). -/
def listReserved (n : Nat) (l : List Byte) : Bool :=
  decide (2 ^ 17 ≤ leField l 0 4) || !allZero (sliceZ l 4 28) ||
  (natRange 0 n).any fun i => !allZero (sliceZ l (36 + 32 * i) 12)
def accountReserved (l : List Byte) : Bool := decide (2 ≤ leField l 40 4) || !allZero (sliceZ l 56 8)

/-- The first invalid packed field of a list of fields with their effective addresses (R351). -/
def firstBadField : List (Word × List Byte) → Option Word
  | [] => none
  | (ea, l) :: t => match packedBad l with
    | some i => some (ea + BitVec.ofNat 32 i)
    | none => firstBadField t

/-- The first leg that fails a condition. -/
def firstLeg (p : Leg → Bool) : Nat → List Leg → Option Nat
  | _, [] => none
  | i, g :: t => if p g then some i else firstLeg p (i + 1) t

/-- The outcome of R387: conditions in the order closed, unbalanced, balance overflow, below limit. -/
def postOutcome (legs : List Leg) : Nat :=
  match firstLeg Leg.closed 0 legs with
  | some i => 16 * i + 2
  | none =>
    if 1 < legs.length ∧ (legs.map Leg.amount).foldl (· + ·) 0 ≠ 0 then 1
    else match firstLeg (fun g => packedOver 16 g.new) 0 legs with
    | some i => 16 * i + 3
    | none => match firstLeg (fun g => decide (g.amount < 0) && decide (g.new < g.limit)) 0 legs with
      | some i => 16 * i + 4
      | none => 0

/-- An account record after its posting (R386 step 7). -/
def Leg.posted (frame : Nat) (g : Leg) : List Byte :=
  patch (patch g.bytes 0 (packInt 16 g.new)) 44 (leBytes 4 g.posts ++ leBytes 8 frame)

/-- The journal entry of leg 0 (R384). -/
def journalEntry (frame partner n : Nat) (g : Leg) : List Byte :=
  let body := sliceZ g.bytes 32 8 ++ packInt 16 g.amount ++ packInt 16 g.new ++ leBytes 8 frame ++
    leBytes 4 (partner % 2 ^ 17 + n * 2 ^ 17) ++ leBytes 4 g.posts
  body ++ leBytes 8 (mkTag (crc 0 body) (BitVec.ofNat 8 g.posts) 0 2).toNat

/-- Lines in increasing physical address order. -/
def insertLine (x : Nat × Word) : List (Nat × Word) → List (Nat × Word)
  | [] => [x]
  | y :: t => if x.1 ≤ y.1 then x :: y :: t else y :: insertLine x t

/-- What lines reads and validates, account by account: the balance, then the lower limit (R386 step 5). -/
def State.readLegs (s : State) (c : Nat) : List Leg → State × Except Res (List Leg)
  | [] => (s, .ok [])
  | g :: t =>
    let r := s.loadPieces c [g.line]
    match r.2 with
    | .error e => (r.1, .error (.trap r.1 e))
    | .ok l =>
      match firstBadField [(g.ea, sliceZ l 0 16), (g.ea + 16, sliceZ l 16 16)] with
      | some ea => (r.1, .error (.trap r.1 (trapAt 11 0x01 ea)))
      | none =>
        let q := (r.1.mark false [g.line]).readLegs c t
        match q.2 with
        | .error e => (q.1, .error e)
        | .ok gs => (q.1, .ok ({ g with bytes := l } :: gs))

/-- Steps 5 to 7 of R386, with every lock held. -/
def State.postLocked (s : State) (c m : Nat) (rd rt : Reg) (partner : Nat) (legs : List Leg) (jl : Mapped) : Res :=
  let n := legs.length
  let r := s.readLegs c legs
  match r.2 with
  | .error e => e
  | .ok legs =>
    if legs.any fun g => accountReserved g.bytes then .undef 10
    else
      let o := postOutcome legs
      if o ≠ 0 then
        let s := r.1.unlock c
        .done (s.setCore c ((s.core c).setReg rd (BitVec.ofNat 32 o))) (upTo (60 + 50 * n))
      else
        let s := r.1
        let entry := match legs with
          | g :: _ => journalEntry s.timer.frame partner n g
          | [] => []
        let ws := (legs.map fun g => ([g.line], g.posted s.timer.frame)) ++ [([jl], entry)]
        let touches := s.commitTouches (legs.map Leg.line ++ [jl])
        match s.performCommit c ws with
        | .trap s t => .trap s t
        | .wait s w => .wait s w
        | .undef r => .undef r
        | .ok s =>
          let s := s.unlock c
          let k := s.core c
          let k := k.setReg rt (k.modWalk m (k.reg rt + 64))
          .done (s.setCore c (k.setReg rd 0)) ((upTo (60 + 50 * n)).plus (cc (40 * touches)))

/-- A POST-family instruction of `n` postings (R386); `m` names the modulo pair. -/
def State.post (s : State) (c n m : Nat) (rd rs rt : Reg) : Res :=
  let k := s.core c
  let lea := k.reg rs
  match s.judgeList c lea.toNat (32 + 32 * n) with
  | .error t => .trap s t
  | .ok lm =>
    let r := s.loadPieces c lm
    match r.2 with
    | .error t => .trap r.1 t
    | .ok l =>
      let s := r.1.mark false lm
      let eas := (natRange 0 n).map fun i => BitVec.ofNat 32 (leField l (32 + 32 * i) 4)
      match s.judgeLines c (eas ++ [k.reg rt]) with
      | .error t => .trap s t
      | .ok lines =>
        let pas := lines.map Mapped.pa
        if pas.eraseDups.length ≠ pas.length then .trap s (trapAt 4 0x09 k.pc)
        else
          let amts := (natRange 0 n).map fun i => (lea + BitVec.ofNat 32 (48 + 32 * i), sliceZ l (48 + 32 * i) 16)
          match firstBadField amts with
          | some ea => .trap s (trapAt 11 0x01 ea)
          | none =>
            if listReserved n l then .undef 10
            else
              let order := (lines.map fun m => (m.pa, BitVec.ofNat 32 m.ea)).foldr insertLine []
              let q := s.takeLocks c order
              match q.2 with
              | some w => .wait q.1 w
              | none =>
                let legs := (eas.zip (lines.zip amts)).map fun x => (⟨x.1, x.2.1, packedVal x.2.2.2, []⟩ : Leg)
                match lines.getLast? with
                | none => .undef 386
                | some jl => q.1.postLocked c m rd rt (leField l 0 4) legs jl

def execPost (c : CoreId) (g : Guard) (m : BitVec 2) (rd rs rt : Reg) (s : State) : Host.Outcome State Fault Refusal :=
  s.runInstr c (.post c g m rd rs rt) g none false false (cc 1) fun s =>
    match privileged (s.core c) 1 with
    | some t => .trap s t
    | none => (s.post c 1 m.toNat rd rs rt).late (upTo 110)

def execPost2 (c : CoreId) (g : Guard) (m : BitVec 2) (rd rs rt : Reg) (s : State) : Host.Outcome State Fault Refusal :=
  s.runInstr c (.post2 c g m rd rs rt) g none false false (cc 1) fun s => (s.post c 2 m.toNat rd rs rt).late (upTo 160)

def execPost4 (c : CoreId) (g : Guard) (m : BitVec 2) (rd rs rt : Reg) (s : State) : Host.Outcome State Fault Refusal :=
  s.runInstr c (.post4 c g m rd rs rt) g none false false (cc 1) fun s => (s.post c 4 m.toNat rd rs rt).late (upTo 260)

/-- A core that has waited 2,048 cc for a lock releases every lock, gives back what it has reserved and takes vector 19 (R260). -/
def execLineLockTimeout (c : CoreId) (s : State) : Host.Outcome State Fault Refusal :=
  let k := s.core c
  match k.wait with
  | some ⟨.lock _ ea, _⟩ =>
    let s := (s.giveUp c).charge c (cc 2048)
    .next ((s.setCore c { s.core c with wait := none }).enter c (trapAt 19 0x01 ea) k.pc k.rs)
  | _ => .next s

end Sys2Proof.Machine
end

