-- ==== Sys2Proof/Machine/PowerLoss.lean ====
section
/-!
DEFINITION. The power-fail sequence (R176 to R185): its triggers, its steps, and the flush.
-/

namespace Sys2Proof.Machine

-- ---------------------------------------------------------------- triggers (R176)

/-- PFAIL_N is recognised: t0, once boot has brought the device up; before that boot alone looks at the pin (R559, R560). -/
def execPfailAssert (s : State) : Host.Outcome State Fault Refusal :=
  let s := { s with barista := { s.barista with pfail := true } }
  .next (s.startPowerFail 1)

/-- Whether a sample lies below V_warn. A V_warn configured as infinity lies above every sample. -/
def State.belowWarn (s : State) (code : BitVec 16) : Bool :=
  f32Wild (s.cfgBits 5 0x41000000) || !(s.vWarn.le (s.codeVolts code.toNat))

/-- Two consecutive samples below V_warn, once the first ceiling of the start is in effect. -/
def execVholdWarnTrigger (first second : BitVec 16) (s : State) : Host.Outcome State Fault Refusal :=
  if s.carafe.armed ∧ s.belowWarn first ∧ s.belowWarn second then .next (s.startPowerFail 2) else .next s

-- ---------------------------------------------------------------- the steps before the flush (R177, R178)

/-- The sequence moves on. -/
def State.toStage (s : State) (st : PfStage) : State := { s with pf := { s.pf with stage := st } }

/-- HOLDTEST falls; a test in progress is abandoned. -/
def execHoldtestDeassert (s : State) : Host.Outcome State Fault Refusal :=
  if s.pf.stage ≠ .t0 then .next s
  else
    let s := { s with carafe := { s.carafe with testing := false }, barista := { s.barista with holdtest := false } }
    .next (s.toStage .holdtestOff)

/-- Admission stops, and no acknowledgement is sent any more (R111, R177). -/
def execAdmissionStop (s : State) : Host.Outcome State Fault Refusal :=
  if s.pf.stage ≠ .holdtestOff then .next s else .next (s.toStage .admissionOff)

/-- A core stops at an instruction boundary, or abandons the instruction in progress (R178). -/
def Core.halt (k : Core) : Core := { k with run := .stopped, wait := none, micro := none }

/-- Every core stops; the capture store is closed. -/
def execCoreStop (s : State) : Host.Outcome State Fault Refusal :=
  if s.pf.stage ≠ .admissionOff then .next s
  else
    let s := { s with cores := s.cores.map fun (x : Nat × Core) => (x.1, x.2.halt), locks := [], lockQueue := [] }
    .next (s.toStage .coresOff)

-- ---------------------------------------------------------------- the flush (R179 to R181)

/-- The 16 bytes of a partner snapshot (R160). -/
def snapshotBytes (n : Nat) (p : Partner) : List Byte :=
  leBytes 4 n ++ [p.e, p.aDur] ++ beBytes 6 p.mac.toNat ++ [p.status] ++ zeros 3

/-- The snapshots of every enabled entry, as control blocks (R159, R179). -/
def State.snapshots (s : State) : List (List Byte) :=
  let l := ((s.adm.partners.filter fun x => x.2.en).map fun x => snapshotBytes x.1 x.2)
  (chunks 255 (l.length + 1) l).map fun c => [0x01#8, 0, 0, 0] ++ leBytes 4 c.length ++ zeros 8 ++ c.flatten

/-- The bytes of a set's runs that are still to be placed, counted as B_dirty counts them (R180). -/
def State.todoBytes (s : State) (x : ChangeSet) : Nat :=
  sumOf (fun (c : Chunk) => sumOf (fun (i : Item) => match i with
    | .line _ => 256
    | .record id => 64 * s.recCells id - 4096 * c.placed
    | .key _ _ => 16
    | .control l => leField l 4 4 * 16) c.items) x.todo

/-- The bytes that a unit on its way holds, counted so: its records and lines, and 16 for each item of its control blocks. -/
def MediaOp.flushBytes (o : MediaOp) : Nat :=
  o.dirty + sumOf (fun (b : Nat × Block) => if b.2.kind = 3 ∧ b.2.setCount ≠ 0 then 16 * leField b.2.data 4 4 else 0) o.blocks

/-- Bytes flushed (R180): what the sets have still to place, and what program operations hold. -/
def State.flushBytes (s : State) : Nat :=
  sumOf s.todoBytes s.perc.sets + sumOf MediaOp.flushBytes ((s.media.queue ++ s.media.posted).filter fun o => o.issuer == .percolator)

/-- The set of the frame of t0: its admitted records and the partner snapshots; its line images, key items and derived records are not
written (R36, R179). Before recovery has come to its step 10 nothing is (R192). -/
def State.closeFlushSet (s : State) : State :=
  if s.recovering then s
  else
  let p := s.perc
  let todo := s.packRecs p.curRecs.reverse [] 0 ++ s.snapshots.map fun l => ⟨[.control l], 1, 0, none⟩
  let n := sumOf Chunk.blocks todo
  let x : ChangeSet := {
    frame := s.timer.frame, dm := dmOf s.section, due := s.timer.frame + 16, todo := todo, nBlocks := n, nextIdx := 0, programmed := 0
    complete := if n = 0 then some s.timer.frame else none, missed := false, records := p.curRecs }
  { s with perc := { p with sets := p.sets ++ [x], touched := [], curRecs := [], curDerived := [], keyChanged := [] } }

/-- The domains of R549 at t0 + 2 us go OFF: core tiles, clusters, port engines. What they held is gone. -/
def State.switchOff (s : State) : State :=
  let s := (natRange 0 85 ++ natRange 101 4).foldl (fun a d => a.setDomain d 0) s
  { s with
    mem := s.mem.filter fun c => decide (c.1 < clusterBase)
    cores := s.cores.map fun (x : Nat × Core) => (x.1, { x.2 with storeBuf := [] }) }

/-- The flush begins; V at t0 was sampled as `mv`. -/
def execFlushBegin (mv : Nat) (s : State) : Host.Outcome State Fault Refusal :=
  if s.pf.stage ≠ .coresOff then .next s
  else
    let s := s.closeFlushSet.switchOff
    let s := { s with pf := { s.pf with mvAtT0 := mv, bytesFlushed := s.flushBytes } }
    .next (s.toStage .flushing)

/-- The 64 bytes of the closing record (R180), its tag of Barista origin (R127, R133). -/
def State.closingRecord (s : State) (mv : Nat) : List Byte :=
  let body := leBytes 8 s.pf.cutFrame ++ leBytes 4 s.adm.epoch ++ [BitVec.ofNat 8 s.pf.trigger, 0, 0, 0] ++ leBytes 8 s.pf.dirtyAtT0 ++
    leBytes 8 s.pf.bytesFlushed ++ leBytes 4 s.pf.mvAtT0 ++ leBytes 4 mv ++ leBytes 8 s.carafe.bMax ++ zeros 8
  leBytes 8 (mkTag (crc 0 body) (BitVec.ofNat 8 s.perc.baristaCount) 0 4).toNat ++ body

/-- The 96 bytes of a closing marker (R181). -/
def State.markerBytes (s : State) (g blocks seq : Nat) (link digest : List Byte) : List Byte :=
  leBytes 4 0x5458434D ++ [BitVec.ofNat 8 g, BitVec.ofNat 8 s.pf.trigger, 0, 0] ++ leBytes 8 s.pf.cutFrame ++ leBytes 4 s.adm.epoch ++
  leBytes 4 blocks ++ leBytes 8 seq ++ link ++ digest

/-- Everything the Percolator has queued is programmed. -/
def State.programAll (s : State) : State :=
  (s.media.queue.filter fun o => o.issuer == .percolator).foldl (fun a o =>
    let t := a.dropOp o.id
    t.programDone o) s

/-- A unit of given blocks is written to a group, if it has a place for one. -/
def State.writeUnit (s : State) (g : Nat) (bare : Bool) (bs : List Block) : State :=
  match s.unitPlace g with
  | none => s
  | some p => (s.enqueueBuilt g p fun s n => s.buildFixed g p bare n bs ⟨[], 0⟩).programAll

/-- The closing record goes into the first group in use (log 44). -/
def State.writeClosing (s : State) (cr : List Byte) : State :=
  match s.useGroups with
  | [] => s
  | g :: _ => s.writeUnit g false [plainBlock 3 1 0 s.adm.epoch s.pf.cutFrame ([0x03#8, 0, 0, 0] ++ leBytes 4 1 ++ zeros 8 ++ cr)]

/-- The parity of an incomplete parity group (R156, R179). -/
def State.closeParity (s : State) (g : Nat) : State :=
  let x := s.group g
  if x.sinceParity = 0 then s else (s.closeRow g (s.parityGroup g ((x.next + s.dataBlocks g - 1) % s.dataBlocks g))).programAll

/-- A group's closing marker: a group with no segment first opens one of kind 1 that holds its header alone (R181). -/
def State.writeMarker (s : State) (digest : List Byte) (g : Nat) : State :=
  match s.unitPlace g with
  | none => s
  | some p =>
    let x := s.group g
    let mk := fun (s : State) (x : Group) => plainBlock 5 1 0 s.adm.epoch s.pf.cutFrame
      (s.markerBytes g x.cur.length (x.seq - 1) (segLink x.cur.reverse) digest)
    if x.seg.isSome then s.writeUnit g true [mk s x]
    else
      (s.enqueueBuilt g p fun s n =>
        let o := s.openSegment g p
        let y := o.1.group g
        let t := o.1.setGroup g { y with cur := [o.2] }
        t.buildFixed g (p + 1) true (n - 1) [mk t (t.group g)] ⟨[(p, o.2)], 0⟩).programAll

/-- Flush content, parity and closing markers are programmed; `mv` is V as the markers begin (R179 to R181). It comes once the content of every
set has been programmed. -/
def execFlushComplete (mv : Nat) (s : State) : Host.Outcome State Fault Refusal :=
  if s.pf.stage ≠ .flushing then .next s
  else if s.media.present ∧ s.useGroups ≠ [] ∧
      ¬ ((s.perc.sets.all fun x => x.todo == []) ∧ s.media.posted = [] ∧ (s.media.queue.all fun o => o.issuer != .percolator)) then .next s
  else if ¬ s.media.present ∨ s.recovering then .next (s.toStage .flushed)
  else
    let cr := s.closingRecord mv
    let s := s.writeClosing cr
    let gs := s.useGroups
    let s := gs.foldl State.closeParity s
    let s := gs.foldl (fun a g => a.writeMarker (sha256 cr) g) s
    .next (s.toStage .flushed)

-- ---------------------------------------------------------------- SAFE (R177, R183, R512, R549)

/-- Every switched domain is OFF: the contents of record SRAM, cluster SRAM, scratch and DRAM are gone; partner SRAM lies in the main domain, which is
not switched (R544, R547). -/
def State.allOff (s : State) : State :=
  let s := (natRange 0 112).foldl (fun a d => a.setDomain d 0) s
  { s with
    mem := s.mem.filter fun c => memOf c.1 == 2
    upsets := s.upsets.filter fun x => memOf x.1 == 2, poison := s.poison.filter fun x => memOf x.2 == 2 }

/-- SAFE is asserted and the device stays so until the next reset; a device restart then resets it (R513). -/
def execSafeAssert (s : State) : Host.Outcome State Fault Refusal :=
  if s.pf.stage ≠ .flushed then .next s
  else
    let s := s.allOff.toStage .safe
    let s := { s with barista := { s.barista with safe := true } }
    .next (if s.pf.restart then s.coldReset 2 else s)

end Sys2Proof.Machine
end

