-- ==== Sys2Proof/Machine/System.lean ====
section
/-!
DEFINITION. Contexts and banks (R272 to R279), special registers (R283, R295, R304, R337, R420 to R422), the spill engine (R277), the
store buffer's drain (R430), and the asynchronous events of a core (R401 to R403, R406, R570).
-/

namespace Sys2Proof.Machine

-- ---------------------------------------------------------------- banks and contexts (R272 to R278)

/-- Whether a task bank counts as current: it is current, or a running handler's saved status names it (R275, R276). -/
def Core.heldBank (k : Core) (b : Nat) : Bool :=
  b == k.bank || ((decide (0 < k.bsDepth) || k.bank == 9) && b == k.savedBank 0x045) ||
    ((decide (0 < k.fastDepth) || k.bank == 8) && b == k.savedBank 0x049)

/-- The last element of a list, the least recently current bank, that meets a condition. -/
def leastRecent (p : Nat → Bool) (l : List Nat) : Option Nat := (l.filter p).getLast?

/-- The task bank in which a context is resident (R275 step 1). -/
def Core.residentIn (k : Core) (n : Nat) : Option Nat :=
  (natRange 0 8).find? fun b => k.vOf b && k.ctxOf b == n

/-- The bank that CTXSW fills (R275 step 2). -/
def Core.fillBank (k : Core) : Option Nat :=
  match leastRecent (fun b => !k.heldBank b && !k.vOf b) k.recency with
  | some b => some b
  | none => leastRecent (fun b => !k.heldBank b && k.vOf b && !k.dOf b) k.recency

/-- The physical address of the slot of a context; none when it runs past the end of scratch. -/
def State.slotPa (s : State) (c n : Nat) : Option Nat :=
  let off := ((s.core c).srGet 0x021).toNat + 128 * n
  if off + 128 ≤ scratchSize then some (scratchBase + scratchSize * c + off) else none

/-- Fills a bank with the words of a slot, without setting D. -/
def Core.fillFrom (k : Core) (b : Nat) (l : List Byte) : Nat → Core
  | 0 => k
  | n + 1 => ({ k with regs := Tab.insert (32 * b + n) (BitVec.ofNat 32 (leField l (4 * n) 4)) k.regs }).fillFrom b l n

/-- A bank takes a context: V set, D clear (R275 step 2). -/
def Core.bind (k : Core) (b n : Nat) : Core :=
  { k with
    bankV := k.bankV ||| (1#8 <<< b)
    bankD := k.bankD &&& ~~~ (1#8 <<< b)
    bankCtx := Tab.put 0 b n k.bankCtx }

/-- A bank becomes current, or the one a handler returns to (R275 step 4). -/
def Core.makeCurrent (k : Core) (b : Nat) : Core :=
  let put := fun (w : Word) => (w &&& 0xFFFF0FFF#32) ||| BitVec.ofNat 32 (b * 4096)
  if k.bank = 9 then k.srSet 0x045 (put (k.srGet 0x045))
  else if k.bank = 8 then k.srSet 0x049 (put (k.srGet 0x049))
  else (k.srSet 0 (put k.stat)).touchBank b

/-- The overflow of R278. -/
def Core.overflow (k : Core) (n : Nat) : Trap :=
  trapAt (if k.bank = 9 then 3 else if k.bank = 8 then 0 else 2) (if k.bank = 8 then 0x03 else 0x01) (BitVec.ofNat 32 n)

/-- CTXSW n (R275). -/
def State.ctxsw (s : State) (c n : Nat) : Res :=
  let k := s.core c
  match privileged k 1 with
  | some t => .trap s t
  | none => match k.residentIn n with
  | some b => .done (s.setCore c (k.makeCurrent b)) (upTo 2)
  | none => match k.fillBank with
    | none => .trap s (k.overflow n)
    | some b => match s.slotPa c n with
      | none => .undef 275
      | some pa =>
        let s := s.drainAll c
        let r := s.meetWords (cwsOf pa 128)
        match r.2 with
        | some cw => .trap r.1 (mcUncorrectable 1 cw)
        | none =>
          let k := r.1.core c
          .done (r.1.setCore c (((k.fillFrom b (r.1.bytes pa 128) 32).bind b n).makeCurrent b)) (upTo 34)

def execCtxsw (c : CoreId) (g : Guard) (rs : Reg) (s : State) : Host.Outcome State Fault Refusal :=
  s.runInstr c (.ctxsw c g rs) g none false false (cc 1) fun s =>
    s.ctxsw c (((s.core c).reg rs).extractLsb' 0 6).toNat

/-- BWIN (R279). -/
def Core.bwin (k : Core) : Nat := ((k.srGet 0x022).extractLsb' 0 4).toNat

def execMfb (c : CoreId) (g : Guard) (rd rs : Reg) (s : State) : Host.Outcome State Fault Refusal :=
  s.runInstr c (.mfb c g rd rs) g none false false (cc 1) fun s =>
    let k := s.core c
    match privileged k 0 with
    | some t => .trap s t
    | none =>
      let v := if k.bwin ≤ 9 then k.bankReg k.bwin rs.toNat else 0
      .done (s.setCore c (k.setReg rd v)) (upTo 1)

/-- MTB to the current bank, or to the bank the running handler's saved status names, is an undefined case of chapter 09. -/
def execMtb (c : CoreId) (g : Guard) (rd rs : Reg) (s : State) : Host.Outcome State Fault Refusal :=
  s.runInstr c (.mtb c g rd rs) g none false false (cc 1) fun s =>
    let k := s.core c
    match privileged k 0 with
    | some t => .trap s t
    | none =>
      if 9 < k.bwin then .done s (upTo 1)
      else if k.heldBank k.bwin then .undef 279
      else .done (s.setCore c (k.setBankReg k.bwin rd.toNat (k.reg rs))) (upTo 1)

/-- The spill engine writes back the least recently current dirty bank that is not current, when no task bank is both non-current
and clean (R277). -/
def State.spillBack (s : State) (c : Nat) : Host.Outcome State Fault Refusal :=
  let k := s.core c
  if (natRange 0 8).any (fun b => !k.heldBank b && (!k.vOf b || !k.dOf b)) then .next s
  else match leastRecent (fun b => !k.heldBank b && k.vOf b && k.dOf b) k.recency with
  | none => .next s
  | some b => match s.slotPa c (k.ctxOf b) with
    | none => .next (s.havoc c)
    | some pa =>
      let l := (natRange 0 32).flatMap fun n => leBytes 4 (k.bankReg b n).toNat
      .next ((s.setCore c { k with bankD := k.bankD &&& ~~~ (1#8 <<< b) }).poke pa l)

def execSpillWriteback (c : CoreId) (s : State) : Host.Outcome State Fault Refusal :=
  if (s.core c).run = .held ∨ (s.core c).run = .stopped then .next s else s.spillBack c

/-- The oldest buffered store of a core reaches memory (R430). -/
def execStoreBufferDrain (c : CoreId) (s : State) : Host.Outcome State Fault Refusal := .next (s.drainOne c)

-- ---------------------------------------------------------------- special registers (R304)

/-- Byte i of BMAP: V, D and CTX of a task bank (R304). -/
def Core.mapByte (k : Core) (b : Nat) : Nat :=
  (if k.vOf b then 128 else 0) + (if k.dOf b then 64 else 0) + k.ctxOf b % 64

/-- BMAP0 or BMAP1 from its first bank. -/
def Core.bmap (k : Core) (b : Nat) : Word :=
  BitVec.ofNat 32 (k.mapByte b + 256 * k.mapByte (b + 1) + 65536 * k.mapByte (b + 2) + 16777216 * k.mapByte (b + 3))

/-- CTXCUR: the context of the current task bank, or of the bank that ESTAT or FESTAT names; a name that is no task bank leaves a
value the spec does not state (log 6). -/
def State.ctxCur (s : State) (c : Nat) : State × Word :=
  let k := s.core c
  let b := if k.bank = 9 then k.savedBank 0x045 else if k.bank = 8 then k.savedBank 0x049 else k.bank
  if b < 8 then (s, BitVec.ofNat 32 (k.ctxOf b % 64)) else (s.drawn, BitVec.ofNat 32 (s.freeVal % 64))

/-- The width of the polynomial that CRCP selects (R141). -/
def Core.crcId (k : Core) : Nat := ((k.srGet 0x01A).extractLsb' 0 2).toNat

/-- CRCV as it reads: bits above the polynomial's width read as zero (R142). -/
def Core.crcv (k : Core) : Nat :=
  (pairOf (k.srGet 0x01C) (k.srGet 0x01B)).toNat % 2 ^ (crcSpec k.crcId).width

/-- Sets CRCV: bits above the width ignore writes, and keep what they hold (R142). -/
def Core.setCrcv (k : Core) (v : Nat) : Core :=
  let m := 2 ^ (crcSpec k.crcId).width
  let w := BitVec.ofNat 64 ((pairOf (k.srGet 0x01C) (k.srGet 0x01B)).toNat / m * m + v % m)
  (k.srSet 0x01B (loWord w)).srSet 0x01C (hiWord w)

/-- What MFS reads, for every register but RSP (R304, R422); reading CYCLEL or FRAMEL latches its high half. -/
def State.mfsValue (s : State) (c n : Nat) : State × Word :=
  let k := s.core c
  if n = 0x001 then (s, k.srGet 1 ||| 1#32)
  else if n = 0x020 then s.ctxCur c
  else if n = 0x01B then (s, BitVec.ofNat 32 k.crcv)
  else if n = 0x01C then (s, BitVec.ofNat 32 (k.crcv / 2 ^ 32))
  else if n = 0x023 then (s, k.bmap 0)
  else if n = 0x024 then (s, k.bmap 4)
  else if n = 0x030 then (s.setCore c (k.srSet 0x031 (BitVec.ofNat 32 (k.cycle / 2 ^ 32))), BitVec.ofNat 32 k.cycle)
  else if n = 0x032 then (s, BitVec.ofInt 32 k.budget)
  else if n = 0x033 then
    (s.setCore c (k.srSet 0x034 (BitVec.ofNat 32 (s.timer.frame / 2 ^ 32))), BitVec.ofNat 32 s.timer.frame)
  else if n = 0x035 then (s, BitVec.ofNat 32 c)
  else (s, k.srPending n)

/-- The highest spill slot, of `n` below RSP, that no return-stack descriptor translates (R295). -/
def Core.badSlot (k : Core) (sp : Word) : Nat → Option Word
  | 0 => none
  | n + 1 => if k.onReturnStack (sp - 4).toNat then k.badSlot (sp - 4) n else some (sp - 4)

/-- Spills `n` buffered entries, oldest first (R295). -/
def State.spillAll (s : State) (c : Nat) : Nat → StackRes
  | 0 => .ok s
  | n + 1 => match s.spillOldest c with
    | .ok s => s.spillAll c n
    | r => r

/-- MFS RSP: every slot is checked first, then every entry is spilled, then RSP is read (R295). -/
def State.mfsRsp (s : State) (c : Nat) (rd : Reg) : Res :=
  let k := s.core c
  let n := k.rstack.length
  let w := drainTime (s.displaced c) k.storeBuf k.storeBuf.length
  match k.badSlot (k.srGet 0x018) n with
  | some a => .trap s (trapAt 14 0x01 a)
  | none => match s.spillAll c n with
    | .trap s t => .trap s t
    | .wait s w => .wait s w
    | .undef r => .undef r
    | .ok s => .done (s.setCore c ((s.core c).setReg rd ((s.core c).srGet 0x018))) (upTo (1 + 2 * n + w))

/-- MFS (R304): listed, then the ring. -/
def State.mfs (s : State) (c n : Nat) (rd : Reg) : Res :=
  let k := s.core c
  if ¬ srListed n then .trap s (trapAt 4 0x05 k.pc)
  else if srReadRing n < k.ring then .trap s (trapAt 5 0x02 k.pc)
  else if n = 0x018 then s.mfsRsp c rd
  else
    let r := s.mfsValue c n
    .done (r.1.setCore c ((r.1.core c).setReg rd r.2)) (upTo 1)

def execMfs (c : CoreId) (g : Guard) (rd : Reg) (num : Imm12) (s : State) : Host.Outcome State Fault Refusal :=
  s.runInstr c (.mfs c g rd num) g none false false (cc 1) fun s => s.mfs c num.toNat rd

/-- Whether an MTS STAT would change IE, FE, RING, KEY or MCE (R283). -/
def Core.statFieldBad (k : Core) (v : Word) : Bool := ((k.srPending 0) ^^^ v) &&& 0xFF080000#32 != 0

/-- A write to BMAP clears V or D where the written bit is 0 and is ignored otherwise (R304). -/
def Core.clearMap (k : Core) (b : Nat) (v : Word) : Nat → Core
  | 0 => k
  | n + 1 =>
    let k := if v.getLsbD (8 * n + 7) then k else { k with bankV := k.bankV &&& ~~~ (1#8 <<< (b + n)) }
    let k := if v.getLsbD (8 * n + 6) then k else { k with bankD := k.bankD &&& ~~~ (1#8 <<< (b + n)) }
    k.clearMap b v n

/-- Clearing V of a bank that is current, or named by a running handler's saved status, is an undefined case of chapter 09. -/
def Core.badMap (k : Core) (b : Nat) (v : Word) : Bool :=
  (natRange 0 4).any fun n => k.heldBank (b + n) && k.vOf (b + n) && !v.getLsbD (8 * n + 7)

/-- What MTS writes, the checks passed (R141 to R143, R295, R304, R420). -/
def State.mtsWrite (s : State) (c n : Nat) (v : Word) : Res :=
  let k := s.core c
  let fin := fun (k : Core) => Res.done (s.setCore c k) (upTo 1)
  if v &&& srReserved n ≠ 0 then .undef 10
  else if n = 0x021 ∧ scratchSize < v.toNat + 8192 then .undef 275
  else if srShadowed n then fin (k.shadowPut n (v &&& srHeld n))
  else if n = 0x001 then fin (k.srSet 1 ((v &&& 0xFE#32) ||| 1#32))
  else if n = 0x018 then fin { k.srSet 0x018 v with rstack := [] }
  else if n = 0x01A then
    let k := k.srSet 0x01A (v &&& 3#32)
    fin (if v.getLsbD 7 then k.setCrcv (crcEmpty k.crcId) else k)
  else if n = 0x01B then fin (k.setCrcv (k.crcv / 2 ^ 32 * 2 ^ 32 + v.toNat))
  else if n = 0x01C then fin (k.setCrcv (v.toNat * 2 ^ 32 + k.crcv % 2 ^ 32))
  else if n = 0x023 ∨ n = 0x024 then
    let b := if n = 0x023 then 0 else 4
    if k.badMap b v then .undef 273 else fin (k.clearMap b v 4)
  else fin (k.srSet n (v &&& srHeld n))

/-- MTS (R304): listed, not RO, the ring, and for STAT its fields. -/
def State.mts (s : State) (c n : Nat) (v : Word) : Res :=
  let k := s.core c
  if ¬ srListed n ∨ srReadOnly n then .trap s (trapAt 4 0x05 k.pc)
  else if srWriteRing n < k.ring then .trap s (trapAt 5 0x02 k.pc)
  else if n = 0 ∧ 0 < k.ring ∧ k.statFieldBad v then .trap s (trapAt 5 0x03 k.pc)
  else s.mtsWrite c n v

def execMts (c : CoreId) (g : Guard) (rs : Reg) (num : Imm12) (s : State) : Host.Outcome State Fault Refusal :=
  s.runInstr c (.mts c g rs num) g none false false (cc 1) fun s => s.mts c num.toNat ((s.core c).reg rs)

/-- The pending writes whose fourth instruction has come take effect (R420). -/
def execModeShadowApply (c : CoreId) (s : State) : Host.Outcome State Fault Refusal :=
  .next (s.setCore c (s.core c).applyDue)

-- ---------------------------------------------------------------- asynchronous events (R401 to R403, R406, R570)

/-- Whether a core is at an instruction boundary: it runs or idles, and no instruction is in progress. -/
def Core.atBoundary (k : Core) : Bool :=
  (k.run == .running || k.run == .idle) && k.wait == none && k.parityHold == none

/-- The events that are pending and not masked (R401 to R403, R406, R570). Once its shadow has been executed, a written IE or FE decides at the
boundary before the fourth instruction (R420; log 41). -/
def Core.nmiReady (k : Core) : Bool := k.nmiPend && !k.inNmi && !k.inMc
def Core.haltReady (k : Core) : Bool := k.haltPend && !k.bsBusy && !k.bfBusy
def Core.fastReady (k : Core) : Bool := k.applyDue.fe && (k.ipend &&& k.ien &&& k.ifast) != 0
def Core.budgetReady (k : Core) : Bool := k.budgetPend && k.task.isSome && decide (k.bank < 8)
def Core.intReady (k : Core) : Bool := k.applyDue.ie && (k.ipend &&& k.ien &&& ~~~ k.ifast) != 0

/-- NMI is the first of R401 that can be pending at a boundary. -/
def execNmi (c : CoreId) (s : State) : Host.Outcome State Fault Refusal :=
  let k := s.core c
  if k.atBoundary ∧ k.nmiReady then .next ((s.setCore c { k with nmiPend := false }).enterAsync c 1) else .next s

/-- A halt request is taken after NMI (R401, R570). -/
def execDebugHalt (c : CoreId) (s : State) : Host.Outcome State Fault Refusal :=
  let k := s.core c
  if k.atBoundary ∧ k.haltReady ∧ ¬ k.nmiReady then
    .next ((s.setCore c { k with haltPend := false }).enter c (trapAt 20 0x01 0) k.pc k.rs)
  else .next s

def execFastInterrupt (c : CoreId) (s : State) : Host.Outcome State Fault Refusal :=
  let k := s.core c
  if k.atBoundary ∧ k.fastReady ∧ ¬ k.nmiReady ∧ ¬ k.haltReady then .next (s.enterAsync c 16) else .next s

/-- The budget counter has reached zero: vector 15 once per release, and the overrun is counted (R60, R63, R402). -/
def execFrameBudgetOverrun (c : CoreId) (s : State) : Host.Outcome State Fault Refusal :=
  let k := s.core c
  if k.atBoundary ∧ k.budgetReady ∧ ¬ k.nmiReady ∧ ¬ k.haltReady ∧ ¬ k.fastReady then
    let s := s.setCore c { k with budgetPend := false, budgetFired := true }
    let s := s.modLcore (s.lcoreOf c) fun x => { x with overrun := x.overrun + 1, ovrNow := true }
    .next (s.enter c (trapAt 15 0x01 0) k.pc k.rs)
  else .next s

def execInterrupt (c : CoreId) (s : State) : Host.Outcome State Fault Refusal :=
  let k := s.core c
  if k.atBoundary ∧ k.intReady ∧ ¬ k.nmiReady ∧ ¬ k.haltReady ∧ ¬ k.fastReady ∧ ¬ k.budgetReady then .next (s.enterAsync c 17)
  else .next s

/-- An enabled breakpoint lies at the next instruction's address (R570). -/
def execBreakpoint (c : CoreId) (s : State) : Host.Outcome State Fault Refusal :=
  if (s.core c).ready ∧ s.atBreakpoint c then .next (s.takeBreakpoint c) else .next s

end Sys2Proof.Machine
end

