-- ==== Sys2Proof/Machine/Release.lean ====
section
/-!
DEFINITION. TASK_RELEASE (R57, R58, R280, R305): the dispatcher starts the next task of a logical core.
-/

namespace Sys2Proof.Machine

/-- The next task of a logical core in this frame (R57). -/
def State.nextTask (s : State) (l : Nat) : Option TaskEnt :=
  match s.section with
  | none => none
  | some p => ((p.coreTasks l).drop (s.lcore l).released).head?

/-- The place of a task in the task table. -/
def State.taskIndex (s : State) (t : TaskEnt) : Nat :=
  match s.section with
  | none => 0
  | some p => (p.tasks.takeWhile fun x => x.id != t.id).length

/-- Whether anything of the tick is still to be done before a task may be released: a plan switch, a degrade, a replacement, a rotation, or
images that are not in place (R77, R81, R530, R535, R537). -/
def State.tickPending (s : State) (l : Nat) : Bool :=
  s.switchDue || s.plans.degradeDue.isSome || s.needsCarrier l || (s.repair.rotateDue && s.rotCluster.isSome) || !s.plans.placed

/-- The earliest release (R57): the first task of a core not before O_tick + O_rot + I_res, every task not before rel. -/
def State.releaseAt (s : State) (l : Nat) (t : TaskEnt) : Nat :=
  match s.section with
  | none => t.rel
  | some p => if (s.lcore l).released = 0 then max t.rel (oTick + p.oRot + p.ires) else t.rel

/-- Every correctable word of a core's scratch is rewritten corrected (R259). -/
def State.rewriteScratch (s : State) (c : Nat) : State :=
  ((s.upsets.filter fun x => decide (x.2 = Upset.correctable) && decide (scratchBase + scratchSize * c ≤ x.1) &&
    decide (x.1 < scratchBase + scratchSize * (c + 1))).map Prod.fst).foldl (fun a cw => (a.meetWord cw).1) s

/-- The core state at release (R305): `d` is the descriptor set of R495 and `b` the bank. Registers not named keep their values. -/
def releaseCore (k : Core) (t : TaskEnt) (idx b : Nat) (d : List Byte) (entry : Nat) : Core :=
  let w := fun (o : Nat) => (BitVec.ofNat 32 (leField d o 4) : Word)
  let stat : Nat := 2 ^ 31 + 2 ^ 30 + t.ring % 4 * 2 ^ 28 + leField d 12 1 % 16 * 2 ^ 24 + 2 ^ 19 + b * 2 ^ 12
  let zero := [0x002, 0x00C, 0x00D, 0x00E, 0x014, 0x015, 0x016, 0x017, 0x01A, 0x01B, 0x01C, 0x01D, 0x01E]
  let k := { k with
    regs := (natRange 0 31).foldl (fun r n => Tab.insert (32 * b + n) 0 r) k.regs
    bankV := 1#8 <<< b, bankD := 0, bankCtx := Tab.insert b t.ctx k.bankCtx
    recency := b :: k.recency.filter (· != b)
    shadow := [], rstack := [], rs := false, run := .running, wait := none, micro := none
    budget := t.b, budgetFired := false, budgetPend := false, task := some idx, taskCtx := t.ctx, touchHeld := []
    inNmi := false, inMc := false, fastDepth := 0, bsDepth := 0, fbInt := [], bsInt := [], inDebug := false }
  let k := { k with regs := Tab.insert (32 * b + 31) (w 0) k.regs }
  let k := zero.foldl (fun a n => a.srSet n 0) k
  let k := (((k.srSet 0 (BitVec.ofNat 32 stat)).srSet 1 1).srSet 0x018 (w 4)).srSet 0x019 (w 8)
  -- reserved bits of the descriptors read as zero (R10)
  let put := fun (a : Core) (num o : Nat) => a.srSet num (w o &&& ~~~ srReserved num)
  let k := (natRange 0 16).foldl (fun a n =>
    put (put (put a (0x100 + 4 * n) (16 + 12 * n)) (0x101 + 4 * n) (20 + 12 * n)) (0x102 + 4 * n) (24 + 12 * n)) k
  { k with pc := BitVec.ofNat 32 entry &&& 0xFFFFFFFC#32 }

/-- The bank a release fills: by the preference of R275, the lowest-numbered of the least recently current (log 38). -/
def Core.releaseBank (k : Core) : Nat := match k.recency.getLast? with | some b => b | none => 0

/-- Whether a record is presented to a task in the present frame (R20, R189). -/
def Rec.presented (r : Rec) (t : TaskEnt) (frame : Nat) : Bool :=
  r.derived.isNone && natBit t.mask r.cls && (match r.again with | some p => p == frame | none => r.frame + 1 == frame)

/-- A task is released (R57, R280, R305): the context's slot is not read, the descriptor set is read from the home cluster's SRAM (R495), and
the records presented to it are taken (R62; log 39). -/
def State.release (s : State) (l c : Nat) (t : TaskEnt) : State :=
  let s := s.rewriteScratch c
  let d := s.imageDom t.image
  let q := s.engineRead (clusterBase + clusterSize * (s.lcore l).home + imgSetOff d) 208
  let s := q.1
  let k := s.core c
  let start := max k.sinceTick (s.releaseAt l t)
  let n := (upTo oRel).draw s.freeVal
  let s := s.drawn
  let k := { k with sinceTick := start + n, cycle := (k.cycle + (start - k.sinceTick) + n) % 2 ^ 64 }
  let s := s.setCore c (releaseCore k t (s.taskIndex t) k.releaseBank q.2 ((imgCodeEa d + t.entry) % 2 ^ 32))
  let s := s.modLcore l fun x => { x with released := x.released + 1 }
  { s with adm := { s.adm with recs := s.adm.recs.map fun r => if r.presented t s.timer.frame then { r with taken := true } else r } }

/-- The next task of a logical core starts when the preceding one has ended and its core idles (R57, R58). -/
def execTaskRelease (l : LogId) (s : State) : Host.Outcome State Fault Refusal :=
  if ¬ s.timer.running ∨ s.failing ∨ s.plans.stopping ∨ s.tickPending l then .next s
  else match (s.lcore l).carrier, s.nextTask l with
  | some c, some t =>
    let k := s.core c
    if k.run = .idle ∧ k.task = none ∧ ¬ k.faulted then .next (s.release l c t) else .next s
  | _, _ => .next s

end Sys2Proof.Machine
end

