-- ==== Sys2Proof/Machine/Strings.lean ====
section
/-!
DEFINITION. The resumable instructions: strings (R370 to R373) and EDIT (R374 to R378). One command runs one chunk (R357); the checks
of R355 are made for the bytes of the chunk (log 30).
-/

namespace Sys2Proof.Machine

/-- The physical address of each byte of an operand, in order. -/
def pasOf (ms : List Mapped) : List Nat := ms.flatMap fun m => natRange m.pa m.n

/-- The even and the odd register of a pair: address and remaining count (R270). -/
def Core.pairLo (k : Core) (r : Reg) : Word := k.reg r
def Core.pairHi (k : Core) (r : Reg) : Word := k.reg (r ||| 1)

/-- A pair takes its value in `k0`, before the instruction, advanced by `n` bytes (R309, R371). -/
def Core.advanceFrom (k k0 : Core) (r : Reg) (n : Nat) : Core :=
  k.setPair r (pairOf (k0.pairLo r + BitVec.ofNat 32 n) (k0.pairHi r - BitVec.ofNat 32 n))

/-- A pair advanced by `n` bytes (R371). -/
def Core.advancePair (k : Core) (r : Reg) (n : Nat) : Core := k.advanceFrom k r n

/-- Two pairs advanced, each from its value before the instruction: where they are one, it advances once (R309, R371; log 30). -/
def Core.advanceTwo (k : Core) (rs rd : Reg) (m n : Nat) : Core := (k.advancePair rs m).advanceFrom k rd n

/-- Bytes of a chunk. -/
def chunkLen (count : Word) : Nat := min 64 count.toNat

/-- The byte at a physical address, as this chunk has left it so far: `done` are the bytes written, newest first. -/
def overlaid (done : List (Nat × Byte)) (pa : Nat) (old : Byte) : Byte :=
  match done.find? fun x => x.1 == pa with
  | some x => x.2
  | none => old

/-- Copies byte by byte in increasing address order (R372): source address and old byte, destination address. -/
def seqCopy (f : Byte → Byte) : List (Nat × Byte × Nat) → List (Nat × Byte) → List Byte
  | [], _ => []
  | (src, old, dst) :: t, done =>
    let b := f (overlaid done src old)
    b :: seqCopy f t ((dst, b) :: done)

/-- What a chunk's reads answer. -/
def State.readChunk (s : State) (c : Nat) (ops : List Opnd) : Except Res (State × List (List Mapped) × List (List Byte)) :=
  match s.judgeAll c (ops.filter fun o => o.n != 0) with
  | .error t => .error (.trap s t)
  | .ok ms =>
    if ms.any meetsRegister then .error (.undef 245)
    else
      let reads := (ops.filter fun o => o.n != 0).map fun o => o.acc.acc == 1
      let r := s.readAll c (ms.zip reads)
      match r.2 with
      | .error t => .error (.trap r.1 t)
      | .ok ls =>
        .ok ((ms.zip reads).foldl (fun a m => if m.2 then a.mark false m.1 else a) r.1, ms, ls)

/-- The end of a chunk: more remains, or the instruction completes (R357). -/
def chunkEnd (s : State) (more : Bool) (x : Cost) : Res := if more then .again s x else .done s x

/-- T of a chunk: the instruction's base when this execution begins with it, and the chunk's own (R389). -/
def chunkTime (k : Core) (base own : Nat) : Nat := (if k.rs then 0 else base) + own

/-- The time of a chunk that reads `ms` (R389). -/
def State.chunkCost (s : State) (c : Nat) (t : Nat) (ms : List (List Mapped)) (touches : Nat) : Cost :=
  (upTo (t + readCost (s.displaced c) ms)).plus (cc (40 * touches))

/-- The write of a chunk, and then what it leaves in the core; `x` is the chunk's time without its first touches. -/
def State.chunkCommit (s : State) (c : Nat) (dst : List Mapped) (l : List Byte) (x : Cost) (more : Bool) (put : Core → Core) : Res :=
  let touches := s.commitTouches dst
  match s.performCommit c [(dst, l)] with
  | .trap s t => .trap s t
  | .wait s w => .wait s w
  | .undef r => .undef r
  | .ok s => chunkEnd (s.setCore c (put (s.core c))) more (x.plus (cc (40 * touches)))

/-- The most that a chunk of a string instruction reads: its own bytes and a table, from DRAM (R438). -/
def chunkBound (k : Core) (base own : Nat) : Cost := upTo (chunkTime k base own + 7 * 418)

-- ---------------------------------------------------------------- moves

/-- One chunk of MVS (R370). -/
def State.mvs (s : State) (c : Nat) (rd rs : Reg) : Res :=
  let k := s.core c
  let count := k.pairHi rd
  let n := chunkLen count
  if n = 0 then .done s (upTo 8)
  else match s.readChunk c [⟨k.reg rs, n, accLoad⟩, ⟨k.pairLo rd, n, accStore⟩] with
  | .error r => r
  | .ok (s, ms, ls) => match ms, ls with
    | [a, b], l :: _ =>
      let out := seqCopy id ((pasOf a).zip (l.zip (pasOf b))) []
      s.chunkCommit c b out (s.chunkCost c (chunkTime k 8 4) [a] 0) (decide (n < count.toNat)) fun k =>
        (k.setReg rs (k.reg rs + BitVec.ofNat 32 n)).advanceFrom k rd n
    | _, _ => .undef 245

def execMvs (c : CoreId) (g : Guard) (rd rs : Reg) (s : State) : Host.Outcome State Fault Refusal :=
  s.runInstr c (.mvs c g rd rs) g (oddPair rd) true false (cc 1) fun s => (s.mvs c rd rs).late (chunkBound (s.core c) 8 4)

/-- One chunk of MVSF: the source's bytes, then the fill byte (R370). -/
def State.mvsf (s : State) (c : Nat) (rd rs rt : Reg) : Res :=
  let k := s.core c
  let count := k.pairHi rd
  let n := chunkLen count
  let m := min n (k.pairHi rs).toNat
  let fill : Byte := (k.reg rt).extractLsb' 0 8
  if n = 0 then .done s (upTo 8)
  else match s.readChunk c [⟨k.pairLo rs, m, accLoad⟩, ⟨k.pairLo rd, n, accStore⟩] with
  | .error r => r
  | .ok (s, ms, ls) =>
    let more := decide (n < count.toNat)
    let put := fun (k : Core) => k.advanceTwo rs rd m n
    let t := chunkTime k 8 4
    match ms, ls with
    | [a, b], l :: _ =>
      let out := seqCopy id ((pasOf a).zip (l.zip (pasOf b))) [] ++ List.replicate (n - m) fill
      s.chunkCommit c b out (s.chunkCost c t [a] 0) more put
    | [b], _ => s.chunkCommit c b (List.replicate n fill) (s.chunkCost c t [] 0) more put
    | _, _ => .undef 245

def execMvsf (c : CoreId) (g : Guard) (rd rs rt : Reg) (s : State) : Host.Outcome State Fault Refusal :=
  s.runInstr c (.mvsf c g rd rs rt) g (firstEnc (oddPair rd) (oddPair rs)) true false (cc 1) fun s =>
    (s.mvsf c rd rs rt).late (chunkBound (s.core c) 8 4)

-- ---------------------------------------------------------------- compare and scan

/-- The first position at which two padded strings differ, of `n`. -/
def firstDiff (pad : Byte) : Nat → Nat → List Byte → List Byte → Option (Nat × Byte × Byte)
  | 0, _, _, _ => none
  | n + 1, i, a, b =>
    let x := a.headD pad
    let y := b.headD pad
    if x ≠ y then some (i, x, y) else firstDiff pad n (i + 1) a.tail b.tail

/-- One chunk of CMPS (R370, R371). -/
def State.cmps (s : State) (c : Nat) (rd rs rt : Reg) : Res :=
  let k := s.core c
  let la := (k.pairHi rd).toNat
  let lb := (k.pairHi rs).toNat
  let n := min 64 (max la lb)
  let pad : Byte := (k.reg rt).extractLsb' 0 8
  if n = 0 then .done (s.setCore c (k.setReg rt 0)) (upTo 8)
  else
    let na := min n la
    let nb := min n lb
    match s.readChunk c [⟨k.pairLo rs, nb, accLoad⟩, ⟨k.pairLo rd, na, accLoad⟩] with
    | .error r => r
    | .ok (s, ms, ls) =>
      let b := if nb = 0 then [] else ls.headD []
      let a := if na = 0 then [] else ls.getLastD []
      let x := s.chunkCost c (chunkTime k 8 4) ms 0
      let move := fun (i : Nat) (k : Core) => k.advanceTwo rs rd (min i nb) (min i na)
      match firstDiff pad n 0 a b with
      | some (i, p, q) =>
        .done (s.setCore c ((move i (s.core c)).setReg rt (if q.toNat < p.toNat then 1 else 0xFFFFFFFF#32))) x
      | none =>
        let k := move n (s.core c)
        if n < max la lb then .again (s.setCore c k) x else .done (s.setCore c (k.setReg rt 0)) x

def execCmps (c : CoreId) (g : Guard) (rd rs rt : Reg) (s : State) : Host.Outcome State Fault Refusal :=
  s.runInstr c (.cmps c g rd rs rt) g (firstEnc (oddPair rd) (oddPair rs)) true false (cc 1) fun s =>
    (s.cmps c rd rs rt).late (chunkBound (s.core c) 8 4)

/-- How many bytes precede the first that meets a condition. -/
def before (p : Byte → Bool) (l : List Byte) : Nat := (l.takeWhile fun b => !p b).length

/-- One chunk of SCNS (R370, R371). -/
def State.scns (s : State) (c : Nat) (rd rt : Reg) : Res :=
  let k := s.core c
  let count := k.pairHi rd
  let n := chunkLen count
  let sought : Byte := (k.reg rt).extractLsb' 0 8
  if n = 0 then .done s (upTo 6)
  else match s.readChunk c [⟨k.pairLo rd, n, accLoad⟩] with
  | .error r => r
  | .ok (s, ms, ls) =>
    let i := before (· == sought) (ls.headD [])
    chunkEnd (s.setCore c ((s.core c).advancePair rd i)) (i == n && decide (n < count.toNat)) (s.chunkCost c (chunkTime k 6 4) ms 0)

def execScns (c : CoreId) (g : Guard) (rd rt : Reg) (s : State) : Host.Outcome State Fault Refusal :=
  s.runInstr c (.scns c g rd rt) g (oddPair rd) true false (cc 1) fun s => (s.scns c rd rt).late (chunkBound (s.core c) 6 4)

-- ---------------------------------------------------------------- translate

/-- One byte of a mapped operand, as a mapped piece. -/
def byteOf (ms : List Mapped) (i : Nat) : Mapped :=
  match ms with
  | [] => ⟨0, 1, 0, 0, 0⟩
  | m :: _ => ⟨m.ea + i, 1, m.type, m.desc, (pasOf ms).getD i 0⟩

/-- Reads the table entries of the bytes of a chunk, in order. -/
def State.lookup (s : State) (c : Nat) (table : List Mapped) : List Byte → State × Except Trap (List Byte)
  | [] => (s, .ok [])
  | b :: t =>
    let r := s.loadPieces c [byteOf table b.toNat]
    match r.2 with
    | .error e => (r.1, .error e)
    | .ok x =>
      let q := r.1.lookup c table t
      match q.2 with
      | .error e => (q.1, .error e)
      | .ok l => (q.1, .ok (x ++ l))

/-- The checks and reads that TRS and TRTS share: the table of 256 bytes, then the string, of which the bytes are read. -/
def State.tableChunk (s : State) (c : Nat) (rd rs : Reg) (acc : Access) (n : Nat) :
    Except Res (State × List Mapped × List Mapped × List Byte × List Byte) :=
  let k := s.core c
  match s.judgeAll c [⟨k.reg rs, 256, accLoad⟩, ⟨k.pairLo rd, n, acc⟩] with
  | .error t => .error (.trap s t)
  | .ok ms => match ms with
    | [table, str] =>
      if meetsRegister table ∨ meetsRegister str then .error (.undef 245)
      else if acc.acc = 2 ∧ sharesByte table str then .error (.undef 372)
      else
        let r := s.loadPieces c str
        match r.2 with
        | .error t => .error (.trap r.1 t)
        | .ok l =>
          let q := r.1.lookup c table l
          match q.2 with
          | .error t => .error (.trap q.1 t)
          | .ok x => .ok ((q.1.mark false table).mark false str, table, str, l, x)
    | _ => .error (.undef 245)

/-- One chunk of TRS (R370, R372). -/
def State.trs (s : State) (c : Nat) (rd rs : Reg) : Res :=
  let k := s.core c
  let count := k.pairHi rd
  let n := chunkLen count
  if n = 0 then .done s (upTo 8)
  else match s.tableChunk c rd rs accStore n with
  | .error r => r
  | .ok (s, table, str, _, x) =>
    s.chunkCommit c str x (s.chunkCost c (chunkTime k 8 n) [table, str] 0) (decide (n < count.toNat)) fun k => k.advancePair rd n

def execTrs (c : CoreId) (g : Guard) (rd rs : Reg) (s : State) : Host.Outcome State Fault Refusal :=
  s.runInstr c (.trs c g rd rs) g (oddPair rd) true false (cc 1) fun s => (s.trs c rd rs).late (chunkBound (s.core c) 8 64)

/-- One chunk of TRTS (R370, R371). -/
def State.trts (s : State) (c : Nat) (rd rs rt : Reg) : Res :=
  let k := s.core c
  let count := k.pairHi rd
  let n := chunkLen count
  if n = 0 then .done (s.setCore c (k.setReg rt 0)) (upTo 8)
  else match s.tableChunk c rd rs accLoad n with
  | .error r => r
  | .ok (s, table, str, _, x) =>
    let i := before (· != 0#8) x
    let cost := s.chunkCost c (chunkTime k 8 (min n (i + 1))) [table, str] 0
    let k := (s.core c).advancePair rd i
    if i < n then .done (s.setCore c (k.setReg rt ((x.getD i 0).zeroExtend 32))) cost
    else if n < count.toNat then .again (s.setCore c k) cost
    else .done (s.setCore c (k.setReg rt 0)) cost

def execTrts (c : CoreId) (g : Guard) (rd rs rt : Reg) (s : State) : Host.Outcome State Fault Refusal :=
  s.runInstr c (.trts c g rd rs rt) g (oddPair rd) true false (cc 1) fun s =>
    (s.trts c rd rs rt).late (chunkBound (s.core c) 8 64)

/-- One chunk of CRCS: CRCV continues over the bytes under CRCP.POLY (R142 to R144, R370). -/
def State.crcs (s : State) (c : Nat) (rd : Reg) : Res :=
  let k := s.core c
  let count := k.pairHi rd
  let n := chunkLen count
  if n = 0 then .done s (upTo 8)
  else match s.readChunk c [⟨k.pairLo rd, n, accLoad⟩] with
  | .error r => r
  | .ok (s, ms, ls) =>
    let x := s.chunkCost c (chunkTime k 8 (ceilDiv n 4)) ms 0
    let k := s.core c
    let k := k.setCrcv (crcMore k.crcId k.crcv (ls.headD []))
    chunkEnd (s.setCore c (k.advancePair rd n)) (decide (n < count.toNat)) x

def execCrcs (c : CoreId) (g : Guard) (rd : Reg) (s : State) : Host.Outcome State Fault Refusal :=
  s.runInstr c (.crcs c g rd) g (oddPair rd) true false (cc 1) fun s => (s.crcs c rd).late (chunkBound (s.core c) 8 16)

-- ---------------------------------------------------------------- EDIT (R374 to R378)

/-- EDIT's state while it runs (R375). -/
structure EditSt where
  sig : Bool
  low : Bool
  nz : Bool
  neg : Bool
  sgn : Bool
  fill : Byte
  tail : Bool
  /-- effective address of the current source byte -/
  src : Word
deriving DecidableEq, Repr

/-- What the walk over the pattern answers. -/
inductive EditRes where
  | ok (s : State) (st : EditSt) (out : List Byte) (srcs : List Nat)
  | trap (s : State) (t : Trap)
  | undef (rule : Nat)

/-- Reads the current source byte: each is checked as it is needed, and all under one descriptor (R355). -/
def State.editByte (s : State) (c : Nat) (first : Option (Word × Nat)) (ea : Word) :
    State × Except Trap (Mapped × Byte) :=
  match s.judge c accLoad [⟨ea.toNat, 1⟩] none with
  | .error t => (s, .error t)
  | .ok ms => match ms with
    | [m] =>
      match first with
      | some f => if f.2 ≠ m.desc then (s, .error (accLoad.trap 8 0x01 f.1.toNat)) else
        let r := s.loadPieces c ms
        match r.2 with
        | .error t => (r.1, .error t)
        | .ok l => (r.1.mark false ms, .ok (m, l.headD 0))
      | none =>
        let r := s.loadPieces c ms
        match r.2 with
        | .error t => (r.1, .error t)
        | .ok l => (r.1.mark false ms, .ok (m, l.headD 0))
    | _ => (s, .error (accLoad.trap 9 0x01 ea.toNat))

/-- Takes one digit from a source byte (R377): the digit and the state after it; none where a digit is due and there is none. -/
def EditSt.take (st : EditSt) (b : Byte) : Option (Nat × EditSt) :=
  let hi := b.toNat / 16
  let lo := b.toNat % 16
  if st.low then
    if 9 < lo then none else some (lo, { st with low := false, src := st.src + 1 })
  else if 9 < hi then none
  else if lo < 10 then some (hi, { st with low := true })
  else some (hi, { st with src := st.src + 1, sgn := true, neg := lo % 2 == 1 })

/-- The byte a digit prints, and the state after it (R376). -/
def EditSt.digit (st : EditSt) (d : Nat) (start : Bool) : Byte × EditSt :=
  let printed := st.sig || d != 0
  (if printed then BitVec.ofNat 8 (0x30 + d) else st.fill,
   { st with sig := printed || start, nz := st.nz || d != 0 })

/-- The byte a text byte prints (R376). -/
def EditSt.text (st : EditSt) (b : Byte) : Byte :=
  if (if st.sgn && st.tail then st.neg else st.sig) then b else st.fill

/-- The walk over the pattern bytes of a chunk: effective and physical address of each, its old content, and the physical address
of its destination byte. -/
def State.editWalk (s : State) (c : Nat) (first : Option (Word × Nat)) (st : EditSt) (done : List (Nat × Byte)) (srcs : List Nat) :
    List (Word × Nat × Byte × Nat) → EditRes
  | [] => .ok s st [] srcs
  | (ea, pa, old, dst) :: t =>
    let p := overlaid done pa old
    if p = 1#8 ∨ p = 2#8 then
      if st.sgn then .trap s (trapAt 11 0x04 ea)
      else
        let r := s.editByte c first st.src
        match r.2 with
        | .error e => .trap r.1 e
        | .ok (m, b) =>
          if meetsRegister [m] then .undef 245
          else match st.take b with
          | none => .trap r.1 (trapAt 11 0x01 st.src)
          | some (d, st2) =>
            let o := st2.digit d (p == 2#8)
            let first := match first with | some f => some f | none => some (st.src, m.desc)
            match r.1.editWalk c first o.2 ((dst, o.1) :: done) (m.pa :: srcs) t with
            | .ok s st out srcs => .ok s st (o.1 :: out) srcs
            | x => x
    else
      let o : Byte × EditSt :=
        if p = 3#8 then (st.fill, { st with sig := false, nz := false, neg := false, sgn := false }) else (st.text p, st)
      match s.editWalk c first o.2 ((dst, o.1) :: done) srcs t with
      | .ok s st out srcs => .ok s st (o.1 :: out) srcs
      | x => x

/-- EDIT's state at the start of an execution: fresh, or taken from STAT.EDS and rt[9] (R358, R374). -/
def editStart (k : Core) (rs rt : Reg) : EditSt :=
  let w := k.reg rt
  let st := k.stat
  let fill : Byte := w.extractLsb' 0 8
  if k.rs then ⟨st.getLsbD 11, st.getLsbD 10, st.getLsbD 9, st.getLsbD 8, w.getLsbD 9, fill, w.getLsbD 8, k.pairHi rs⟩
  else ⟨false, false, false, false, false, fill, w.getLsbD 8, k.pairHi rs⟩

/-- STAT.EDS of a state (R375). -/
def EditSt.eds (st : EditSt) : Word :=
  BitVec.ofNat 32 ((if st.sig then 2048 else 0) + (if st.low then 1024 else 0) + (if st.nz then 512 else 0) +
    (if st.neg then 256 else 0))

/-- STAT with a value of EDS. -/
def Core.setEds (k : Core) (e : Word) : Core := k.srSet 0 ((k.stat &&& 0xFFFFF0FF#32) ||| e)

/-- rt at completion (R378). -/
def editResult (st : EditSt) : Word :=
  BitVec.ofNat 32 (st.fill.toNat + (if st.tail then 256 else 0) + (if st.nz then (if st.neg then 1024 else 2048) else 0))

/-- What a chunk of EDIT leaves in the core: pairs advanced, and its state (R371, R375, R378). -/
def editPut (st : EditSt) (rd rs rt : Reg) (n : Nat) (more : Bool) (k : Core) : Core :=
  let k := (k.setPair rs (pairOf (k.pairLo rs + BitVec.ofNat 32 n) st.src)).advanceFrom k rd n
  if more then (k.setReg rt ((k.reg rt &&& 0xFFFFFDFF#32) ||| (if st.sgn then 0x200#32 else 0))).setEds st.eds
  else (k.setReg rt (editResult st)).setEds 0

/-- A of the source bytes read, by their physical addresses: each line once (R389). -/
def sourceCost (disp : Bool) (srcs : List Nat) : Nat :=
  sumOf (fun l => loadWorst disp (typeAt (64 * l)) - 2) (srcs.map (· / 64)).eraseDups

/-- One chunk of EDIT. -/
def State.edit (s : State) (c : Nat) (rd rs rt : Reg) : Res :=
  let k := s.core c
  let count := k.pairHi rd
  let n := min 16 count.toNat
  let st := editStart k rs rt
  if n = 0 then .done s (upTo 12)
  else match s.judgeAll c [⟨k.pairLo rs, n, accLoad⟩] with
  | .error t => .trap s t
  | .ok pm =>
    let pat := pm.headD []
    if meetsRegister pat then .undef 245
    else
      let r := s.loadPieces c pat
      match r.2 with
      | .error t => .trap r.1 t
      | .ok l =>
        let s := r.1.mark false pat
        let eas := (natRange 0 n).map fun i => k.pairLo rs + BitVec.ofNat 32 i
        match s.judge c accStore (operand (k.pairLo rd).toNat n) none with
        | .error t =>
          -- the source's checks come before the destination's
          match s.editWalk c none st [] [] (eas.zip ((pasOf pat).zip (l.zip (List.replicate n (2 ^ 50))))) with
          | .trap s e => if e.vec = 11 then .trap s t else .trap s e
          | .undef r => .undef r
          | .ok s .. => .trap s t
        | .ok dst =>
          if meetsRegister dst then .undef 245
          else match s.editWalk c none st [] [] (eas.zip ((pasOf pat).zip (l.zip (pasOf dst)))) with
          | .trap s e => .trap s e
          | .undef r => .undef r
          | .ok s st out srcs =>
            let more := decide (n < count.toNat)
            if srcs.any fun p => (pasOf dst).contains p then .undef 374
            else
              let a := readCost (s.displaced c) [pat] + sourceCost (s.displaced c) srcs
              s.chunkCommit c dst out (upTo (chunkTime k 12 (2 * n) + a)) more (editPut st rd rs rt n more)

def execEdit (c : CoreId) (g : Guard) (rd rs rt : Reg) (s : State) : Host.Outcome State Fault Refusal :=
  s.runInstr c (.edit c g rd rs rt) g (firstEnc (oddPair rd) (oddPair rs)) true false (cc 1) fun s =>
    (s.edit c rd rs rt).late (chunkBound (s.core c) 12 32)

end Sys2Proof.Machine
end

