-- ==== Sys2Proof/Machine/TagCheck.lean ====
section
/-!
DEFINITION. TCHK, verify and form (R131, R379 to R381).
-/

namespace Sys2Proof.Machine

/-- The record's descriptor must be of type cluster, record or DRAM (R379; logs 31, 62). -/
def Core.recordRegion (k : Core) (ea : Nat) : Option Trap :=
  match k.find ea with
  | some d => if d.type = 1 ∨ d.type = 2 ∨ d.type = 4 then none else some (accNone.trap 9 0x07 ea)
  | none => some (accStore.trap 9 0x01 ea)

/-- The checks of a record's first `n` bytes as a store, with the alignment of R379. -/
def State.judgeRecord (s : State) (c ea n : Nat) : Except Trap (List Mapped) :=
  match (s.core c).recordRegion ea with
  | some t => .error t
  | none => s.judge c accStore (operand ea n) (if ea % 8 = 0 then none else some (accNone.trap 8 0x04 ea))

/-- `n` bytes of a mapped operand from byte `off` on, as mapped pieces; the bytes lie in one page. -/
def partOf (ms : List Mapped) (off n : Nat) : List Mapped :=
  match ms with
  | [] => []
  | m :: _ => [⟨m.ea + off, n, m.type, m.desc, m.pa + off⟩]

/-- What the shared front of both forms answers. -/
inductive TchkRes where
  | ok (s : State) (ms : List Mapped) (rec : List Byte)
  | trap (s : State) (t : Trap)

/-- Both forms: the header is checked and read, then the whole record (R379). -/
def State.tchkRead (s : State) (c ea : Nat) : TchkRes :=
  match s.judgeRecord c ea 32 with
  | .error t => .trap s t
  | .ok hm =>
    let r := s.loadPieces c hm
    match r.2 with
    | .error t => .trap r.1 t
    | .ok h =>
      let len := leField h 14 2
      if 9000 < len then .trap r.1 (trapAt 11 0x03 (BitVec.ofNat 32 ea))
      else match r.1.judgeRecord c ea (32 + len) with
      | .error t => .trap r.1 t
      | .ok ms =>
        let q := r.1.loadPieces c ms
        match q.2 with
        | .error t => .trap q.1 t
        | .ok l => .ok (q.1.mark false ms) ms l

/-- The time of TCHK (R389). -/
def State.tchkCost (s : State) (c : Nat) (ms : List Mapped) (len touches : Nat) : Cost :=
  (upTo (20 + ceilDiv (24 + len) 16 + readCost (s.displaced c) [ms])).plus (cc (40 * touches))

/-- The most time a TCHK that traps takes: that of the longest record in the region that its address names (R389). -/
def State.tchkBound (s : State) (c : Nat) (rs : Reg) : Cost :=
  let k := s.core c
  let type := match k.find (k.reg rs).toNat with | some d => d.type | none => 0
  upTo (584 + 142 * (loadWorst (s.displaced c) type - 2))

/-- TCHK verify (R380): outcome 1 writes the tag, outcome 2 sets Q and takes vector 18. -/
def State.tchkVerify (s : State) (c : Nat) (rd rs : Reg) : Res :=
  let ea := ((s.core c).reg rs).toNat
  match s.tchkRead c ea with
  | .trap s t => .trap s t
  | .ok s ms l =>
    let r := s.verifyAt 1 l
    let j := s.tagJudge l
    let len := leField l 14 2
    let trap := trapAt 18 0x01 (BitVec.ofNat 32 ea)
    let put := fun (s : State) (o : Nat) => s.setCore c ((s.core c).setReg rd (BitVec.ofNat 32 o))
    match j.2.2 with
    | none =>
      let s := put s j.1
      if j.1 = 2 then .doneTrap s trap (s.tchkCost c ms len 0) else .done s (s.tchkCost c ms len 0)
    | some _ =>
      let w := if j.1 = 1 then (partOf ms 0 8, j.2.1.take 8) else (partOf ms 13 1, [j.2.1.getD 13 0])
      let touches := s.commitTouches w.1
      match s.performAll c [w] with
      | .trap s t => .trap s t
      | .wait s x => .wait s x
      | .undef r => .undef r
      | .ok _ => match r.1.performAll c [w] with
        | .trap s t => .trap s t
        | .wait s x => .wait s x
        | .undef r => .undef r
        | .ok s =>
          let s := put s j.1
          if j.1 = 2 then .doneTrap s trap (s.tchkCost c ms len touches) else .done s (s.tchkCost c ms len touches)

def execTchkVerify (c : CoreId) (g : Guard) (rd rs : Reg) (s : State) : Host.Outcome State Fault Refusal :=
  s.runInstr c (.tchkVerify c g rd rs) g none false false (cc 1) fun s => (s.tchkVerify c rd rs).late (s.tchkBound c rs)

/-- Whether an address lies in the cells of an emitted record. -/
def State.emittedAt (s : State) (pa : Nat) : Bool :=
  s.adm.recs.any fun r => r.derived.isSome && (natRange 0 r.cells).any fun i => overlaps (s.recCellPa r i) 64 pa 1

/-- The record as the form form leaves it (R381): the frame number, then the tag under the class's polynomial (R131), with the alive
counter of R127. -/
def State.formed (s : State) (c : Nat) (l : List Byte) : List Byte :=
  let l := patch l 16 (leBytes 8 s.timer.frame)
  let poly := (s.policy (leField l 12 1 % 64)).poly
  let alive := BitVec.ofNat 8 (s.lcore (s.lcoreOf c)).emitted
  patch l 0 (leBytes 8 (mkTag (crc poly (coveredBytes l)) alive poly 2).toNat)

/-- TCHK form (R381). On a record that has already been emitted it is an undefined case of chapter 04. -/
def State.tchkForm (s : State) (c : Nat) (rd rs : Reg) : Res :=
  let ea := ((s.core c).reg rs).toNat
  match s.tchkRead c ea with
  | .trap s t => .trap s t
  | .ok s ms l =>
    match ms with
    | [] => .undef 381
    | m :: _ =>
      if s.emittedAt m.pa then .undef 381
      else
        let f := s.formed c l
        let ws := [(partOf ms 16 8, sliceZ f 16 8), (partOf ms 0 8, f.take 8)]
        let touches := s.commitTouches (partOf ms 0 24)
        match s.performAll c ws with
        | .trap s t => .trap s t
        | .wait s x => .wait s x
        | .undef r => .undef r
        | .ok s => .done (s.setCore c ((s.core c).setReg rd 0)) (s.tchkCost c ms (leField l 14 2) touches)

def execTchkForm (c : CoreId) (g : Guard) (rd rs : Reg) (s : State) : Host.Outcome State Fault Refusal :=
  s.runInstr c (.tchkForm c g rd rs) g none false false (cc 1) fun s => (s.tchkForm c rd rs).late (s.tchkBound c rs)

end Sys2Proof.Machine
end

