-- ==== Sys2Proof/Machine/Waits.lean ====
section
/-!
DEFINITION. The ends of an instruction's waits: Carafe headroom (R30, R149), a capture slot (R150), a deferred swap (R148) and a line
lock (R260). The instruction is then executed.
-/

namespace Sys2Proof.Machine

/-- Executes an instruction that has waited: a store, an atomic, a commit, or a push that spills. -/
def runHeld (i : Instr) (s : State) : Host.Outcome State Fault Refusal :=
  match i with
  | .stb c g rd base mode f => execStb c g rd base mode f s
  | .sth c g rd base mode f => execSth c g rd base mode f s
  | .stw c g rd base mode f => execStw c g rd base mode f s
  | .std c g rd base mode f => execStd c g rd base mode f s
  | .push c g rs => execPush c g rs s
  | .swpw c g rd rs rt => execSwpw c g rd rs rt s
  | .casw c g rd rs rt => execCasw c g rd rs rt s
  | .faddw c g rd rs rt => execFaddw c g rd rs rt s
  | .call c g disp => execCall c g disp s
  | .callr c g rs => execCallr c g rs s
  | .mfs c g rd num => execMfs c g rd num s
  | .kset c g rs rt => execKset c g rs rt s
  | .dadd c g pd rd rs rt => execDadd c g pd rd rs rt s
  | .dsub c g pd rd rs rt => execDsub c g pd rd rs rt s
  | .dzad c g pd rd rs rt => execDzad c g pd rd rs rt s
  | .dcmp c g pd rd rs rt => execDcmp c g pd rd rs rt s
  | .dmul c g pd rd rs rt => execDmul c g pd rd rs rt s
  | .ddiv c g pd rd rs rt => execDdiv c g pd rd rs rt s
  | .dsrp c g pd rd rt => execDsrp c g pd rd rt s
  | .dtst c g pd rd rt => execDtst c g pd rd rt s
  | .cvpz c g pd rd rs rt => execCvpz c g pd rd rs rt s
  | .cvzp c g pd rd rs rt => execCvzp c g pd rd rs rt s
  | .cvpb c g pd rd rs rt => execCvpb c g pd rd rs rt s
  | .cvbp c g pd rd rs rt => execCvbp c g pd rd rs rt s
  | .mvs c g rd rs => execMvs c g rd rs s
  | .mvsf c g rd rs rt => execMvsf c g rd rs rt s
  | .cmps c g rd rs rt => execCmps c g rd rs rt s
  | .scns c g rd rt => execScns c g rd rt s
  | .trs c g rd rs => execTrs c g rd rs s
  | .trts c g rd rs rt => execTrts c g rd rs rt s
  | .crcs c g rd => execCrcs c g rd s
  | .edit c g rd rs rt => execEdit c g rd rs rt s
  | .tchkVerify c g rd rs => execTchkVerify c g rd rs s
  | .tchkForm c g rd rs => execTchkForm c g rd rs s
  | .post c g m rd rs rt => execPost c g m rd rs rt s
  | .post2 c g m rd rs rt => execPost2 c g m rd rs rt s
  | .post4 c g m rd rs rt => execPost4 c g m rd rs rt s
  | .cust c g n sub rd rs rt => execCust c g n sub rd rs rt s
  | _ => .next s

/-- Ends the wait of a core whose condition `now` has come: the wait is charged (R59), and the instruction is executed. -/
def State.endWait (s : State) (c : Nat) (now : WaitWhy → Bool) : Host.Outcome State Fault Refusal :=
  match (s.core c).wait with
  | none => .next s
  | some w =>
    if now w.why then
      let s := (s.setCore c { s.core c with wait := none }).charge c (waitCost w.why)
      match w.instr with
      | some i => runHeld i s
      | none => .next s
    else .next s

/-- Headroom has come (R30, R149, R417). -/
def execCarafeWaitEnd (c : CoreId) (s : State) : Host.Outcome State Fault Refusal :=
  s.endWait c fun w => match w with | .carafe n => s.headroom n | _ => false

/-- A capture slot is free (R150). -/
def execCaptureSlotWaitEnd (c : CoreId) (s : State) : Host.Outcome State Fault Refusal :=
  s.endWait c fun w => match w with | .capture => decide (s.perc.captures.length < 16384) | _ => false

/-- The swap of the page has taken place (R148). -/
def execDeferredSwapWaitEnd (c : CoreId) (s : State) : Host.Outcome State Fault Refusal :=
  s.endWait c fun w => match w with | .deferred p => !s.perc.deferred.contains p | _ => false

/-- The line is free and the core is the first that waits for it (R260). -/
def execLineLockGrant (c : CoreId) (s : State) : Host.Outcome State Fault Refusal :=
  s.endWait c fun w => match w with | .lock l _ => s.lockFree l c | _ => false

end Sys2Proof.Machine
end

