-- ==== Sys2Proof/Machine/Dispatch.lean ====
section
/-!
DEFINITION. The dispatch: one arm per command, each a call of its meaning.
-/

namespace Sys2Proof.Machine

/-- The effect of a command on everything but the queue. -/
def exec (i : Instr) (s : State) : Host.Outcome State Fault Refusal :=
  match i with
  | .add c g rd rs rt => Sys2Proof.Machine.execAdd c g rd rs rt s
  | .sub c g rd rs rt => Sys2Proof.Machine.execSub c g rd rs rt s
  | .and c g rd rs rt => Sys2Proof.Machine.execAnd c g rd rs rt s
  | .or c g rd rs rt => Sys2Proof.Machine.execOr c g rd rs rt s
  | .xor c g rd rs rt => Sys2Proof.Machine.execXor c g rd rs rt s
  | .andn c g rd rs rt => Sys2Proof.Machine.execAndn c g rd rs rt s
  | .min c g rd rs rt => Sys2Proof.Machine.execMin c g rd rs rt s
  | .max c g rd rs rt => Sys2Proof.Machine.execMax c g rd rs rt s
  | .minu c g rd rs rt => Sys2Proof.Machine.execMinu c g rd rs rt s
  | .maxu c g rd rs rt => Sys2Proof.Machine.execMaxu c g rd rs rt s
  | .neg c g rd rs => Sys2Proof.Machine.execNeg c g rd rs s
  | .abs c g rd rs => Sys2Proof.Machine.execAbs c g rd rs s
  | .mov c g rd rs => Sys2Proof.Machine.execMov c g rd rs s
  | .sextb c g rd rs => Sys2Proof.Machine.execSextb c g rd rs s
  | .sexth c g rd rs => Sys2Proof.Machine.execSexth c g rd rs s
  | .zextb c g rd rs => Sys2Proof.Machine.execZextb c g rd rs s
  | .zexth c g rd rs => Sys2Proof.Machine.execZexth c g rd rs s
  | .clz c g rd rs => Sys2Proof.Machine.execClz c g rd rs s
  | .popc c g rd rs => Sys2Proof.Machine.execPopc c g rd rs s
  | .bswap c g rd rs => Sys2Proof.Machine.execBswap c g rd rs s
  | .bswaph c g rd rs => Sys2Proof.Machine.execBswaph c g rd rs s
  | .addi c g rd rs imm => Sys2Proof.Machine.execAddi c g rd rs imm s
  | .andi c g rd rs imm => Sys2Proof.Machine.execAndi c g rd rs imm s
  | .ori c g rd rs imm => Sys2Proof.Machine.execOri c g rd rs imm s
  | .xori c g rd rs imm => Sys2Proof.Machine.execXori c g rd rs imm s
  | .li c g rd imm => Sys2Proof.Machine.execLi c g rd imm s
  | .lih c g rd imm => Sys2Proof.Machine.execLih c g rd imm s
  | .lil c g rd imm => Sys2Proof.Machine.execLil c g rd imm s
  | .shl c g rd rs rt => Sys2Proof.Machine.execShl c g rd rs rt s
  | .shr c g rd rs rt => Sys2Proof.Machine.execShr c g rd rs rt s
  | .sar c g rd rs rt => Sys2Proof.Machine.execSar c g rd rs rt s
  | .ror c g rd rs rt => Sys2Proof.Machine.execRor c g rd rs rt s
  | .rol c g rd rs rt => Sys2Proof.Machine.execRol c g rd rs rt s
  | .shli c g rd rs imm => Sys2Proof.Machine.execShli c g rd rs imm s
  | .shri c g rd rs imm => Sys2Proof.Machine.execShri c g rd rs imm s
  | .sari c g rd rs imm => Sys2Proof.Machine.execSari c g rd rs imm s
  | .rori c g rd rs imm => Sys2Proof.Machine.execRori c g rd rs imm s
  | .cmpeq c g rd rs rt => Sys2Proof.Machine.execCmpeq c g rd rs rt s
  | .cmplt c g rd rs rt => Sys2Proof.Machine.execCmplt c g rd rs rt s
  | .cmpltu c g rd rs rt => Sys2Proof.Machine.execCmpltu c g rd rs rt s
  | .cmple c g rd rs rt => Sys2Proof.Machine.execCmple c g rd rs rt s
  | .cmpleu c g rd rs rt => Sys2Proof.Machine.execCmpleu c g rd rs rt s
  | .tst c g rd rs rt => Sys2Proof.Machine.execTst c g rd rs rt s
  | .cmpeqi c g rd rs imm => Sys2Proof.Machine.execCmpeqi c g rd rs imm s
  | .cmplti c g rd rs imm => Sys2Proof.Machine.execCmplti c g rd rs imm s
  | .cmpltui c g rd rs imm => Sys2Proof.Machine.execCmpltui c g rd rs imm s
  | .tsti c g rd rs imm => Sys2Proof.Machine.execTsti c g rd rs imm s
  | .pand c g pd ps pt => Sys2Proof.Machine.execPand c g pd ps pt s
  | .pandn c g pd ps pt => Sys2Proof.Machine.execPandn c g pd ps pt s
  | .por c g pd ps pt => Sys2Proof.Machine.execPor c g pd ps pt s
  | .pxor c g pd ps pt => Sys2Proof.Machine.execPxor c g pd ps pt s
  | .mul c g rd rs rt => Sys2Proof.Machine.execMul c g rd rs rt s
  | .mulh c g rd rs rt => Sys2Proof.Machine.execMulh c g rd rs rt s
  | .mulhu c g rd rs rt => Sys2Proof.Machine.execMulhu c g rd rs rt s
  | .div c g rd rs rt => Sys2Proof.Machine.execDiv c g rd rs rt s
  | .divu c g rd rs rt => Sys2Proof.Machine.execDivu c g rd rs rt s
  | .rem c g rd rs rt => Sys2Proof.Machine.execRem c g rd rs rt s
  | .remu c g rd rs rt => Sys2Proof.Machine.execRemu c g rd rs rt s
  | .divqr c g rd rs rt => Sys2Proof.Machine.execDivqr c g rd rs rt s
  | .divqru c g rd rs rt => Sys2Proof.Machine.execDivqru c g rd rs rt s
  | .ldb c g rd base mode f => Sys2Proof.Machine.execLdb c g rd base mode f s
  | .ldbu c g rd base mode f => Sys2Proof.Machine.execLdbu c g rd base mode f s
  | .ldh c g rd base mode f => Sys2Proof.Machine.execLdh c g rd base mode f s
  | .ldhu c g rd base mode f => Sys2Proof.Machine.execLdhu c g rd base mode f s
  | .ldw c g rd base mode f => Sys2Proof.Machine.execLdw c g rd base mode f s
  | .ldd c g rd base mode f => Sys2Proof.Machine.execLdd c g rd base mode f s
  | .stb c g rd base mode f => Sys2Proof.Machine.execStb c g rd base mode f s
  | .sth c g rd base mode f => Sys2Proof.Machine.execSth c g rd base mode f s
  | .stw c g rd base mode f => Sys2Proof.Machine.execStw c g rd base mode f s
  | .std c g rd base mode f => Sys2Proof.Machine.execStd c g rd base mode f s
  | .swpw c g rd rs rt => Sys2Proof.Machine.execSwpw c g rd rs rt s
  | .casw c g rd rs rt => Sys2Proof.Machine.execCasw c g rd rs rt s
  | .faddw c g rd rs rt => Sys2Proof.Machine.execFaddw c g rd rs rt s
  | .fence c g => Sys2Proof.Machine.execFence c g s
  | .fencei c g => Sys2Proof.Machine.execFencei c g s
  | .br c g disp => Sys2Proof.Machine.execBr c g disp s
  | .call c g disp => Sys2Proof.Machine.execCall c g disp s
  | .jr c g rs => Sys2Proof.Machine.execJr c g rs s
  | .callr c g rs => Sys2Proof.Machine.execCallr c g rs s
  | .ret c g => Sys2Proof.Machine.execRet c g s
  | .loop c g k rs imm => Sys2Proof.Machine.execLoop c g k rs imm s
  | .loopi c g k count imm => Sys2Proof.Machine.execLoopi c g k count imm s
  | .rpt c g rs => Sys2Proof.Machine.execRpt c g rs s
  | .rpti c g count => Sys2Proof.Machine.execRpti c g count s
  | .sysc c g gate => Sys2Proof.Machine.execSysc c g gate s
  | .eret c g => Sys2Proof.Machine.execEret c g s
  | .fret c g => Sys2Proof.Machine.execFret c g s
  | .nret c g => Sys2Proof.Machine.execNret c g s
  | .mret c g => Sys2Proof.Machine.execMret c g s
  | .sret c g => Sys2Proof.Machine.execSret c g s
  | .tend c g => Sys2Proof.Machine.execTend c g s
  | .ctxsw c g rs => Sys2Proof.Machine.execCtxsw c g rs s
  | .push c g rs => Sys2Proof.Machine.execPush c g rs s
  | .pop c g rd => Sys2Proof.Machine.execPop c g rd s
  | .mfb c g rd rs => Sys2Proof.Machine.execMfb c g rd rs s
  | .mtb c g rd rs => Sys2Proof.Machine.execMtb c g rd rs s
  | .mfs c g rd num => Sys2Proof.Machine.execMfs c g rd num s
  | .mts c g rs num => Sys2Proof.Machine.execMts c g rs num s
  | .modeShadowApply c => Sys2Proof.Machine.execModeShadowApply c s
  | .krd c g rd rs => Sys2Proof.Machine.execKrd c g rd rs s
  | .kset c g rs rt => Sys2Proof.Machine.execKset c g rs rt s
  | .krref c g rd rs => Sys2Proof.Machine.execKrref c g rd rs s
  | .fadd c g dbl rd rs rt => Sys2Proof.Machine.execFadd c g dbl rd rs rt s
  | .fsub c g dbl rd rs rt => Sys2Proof.Machine.execFsub c g dbl rd rs rt s
  | .fmul c g dbl rd rs rt => Sys2Proof.Machine.execFmul c g dbl rd rs rt s
  | .fdiv c g dbl rd rs rt => Sys2Proof.Machine.execFdiv c g dbl rd rs rt s
  | .fneg c g dbl rd rs => Sys2Proof.Machine.execFneg c g dbl rd rs s
  | .fabs c g dbl rd rs => Sys2Proof.Machine.execFabs c g dbl rd rs s
  | .fmov c g dbl rd rs => Sys2Proof.Machine.execFmov c g dbl rd rs s
  | .fcmpeq c g dbl rd rs rt => Sys2Proof.Machine.execFcmpeq c g dbl rd rs rt s
  | .fcmplt c g dbl rd rs rt => Sys2Proof.Machine.execFcmplt c g dbl rd rs rt s
  | .fcmple c g dbl rd rs rt => Sys2Proof.Machine.execFcmple c g dbl rd rs rt s
  | .fcvtf c g dbl rd rs => Sys2Proof.Machine.execFcvtf c g dbl rd rs s
  | .fcvti c g dbl rd rs => Sys2Proof.Machine.execFcvti c g dbl rd rs s
  | .fcvtfi c g dbl rd rs => Sys2Proof.Machine.execFcvtfi c g dbl rd rs s
  | .fma c g dbl rd rs rt => Sys2Proof.Machine.execFma c g dbl rd rs rt s
  | .fms c g dbl rd rs rt => Sys2Proof.Machine.execFms c g dbl rd rs rt s
  | .fnma c g dbl rd rs rt => Sys2Proof.Machine.execFnma c g dbl rd rs rt s
  | .dadd c g pd rd rs rt => Sys2Proof.Machine.execDadd c g pd rd rs rt s
  | .dsub c g pd rd rs rt => Sys2Proof.Machine.execDsub c g pd rd rs rt s
  | .dzad c g pd rd rs rt => Sys2Proof.Machine.execDzad c g pd rd rs rt s
  | .dcmp c g pd rd rs rt => Sys2Proof.Machine.execDcmp c g pd rd rs rt s
  | .dmul c g pd rd rs rt => Sys2Proof.Machine.execDmul c g pd rd rs rt s
  | .ddiv c g pd rd rs rt => Sys2Proof.Machine.execDdiv c g pd rd rs rt s
  | .dsrp c g pd rd rt => Sys2Proof.Machine.execDsrp c g pd rd rt s
  | .dtst c g pd rd rt => Sys2Proof.Machine.execDtst c g pd rd rt s
  | .cvpz c g pd rd rs rt => Sys2Proof.Machine.execCvpz c g pd rd rs rt s
  | .cvzp c g pd rd rs rt => Sys2Proof.Machine.execCvzp c g pd rd rs rt s
  | .cvpb c g pd rd rs rt => Sys2Proof.Machine.execCvpb c g pd rd rs rt s
  | .cvbp c g pd rd rs rt => Sys2Proof.Machine.execCvbp c g pd rd rs rt s
  | .mvs c g rd rs => Sys2Proof.Machine.execMvs c g rd rs s
  | .mvsf c g rd rs rt => Sys2Proof.Machine.execMvsf c g rd rs rt s
  | .cmps c g rd rs rt => Sys2Proof.Machine.execCmps c g rd rs rt s
  | .scns c g rd rt => Sys2Proof.Machine.execScns c g rd rt s
  | .trs c g rd rs => Sys2Proof.Machine.execTrs c g rd rs s
  | .trts c g rd rs rt => Sys2Proof.Machine.execTrts c g rd rs rt s
  | .crcs c g rd => Sys2Proof.Machine.execCrcs c g rd s
  | .edit c g rd rs rt => Sys2Proof.Machine.execEdit c g rd rs rt s
  | .tchkVerify c g rd rs => Sys2Proof.Machine.execTchkVerify c g rd rs s
  | .tchkForm c g rd rs => Sys2Proof.Machine.execTchkForm c g rd rs s
  | .post c g m rd rs rt => Sys2Proof.Machine.execPost c g m rd rs rt s
  | .post2 c g m rd rs rt => Sys2Proof.Machine.execPost2 c g m rd rs rt s
  | .post4 c g m rd rs rt => Sys2Proof.Machine.execPost4 c g m rd rs rt s
  | .cust c g n sub rd rs rt => Sys2Proof.Machine.execCust c g n sub rd rs rt s
  | .interrupt c => Sys2Proof.Machine.execInterrupt c s
  | .fastInterrupt c => Sys2Proof.Machine.execFastInterrupt c s
  | .nmi c => Sys2Proof.Machine.execNmi c s
  | .frameBudgetOverrun c => Sys2Proof.Machine.execFrameBudgetOverrun c s
  | .debugHalt c => Sys2Proof.Machine.execDebugHalt c s
  | .breakpoint c => Sys2Proof.Machine.execBreakpoint c s
  | .storeBufferDrain c => Sys2Proof.Machine.execStoreBufferDrain c s
  | .spillWriteback c => Sys2Proof.Machine.execSpillWriteback c s
  | .carafeWaitEnd c => Sys2Proof.Machine.execCarafeWaitEnd c s
  | .captureSlotWaitEnd c => Sys2Proof.Machine.execCaptureSlotWaitEnd c s
  | .deferredSwapWaitEnd c => Sys2Proof.Machine.execDeferredSwapWaitEnd c s
  | .lineLockGrant c => Sys2Proof.Machine.execLineLockGrant c s
  | .lineLockTimeout c => Sys2Proof.Machine.execLineLockTimeout c s
  | .microcodeReloadComplete c => Sys2Proof.Machine.execMicrocodeReloadComplete c s
  | .egsbSubmit c value => Sys2Proof.Machine.execEgsbSubmit c value s
  | .egsbWaitEnd c => Sys2Proof.Machine.execEgsbWaitEnd c s
  | .dremEmission c value => Sys2Proof.Machine.execDremEmission c value s
  | .derivedCopyComplete id => Sys2Proof.Machine.execDerivedCopyComplete id s
  | .iraiseStore c value => Sys2Proof.Machine.execIraiseStore c value s
  | .dbginLoad c rd => Sys2Proof.Machine.execDbginLoad c rd s
  | .dbgoutStore c value => Sys2Proof.Machine.execDbgoutStore c value s
  | .deviceRegisterWrite c addr size value => Sys2Proof.Machine.execDeviceRegisterWrite c addr size value s
  | .frameTick w => Sys2Proof.Machine.execFrameTick w s
  | .taskRelease l => Sys2Proof.Machine.execTaskRelease l s
  | .planSwitch => Sys2Proof.Machine.execPlanSwitch s
  | .imagePlacement => Sys2Proof.Machine.execImagePlacement s
  | .degradedSwitch => Sys2Proof.Machine.execDegradedSwitch s
  | .rotation => Sys2Proof.Machine.execRotation s
  | .faultReplacement l => Sys2Proof.Machine.execFaultReplacement l s
  | .coreSelfTest p pass => Sys2Proof.Machine.execCoreSelfTest p pass s
  | .ptpMessage m => Sys2Proof.Machine.execPtpMessage m s
  | .sourceLocked => Sys2Proof.Machine.execSourceLocked s
  | .sourceLost => Sys2Proof.Machine.execSourceLost s
  | .holdoverExpiry => Sys2Proof.Machine.execHoldoverExpiry s
  | .ppsInEdge offset => Sys2Proof.Machine.execPpsInEdge offset s
  | .ppsOut => Sys2Proof.Machine.execPpsOut s
  | .vrtDatagram d => Sys2Proof.Machine.execVrtDatagram d s
  | .arpRequest port target => Sys2Proof.Machine.execArpRequest port target s
  | .neighbourSolicitation port target => Sys2Proof.Machine.execNeighbourSolicitation port target s
  | .nonVrtFrame port why => Sys2Proof.Machine.execNonVrtFrame port why s
  | .portLinkChange port up sub => Sys2Proof.Machine.execPortLinkChange port up sub s
  | .replyTransmit port cls => Sys2Proof.Machine.execReplyTransmit port cls s
  | .percolatorUnitEnqueue grp => Sys2Proof.Machine.execPercolatorUnitEnqueue grp s
  | .mediaOpIssue id => Sys2Proof.Machine.execMediaOpIssue id s
  | .mediaOpComplete id res data => Sys2Proof.Machine.execMediaOpComplete id res data s
  | .mediaOpTimeout id => Sys2Proof.Machine.execMediaOpTimeout id s
  | .pfailAssert => Sys2Proof.Machine.execPfailAssert s
  | .vholdWarnTrigger first second => Sys2Proof.Machine.execVholdWarnTrigger first second s
  | .holdtestDeassert => Sys2Proof.Machine.execHoldtestDeassert s
  | .admissionStop => Sys2Proof.Machine.execAdmissionStop s
  | .coreStop => Sys2Proof.Machine.execCoreStop s
  | .flushBegin mv => Sys2Proof.Machine.execFlushBegin mv s
  | .flushComplete mv => Sys2Proof.Machine.execFlushComplete mv s
  | .safeAssert => Sys2Proof.Machine.execSafeAssert s
  | .capacitanceTestStart => Sys2Proof.Machine.execCapacitanceTestStart s
  | .capacitanceTestEnd isenseNVS dropCodes => Sys2Proof.Machine.execCapacitanceTestEnd isenseNVS dropCodes s
  | .recovery ms => Sys2Proof.Machine.execRecovery ms s
  | .foldSegment grp => Sys2Proof.Machine.execFoldSegment grp s
  | .flashScrubRead area part item => Sys2Proof.Machine.execFlashScrubRead area part item s
  | .relocation ref => Sys2Proof.Machine.execRelocation ref s
  | .journalErase grp bulk stripe => Sys2Proof.Machine.execJournalErase grp bulk stripe s
  | .wearLevelling lun => Sys2Proof.Machine.execWearLevelling lun s
  | .recordExpiry id => Sys2Proof.Machine.execRecordExpiry id s
  | .sramScrub addr found => Sys2Proof.Machine.execSramScrub addr found s
  | .dramScrub addr found => Sys2Proof.Machine.execDramScrub addr found s
  | .grinderJobMiss job shortfallMs => Sys2Proof.Machine.execGrinderJobMiss job shortfallMs s
  | .sramRowRepair kind unit => Sys2Proof.Machine.execSramRowRepair kind unit s
  | .sramRowRepairComplete kind unit => Sys2Proof.Machine.execSramRowRepairComplete kind unit s
  | .lunRebuildComplete lun => Sys2Proof.Machine.execLunRebuildComplete lun s
  | .watchdogExpiry => Sys2Proof.Machine.execWatchdogExpiry s
  | .sensorSample w => Sys2Proof.Machine.execSensorSample w s
  | .powerGoodLost domain => Sys2Proof.Machine.execPowerGoodLost domain s
  | .nmiNAssert => Sys2Proof.Machine.execNmiNAssert s
  | .logNandMirror => Sys2Proof.Machine.execLogNandMirror s
  | .logNorMirror => Sys2Proof.Machine.execLogNorMirror s
  | .porstAssert => Sys2Proof.Machine.execPorstAssert s
  | .boot w => Sys2Proof.Machine.execBoot w s
  | .bootResume => Sys2Proof.Machine.execBootResume s
  | .domainPowerTimeout domain => Sys2Proof.Machine.execDomainPowerTimeout domain s
  | .avsUpdate targetMv => Sys2Proof.Machine.execAvsUpdate targetMv s
  | .pmbusRetry ack status => Sys2Proof.Machine.execPmbusRetry ack status s
  | .zdpOpen m => Sys2Proof.Machine.execZdpOpen m s
  | .zdpProve m => Sys2Proof.Machine.execZdpProve m s
  | .zdpClose m => Sys2Proof.Machine.execZdpClose m s
  | .zdpNop m => Sys2Proof.Machine.execZdpNop m s
  | .zdpRead m => Sys2Proof.Machine.execZdpRead m s
  | .zdpWrite m => Sys2Proof.Machine.execZdpWrite m s
  | .zdpWriteSeg m => Sys2Proof.Machine.execZdpWriteSeg m s
  | .zdpCancel m => Sys2Proof.Machine.execZdpCancel m s
  | .transferTimeout sid => Sys2Proof.Machine.execTransferTimeout sid s
  | .sessionIdleTimeout sid => Sys2Proof.Machine.execSessionIdleTimeout sid s
  | .openLockoutEnd src => Sys2Proof.Machine.execOpenLockoutEnd src s
  | .persistentStoreComplete good => Sys2Proof.Machine.execPersistentStoreComplete good s
  | .canReassemblyTimeout => Sys2Proof.Machine.execCanReassemblyTimeout s
  | .canBusOffRecovery => Sys2Proof.Machine.execCanBusOffRecovery s
  | .shadowPlanWrite w => Sys2Proof.Machine.execShadowPlanWrite w s
  | .planCommit w => Sys2Proof.Machine.execPlanCommit w s
  | .shadowDiscard w => Sys2Proof.Machine.execShadowDiscard w s
  | .partnerConfigWrite w => Sys2Proof.Machine.execPartnerConfigWrite w s
  | .partnerEntryWrite w => Sys2Proof.Machine.execPartnerEntryWrite w s
  | .keyWrite w => Sys2Proof.Machine.execKeyWrite w s
  | .keyErase w => Sys2Proof.Machine.execKeyErase w s
  | .orderlyShutdown w => Sys2Proof.Machine.execOrderlyShutdown w s
  | .portModeWrite port fec w => Sys2Proof.Machine.execPortModeWrite port fec w s
  | .rawCommandStart w => Sys2Proof.Machine.execRawCommandStart w s
  | .imageWrite w => Sys2Proof.Machine.execImageWrite w s
  | .imageDelete w => Sys2Proof.Machine.execImageDelete w s
  | .programImageWrite n set w => Sys2Proof.Machine.execProgramImageWrite n set w s
  | .customerObjectWrite n w => Sys2Proof.Machine.execCustomerObjectWrite n w s
  | .userImageWrite w => Sys2Proof.Machine.execUserImageWrite w s
  | .userImageLoaded => Sys2Proof.Machine.execUserImageLoaded s
  | .slotUnload w => Sys2Proof.Machine.execSlotUnload w s
  | .deviceRestart w => Sys2Proof.Machine.execDeviceRestart w s
  | .updateImageWrite w => Sys2Proof.Machine.execUpdateImageWrite w s
  | .updateTry w => Sys2Proof.Machine.execUpdateTry w s
  | .updateCommit w => Sys2Proof.Machine.execUpdateCommit w s
  | .updateDiscard w => Sys2Proof.Machine.execUpdateDiscard w s
  | .retireCore w => Sys2Proof.Machine.execRetireCore w s
  | .retireLun w => Sys2Proof.Machine.execRetireLun w s
  | .domainRequest w => Sys2Proof.Machine.execDomainRequest w s
  | .raiseNmi w => Sys2Proof.Machine.execRaiseNmi w s
  | .raiseBar w => Sys2Proof.Machine.execRaiseBar w s
  | .credentialWrite ring w => Sys2Proof.Machine.execCredentialWrite ring w s
  | .extest cells pins => Sys2Proof.Machine.execExtest cells pins s
  | .samplePreload cells pins => Sys2Proof.Machine.execSamplePreload cells pins s
  | .clamp => Sys2Proof.Machine.execClamp s
  | .highz => Sys2Proof.Machine.execHighz s
  | .bypass => Sys2Proof.Machine.execBypass s
  | .tapReset => Sys2Proof.Machine.execTapReset s
  | .debugHaltRequest l => Sys2Proof.Machine.execDebugHaltRequest l s
  | .breakpointSet l n enable ea => Sys2Proof.Machine.execBreakpointSet l n enable ea s
  | .debugMailboxIn l word full => Sys2Proof.Machine.execDebugMailboxIn l word full s
  | .debugMailboxOut l => Sys2Proof.Machine.execDebugMailboxOut l s
  | .illegalInstruction c word => Sys2Proof.Machine.execIllegalInstruction c word s
  | .unknownCommand m => Sys2Proof.Machine.execUnknownCommand m s
  | .canFdFrame f => Sys2Proof.Machine.execCanFdFrame f s
  | .canFaultConfinement st => Sys2Proof.Machine.execCanFaultConfinement st s

end Sys2Proof.Machine
end

