-- ==== Sys2Proof/WellFormed.lean ====
section
/-!
DEFINITION. What a well-formed command is: an instruction word that no encoding rule faults or reserves (R308, R309, R318, R326, R574), and a
command whose operands are what its rules can name. `exec` gives every command a meaning; these checks are the premises of statements about
encodings and about operands.
-/

namespace Sys2Proof

/-- The physical core that executes an instruction of the ledger core, and its guard (R306); none for another command. -/
def Instr.at? : Instr → Option (CoreId × Guard)
  | .add c g _ _ _ => some (c, g)
  | .sub c g _ _ _ => some (c, g)
  | .and c g _ _ _ => some (c, g)
  | .or c g _ _ _ => some (c, g)
  | .xor c g _ _ _ => some (c, g)
  | .andn c g _ _ _ => some (c, g)
  | .min c g _ _ _ => some (c, g)
  | .max c g _ _ _ => some (c, g)
  | .minu c g _ _ _ => some (c, g)
  | .maxu c g _ _ _ => some (c, g)
  | .neg c g _ _ => some (c, g)
  | .abs c g _ _ => some (c, g)
  | .mov c g _ _ => some (c, g)
  | .sextb c g _ _ => some (c, g)
  | .sexth c g _ _ => some (c, g)
  | .zextb c g _ _ => some (c, g)
  | .zexth c g _ _ => some (c, g)
  | .clz c g _ _ => some (c, g)
  | .popc c g _ _ => some (c, g)
  | .bswap c g _ _ => some (c, g)
  | .bswaph c g _ _ => some (c, g)
  | .addi c g _ _ _ => some (c, g)
  | .andi c g _ _ _ => some (c, g)
  | .ori c g _ _ _ => some (c, g)
  | .xori c g _ _ _ => some (c, g)
  | .li c g _ _ => some (c, g)
  | .lih c g _ _ => some (c, g)
  | .lil c g _ _ => some (c, g)
  | .shl c g _ _ _ => some (c, g)
  | .shr c g _ _ _ => some (c, g)
  | .sar c g _ _ _ => some (c, g)
  | .ror c g _ _ _ => some (c, g)
  | .rol c g _ _ _ => some (c, g)
  | .shli c g _ _ _ => some (c, g)
  | .shri c g _ _ _ => some (c, g)
  | .sari c g _ _ _ => some (c, g)
  | .rori c g _ _ _ => some (c, g)
  | .cmpeq c g _ _ _ => some (c, g)
  | .cmplt c g _ _ _ => some (c, g)
  | .cmpltu c g _ _ _ => some (c, g)
  | .cmple c g _ _ _ => some (c, g)
  | .cmpleu c g _ _ _ => some (c, g)
  | .tst c g _ _ _ => some (c, g)
  | .cmpeqi c g _ _ _ => some (c, g)
  | .cmplti c g _ _ _ => some (c, g)
  | .cmpltui c g _ _ _ => some (c, g)
  | .tsti c g _ _ _ => some (c, g)
  | .pand c g _ _ _ => some (c, g)
  | .pandn c g _ _ _ => some (c, g)
  | .por c g _ _ _ => some (c, g)
  | .pxor c g _ _ _ => some (c, g)
  | .mul c g _ _ _ => some (c, g)
  | .mulh c g _ _ _ => some (c, g)
  | .mulhu c g _ _ _ => some (c, g)
  | .div c g _ _ _ => some (c, g)
  | .divu c g _ _ _ => some (c, g)
  | .rem c g _ _ _ => some (c, g)
  | .remu c g _ _ _ => some (c, g)
  | .divqr c g _ _ _ => some (c, g)
  | .divqru c g _ _ _ => some (c, g)
  | .ldb c g _ _ _ _ => some (c, g)
  | .ldbu c g _ _ _ _ => some (c, g)
  | .ldh c g _ _ _ _ => some (c, g)
  | .ldhu c g _ _ _ _ => some (c, g)
  | .ldw c g _ _ _ _ => some (c, g)
  | .ldd c g _ _ _ _ => some (c, g)
  | .stb c g _ _ _ _ => some (c, g)
  | .sth c g _ _ _ _ => some (c, g)
  | .stw c g _ _ _ _ => some (c, g)
  | .std c g _ _ _ _ => some (c, g)
  | .swpw c g _ _ _ => some (c, g)
  | .casw c g _ _ _ => some (c, g)
  | .faddw c g _ _ _ => some (c, g)
  | .fence c g => some (c, g)
  | .fencei c g => some (c, g)
  | .br c g _ => some (c, g)
  | .call c g _ => some (c, g)
  | .jr c g _ => some (c, g)
  | .callr c g _ => some (c, g)
  | .ret c g => some (c, g)
  | .loop c g _ _ _ => some (c, g)
  | .loopi c g _ _ _ => some (c, g)
  | .rpt c g _ => some (c, g)
  | .rpti c g _ => some (c, g)
  | .sysc c g _ => some (c, g)
  | .eret c g => some (c, g)
  | .fret c g => some (c, g)
  | .nret c g => some (c, g)
  | .mret c g => some (c, g)
  | .sret c g => some (c, g)
  | .tend c g => some (c, g)
  | .ctxsw c g _ => some (c, g)
  | .push c g _ => some (c, g)
  | .pop c g _ => some (c, g)
  | .mfb c g _ _ => some (c, g)
  | .mtb c g _ _ => some (c, g)
  | .mfs c g _ _ => some (c, g)
  | .mts c g _ _ => some (c, g)
  | .krd c g _ _ => some (c, g)
  | .kset c g _ _ => some (c, g)
  | .krref c g _ _ => some (c, g)
  | .fadd c g _ _ _ _ => some (c, g)
  | .fsub c g _ _ _ _ => some (c, g)
  | .fmul c g _ _ _ _ => some (c, g)
  | .fdiv c g _ _ _ _ => some (c, g)
  | .fneg c g _ _ _ => some (c, g)
  | .fabs c g _ _ _ => some (c, g)
  | .fmov c g _ _ _ => some (c, g)
  | .fcmpeq c g _ _ _ _ => some (c, g)
  | .fcmplt c g _ _ _ _ => some (c, g)
  | .fcmple c g _ _ _ _ => some (c, g)
  | .fcvtf c g _ _ _ => some (c, g)
  | .fcvti c g _ _ _ => some (c, g)
  | .fcvtfi c g _ _ _ => some (c, g)
  | .fma c g _ _ _ _ => some (c, g)
  | .fms c g _ _ _ _ => some (c, g)
  | .fnma c g _ _ _ _ => some (c, g)
  | .dadd c g _ _ _ _ => some (c, g)
  | .dsub c g _ _ _ _ => some (c, g)
  | .dzad c g _ _ _ _ => some (c, g)
  | .dcmp c g _ _ _ _ => some (c, g)
  | .dmul c g _ _ _ _ => some (c, g)
  | .ddiv c g _ _ _ _ => some (c, g)
  | .dsrp c g _ _ _ => some (c, g)
  | .dtst c g _ _ _ => some (c, g)
  | .cvpz c g _ _ _ _ => some (c, g)
  | .cvzp c g _ _ _ _ => some (c, g)
  | .cvpb c g _ _ _ _ => some (c, g)
  | .cvbp c g _ _ _ _ => some (c, g)
  | .mvs c g _ _ => some (c, g)
  | .mvsf c g _ _ _ => some (c, g)
  | .cmps c g _ _ _ => some (c, g)
  | .scns c g _ _ => some (c, g)
  | .trs c g _ _ => some (c, g)
  | .trts c g _ _ _ => some (c, g)
  | .crcs c g _ => some (c, g)
  | .edit c g _ _ _ => some (c, g)
  | .tchkVerify c g _ _ => some (c, g)
  | .tchkForm c g _ _ => some (c, g)
  | .post c g _ _ _ _ => some (c, g)
  | .post2 c g _ _ _ _ => some (c, g)
  | .post4 c g _ _ _ _ => some (c, g)
  | .cust c g _ _ _ _ _ => some (c, g)
  | .modeShadowApply .. | .interrupt .. | .fastInterrupt .. | .nmi .. | .frameBudgetOverrun .. | .debugHalt .. | .breakpoint ..
  | .storeBufferDrain .. | .spillWriteback .. | .carafeWaitEnd .. | .captureSlotWaitEnd .. | .deferredSwapWaitEnd .. | .lineLockGrant .. | .lineLockTimeout ..
  | .microcodeReloadComplete .. | .egsbSubmit .. | .egsbWaitEnd .. | .dremEmission .. | .derivedCopyComplete .. | .iraiseStore .. | .dbginLoad ..
  | .dbgoutStore .. | .deviceRegisterWrite .. | .frameTick .. | .taskRelease .. | .planSwitch | .imagePlacement | .degradedSwitch
  | .rotation | .faultReplacement .. | .coreSelfTest .. | .ptpMessage .. | .sourceLocked | .sourceLost | .holdoverExpiry
  | .ppsInEdge .. | .ppsOut | .vrtDatagram .. | .arpRequest .. | .neighbourSolicitation .. | .nonVrtFrame .. | .portLinkChange ..
  | .replyTransmit .. | .percolatorUnitEnqueue .. | .mediaOpIssue .. | .mediaOpComplete .. | .mediaOpTimeout .. | .pfailAssert | .vholdWarnTrigger ..
  | .holdtestDeassert | .admissionStop | .coreStop | .flushBegin .. | .flushComplete .. | .safeAssert | .capacitanceTestStart
  | .capacitanceTestEnd .. | .recovery .. | .foldSegment .. | .flashScrubRead .. | .relocation .. | .journalErase .. | .wearLevelling ..
  | .recordExpiry .. | .sramScrub .. | .dramScrub .. | .grinderJobMiss .. | .sramRowRepair .. | .sramRowRepairComplete .. | .lunRebuildComplete ..
  | .watchdogExpiry | .sensorSample .. | .powerGoodLost .. | .nmiNAssert | .logNandMirror | .logNorMirror | .porstAssert
  | .boot .. | .bootResume | .domainPowerTimeout .. | .avsUpdate .. | .pmbusRetry .. | .zdpOpen .. | .zdpProve ..
  | .zdpClose .. | .zdpNop .. | .zdpRead .. | .zdpWrite .. | .zdpWriteSeg .. | .zdpCancel .. | .transferTimeout ..
  | .sessionIdleTimeout .. | .openLockoutEnd .. | .persistentStoreComplete .. | .canReassemblyTimeout | .canBusOffRecovery | .shadowPlanWrite .. | .planCommit ..
  | .shadowDiscard .. | .partnerConfigWrite .. | .partnerEntryWrite .. | .keyWrite .. | .keyErase .. | .orderlyShutdown .. | .portModeWrite ..
  | .rawCommandStart .. | .imageWrite .. | .imageDelete .. | .programImageWrite .. | .customerObjectWrite .. | .userImageWrite .. | .userImageLoaded
  | .slotUnload .. | .deviceRestart .. | .updateImageWrite .. | .updateTry .. | .updateCommit .. | .updateDiscard .. | .retireCore ..
  | .retireLun .. | .domainRequest .. | .raiseNmi .. | .raiseBar .. | .credentialWrite .. | .extest .. | .samplePreload ..
  | .clamp | .highz | .bypass | .tapReset | .debugHaltRequest .. | .breakpointSet .. | .debugMailboxIn ..
  | .debugMailboxOut .. | .illegalInstruction .. | .unknownCommand .. | .canFdFrame .. | .canFaultConfinement .. => none

/-- The register fields that must name a pair (R270, R319, R322, R332, R333, R367, R370, R416, R574); those of CUSTn depend on the loaded image
(R450) and are judged by the machine. -/
def Instr.pairs : Instr → List Reg
  | .divqr _ _ rd _ _ => [rd]
  | .divqru _ _ rd _ _ => [rd]
  | .ldd _ _ rd _ _ _ => [rd]
  | .std _ _ rd _ _ _ => [rd]
  | .krd _ _ rd _ => [rd]
  | .fadd _ _ dbl rd rs rt => if dbl then [rd, rs, rt] else []
  | .fsub _ _ dbl rd rs rt => if dbl then [rd, rs, rt] else []
  | .fmul _ _ dbl rd rs rt => if dbl then [rd, rs, rt] else []
  | .fdiv _ _ dbl rd rs rt => if dbl then [rd, rs, rt] else []
  | .fneg _ _ dbl rd rs => if dbl then [rd, rs] else []
  | .fabs _ _ dbl rd rs => if dbl then [rd, rs] else []
  | .fmov _ _ dbl rd rs => if dbl then [rd, rs] else []
  | .fcmpeq _ _ dbl _ rs rt => if dbl then [rs, rt] else []
  | .fcmplt _ _ dbl _ rs rt => if dbl then [rs, rt] else []
  | .fcmple _ _ dbl _ rs rt => if dbl then [rs, rt] else []
  | .fcvtf _ _ dbl rd rs => if dbl then [rd] else [rs]
  | .fcvti _ _ dbl _ rs => if dbl then [rs] else []
  | .fcvtfi _ _ dbl rd _ => if dbl then [rd] else []
  | .fma _ _ dbl rd rs rt => if dbl then [rd, rs, rt] else []
  | .fms _ _ dbl rd rs rt => if dbl then [rd, rs, rt] else []
  | .fnma _ _ dbl rd rs rt => if dbl then [rd, rs, rt] else []
  | .cvpb _ _ _ rd _ _ => [rd]
  | .cvbp _ _ _ _ rs _ => [rs]
  | .mvs _ _ rd _ => [rd]
  | .mvsf _ _ rd rs _ => [rd, rs]
  | .cmps _ _ rd rs _ => [rd, rs]
  | .scns _ _ rd _ => [rd]
  | .trs _ _ rd _ => [rd]
  | .trts _ _ rd _ _ => [rd]
  | .crcs _ _ rd => [rd]
  | .edit _ _ rd rs _ => [rd, rs]
  | .add .. | .sub .. | .and .. | .or .. | .xor .. | .andn .. | .min .. | .max ..
  | .minu .. | .maxu .. | .neg .. | .abs .. | .mov .. | .sextb .. | .sexth .. | .zextb ..
  | .zexth .. | .clz .. | .popc .. | .bswap .. | .bswaph .. | .addi .. | .andi .. | .ori ..
  | .xori .. | .li .. | .lih .. | .lil .. | .shl .. | .shr .. | .sar .. | .ror ..
  | .rol .. | .shli .. | .shri .. | .sari .. | .rori .. | .cmpeq .. | .cmplt .. | .cmpltu ..
  | .cmple .. | .cmpleu .. | .tst .. | .cmpeqi .. | .cmplti .. | .cmpltui .. | .tsti .. | .pand ..
  | .pandn .. | .por .. | .pxor .. | .mul .. | .mulh .. | .mulhu .. | .div .. | .divu ..
  | .rem .. | .remu .. | .ldb .. | .ldbu .. | .ldh .. | .ldhu .. | .ldw .. | .stb ..
  | .sth .. | .stw .. | .swpw .. | .casw .. | .faddw .. | .fence .. | .fencei .. | .br ..
  | .call .. | .jr .. | .callr .. | .ret .. | .loop .. | .loopi .. | .rpt .. | .rpti ..
  | .sysc .. | .eret .. | .fret .. | .nret .. | .mret .. | .sret .. | .tend .. | .ctxsw ..
  | .push .. | .pop .. | .mfb .. | .mtb .. | .mfs .. | .mts .. | .kset .. | .krref ..
  | .dadd .. | .dsub .. | .dzad .. | .dcmp .. | .dmul .. | .ddiv .. | .dsrp .. | .dtst ..
  | .cvpz .. | .cvzp .. | .tchkVerify .. | .tchkForm .. | .post .. | .post2 .. | .post4 .. | .cust ..
  | .modeShadowApply .. | .interrupt .. | .fastInterrupt .. | .nmi .. | .frameBudgetOverrun .. | .debugHalt .. | .breakpoint .. | .storeBufferDrain ..
  | .spillWriteback .. | .carafeWaitEnd .. | .captureSlotWaitEnd .. | .deferredSwapWaitEnd .. | .lineLockGrant .. | .lineLockTimeout .. | .microcodeReloadComplete .. | .egsbSubmit ..
  | .egsbWaitEnd .. | .dremEmission .. | .derivedCopyComplete .. | .iraiseStore .. | .dbginLoad .. | .dbgoutStore .. | .deviceRegisterWrite .. | .frameTick ..
  | .taskRelease .. | .planSwitch | .imagePlacement | .degradedSwitch | .rotation | .faultReplacement .. | .coreSelfTest .. | .ptpMessage ..
  | .sourceLocked | .sourceLost | .holdoverExpiry | .ppsInEdge .. | .ppsOut | .vrtDatagram .. | .arpRequest .. | .neighbourSolicitation ..
  | .nonVrtFrame .. | .portLinkChange .. | .replyTransmit .. | .percolatorUnitEnqueue .. | .mediaOpIssue .. | .mediaOpComplete .. | .mediaOpTimeout .. | .pfailAssert
  | .vholdWarnTrigger .. | .holdtestDeassert | .admissionStop | .coreStop | .flushBegin .. | .flushComplete .. | .safeAssert | .capacitanceTestStart
  | .capacitanceTestEnd .. | .recovery .. | .foldSegment .. | .flashScrubRead .. | .relocation .. | .journalErase .. | .wearLevelling .. | .recordExpiry ..
  | .sramScrub .. | .dramScrub .. | .grinderJobMiss .. | .sramRowRepair .. | .sramRowRepairComplete .. | .lunRebuildComplete .. | .watchdogExpiry | .sensorSample ..
  | .powerGoodLost .. | .nmiNAssert | .logNandMirror | .logNorMirror | .porstAssert | .boot .. | .bootResume | .domainPowerTimeout ..
  | .avsUpdate .. | .pmbusRetry .. | .zdpOpen .. | .zdpProve .. | .zdpClose .. | .zdpNop .. | .zdpRead .. | .zdpWrite ..
  | .zdpWriteSeg .. | .zdpCancel .. | .transferTimeout .. | .sessionIdleTimeout .. | .openLockoutEnd .. | .persistentStoreComplete .. | .canReassemblyTimeout | .canBusOffRecovery
  | .shadowPlanWrite .. | .planCommit .. | .shadowDiscard .. | .partnerConfigWrite .. | .partnerEntryWrite .. | .keyWrite .. | .keyErase .. | .orderlyShutdown ..
  | .portModeWrite .. | .rawCommandStart .. | .imageWrite .. | .imageDelete .. | .programImageWrite .. | .customerObjectWrite .. | .userImageWrite .. | .userImageLoaded
  | .slotUnload .. | .deviceRestart .. | .updateImageWrite .. | .updateTry .. | .updateCommit .. | .updateDiscard .. | .retireCore .. | .retireLun ..
  | .domainRequest .. | .raiseNmi .. | .raiseBar .. | .credentialWrite .. | .extest .. | .samplePreload .. | .clamp | .highz
  | .bypass | .tapReset | .debugHaltRequest .. | .breakpointSet .. | .debugMailboxIn .. | .debugMailboxOut .. | .illegalInstruction .. | .unknownCommand ..
  | .canFdFrame .. | .canFaultConfinement .. => []

/-- Whether a register field names an odd register (R270). -/
def Reg.isOdd (r : BitVec 5) : Bool := r.getLsbD 0

/-- The vector-4 code of a loop instruction: level 3 is reserved, and imm12 = 0 is refused (R308, R326). -/
def loopFault (k : BitVec 2) (imm : Imm12) : Option Nat := if k = 3#2 then some 0x01 else if imm = 0#12 then some 0x06 else none

/-- The vector-4 code of an encoding fault that the fields alone decide, beside the reserved guard (R308, R326, R574). -/
def Instr.encFault (i : Instr) : Option Nat :=
  match i with
  | .loop _ _ k _ imm => loopFault k imm
  | .loopi _ _ k _ imm => loopFault k imm
  | i => if i.pairs.any Reg.isOdd then some 0x04 else none

/-- Whether the fields that an instruction leaves unused are zero (R290, R309). -/
def reservedZero : Instr → Bool
  | .lih _ _ _ imm => !imm.getLsbD 16
  | .lil _ _ _ imm => !imm.getLsbD 16
  | .ldb _ _ _ _ mode f => mode != 3#3 || f.extractLsb' 0 2 == 0#2
  | .ldbu _ _ _ _ mode f => mode != 3#3 || f.extractLsb' 0 2 == 0#2
  | .ldh _ _ _ _ mode f => mode != 3#3 || f.extractLsb' 0 2 == 0#2
  | .ldhu _ _ _ _ mode f => mode != 3#3 || f.extractLsb' 0 2 == 0#2
  | .ldw _ _ _ _ mode f => mode != 3#3 || f.extractLsb' 0 2 == 0#2
  | .ldd _ _ _ _ mode f => mode != 3#3 || f.extractLsb' 0 2 == 0#2
  | .stb _ _ _ _ mode f => mode != 3#3 || f.extractLsb' 0 2 == 0#2
  | .sth _ _ _ _ mode f => mode != 3#3 || f.extractLsb' 0 2 == 0#2
  | .stw _ _ _ _ mode f => mode != 3#3 || f.extractLsb' 0 2 == 0#2
  | .std _ _ _ _ mode f => mode != 3#3 || f.extractLsb' 0 2 == 0#2
  | _ => true

/-- An instruction word that decodes to its instruction: neither reserved guard nor reserved loop level (R308). -/
def Instr.encodable (i : Instr) : Bool :=
  match i with
  | .loop _ g k _ _ => g != 1#4 && k != 3#2
  | .loopi _ g k _ _ => g != 1#4 && k != 3#2
  | i => match i.at? with
    | some (_, g) => g != 1#4
    | none => false

/-- A received frame is no shorter than its headers and its payload (R84, R85). -/
def Datagram.wf (d : Datagram) : Bool :=
  if d.udp then decide (d.data.length + (if d.ip6 then 66 else 46) + 4 * d.tags ≤ d.size) else d.data.isEmpty

/-- A CAN FD frame carries one of the lengths of ISO 11898-1 (R488). -/
def CanFrame.wf (f : CanFrame) : Bool := decide (f.data.length ≤ 8) || [12, 16, 20, 24, 32, 48, 64].contains f.data.length

/-- One sensor round: 24 temperatures and 8 rails (R501). -/
def SensorFacts.wf (w : SensorFacts) : Bool := w.temps.length == 24 && w.rails.length == 8

/-- One channel as found: each LUN at a place of its own, at most 15 retry levels (R194, R203). -/
def ChanFacts.wf (f : ChanFacts) : Bool :=
  decide (f.iface.toNat ≤ 2) && decide (f.levels ≤ 15) && decide ((f.luns.map LunFacts.pos).Nodup)

/-- What one DRAM channel may hold: trained steps of 400 MT/s up to 6,400, x4 or x8 components, one or two ranks, at most 64 GiB (R250). -/
def DramFacts.wf (f : DramFacts) : Bool :=
  f.rate == 0 || (f.rate % 400 == 0 && decide (f.rate ≤ 6400) && (f.width == 4 || f.width == 8) && (f.ranks == 1 || f.ranks == 2) &&
    decide (f.capacity ≤ 2 ^ 36))

/-- 32 NAND channels, the images of four groups, two DRAM channels (R194, R205, R250). -/
def BootFacts.wf (w : BootFacts) : Bool :=
  w.chans.length == 32 && w.chans.all ChanFacts.wf && w.sysGood.length == 4 && w.dram.1.wf && w.dram.2.wf

/-- A retry level counts from 1 (R203). -/
def ReadTry.wf : ReadTry → Bool
  | .retry n => decide (1 ≤ n)
  | .hard | .soft | .fail => true

/-- A read that fails goes on to the seven other members of its parity group (R203). -/
def MediaResult.wf : MediaResult → Bool
  | .read own members _ => own.wf && members.all ReadTry.wf && members.length == (if own = .fail then 7 else 0)
  | .done _ => true
  | .failed => true

/-- A device register lies in the I/O window and is accessed with 1, 2, 4 or 8 bytes (R243, R245). -/
def devAccessWf (addr : BitVec 40) (size : BitVec 4) : Bool :=
  decide (0x3000000000 ≤ addr.toNat) && decide (addr.toNat < 0x3100000000) && [1, 2, 4, 8].contains size.toNat

/-- A row of record, partner or cluster SRAM (R523, R538). -/
def rowWf (kind : BitVec 4) (unit : BitVec 15) : Bool :=
  (kind == 2 && decide (unit.toNat < 32768)) || (kind == 3 && decide (unit.toNat < 4096)) || (kind == 4 && decide (unit.toNat < 8704))

/-- The checks of the commands that are no instructions. -/
def Instr.operandsWf : Instr → Bool
  | .deviceRegisterWrite _ addr size _ => devAccessWf addr size
  | .frameTick w => decide (w.vlo.toNat ≤ w.vhi.toNat)
  | .vrtDatagram d => d.wf
  | .mediaOpComplete _ res _ => res.wf
  | .capacitanceTestEnd _ codes => decide (0 < codes)
  | .wearLevelling lun => decide (lun < 1024)
  | .lunRebuildComplete lun => decide (lun < 1024)
  | .grinderJobMiss _ ms => decide (0 < ms)
  | .sramRowRepair kind unit => rowWf kind unit
  | .sramRowRepairComplete kind unit => rowWf kind unit
  | .sensorSample w => w.wf
  | .boot w => w.wf
  | .extest cells pins => cells.length == pins.length
  | .samplePreload cells pins => cells.length == pins.length
  | .canFdFrame f => f.wf
  | .illegalInstruction c word => (match decodeWord c word with | .reserved _ => true | .instr _ => false)
  | .add .. | .sub .. | .and .. | .or .. | .xor .. | .andn .. | .min .. | .max ..
  | .minu .. | .maxu .. | .neg .. | .abs .. | .mov .. | .sextb .. | .sexth .. | .zextb ..
  | .zexth .. | .clz .. | .popc .. | .bswap .. | .bswaph .. | .addi .. | .andi .. | .ori ..
  | .xori .. | .li .. | .lih .. | .lil .. | .shl .. | .shr .. | .sar .. | .ror ..
  | .rol .. | .shli .. | .shri .. | .sari .. | .rori .. | .cmpeq .. | .cmplt .. | .cmpltu ..
  | .cmple .. | .cmpleu .. | .tst .. | .cmpeqi .. | .cmplti .. | .cmpltui .. | .tsti .. | .pand ..
  | .pandn .. | .por .. | .pxor .. | .mul .. | .mulh .. | .mulhu .. | .div .. | .divu ..
  | .rem .. | .remu .. | .divqr .. | .divqru .. | .ldb .. | .ldbu .. | .ldh .. | .ldhu ..
  | .ldw .. | .ldd .. | .stb .. | .sth .. | .stw .. | .std .. | .swpw .. | .casw ..
  | .faddw .. | .fence .. | .fencei .. | .br .. | .call .. | .jr .. | .callr .. | .ret ..
  | .loop .. | .loopi .. | .rpt .. | .rpti .. | .sysc .. | .eret .. | .fret .. | .nret ..
  | .mret .. | .sret .. | .tend .. | .ctxsw .. | .push .. | .pop .. | .mfb .. | .mtb ..
  | .mfs .. | .mts .. | .krd .. | .kset .. | .krref .. | .fadd .. | .fsub .. | .fmul ..
  | .fdiv .. | .fneg .. | .fabs .. | .fmov .. | .fcmpeq .. | .fcmplt .. | .fcmple .. | .fcvtf ..
  | .fcvti .. | .fcvtfi .. | .fma .. | .fms .. | .fnma .. | .dadd .. | .dsub .. | .dzad ..
  | .dcmp .. | .dmul .. | .ddiv .. | .dsrp .. | .dtst .. | .cvpz .. | .cvzp .. | .cvpb ..
  | .cvbp .. | .mvs .. | .mvsf .. | .cmps .. | .scns .. | .trs .. | .trts .. | .crcs ..
  | .edit .. | .tchkVerify .. | .tchkForm .. | .post .. | .post2 .. | .post4 .. | .cust .. | .modeShadowApply ..
  | .interrupt .. | .fastInterrupt .. | .nmi .. | .frameBudgetOverrun .. | .debugHalt .. | .breakpoint .. | .storeBufferDrain .. | .spillWriteback ..
  | .carafeWaitEnd .. | .captureSlotWaitEnd .. | .deferredSwapWaitEnd .. | .lineLockGrant .. | .lineLockTimeout .. | .microcodeReloadComplete .. | .egsbSubmit .. | .egsbWaitEnd ..
  | .dremEmission .. | .derivedCopyComplete .. | .iraiseStore .. | .dbginLoad .. | .dbgoutStore .. | .taskRelease .. | .planSwitch | .imagePlacement
  | .degradedSwitch | .rotation | .faultReplacement .. | .coreSelfTest .. | .ptpMessage .. | .sourceLocked | .sourceLost | .holdoverExpiry
  | .ppsInEdge .. | .ppsOut | .arpRequest .. | .neighbourSolicitation .. | .nonVrtFrame .. | .portLinkChange .. | .replyTransmit .. | .percolatorUnitEnqueue ..
  | .mediaOpIssue .. | .mediaOpTimeout .. | .pfailAssert | .vholdWarnTrigger .. | .holdtestDeassert | .admissionStop | .coreStop | .flushBegin ..
  | .flushComplete .. | .safeAssert | .capacitanceTestStart | .recovery .. | .foldSegment .. | .flashScrubRead .. | .relocation .. | .journalErase .. | .recordExpiry ..
  | .sramScrub .. | .dramScrub .. | .watchdogExpiry | .powerGoodLost .. | .nmiNAssert | .logNandMirror | .logNorMirror | .porstAssert
  | .bootResume | .domainPowerTimeout .. | .avsUpdate .. | .pmbusRetry .. | .zdpOpen .. | .zdpProve .. | .zdpClose .. | .zdpNop ..
  | .zdpRead .. | .zdpWrite .. | .zdpWriteSeg .. | .zdpCancel .. | .transferTimeout .. | .sessionIdleTimeout .. | .openLockoutEnd .. | .persistentStoreComplete ..
  | .canReassemblyTimeout | .canBusOffRecovery | .shadowPlanWrite .. | .planCommit .. | .shadowDiscard .. | .partnerConfigWrite .. | .partnerEntryWrite .. | .keyWrite ..
  | .keyErase .. | .orderlyShutdown .. | .portModeWrite .. | .rawCommandStart .. | .imageWrite .. | .imageDelete .. | .programImageWrite .. | .customerObjectWrite ..
  | .userImageWrite .. | .userImageLoaded | .slotUnload .. | .deviceRestart .. | .updateImageWrite .. | .updateTry .. | .updateCommit .. | .updateDiscard ..
  | .retireCore .. | .retireLun .. | .domainRequest .. | .raiseNmi .. | .raiseBar .. | .credentialWrite .. | .clamp | .highz
  | .bypass | .tapReset | .debugHaltRequest .. | .breakpointSet .. | .debugMailboxIn .. | .debugMailboxOut .. | .unknownCommand .. | .canFaultConfinement .. => true

/-- A well-formed command. -/
def Instr.wf (i : Instr) : Bool :=
  match i.at? with
  | some (_, g) => g != 1#4 && i.encFault.isNone && reservedZero i
  | none => i.operandsWf

end Sys2Proof
end

