-- ==== Sys2Proof/Safety.lean ====
section
/-!
DEFINITION. The terms that statements are made in: when an instruction of the ledger core is executed, what its completion leaves, and the
machine's invariant.
-/

namespace Sys2Proof.Machine

-- ---------------------------------------------------------------- the invariant

/-- What every step keeps: memory has its one canonical form. -/
def State.Inv (s : State) : Prop := Memory.wf s.mem = true

-- ---------------------------------------------------------------- an instruction that is executed

/-- The state in which core `c` meets its next instruction: the mode-bearing writes whose turn has come are in force (R420). -/
def State.due (s : State) (c : Nat) : State := s.setCore c (s.core c).applyDue

/-- PC and RS at that point. -/
def State.pcOf (s : State) (c : Nat) : Word := ((s.due c).core c).pc
def State.rsOf (s : State) (c : Nat) : Bool := ((s.due c).core c).rs

/-- The state once the instruction's word has been fetched (R288). -/
def State.fetched (s : State) (c : Nat) : State := ((s.due c).fetch c (s.pcOf c)).1

/-- The core in that state. -/
def State.coreOf (s : State) (c : Nat) : Core := (s.fetched c).core c

/-- Whether the word at the PC can be fetched (R288, R419). -/
def State.fetches (s : State) (c : Nat) : Bool :=
  match ((s.due c).fetch c (s.pcOf c)).2 with
  | .ok _ => true
  | .error _ => false

/-- Core `c` is about to execute the instruction at its PC: it runs and waits for nothing, the instruction is not skipped by an RPT whose
count is 0 (R300), no breakpoint catches it (R570), and its word can be fetched. -/
def State.meets (s : State) (c : Nat) (resum : Bool) : Prop :=
  (s.core c).ready = true ∧ (s.rsOf c && !resum && ((s.due c).core c).rc == 0) = false ∧
  (s.due c).atBreakpoint c = false ∧ s.fetches c = true

/-- Core `c` executes the instruction `i` at its PC: its guard is not reserved and holds (R307), and the store words of its built-in
routine have good parity (R461). -/
def State.executes (s : State) (c : Nat) (i : Instr) (g : Guard) (resum : Bool) : Prop :=
  s.meets c resum ∧ guardReserved g = false ∧ ((s.due c).core c).guardHolds g = true ∧ (s.fetched c).badBuiltin c i = none

/-- Whether the instruction is a repetition under RC (R302): RS set on one that is not resumable. -/
def State.repeats (s : State) (c : Nat) (resum : Bool) : Bool := s.rsOf c && !resum

/-- The state `t` that an instruction's effect gives, once the instruction has completed at cost `x`: cycles and budget, the mode shadow's
count, and PC, RS, RC and the loop counts (R59, R297, R300, R302, R420). -/
def State.completed (s t : State) (c : Nat) (resum : Bool) (x : Cost) : State := t.retire c (s.pcOf c) (s.repeats c resum) x

/-- The next address is defined: no loop whose end lies before its start ends at the instruction, where the loop check is made (R297). -/
def State.endsWell (s t : State) (c : Nat) (resum : Bool) : Bool :=
  !((t.core c).badLoop (s.pcOf c) && !(s.repeats c resum && decide ((t.core c).rc > 1)))

/-- An executed instruction that is not resumable changes its own core by `f` and completes at cost `x`. -/
def CoreResult (s : State) (c : CoreId) (g : Guard) (i : Instr) (x : Cost) (f : Core → Core) : Prop :=
  s.executes c i g false → s.endsWell ((s.fetched c).setCore c (f (s.coreOf c))) c false = true →
    exec i s = .next (s.completed ((s.fetched c).setCore c (f (s.coreOf c))) c false x)

-- ---------------------------------------------------------------- how an executed instruction ends

/-- What a command answers. -/
abbrev Answer := Host.Outcome State Fault Refusal

/-- The answer `o` completes the instruction met in `s`: its effect is the state `u`, and the next instruction is the one that RPT and the loop
check give. Its cycles are its own rule's, where the statement does not name them. -/
def Ends (o : Answer) (s u : State) (c : Nat) (resum : Bool) : Prop := ∃ x : Cost, o = .next (s.completed u c resum x)

/-- `i` completes in `s` with the effect `u`. -/
def Completes (s u : State) (c : Nat) (i : Instr) (resum : Bool) : Prop := Ends (exec i s) s u c resum

/-- `i` completes with the effect `u` and continues at `target` (R325). -/
def Jumps (s u : State) (c : Nat) (i : Instr) (target : Word) : Prop := ∃ x : Cost, exec i s = .next (u.retireTo c target x)

/-- `i` completes with the effect `u`, which sets PC, RS and the run state itself (R300, R407, R411, R58). -/
def Leaves (s u : State) (c : Nat) (i : Instr) : Prop := ∃ x : Cost, exec i s = .next (u.charge c x)

/-- `i` faults before its effect begins: from the state `u` the core enters the vector of `t`, the saved PC at the instruction (R393). -/
def Enters (s u : State) (c : Nat) (i : Instr) (t : Trap) : Prop := exec i s = .next (u.enter c t (s.pcOf c) (s.rsOf c))

/-- What a fault leaves of the state `u` that the instruction has reached: the storage keys as its fetch left them (R415), and the headroom that it
reserved for first touches given back (log 65). -/
def State.undone (s u : State) (c : Nat) : State := { u with keys := (s.fetched c).keys }.giveUp c

/-- `i` faults: with what its rule has already left in `u`, the core enters the vector of `t`, the saved PC at the instruction (R393). -/
def Traps (s u : State) (c : Nat) (i : Instr) (t : Trap) : Prop := Enters s (s.undone u c) c i t

/-- `i`, an instruction of the commercial group, faults after the time that its work has taken (R389). -/
def TrapsLate (s u : State) (c : Nat) (i : Instr) (t : Trap) : Prop := ∃ x : Cost, Enters s ((s.undone u c).charge c x) c i t

/-- No active loop level ends at the instruction (R297): a transfer, LOOP or RPT there is undefined. -/
def State.notLoopEnd (s : State) (c : Nat) : Prop := (s.coreOf c).loopEndAt (s.pcOf c) = false

/-- Whether an instruction is resumable by its opcode (R356); a CUSTn is by its loaded routine (R456). -/
def resumable (i : Instr) : Bool :=
  match storeRoutine i with
  | some n => decide (6656 ≤ n) && decide (n < 6784)
  | none => false

/-- A transfer, LOOP, RPT or return, which may not end a loop (R297). -/
def transfers : Instr → Bool
  | .br .. => true
  | .call .. => true
  | .jr .. => true
  | .callr .. => true
  | .ret .. => true
  | .loop .. => true
  | .loopi .. => true
  | .rpt .. => true
  | .rpti .. => true
  | .eret .. => true
  | .fret .. => true
  | .nret .. => true
  | .mret .. => true
  | .sret .. => true
  | _ => false

/-- A word shifted left, right and right with its sign by 0 to 63, and rotated right and left (R315). -/
def shiftLeft (a : Word) (n : Nat) : Word := if n < 32 then BitVec.ofNat 32 (a.toNat * 2 ^ n) else 0
def shiftRight (a : Word) (n : Nat) : Word := if n < 32 then BitVec.ofNat 32 (a.toNat / 2 ^ n) else 0
def shiftSigned (a : Word) (n : Nat) : Word :=
  if n < 32 then BitVec.ofInt 32 (a.toInt / 2 ^ n) else if a.getLsbD 31 then 0xFFFFFFFF#32 else 0
def turnRight (a : Word) (n : Nat) : Word := (a >>> (n % 32)) ||| (a <<< (32 - n % 32))
def turnLeft (a : Word) (n : Nat) : Word := (a <<< (n % 32)) ||| (a >>> (32 - n % 32))

/-- A compare whose condition is `cond` completes: pd is rd[2:0], the combine mode rd[4:3] (R317). -/
def CompareResult (s : State) (c : CoreId) (g : Guard) (i : Instr) (rd : Reg) (cond : Core → Bool) : Prop :=
  CoreResult s c g i (cc 1) fun k =>
    let pd := rd.toNat % 8
    let old := k.pred pd
    k.setPred pd (match rd.toNat / 8 with
      | 0 => cond k
      | 1 => !cond k
      | 2 => old && cond k
      | _ => old || cond k)

/-- A division: `put` writes the results, then DZ, then V (R316, R319); it takes `divTime` cycles (R320). On a zero divisor with DZT = 0, and on
any other, it completes; with DZT = 1 a zero divisor completes and then enters vector 10 (R321). -/
def DivisionResult (s : State) (c : CoreId) (g : Guard) (i : Instr) (signed : Bool) (rs rt : Reg) (put : Core → Word → Word → Core) : Prop :=
  let k := s.coreOf c
  let a := k.reg rs
  let b := k.reg rt
  let q : Word := if b = 0 then 0xFFFFFFFF#32 else if signed then BitVec.ofInt 32 (a.toInt.tdiv b.toInt) else a / b
  let r : Word := if b = 0 then a else if signed then BitVec.ofInt 32 (a.toInt.tmod b.toInt) else a % b
  let ovf := signed && a == 0x80000000#32 && b == 0xFFFFFFFF#32
  let u := (s.fetched c).setCore c (((put k q r).setDZ (b == 0)).setV ovf)
  let t := s.completed u c false (cc (divTime k.ct signed a b))
  s.executes c i g false → s.endsWell u c false = true →
    ((b ≠ 0 ∨ k.dzt = false) → exec i s = .next t) ∧
    ((b = 0 ∧ k.dzt = true) → exec i s = .next (t.enter c (trapAt 10 0x01 k.pc) (t.core c).pc (t.core c).rs))

/-- A load of `n` bytes: `put` writes its destination (R290, R291, R322). -/
def LoadResult (s : State) (c : CoreId) (g : Guard) (rd base : Reg) (mode : BitVec 3) (f : BitVec 9) (i : Instr) (n : Nat) (pair : Bool)
    (put : Core → Nat → Core) : Prop :=
  let k := s.coreOf c
  let e := k.mform (k.reg base) mode f n
  s.executes c i g false → badIndex mode f = false →
    (∀ (ms : List Mapped) (u : State) (v : Nat), (s.fetched c).judge c accLoad (halves e.1.toNat n) none = .ok ms →
      (s.fetched c).performLoad c ms = .ok u v →
      let based := match e.2 with
        | some b => if base = rd ∨ (pair = true ∧ base = rd ||| 1) then u.core c else (u.core c).setReg base b
        | none => u.core c
      s.endsWell (u.setCore c (put based v)) c false = true → Completes s (u.setCore c (put based v)) c i false) ∧
    (∀ (t : Trap), (s.fetched c).judge c accLoad (halves e.1.toNat n) none = .error t → Traps s (s.fetched c) c i t) ∧
    (∀ (ms : List Mapped) (u : State) (t : Trap), (s.fetched c).judge c accLoad (halves e.1.toNat n) none = .ok ms →
      (s.fetched c).performLoad c ms = .trap u t → Traps s u c i t)

/-- The answer `o` is that of the store `i` of the `n` low bytes of `val`, executed in `s` (R290, R291, R322). -/
def StoreEnds (o : Answer) (s : State) (c : CoreId) (g : Guard) (base : Reg) (mode : BitVec 3) (f : BitVec 9) (i : Instr) (n : Nat) (val : Core → Nat) :
    Prop :=
  let k := s.coreOf c
  let e := k.mform (k.reg base) mode f n
  s.executes c i g false → badIndex mode f = false →
    (∀ (ms : List Mapped) (u : State), (s.fetched c).judge c accStore (halves e.1.toNat n) none = .ok ms →
      (s.fetched c).performPut c ms (val k) n = .ok u →
      let based := match e.2 with
        | some b => (u.core c).setReg base b
        | none => u.core c
      s.endsWell (u.setCore c based) c false = true → Ends o s (u.setCore c based) c false) ∧
    (∀ (t : Trap), (s.fetched c).judge c accStore (halves e.1.toNat n) none = .error t → o = .next ((s.undone (s.fetched c) c).enter c t (s.pcOf c) (s.rsOf c))) ∧
    (∀ (ms : List Mapped) (u : State) (t : Trap), (s.fetched c).judge c accStore (halves e.1.toNat n) none = .ok ms →
      (s.fetched c).performPut c ms (val k) n = .trap u t → o = .next ((s.undone u c).enter c t (s.pcOf c) (s.rsOf c)))

/-- A store executed by its own command. -/
def StoreResult (s : State) (c : CoreId) (g : Guard) (base : Reg) (mode : BitVec 3) (f : BitVec 9) (i : Instr) (n : Nat) (val : Core → Nat) : Prop :=
  StoreEnds (exec i s) s c g base mode f i n val

/-- An atomic on the word at register `rs`: `new` gives the word it writes from the word it finds, none where it writes nothing (R323). -/
def AtomicResult (s : State) (c : CoreId) (g : Guard) (rs rd : Reg) (i : Instr) (new : Core → Word → Option Word) : Prop :=
  let k := s.coreOf c
  let ea := (k.reg rs).toNat
  let d := (s.fetched c).drainAll c
  s.executes c i g false →
    (∀ (ms : List Mapped) (u : State), (s.fetched c).atomicRegion k ea = none → ea % 4 = 0 →
      (s.fetched c).judge c accStore (halves ea 4) none = .ok ms → (d.meetWords (ms.flatMap fun m => cwsOf m.pa m.n)).2 = none →
      let r := (d.meetWords (ms.flatMap fun m => cwsOf m.pa m.n)).1
      let old := BitVec.ofNat 32 (leNat (ms.flatMap fun m => r.bytes m.pa m.n))
      (match new k old with
        | some w => r.performCommit c [(ms, leBytes 4 w.toNat)]
        | none => r.performHeld c ms) = .ok u →
      s.endsWell (u.setCore c ((u.core c).setReg rd old)) c false = true →
      Completes s (u.setCore c ((u.core c).setReg rd old)) c i false) ∧
    (∀ t, (s.fetched c).atomicRegion k ea = none →
      (s.fetched c).judge c accStore (halves ea 4) (if ea % 4 = 0 then none else some (accStore.trap 8 0x02 ea)) = .error t → Traps s (s.fetched c) c i t) ∧
    (∀ (ms : List Mapped) (cw : Nat), (s.fetched c).atomicRegion k ea = none → ea % 4 = 0 →
      (s.fetched c).judge c accStore (halves ea 4) none = .ok ms → (d.meetWords (ms.flatMap fun m => cwsOf m.pa m.n)).2 = some cw →
      Traps s (d.meetWords (ms.flatMap fun m => cwsOf m.pa m.n)).1 c i (mcUncorrectable 2 cw)) ∧
    (∀ t, (s.fetched c).atomicRegion k ea = some t → Traps s (s.fetched c) c i t)

/-- A return from the saved pair at `num` (R407); `ends` notes the handler's end. A restored BANK that names no bank, or the bank of a handler that is
not in progress, is undefined (09). -/
def ReturnResult (s : State) (c : CoreId) (g : Guard) (i : Instr) (num : Nat) (ends : Core → Core) : Prop :=
  let a := (s.coreOf c).applyAll
  let sv := a.srGet (num + 1)
  s.executes c i g false →
    (0 < a.ring → Traps s ((s.fetched c).setCore c a) c i (trapAt 5 0x01 a.pc)) ∧
    (a.ring = 0 → (ends a).badRestore (sv.extractLsb' 12 4).toNat = false → ∃ t, exec i s = .next t ∧
      (t.core c).pc = a.srGet num &&& 0xFFFFFFFC#32 ∧ (t.core c).stat = sv &&& (statMask ||| 0xF000#32) ∧ (t.core c).rs = sv.getLsbD 22 ∧
      (t.core c).regs = a.regs ∧ (t.core c).inNmi = (ends a).inNmi ∧ (t.core c).inMc = (ends a).inMc ∧ t.mem = (s.fetched c).mem)

/-- A floating-point instruction that raises `flags`: when none of them is enabled it writes by `put` and makes them sticky; when one is, it writes
neither and enters vector 13 with CAUSE holding them all (R336, R338). -/
def FpResult (s : State) (c : CoreId) (g : Guard) (i : Instr) (flags : Nat) (put : Core → Core) : Prop :=
  let f := s.fetched c
  let k := s.coreOf c
  s.executes c i g false →
    (k.fpTraps flags = false → s.endsWell (f.setCore c ((put k).fpStick flags)) c false = true →
      Completes s (f.setCore c ((put k).fpStick flags)) c i false) ∧
    (k.fpTraps flags = true → Traps s (f.setCore c (k.fpCause flags)) c i (trapAt 13 0x01 k.pc))

/-- A floating-point instruction whose result in the format of `dbl` goes to rd. -/
def FpWrites (s : State) (c : CoreId) (g : Guard) (i : Instr) (dbl : Bool) (rd : Reg) (r : FpRes) : Prop :=
  FpResult s c g i r.flags (fun k => k.setFp dbl rd r.bits)

/-- A floating-point compare, combined into its predicate as R317 says. -/
def FpCompares (s : State) (c : CoreId) (g : Guard) (i : Instr) (rd : Reg) (r : Bool × Nat) : Prop :=
  FpResult s c g i r.2 (fun k => k.setPred (rd.extractLsb' 0 3).toNat (combine (rd.extractLsb' 3 2) (k.pred (rd.extractLsb' 0 3).toNat) r.1))

/-- The commit of a result of class `cls` into the operand `m` (R354, R356, R361). -/
def DecimalWrites (s u : State) (c : CoreId) (i : Instr) (pd : PredNo) (lw : Word) (m : List Mapped) (l : List Byte) (cls : Nat) : Prop :=
  ∀ t : State, u.performCommit c [(m, l)] = .ok t →
    let v := t.setCore c ((if cls = 3 then (t.core c).stick statDV else t.core c).setClass pd lw cls)
    s.endsWell v c false = true → Completes s v c i false

/-- A decimal instruction whose operands `ops` pass their checks, of which those in `reads` are read, as `ls`, each under its validity check of
`bad`, and whose result is `out ls`, written to the operand numbered `dest` (R351, R354, R355, R361, R365, R366). -/
def DecimalResult (s : State) (c : CoreId) (g : Guard) (i : Instr) (pd : PredNo) (lw op1 : Word) (ops : List Opnd) (reads : List Bool)
    (apart : Bool) (bad : List (List Byte → Option Nat)) (dest : Option Nat) (out : List (List Byte) → DecOut) : Prop :=
  let f := s.fetched c
  s.executes c i g false →
    (∀ t, f.judgeAll c ops = .error t → TrapsLate s f c i t) ∧
    (∀ (ms : List (List Mapped)) (ls : List (List Byte)) (r : State), f.judgeAll c ops = .ok ms → ms.any meetsRegister = false →
      badOverlap apart ms = false → f.readAll c (ms.zip reads) = (r, .ok ls) →
      let u := (ms.zip reads).foldl (fun a m => if m.2 then a.mark false m.1 else a) r
      (∀ ea, firstInvalid ops bad ls = some ea → TrapsLate s r c i (trapAt 11 0x01 ea)) ∧
      (firstInvalid ops bad ls = none →
        (∀ v code ea, out ls = .trap v code ea → TrapsLate s r c i (trapAt v code ea)) ∧
        (∀ l, out ls = .ovf l → (u.core c).dot = true → TrapsLate s r c i (trapAt 12 0x01 op1)) ∧
        (∀ l d m, out ls = .ovf l → (u.core c).dot = false → dest = some d → ms[d]? = some m → DecimalWrites s u c i pd lw m l 3) ∧
        (∀ l cls d m, out ls = .done l cls → dest = some d → ms[d]? = some m → DecimalWrites s u c i pd lw m l cls) ∧
        (∀ l cls, out ls = .done l cls → dest = none →
          let v := u.setCore c ((u.core c).setClass pd lw cls)
          s.endsWell v c false = true → Completes s v c i false)))

/-- One chunk of a resumable instruction: when more remains it stands at its PC with RS set, otherwise it completes (R357). -/
def ChunkEnds (s u : State) (c : Nat) (i : Instr) (more : Bool) : Prop :=
  (more = true → ∃ x : Cost, exec i s = .next ((u.charge c x).setCore c { (u.charge c x).core c with pc := s.pcOf c, rs := true })) ∧
  (more = false → s.endsWell u c true = true → Completes s u c i true)

/-- A chunk that stores `l` into `dst` and then leaves `put` in the core. -/
def ChunkStores (s u : State) (c : CoreId) (i : Instr) (dst : List Mapped) (l : List Byte) (more : Bool) (put : Core → Core) : Prop :=
  ∀ t : State, u.performCommit c [(dst, l)] = .ok t → ChunkEnds s (t.setCore c (put (t.core c))) c i more

/-- What an operation gives in the modes RNE, RZ, RU and RD, with its flags: those of RU stand last, the others are one (R345). -/
def eachMode (op : Nat → FpRes) (rne rz ru rd fl flUp : Nat) : Prop :=
  op 0 = ⟨rne, fl⟩ ∧ op 1 = ⟨rz, fl⟩ ∧ op 2 = ⟨ru, flUp⟩ ∧ op 3 = ⟨rd, fl⟩

/-- The answer `o` is that of a POST-family instruction `i` of `n` postings, executed in `s`, with the list at register rs, the journal pointer in rt and modulo pair `m` (R382 to R387): its list and
lines pass their checks, its amounts and the reserved fields are good, its locks are taken, its accounts read. -/
def PostEnds (o : Answer) (s : State) (c : CoreId) (g : Guard) (i : Instr) (n : Nat) (m : BitVec 2) (rd rs rt : Reg) : Prop :=
  let f := s.fetched c
  let k := s.coreOf c
  let lea := k.reg rs
  s.executes c i g false →
  ∀ (lm lines : List Mapped) (jl : Mapped) (r q w : State) (l : List Byte) (legs : List Leg),
    f.judgeList c lea.toNat (32 + 32 * n) = .ok lm → f.loadPieces c lm = (r, .ok l) →
    let u := r.mark false lm
    let eas := (natRange 0 n).map fun j => BitVec.ofNat 32 (leField l (32 + 32 * j) 4)
    u.judgeLines c (eas ++ [k.reg rt]) = .ok lines → lines.getLast? = some jl →
    (lines.map Mapped.pa).eraseDups.length = (lines.map Mapped.pa).length →
    let amts := (natRange 0 n).map fun j => (lea + BitVec.ofNat 32 (48 + 32 * j), sliceZ l (48 + 32 * j) 16)
    firstBadField amts = none → listReserved n l = false →
    u.takeLocks c ((lines.map fun x => (x.pa, BitVec.ofNat 32 x.ea)).foldr insertLine []) = (q, none) →
    q.readLegs c ((eas.zip (lines.zip amts)).map fun x => (⟨x.1, x.2.1, packedVal x.2.2.2, []⟩ : Leg)) = (w, .ok legs) →
    (legs.any fun x => accountReserved x.bytes) = false →
    (postOutcome legs ≠ 0 →
      let v := (w.unlock c).setCore c (((w.unlock c).core c).setReg rd (BitVec.ofNat 32 (postOutcome legs)))
      s.endsWell v c false = true → Ends o s v c false) ∧
    (postOutcome legs = 0 → ∀ t : State,
      w.performCommit c ((legs.map fun x => ([x.line], x.posted w.timer.frame)) ++
        [([jl], match legs with
          | x :: _ => journalEntry w.timer.frame (leField l 0 4) legs.length x
          | [] => [])]) = .ok t →
      let a := (t.unlock c).core c
      let v := (t.unlock c).setCore c ((a.setReg rt (a.modWalk m.toNat (a.reg rt + 64))).setReg rd 0)
      s.endsWell v c false = true → Ends o s v c false)

/-- A POST-family instruction executed by its own command. -/
def PostResult (s : State) (c : CoreId) (g : Guard) (i : Instr) (n : Nat) (m : BitVec 2) (rd rs rt : Reg) : Prop :=
  PostEnds (exec i s) s c g i n m rd rs rt

-- ---------------------------------------------------------------- events of a core

/-- Core `k'` has entered the handler of vector `vec` from core `k` at a boundary: the saved PC and RS are the next instruction's, no register of any
bank changes (R393, R395, R396). -/
def Entered (k k' : Core) (vec : Nat) : Prop :=
  k'.pc = k.applyAll.srGet 0x040 + BitVec.ofNat 32 (32 * vec) ∧ k'.srGet (savedPc vec) = k.pc &&& 0xFFFFFFFC#32 ∧
  (k'.srGet (savedPc vec + 1)).getLsbD 22 = k.rs ∧ k'.ring = 0 ∧ k'.ie = false ∧ k'.rs = false ∧ k'.run = .running ∧ k'.wait = none ∧ k'.regs = k.regs

/-- The state in which the instruction of a core whose wait for `w` ends is executed: the wait is charged. -/
def State.unwaited (s : State) (c : Nat) (w : WaitWhy) : State := (s.setCore c { s.core c with wait := none }).charge c (waitCost w)

-- ---------------------------------------------------------------- writes of objects

/-- A write of object (i, sub) by an open session `x`, with no other write in progress, passes steps 1 to 3 of R470; the value's own checks answer `o`. -/
def State.judges (s : State) (i sub : Nat) (w : ObjWrite) (x : Session) (r : ORow) (o : WriteRes) : Prop :=
  s.session w.sid = some x ∧ s.zdp.store = none ∧ s.served = true ∧ s.failing = false ∧ s.mayWrite x.ring i sub = .inl r ∧
    s.inTransfer w.sid (okey i sub) = false ∧ s.judgeValue i sub (s.winOf i sub) r w.value = o

/-- Such a write passes every check, and the object's own rule leaves `u`. -/
def State.accepts (s : State) (i sub : Nat) (w : ObjWrite) (r : ORow) (u : State) : Prop := ∃ x, s.judges i sub w x r (.ok u)

/-- The row `e` writes object (i, sub) by `w`: an accepted write is answered with result 0 and leaves what `p` says. -/
def Written (s : State) (i sub : Nat) (w : ObjWrite) (e : Instr) (p : State → Prop) : Prop :=
  ∀ r u, s.accepts i sub w r u → ∃ t, exec e s = .next t ∧ t.out = s.out ++ [.objectResult w.sid (okey i sub) 0] ∧ p t

/-- The row `e` writes object (i, sub) by `w`: an accepted write leaves what `p` says and is answered when its work is done. -/
def WrittenLater (s : State) (i sub : Nat) (w : ObjWrite) (e : Instr) (p : State → Prop) : Prop :=
  ∀ x r u, s.judges i sub w x r (.wait u) →
    exec e s = .next { u with zdp := { u.zdp with store := some ⟨w.sid, [], i, sub, s.winOf i sub, []⟩ } } ∧ p u

/-- A message of an open session arrives in order: well formed, its tag good, its sequence new, and no other request in progress or waiting (R471, R475,
R477, R480). -/
def State.inOrder (s : State) (m : ZdpMsg) (x : Session) (cmd : Nat) : Prop :=
  mCmd m.bytes = cmd ∧ s.reaches m = true ∧ s.zdp.store = none ∧ s.zdp.backlog = [] ∧ msgGood m.bytes = true ∧ headReserved m.bytes = false ∧
  s.session (mSid m.bytes) = some x ∧ x.client = m.src ∧ tagGood x.key m.bytes = true ∧ x.lastSeq < mSeq m.bytes ∧ x.busy = false

/-- The response to a message of an open session. -/
def State.respond (s : State) (m : ZdpMsg) (x : Session) (total result : Nat) (data : List Byte) : List Out :=
  s.carried x.client (response m.bytes x.sid (some x.key) total result data)

/-- The egress path without the submissions of a class that answer no query in the ring (R237). -/
def State.liveSubs (s : State) (cls : Nat) : State :=
  let live := fun (x : Submission) => s.egress.reqs.any fun q => q.refuse.isNone && q.partner == x.partner && q.cls == x.cls && q.reqId == x.reqId
  { s with egress := { s.egress with subs := s.egress.subs.filter fun x => x.cls != cls || live x } }

/-- The reply that is visited next on a port in a class (R240). -/
def State.nextReply (s : State) (port : PortId) (cls : Fin 64) : Option Request :=
  nextVisit (Tab.get 0 s.egress.lastServed (64 * port.val + cls.val))
    (((s.heads port cls).filter fun q => decide (Tab.get 0 s.egress.perPartner (capKey port cls q.partner) < s.partnerCap cls)).filter s.replyReady)

/-- The core of an instruction that reads and writes registers and predicates alone (R313 to R321, R336 to R347). -/
def registerCore : Instr → Option Nat
  | .add c .. => some c.val
  | .sub c .. => some c.val
  | .and c .. => some c.val
  | .or c .. => some c.val
  | .xor c .. => some c.val
  | .andn c .. => some c.val
  | .min c .. => some c.val
  | .max c .. => some c.val
  | .minu c .. => some c.val
  | .maxu c .. => some c.val
  | .neg c .. => some c.val
  | .abs c .. => some c.val
  | .mov c .. => some c.val
  | .sextb c .. => some c.val
  | .sexth c .. => some c.val
  | .zextb c .. => some c.val
  | .zexth c .. => some c.val
  | .clz c .. => some c.val
  | .popc c .. => some c.val
  | .bswap c .. => some c.val
  | .bswaph c .. => some c.val
  | .addi c .. => some c.val
  | .andi c .. => some c.val
  | .ori c .. => some c.val
  | .xori c .. => some c.val
  | .li c .. => some c.val
  | .lih c .. => some c.val
  | .lil c .. => some c.val
  | .shl c .. => some c.val
  | .shr c .. => some c.val
  | .sar c .. => some c.val
  | .ror c .. => some c.val
  | .rol c .. => some c.val
  | .shli c .. => some c.val
  | .shri c .. => some c.val
  | .sari c .. => some c.val
  | .rori c .. => some c.val
  | .cmpeq c .. => some c.val
  | .cmplt c .. => some c.val
  | .cmpltu c .. => some c.val
  | .cmple c .. => some c.val
  | .cmpleu c .. => some c.val
  | .tst c .. => some c.val
  | .cmpeqi c .. => some c.val
  | .cmplti c .. => some c.val
  | .cmpltui c .. => some c.val
  | .tsti c .. => some c.val
  | .pand c .. => some c.val
  | .pandn c .. => some c.val
  | .por c .. => some c.val
  | .pxor c .. => some c.val
  | .mul c .. => some c.val
  | .mulh c .. => some c.val
  | .mulhu c .. => some c.val
  | .div c .. => some c.val
  | .divu c .. => some c.val
  | .rem c .. => some c.val
  | .remu c .. => some c.val
  | .divqr c .. => some c.val
  | .divqru c .. => some c.val
  | .fadd c .. => some c.val
  | .fsub c .. => some c.val
  | .fmul c .. => some c.val
  | .fdiv c .. => some c.val
  | .fneg c .. => some c.val
  | .fabs c .. => some c.val
  | .fmov c .. => some c.val
  | .fcmpeq c .. => some c.val
  | .fcmplt c .. => some c.val
  | .fcmple c .. => some c.val
  | .fcvtf c .. => some c.val
  | .fcvti c .. => some c.val
  | .fcvtfi c .. => some c.val
  | .fma c .. => some c.val
  | .fms c .. => some c.val
  | .fnma c .. => some c.val
  | _ => none

end Sys2Proof.Machine
end

