-- ==== Sys2Proof/Certificates/Slice0/Obligations.lean ====
section
/-!
DEFINITION. The statements for the provers: what the rules of spec/ say of the machine, rule by rule.
-/

open Sys2Proof Sys2Proof.Machine

-- ---------------------------------------------------------------- the block

/-- A step takes the command at the front of the queue and runs it on the state with the queue's rest. -/
def Obligations.StepTakesFront : Prop :=
  ∀ (s : State) (i : Instr) (rest : List Instr),
    step { s with pending := i :: rest } = exec i { s with pending := rest }

/-- R307, R308, R310, R312 to R327, R332, R333, R359, R367, R370, R379, R385, R416: the word of an instruction decodes to that instruction,
with every field at every value but the reserved guard and the reserved loop level. -/
def Obligations.DecodeEncode : Prop :=
  ∀ (c : CoreId) (i : Instr) (g : Guard) (w : BitVec 32),
    i.at? = some (c, g) → i.encodable = true → encodeWord i = some w → decodeWord c w = .instr i

/-- Every step keeps memory in its canonical form. -/
def Obligations.MemoryStaysCanonical : Prop :=
  ∀ (s t : State), s.Inv → step s = .next t → t.Inv

-- ---------------------------------------------------------------- the binary unit

/-- R312: the ALU group writes rd and sets V where the table marks it; all arithmetic is modulo 2^32. -/
def Obligations.AluGroup : Prop :=
  ∀ (s : State) (c : CoreId) (g : Guard) (rd rs rt : Reg),
    CoreResult s c g (.add c g rd rs rt) (cc 1) (fun k =>
      (k.setReg rd (k.reg rs + k.reg rt)).setV (!fitsS32 ((k.reg rs).toInt + (k.reg rt).toInt))) ∧
    CoreResult s c g (.sub c g rd rs rt) (cc 1) (fun k =>
      (k.setReg rd (k.reg rs - k.reg rt)).setV (!fitsS32 ((k.reg rs).toInt - (k.reg rt).toInt))) ∧
    CoreResult s c g (.and c g rd rs rt) (cc 1) (fun k => k.setReg rd (k.reg rs &&& k.reg rt)) ∧
    CoreResult s c g (.or c g rd rs rt) (cc 1) (fun k => k.setReg rd (k.reg rs ||| k.reg rt)) ∧
    CoreResult s c g (.xor c g rd rs rt) (cc 1) (fun k => k.setReg rd (k.reg rs ^^^ k.reg rt)) ∧
    CoreResult s c g (.andn c g rd rs rt) (cc 1) (fun k => k.setReg rd (k.reg rs &&& ~~~ k.reg rt)) ∧
    CoreResult s c g (.min c g rd rs rt) (cc 1) (fun k =>
      k.setReg rd (if (k.reg rs).toInt ≤ (k.reg rt).toInt then k.reg rs else k.reg rt)) ∧
    CoreResult s c g (.max c g rd rs rt) (cc 1) (fun k =>
      k.setReg rd (if (k.reg rs).toInt ≤ (k.reg rt).toInt then k.reg rt else k.reg rs)) ∧
    CoreResult s c g (.minu c g rd rs rt) (cc 1) (fun k =>
      k.setReg rd (if (k.reg rs).toNat ≤ (k.reg rt).toNat then k.reg rs else k.reg rt)) ∧
    CoreResult s c g (.maxu c g rd rs rt) (cc 1) (fun k =>
      k.setReg rd (if (k.reg rs).toNat ≤ (k.reg rt).toNat then k.reg rt else k.reg rs)) ∧
    CoreResult s c g (.neg c g rd rs) (cc 1) (fun k =>
      (k.setReg rd (-(k.reg rs))).setV (k.reg rs == 0x80000000#32)) ∧
    CoreResult s c g (.abs c g rd rs) (cc 1) (fun k =>
      (k.setReg rd (if (k.reg rs).toInt < 0 then -(k.reg rs) else k.reg rs)).setV (k.reg rs == 0x80000000#32)) ∧
    CoreResult s c g (.mov c g rd rs) (cc 1) (fun k => k.setReg rd (k.reg rs)) ∧
    CoreResult s c g (.sextb c g rd rs) (cc 1) (fun k => k.setReg rd (((k.reg rs).extractLsb' 0 8).signExtend 32)) ∧
    CoreResult s c g (.sexth c g rd rs) (cc 1) (fun k => k.setReg rd (((k.reg rs).extractLsb' 0 16).signExtend 32)) ∧
    CoreResult s c g (.zextb c g rd rs) (cc 1) (fun k => k.setReg rd (((k.reg rs).extractLsb' 0 8).zeroExtend 32)) ∧
    CoreResult s c g (.zexth c g rd rs) (cc 1) (fun k => k.setReg rd (((k.reg rs).extractLsb' 0 16).zeroExtend 32)) ∧
    CoreResult s c g (.clz c g rd rs) (cc 1) (fun k => k.setReg rd (clzW (k.reg rs))) ∧
    CoreResult s c g (.popc c g rd rs) (cc 1) (fun k => k.setReg rd (popW (k.reg rs))) ∧
    CoreResult s c g (.bswap c g rd rs) (cc 1) (fun k => k.setReg rd (bswapW (k.reg rs))) ∧
    CoreResult s c g (.bswaph c g rd rs) (cc 1) (fun k => k.setReg rd (bswaphW (k.reg rs)))

/-- R313, R314: the immediate and constant instructions. LIH and LIL reserve imm17[16]: a word with that bit set is an undefined case. -/
def Obligations.Immediates : Prop :=
  ∀ (s : State) (c : CoreId) (g : Guard) (rd rs : Reg) (imm : Imm12) (i17 : BitVec 17),
    CoreResult s c g (.addi c g rd rs imm) (cc 1) (fun k =>
      (k.setReg rd (k.reg rs + imm.signExtend 32)).setV (!fitsS32 ((k.reg rs).toInt + imm.toInt))) ∧
    CoreResult s c g (.andi c g rd rs imm) (cc 1) (fun k => k.setReg rd (k.reg rs &&& imm.zeroExtend 32)) ∧
    CoreResult s c g (.ori c g rd rs imm) (cc 1) (fun k => k.setReg rd (k.reg rs ||| imm.zeroExtend 32)) ∧
    CoreResult s c g (.xori c g rd rs imm) (cc 1) (fun k => k.setReg rd (k.reg rs ^^^ imm.zeroExtend 32)) ∧
    CoreResult s c g (.li c g rd i17) (cc 1) (fun k => k.setReg rd (i17.signExtend 32)) ∧
    (i17.getLsbD 16 = false →
      CoreResult s c g (.lih c g rd i17) (cc 1) (fun k => k.setReg rd (i17.extractLsb' 0 16 ++ (k.reg rd).extractLsb' 0 16)) ∧
      CoreResult s c g (.lil c g rd i17) (cc 1) (fun k => k.setReg rd ((k.reg rd).extractLsb' 16 16 ++ i17.extractLsb' 0 16))) ∧
    (i17.getLsbD 16 = true →
      (s.executes c (.lih c g rd i17) g false → exec (.lih c g rd i17) s = .next ((s.fetched c).havoc c)) ∧
      (s.executes c (.lil c g rd i17) g false → exec (.lil c g rd i17) s = .next ((s.fetched c).havoc c)))

/-- R315: shifts take their amount from bits [5:0] of rt or of imm12, and set no flag. -/
def Obligations.Shifts : Prop :=
  ∀ (s : State) (c : CoreId) (g : Guard) (rd rs rt : Reg) (imm : Imm12),
    CoreResult s c g (.shl c g rd rs rt) (cc 1) (fun k => k.setReg rd (shiftLeft (k.reg rs) ((k.reg rt).toNat % 64))) ∧
    CoreResult s c g (.shr c g rd rs rt) (cc 1) (fun k => k.setReg rd (shiftRight (k.reg rs) ((k.reg rt).toNat % 64))) ∧
    CoreResult s c g (.sar c g rd rs rt) (cc 1) (fun k => k.setReg rd (shiftSigned (k.reg rs) ((k.reg rt).toNat % 64))) ∧
    CoreResult s c g (.ror c g rd rs rt) (cc 1) (fun k => k.setReg rd (turnRight (k.reg rs) ((k.reg rt).toNat % 64))) ∧
    CoreResult s c g (.rol c g rd rs rt) (cc 1) (fun k => k.setReg rd (turnLeft (k.reg rs) ((k.reg rt).toNat % 64))) ∧
    CoreResult s c g (.shli c g rd rs imm) (cc 1) (fun k => k.setReg rd (shiftLeft (k.reg rs) (imm.toNat % 64))) ∧
    CoreResult s c g (.shri c g rd rs imm) (cc 1) (fun k => k.setReg rd (shiftRight (k.reg rs) (imm.toNat % 64))) ∧
    CoreResult s c g (.sari c g rd rs imm) (cc 1) (fun k => k.setReg rd (shiftSigned (k.reg rs) (imm.toNat % 64))) ∧
    CoreResult s c g (.rori c g rd rs imm) (cc 1) (fun k => k.setReg rd (turnRight (k.reg rs) (imm.toNat % 64)))

/-- R317, R318: the compares and the predicate logic; a write to p0 is discarded. -/
def Obligations.ComparesAndPredicates : Prop :=
  ((∀ (s : State) (c : CoreId) (g : Guard) (rd rs rt : Reg) (imm : Imm12),
    CompareResult s c g (.cmpeq c g rd rs rt) rd (fun k => decide (k.reg rs = k.reg rt)) ∧
    CompareResult s c g (.cmplt c g rd rs rt) rd (fun k => (k.reg rs).slt (k.reg rt)) ∧
    CompareResult s c g (.cmpltu c g rd rs rt) rd (fun k => (k.reg rs).ult (k.reg rt)) ∧
    CompareResult s c g (.cmple c g rd rs rt) rd (fun k => (k.reg rs).sle (k.reg rt)) ∧
    CompareResult s c g (.cmpleu c g rd rs rt) rd (fun k => (k.reg rs).ule (k.reg rt)) ∧
    CompareResult s c g (.tst c g rd rs rt) rd (fun k => decide (k.reg rs &&& k.reg rt ≠ 0)) ∧
    CompareResult s c g (.cmpeqi c g rd rs imm) rd (fun k => decide (k.reg rs = imm.signExtend 32)) ∧
    CompareResult s c g (.cmplti c g rd rs imm) rd (fun k => (k.reg rs).slt (imm.signExtend 32)) ∧
    CompareResult s c g (.cmpltui c g rd rs imm) rd (fun k => (k.reg rs).ult (imm.signExtend 32)) ∧
    CompareResult s c g (.tsti c g rd rs imm) rd (fun k => decide (k.reg rs &&& imm.zeroExtend 32 ≠ 0))) ∧
  (∀ (k : Core) (b : Bool), k.setPred 0 b = k ∧ k.pred 0 = true) ∧
  (∀ (k : Core) (p q : Nat) (b : Bool), 0 < p → p < 8 → q < 8 →
    (k.setPred p b).pred q = if q = p then b else k.pred q)) ∧
  (∀ (s : State) (c : CoreId) (g : Guard) (pd ps pt : PredNo),
    CoreResult s c g (.pand c g pd ps pt) (cc 1) (fun k => k.setPred pd.toNat (k.pred ps.toNat && k.pred pt.toNat)) ∧
    CoreResult s c g (.pandn c g pd ps pt) (cc 1) (fun k => k.setPred pd.toNat (k.pred ps.toNat && !k.pred pt.toNat)) ∧
    CoreResult s c g (.por c g pd ps pt) (cc 1) (fun k => k.setPred pd.toNat (k.pred ps.toNat || k.pred pt.toNat)) ∧
    CoreResult s c g (.pxor c g pd ps pt) (cc 1) (fun k => k.setPred pd.toNat (k.pred ps.toNat ^^ k.pred pt.toNat)))

/-- R319, R320, R321: the multiplier and the divider. -/
def Obligations.MultiplyDivide : Prop :=
  (∀ (s : State) (c : CoreId) (g : Guard) (rd rs rt : Reg),
    CoreResult s c g (.mul c g rd rs rt) (cc 1) (fun k =>
      (k.setReg rd (BitVec.ofInt 32 ((k.reg rs).toInt * (k.reg rt).toInt))).setV (!fitsS32 ((k.reg rs).toInt * (k.reg rt).toInt))) ∧
    CoreResult s c g (.mulh c g rd rs rt) (cc 1) (fun k =>
      k.setReg rd (((BitVec.ofInt 64 ((k.reg rs).toInt * (k.reg rt).toInt))).extractLsb' 32 32)) ∧
    CoreResult s c g (.mulhu c g rd rs rt) (cc 1) (fun k =>
      k.setReg rd (((BitVec.ofNat 64 ((k.reg rs).toNat * (k.reg rt).toNat))).extractLsb' 32 32)) ∧
    DivisionResult s c g (.div c g rd rs rt) true rs rt (fun k q _ => k.setReg rd q) ∧
    DivisionResult s c g (.divu c g rd rs rt) false rs rt (fun k q _ => k.setReg rd q) ∧
    DivisionResult s c g (.rem c g rd rs rt) true rs rt (fun k _ r => k.setReg rd r) ∧
    DivisionResult s c g (.remu c g rd rs rt) false rs rt (fun k _ r => k.setReg rd r) ∧
    (oddReg rd = false →
      DivisionResult s c g (.divqr c g rd rs rt) true rs rt (fun k q r => (k.setReg rd q).setReg (rd ||| 1) r) ∧
      DivisionResult s c g (.divqru c g rd rs rt) false rs rt (fun k q r => (k.setReg rd q).setReg (rd ||| 1) r))) ∧
  -- the worked times of R320
  divTime false false 5 9 = 2 ∧ divTime false true (BitVec.ofInt 32 (-7)) 2 = 3 ∧ divTime false false 1000000 7 = 7 ∧
  divTime false true 0x80000000#32 0xFFFFFFFF#32 = 10 ∧ divTime false true 12 0 = 2

/-- R319: quotients are truncated toward zero, and a signed remainder takes the sign of the dividend: for every pair of operands whose
quotient is representable, dividend = quotient * divisor + remainder, the remainder is smaller than the divisor and has the dividend's sign. -/
def Obligations.DivisionLaw : Prop :=
  ∀ (a b : Word), b ≠ 0 → ¬ (a = 0x80000000#32 ∧ b = 0xFFFFFFFF#32) →
    (let q := (divide true a b).1.toInt
     let r := (divide true a b).2.toInt
     a.toInt = q * b.toInt + r ∧ r.natAbs < b.toInt.natAbs ∧ (0 ≤ a.toInt → 0 ≤ r) ∧ (a.toInt ≤ 0 → r ≤ 0)) ∧
    (let q := (divide false a b).1.toNat
     let r := (divide false a b).2.toNat
     a.toNat = q * b.toNat + r ∧ r < b.toNat)

-- ---------------------------------------------------------------- guards, encodings, completion

/-- R271, R307: an instruction whose guard fails completes with no effect, no access and no fault. -/
def Obligations.GuardFalse : Prop :=
  ∀ (s : State) (c : CoreId) (i : Instr) (g : Guard),
    i.at? = some (c, g) → (∀ c g n sub rd rs rt, i ≠ .cust c g n sub rd rs rt) → i.encFault = none →
    s.meets c (resumable i) → guardReserved g = false → ((s.due c).core c).guardHolds g = false →
    (transfers i = true → ((s.due c).core c).loopEndAt (s.pcOf c) = false) → s.endsWell (s.fetched c) c (resumable i) = true →
    Completes s (s.fetched c) c i (resumable i)

/-- R308, R574: a reserved guard, a reserved loop level, a loop end of 0 and an odd pair field raise vector 4 with their code, whatever the guard
holds, with EPC and EADDR at the instruction.
R308: a reserved encoding raises vector 4, with cause "illegal instruction" or "reserved guard", decided by the encoding alone; the all-zero word
is reserved. -/
def Obligations.EncodingFaults : Prop :=
  (∀ (s : State) (c : CoreId) (i : Instr) (g : Guard) (code : Nat),
    i.at? = some (c, g) → (∀ c g n sub rd rs rt, i ≠ .cust c g n sub rd rs rt) → s.meets c (resumable i) →
    (g = 1#4 → Enters s (s.fetched c) c i (trapAt 4 0x02 (s.pcOf c))) ∧
    (g ≠ 1#4 → i.encFault = some code → Enters s (s.fetched c) c i (trapAt 4 code (s.pcOf c)))) ∧
  ((∀ (c : CoreId) (w : Word) (code : Nat), decodeWord c w = .reserved code →
    (code = 0x02 ↔ w.extractLsb' 28 4 = 1#4) ∧ (code = 0x01 ∨ code = 0x02)) ∧
  (∀ (c : CoreId), decodeWord c 0 = .reserved 0x01) ∧
  (∀ (s : State) (c : CoreId) (w : Word) (code : Nat), decodeWord c w = .reserved code → s.meets c false →
    Enters s (s.fetched c) c (.illegalInstruction c w) (trapAt 4 code (s.pcOf c))))

/-- R393, R395, R396, R397: taking an exception as one event. Pending mode-bearing writes take effect; the saved pair of the vector's class is
written; ECAUSE and EADDR are written; STAT changes field by field; execution continues at VBASE + 32 n; no general register of any bank, and no
other special register that no pending write names, changes.
Vectors 1, 16 and 17 leave ECAUSE and EADDR unchanged. -/
def Obligations.ExceptionEntry : Prop :=
  (∀ (k : Core) (t : Trap) (pc : Word) (rs : Bool), t.vec ≤ 20 →
    let a := k.applyAll
    let u := k.enter t.vec (some t) pc rs
    let fast := t.vec = 3 ∨ t.vec = 16
    u.pc = a.srGet 0x040 + BitVec.ofNat 32 (32 * t.vec) ∧
    u.srGet (savedPc t.vec) = pc &&& 0xFFFFFFFC#32 ∧
    (u.srGet (savedPc t.vec + 1)).getLsbD 22 = rs ∧
    (∀ i, i < 32 → i ≠ 22 → (u.srGet (savedPc t.vec + 1)).getLsbD i = a.stat.getLsbD i) ∧
    u.srGet 0x041 = t.ecause ∧ u.srGet 0x042 = t.eaddr ∧
    u.ie = false ∧ u.fe = (a.fe && decide (¬ (t.vec = 0 ∨ t.vec = 1 ∨ fast))) ∧ u.ring = 0 ∧ u.key = 0#4 ∧ u.ct = false ∧ u.rs = false ∧
    u.mce = (a.mce && decide (t.vec ≠ 0)) ∧ u.bank = (if fast then 8 else 9) ∧ u.stat.extractLsb' 8 4 = 0#4 ∧
    u.dzt = a.dzt ∧ u.dot = a.dot ∧ u.stat.extractLsb' 5 3 = a.stat.extractLsb' 5 3 ∧
    u.regs = k.regs ∧ u.shadow = [] ∧
    (∀ n, n ≠ 0 → n ≠ 0x041 → n ≠ 0x042 → n ≠ savedPc t.vec → n ≠ savedPc t.vec + 1 → u.srGet n = a.srGet n)) ∧
  (∀ (k : Core) (vec : Nat) (pc : Word) (rs : Bool), vec = 1 ∨ vec = 16 ∨ vec = 17 →
    let u := k.enter vec none pc rs
    u.srGet 0x041 = k.applyAll.srGet 0x041 ∧ u.srGet 0x042 = k.applyAll.srGet 0x042 ∧
    u.pc = k.applyAll.srGet 0x040 + BitVec.ofNat 32 (32 * vec) ∧ u.srGet (savedPc vec) = pc &&& 0xFFFFFFFC#32)

/-- R395, R407: a return from the handler of a fault restores the PC and the mode that entry saved. -/
def Obligations.ReturnRestores : Prop :=
  ∀ (k : Core) (t : Trap) (pc : Word) (rs : Bool), t.vec = 4 ∨ t.vec = 5 ∨ t.vec = 8 ∨ t.vec = 9 → k.shadow = [] →
    let u := k.enter t.vec (some t) pc rs
    let v := (u.srSet 0 (restoredStat (u.srGet 0x045))).resume (u.srGet 0x044) ((u.srGet 0x045).getLsbD 22)
    v.pc = pc &&& 0xFFFFFFFC#32 ∧ v.rs = rs ∧ v.stat = k.stat &&& (statMask ||| 0xF000#32) ∧ v.regs = k.regs

/-- R297, R300, R303: what completing an instruction does to PC, RS, RC and the loop counts, and nothing else of the core: a repetition that is
not the last stays at the target; any other instruction goes on where the highest active level that ends at it says. -/
def Obligations.CompletionAdvances : Prop :=
  (∀ (k : Core) (pc : Word), k.rc > 1 →
    let u := k.advance pc true
    u.pc = pc ∧ u.rs = true ∧ u.rc = k.rc - 1 ∧ (∀ i, i < 3 → u.lc i = k.lc i) ∧ u.regs = k.regs) ∧
  (∀ (k : Core) (pc : Word) (rep : Bool), ¬ (rep = true ∧ k.rc > 1) →
    let u := k.advance pc rep
    u.rs = false ∧ (rep = true → u.rc = 0) ∧ u.regs = k.regs ∧
    (k.loopEndAt pc = false → u.pc = pc + 4 ∧ ∀ i, i < 3 → u.lc i = k.lc i) ∧
    (∀ i, i < 3 → k.loopHit pc i = true → (∀ j, j < 3 → i < j → k.loopHit pc j = false) →
      u.lc i = k.lc i - 1 ∧ (k.lc i ≠ 1 → u.pc = k.ls i ∧ ∀ j, j < 3 → j ≠ i → u.lc j = k.lc j) ∧
      (k.lc i = 1 → (∀ j, j < i → k.loopHit pc j = false) → u.pc = pc + 4)))

-- ---------------------------------------------------------------- memory

/-- R290, R291, R322: a load whose address passes the checks of R419 completes: the destination takes the value read, sign- or zero-extended, and the
base register takes its update unless it is a destination. A load that fails a check enters that check's vector and leaves the base unchanged. -/
def Obligations.Loads : Prop :=
  ∀ (s : State) (c : CoreId) (g : Guard) (rd base : Reg) (mode : BitVec 3) (f : BitVec 9),
    LoadResult s c g rd base mode f (.ldb c g rd base mode f) 1 false (fun k v => k.setReg rd ((BitVec.ofNat 8 v).signExtend 32)) ∧
    LoadResult s c g rd base mode f (.ldbu c g rd base mode f) 1 false (fun k v => k.setReg rd ((BitVec.ofNat 8 v).zeroExtend 32)) ∧
    LoadResult s c g rd base mode f (.ldh c g rd base mode f) 2 false (fun k v => k.setReg rd ((BitVec.ofNat 16 v).signExtend 32)) ∧
    LoadResult s c g rd base mode f (.ldhu c g rd base mode f) 2 false (fun k v => k.setReg rd ((BitVec.ofNat 16 v).zeroExtend 32)) ∧
    LoadResult s c g rd base mode f (.ldw c g rd base mode f) 4 false (fun k v => k.setReg rd (BitVec.ofNat 32 v)) ∧
    (oddReg rd = false → LoadResult s c g rd base mode f (.ldd c g rd base mode f) 8 true
      (fun k v => (k.setReg rd (BitVec.ofNat 32 (v / 2 ^ 32))).setReg (rd ||| 1) (BitVec.ofNat 32 v)))

/-- R291, R322: a store whose address passes the checks of R419 and whose bytes can be stored now completes: the low bytes of the data register, or of
the pair, as they were before the base update, go to the address, and then the base takes its update. A store that fails a check enters its vector
with nothing stored. -/
def Obligations.Stores : Prop :=
  ∀ (s : State) (c : CoreId) (g : Guard) (rd base : Reg) (mode : BitVec 3) (f : BitVec 9),
    StoreResult s c g base mode f (.stb c g rd base mode f) 1 (fun k => (k.reg rd).toNat % 2 ^ 8) ∧
    StoreResult s c g base mode f (.sth c g rd base mode f) 2 (fun k => (k.reg rd).toNat % 2 ^ 16) ∧
    StoreResult s c g base mode f (.stw c g rd base mode f) 4 (fun k => (k.reg rd).toNat) ∧
    (oddReg rd = false →
      StoreResult s c g base mode f (.std c g rd base mode f) 8 (fun k => (k.reg rd).toNat * 2 ^ 32 + (k.reg (rd ||| 1)).toNat))

/-- R431: what a load of bytes that no buffered store overlaps reads is what memory holds, and it changes neither memory nor a core; a code word that is
uncorrectable makes it a machine check (R258).
R262, R430: bytes that reach memory are what every later read of memory finds there, and every other byte stays; R257: a code word that is written in part
and is uncorrectable keeps its bytes. -/
def Obligations.MemoryReadsBack : Prop :=
  (∀ (s : State) (c pa n : Nat), youngest (s.core c).storeBuf pa n = none → memOf pa ≠ 5 →
    let r := s.loadPiece c pa n
    (∀ a, r.1.byte a = s.byte a) ∧ r.1.cores = s.cores ∧ r.2.2 = s.bytes pa n ∧
    ((∀ cw ∈ cwsOf pa n, s.upset cw ≠ .uncorrectable) → (∀ cw ∈ cwsOf pa n, cwOf cw = cw) → r.2.1 = none)) ∧
  (∀ (s : State) (pa a : Nat) (l : List Byte), s.plain a = true →
    (s.poke pa l).byte a = if pa ≤ a ∧ a < pa + l.length ∧ ¬ (cwOf a ∈ partCws pa l.length ∧ s.upset a = .uncorrectable) then l.getD (a - pa) 0 else s.byte a)

/-- R291, R322, R430: a store reaches memory through the store buffer: once the buffer has drained, the stored bytes are the store's, and every byte
outside them is what it would have been without the store. -/
def Obligations.StoreFrame : Prop :=
  ∀ (s u : State) (c : Nat) (ms : List Mapped) (l : List Byte) (a : Nat),
    s.plain a = true → s.performStore c ms l = .ok u → (s.core c).storeBuf.length ≤ 8 → (∀ m ∈ ms, ¬ (m.pa ≤ a ∧ a < m.pa + m.n)) → (ms.map Mapped.n).sum = l.length →
    (u.drainAll c).byte a = (s.drainAll c).byte a

/-- R293: PUSH stores ws at DSP - 4 and then lowers DSP; POP loads from DSP and then raises it; on a fault DSP is unchanged. -/
def Obligations.DataStack : Prop :=
  ∀ (s : State) (c : CoreId) (g : Guard) (r : Reg),
    let f := s.fetched c
    let sp := (s.coreOf c).reg 31
    (∀ (ms : List Mapped) (u : State), s.executes c (.push c g r) g false → f.judge c accStore (halves (sp - 4).toNat 4) none = .ok ms →
      f.performPut c ms ((s.coreOf c).reg r).toNat 4 = .ok u → s.endsWell (u.setCore c ((u.core c).setReg 31 (sp - 4))) c false = true →
      Completes s (u.setCore c ((u.core c).setReg 31 (sp - 4))) c (.push c g r) false) ∧
    (∀ (t : Trap), s.executes c (.push c g r) g false → f.judge c accStore (halves (sp - 4).toNat 4) none = .error t →
      Traps s f c (.push c g r) t) ∧
    (∀ (ms : List Mapped) (u : State) (v : Nat), s.executes c (.pop c g r) g false → f.judge c accLoad (halves sp.toNat 4) none = .ok ms →
      f.performLoad c ms = .ok u v →
      s.endsWell (u.setCore c (((u.core c).setReg 31 (sp + 4)).setReg r (BitVec.ofNat 32 v))) c false = true →
      Completes s (u.setCore c (((u.core c).setReg 31 (sp + 4)).setReg r (BitVec.ofNat 32 v))) c (.pop c g r) false) ∧
    (∀ (t : Trap), s.executes c (.pop c g r) g false → f.judge c accLoad (halves sp.toNat 4) none = .error t →
      Traps s f c (.pop c g r) t)

/-- R323: the atomics: rd takes the old word m; m becomes rt, rt when m = rd, or m + rt modulo 2^32. A misaligned address raises vector 8 and a
descriptor of I/O or return-stack type vector 9. -/
def Obligations.Atomics : Prop :=
  ∀ (s : State) (c : CoreId) (g : Guard) (rd rs rt : Reg),
    AtomicResult s c g rs rd (.swpw c g rd rs rt) (fun k _ => some (k.reg rt)) ∧
    AtomicResult s c g rs rd (.casw c g rd rs rt) (fun k m => if m = k.reg rd then some (k.reg rt) else none) ∧
    AtomicResult s c g rs rd (.faddw c g rd rs rt) (fun k m => some (m + k.reg rt))

/-- R264: a fence completes when every earlier store of the core has reached memory; the instruction fence also discards what the core has fetched, so
that from there the core fetches what it has stored. -/
def Obligations.Fences : Prop :=
  ∀ (s : State) (c : CoreId) (g : Guard),
    let d := (s.fetched c).drainAll c
    s.endsWell d c false = true →
      (s.executes c (.fence c g) g false → Completes s d c (.fence c g) false) ∧
      (s.executes c (.fencei c g) g false → Completes s (d.setCore c { d.core c with staleOwn := [] }) c (.fencei c g) false) ∧
      (d.core c).storeBuf = [] ∧
      (∀ a, (∀ x ∈ d.stale, x.1 = a → x.2.1 = c.val) → (d.refetch c).fetchByte c a = d.byte a)

/-- R409, R416, R417: the storage-key group. KRD reads the change word (0 for a page that is not durable) and the key byte; KRREF reads the key byte and
clears REF; KSET writes DUR, REF, RG and KEY, and CHG only when the page is not durable afterwards. Rings above 1 may not read, nor rings above 0 write. -/
def Obligations.StorageKeys : Prop :=
  ∀ (s : State) (c : CoreId) (g : Guard) (rd rs rt : Reg),
    let f := s.fetched c
    let k := s.coreOf c
    (∀ pa : Nat, f.keyTarget c (k.reg rs).toNat = .ok pa →
      let d := (f.drainAll c).keyFetch (pa / 4096)
      let p := d.pageKey pa
      (oddReg rd = false → s.executes c (.krd c g rd rs) g false → k.ring ≤ 1 →
        let u := d.setCore c (((d.core c).setReg rd (if d.durable pa then p.pend ++ p.cur else 0)).setReg (rd ||| 1) (p.shown.zeroExtend 32))
        s.endsWell u c false = true → Completes s u c (.krd c g rd rs) false) ∧
      (s.executes c (.krref c g rd rs) g false → k.ring = 0 →
        let e := d.setPageKey (pa / 4096) { p with key := p.key &&& 0xBF#8 }
        let u := e.setCore c ((e.core c).setReg rd (p.shown.zeroExtend 32))
        s.endsWell u c false = true → Completes s u c (.krref c g rd rs) false) ∧
      (s.executes c (.kset c g rs rt) g false → k.ring = 0 → s.endsWell d c false = true →
        let new : Byte := ((d.core c).reg rt).extractLsb' 0 8
        let can := memOf pa == 1 || memOf pa == 3
        -- DUR of a page that can be durable stays as it is: nothing is journalled
        (p.key.getLsbD 7 = new.getLsbD 7 ∨ can = false →
          d.durable pa = false ∨ new.extractLsb' 0 4 = p.key.extractLsb' 0 4 ∨ (p.cur = 0 ∧ p.pend = 0) →
          ∃ t, exec (.kset c g rs rt) s = .next t ∧ (t.pageKey pa).cur = p.cur ∧ (t.pageKey pa).pend = p.pend ∧
            (t.pageKey pa).key = (new &&& 0xDF#8) ||| ((if can && new.getLsbD 7 then p.key else new) &&& 0x20#8) ∧
            ∀ a, t.byte a = d.byte a) ∧
        -- DUR is set: 4,096 bytes of headroom are taken and all sixteen lines become dirty
        (can = true → p.key.getLsbD 7 = false → new.getLsbD 7 = true → d.reservedPage pa = false →
          d.headroom 4096 = true →
          ∃ t, exec (.kset c g rs rt) s = .next t ∧ (t.pageKey pa).cur = 0xFFFF#16 ∧ (t.pageKey pa).pend = 0#16 ∧
            (t.pageKey pa).key.getLsbD 7 = true ∧ t.perc.dirty = d.perc.dirty + 4096) ∧
        -- DUR is cleared on a page with no dirty line: the change word is cleared
        (can = true → p.key.getLsbD 7 = true → new.getLsbD 7 = false → p.cur = 0 → p.pend = 0 →
          ∃ t, exec (.kset c g rs rt) s = .next t ∧ (t.pageKey pa).cur = 0 ∧ (t.pageKey pa).pend = 0 ∧
            (t.pageKey pa).key = new))) ∧
    (∀ i : Instr, (oddReg rd = false ∧ i = .krd c g rd rs ∧ 1 < k.ring) ∨ (i = .krref c g rd rs ∧ 0 < k.ring) ∨ (i = .kset c g rs rt ∧ 0 < k.ring) →
      s.executes c i g false → Traps s f c i (trapAt 5 0x01 k.pc))

/-- R294, R325: transfers. BR and JR go to their target; CALL and CALLR also push the address of the next instruction; RET goes to the newest entry, or
to the word at RSP when the buffer is empty. A misaligned register target raises vector 8, an empty stack vector 14, with nothing changed. -/
def Obligations.Transfers : Prop :=
  ∀ (s : State) (c : CoreId) (g : Guard) (disp : BitVec 22) (rs : Reg),
    let f := s.fetched c
    let k := s.coreOf c
    let target := k.pc + (disp.signExtend 32) * 4
    let pushed := f.setCore c { k with rstack := (k.pc + 4) :: k.rstack }
    s.notLoopEnd c →
      (s.executes c (.br c g disp) g false → Jumps s f c (.br c g disp) target) ∧
      (s.executes c (.call c g disp) g false → k.rstack.length < 16 → Jumps s pushed c (.call c g disp) target) ∧
      (s.executes c (.jr c g rs) g false → (k.reg rs).extractLsb' 0 2 = 0#2 → Jumps s f c (.jr c g rs) (k.reg rs)) ∧
      (s.executes c (.jr c g rs) g false → (k.reg rs).extractLsb' 0 2 ≠ 0#2 → Traps s f c (.jr c g rs) (trapAt 8 0x03 (k.reg rs))) ∧
      (s.executes c (.callr c g rs) g false → (k.reg rs).extractLsb' 0 2 = 0#2 → k.rstack.length < 16 →
        Jumps s pushed c (.callr c g rs) (k.reg rs)) ∧
      (s.executes c (.callr c g rs) g false → (k.reg rs).extractLsb' 0 2 ≠ 0#2 → Traps s f c (.callr c g rs) (trapAt 8 0x03 (k.reg rs))) ∧
      (∀ (t : Word) (r : List Word), s.executes c (.ret c g) g false → k.rstack = t :: r →
        Jumps s (f.setCore c { k with rstack := r }) c (.ret c g) t) ∧
      (s.executes c (.ret c g) g false → k.rstack = [] → k.srGet 0x018 = k.srGet 0x019 →
        Traps s f c (.ret c g) (trapAt 14 0x02 (k.srGet 0x018))) ∧
      -- an empty buffer fills from memory
      (∀ (ms : List Mapped) (u : State) (v : Nat), s.executes c (.ret c g) g false → k.rstack = [] → k.srGet 0x018 ≠ k.srGet 0x019 →
        f.judge c accLoad (halves (k.srGet 0x018).toNat 4) none = .ok ms → f.performLoad c ms = .ok u v →
        ((BitVec.ofNat 32 v).extractLsb' 0 2 = 0#2 → (u.core c).loopEndAt (s.pcOf c) = false →
          Jumps s (u.setCore c ((u.core c).srSet 0x018 (k.srGet 0x018 + 4))) c (.ret c g) (BitVec.ofNat 32 v)) ∧
        ((BitVec.ofNat 32 v).extractLsb' 0 2 ≠ 0#2 → Traps s u c (.ret c g) (trapAt 8 0x03 (BitVec.ofNat 32 v)))) ∧
      -- a full buffer first spills its oldest entry
      (∀ (u : State) (i : Instr) (tgt : Word), (i = .call c g disp ∧ tgt = target) ∨ (i = .callr c g rs ∧ tgt = k.reg rs ∧ (k.reg rs).extractLsb' 0 2 = 0#2) →
        s.executes c i g false → k.rstack.length = 16 → f.spillOldest c = .ok u → (u.core c).loopEndAt (s.pcOf c) = false →
        Jumps s (u.setCore c { u.core c with rstack := (k.pc + 4) :: (u.core c).rstack }) c i tgt) ∧
      (∀ (i : Instr), i = .call c g disp ∨ (i = .callr c g rs ∧ (k.reg rs).extractLsb' 0 2 = 0#2) →
        s.executes c i g false → k.rstack.length = 16 → k.onReturnStack (k.srGet 0x018 - 4).toNat = false →
        Traps s f c i (trapAt 14 0x01 (k.srGet 0x018 - 4)))

/-- R296, R326: LOOP and LOOPI set LSk to the next instruction, LEk to PC + 4 * imm12 and LCk to the count, and a count of 0 goes on at LEk + 4.
R300, R301: RPT and RPTI load RC and set RS on the target, which a count of 0 skips; a target that R301 names raises vector 4 at the RPT with RC
unchanged. -/
def Obligations.LoopsAndRepeats : Prop :=
  (∀ (s : State) (c : CoreId) (g : Guard) (lvl : BitVec 2) (rs : Reg) (count : BitVec 8) (imm : Imm12), lvl ≠ 3#2 → imm ≠ 0#12 → s.notLoopEnd c →
    let k := s.coreOf c
    let fin := k.pc + (imm.zeroExtend 32) * 4
    let set := fun (n : Word) => (s.fetched c).setCore c
      (((k.srSet (0x004 + lvl.toNat) (k.pc + 4)).srSet (0x008 + lvl.toNat) fin).srSet (0x00C + lvl.toNat) n)
    (s.executes c (.loop c g lvl rs imm) g false →
      Jumps s (set (k.reg rs)) c (.loop c g lvl rs imm) (if k.reg rs = 0 then fin + 4 else k.pc + 4)) ∧
    (s.executes c (.loopi c g lvl count imm) g false →
      Jumps s (set (count.zeroExtend 32)) c (.loopi c g lvl count imm) (if count = 0 then fin + 4 else k.pc + 4))) ∧
  (∀ (s : State) (c : CoreId) (g : Guard) (rs : Reg) (count : BitVec 16) (w : Nat) (n : Nat) (i : Instr),
    let k := s.coreOf c
    let q := (s.fetched c).fetch c (k.pc + 4)
    s.notLoopEnd c → q.2 = .ok w → (i = .rpt c g rs ∧ n = (k.reg rs).toNat % 65536) ∨ (i = .rpti c g count ∧ n = count.toNat) →
    s.executes c i g false →
      let kk := (q.1.core c).countShadow.srSet 2 (BitVec.ofNat 32 n)
      (rptRefused q.1.custResumable (decodeWord c (BitVec.ofNat 32 w)) = false →
        Leaves s (q.1.setCore c { kk with pc := if n = 0 then k.pc + 8 else k.pc + 4, rs := decide (n ≠ 0) }) c i) ∧
      (rptRefused q.1.custResumable (decodeWord c (BitVec.ofNat 32 w)) = true → Traps s q.1 c i (trapAt 4 0x03 k.pc)))

/-- R411: SYSC n first applies the pending writes; refused, it raises vector 5 with EADDR = n; otherwise the next address and STAT go to the pair of the
target ring, and the core goes on at the gate's entry in that ring, on its bank, with KEY cleared in ring 0. -/
def Obligations.SystemCall : Prop :=
  ∀ (s : State) (c : CoreId) (g : Guard) (n : BitVec 4),
    let k := (s.coreOf c).applyAll
    let gate := k.srGet (0x080 + n.toNat)
    let ring := (gate.extractLsb' 0 2).toNat
    let refused := ring = 3 ∨ ((k.srGet 0x070).extractLsb' (2 * n.toNat) 2).toNat < k.ring ∨ k.ring < ring
    s.executes c (.sysc c g n) g false → (s.coreOf c).badLoop (s.coreOf c).pc = false →
      (refused → Traps s ((s.fetched c).setCore c k) c (.sysc c g n) (trapAt 5 0x05 (BitVec.ofNat 32 n.toNat))) ∧
      (¬ refused → ∃ t, exec (.sysc c g n) s = .next t ∧
        (t.core c).pc = gate &&& 0xFFFFFFFC#32 ∧ (t.core c).ring = ring ∧ (t.core c).bank = k.bank ∧
        (ring = 0 → (t.core c).key = 0#4) ∧ (ring ≠ 0 → (t.core c).key = k.key) ∧
        (t.core c).srGet (0x054 + 2 * ring) = (k.loopCheck k.pc).2 ∧ (t.core c).srGet (0x055 + 2 * ring) = k.stat ∧
        (t.core c).regs = k.regs ∧ (t.core c).rs = false ∧ t.mem = (s.fetched c).mem)

/-- R407, R408: the returns. In ring 0, ERET, FRET, NRET and MRET set PC, STAT and RS from their pair, the handler's end noted; in another ring they raise
vector 5 with code 0x01. SRET restores from the pair of its ring every STAT field but BANK, and raises code 0x05 in ring 3.
R58: TEND ends the dispatched task: the core idles on its bank. -/
def Obligations.Returns : Prop :=
  (∀ (s : State) (c : CoreId) (g : Guard), s.notLoopEnd c →
    let a := (s.coreOf c).applyAll
    let f := (s.fetched c).setCore c a
    ReturnResult s c g (.eret c g) 0x044 Core.endBs ∧
    ReturnResult s c g (.fret c g) 0x048 Core.endFast ∧
    ReturnResult s c g (.nret c g) 0x04C (fun k => { k with inNmi := false }) ∧
    ReturnResult s c g (.mret c g) 0x050 (fun k => { k with inMc := false }) ∧
    (s.executes c (.sret c g) g false → a.ring = 3 → Traps s f c (.sret c g) (trapAt 5 0x05 0xFFFFFFFF#32)) ∧
    (s.executes c (.sret c g) g false → a.ring < 3 → ∃ t, exec (.sret c g) s = .next t ∧
      (t.core c).pc = a.srGet (0x054 + 2 * a.ring) &&& 0xFFFFFFFC#32 ∧
      (t.core c).stat = (a.srGet (0x055 + 2 * a.ring) &&& statMask) ||| (a.stat &&& 0xF000#32) ∧
      (t.core c).rs = (a.srGet (0x055 + 2 * a.ring)).getLsbD 22 ∧ (t.core c).bank = a.bank ∧ (t.core c).regs = a.regs)) ∧
  (∀ (s : State) (c : CoreId) (g : Guard), s.executes c (.tend c g) g false → (s.coreOf c).tendOk = true → (s.coreOf c).badLoop (s.coreOf c).pc = false →
    ∃ t, exec (.tend c g) s = .next t ∧ (t.core c).task = none ∧ (t.core c).run = .idle ∧ (t.core c).bank = (s.coreOf c).bank ∧
      (t.core c).regs = (s.coreOf c).regs ∧ t.mem = (s.fetched c).mem)

/-- R275, R279, R409: contexts and banks. CTXSW makes a resident context's bank current, or fills one from the context's slot in scratch, and overflows
when no bank can take it; MFB and MTB reach the bank that BWIN names. -/
def Obligations.Banks : Prop :=
  ∀ (s : State) (c : CoreId) (g : Guard) (rd rs : Reg),
    let f := s.fetched c
    let k := s.coreOf c
    let n := ((k.reg rs).extractLsb' 0 6).toNat
    (s.executes c (.ctxsw c g rs) g false → k.ring ≤ 1 →
      (∀ b, k.residentIn n = some b → s.endsWell (f.setCore c (k.makeCurrent b)) c false = true →
        Completes s (f.setCore c (k.makeCurrent b)) c (.ctxsw c g rs) false) ∧
      (∀ b pa, k.residentIn n = none → k.fillBank = some b → f.slotPa c n = some pa → ((f.drainAll c).meetWords (cwsOf pa 128)).2 = none →
        let r := ((f.drainAll c).meetWords (cwsOf pa 128)).1
        let u := r.setCore c ((((r.core c).fillFrom b (r.bytes pa 128) 32).bind b n).makeCurrent b)
        s.endsWell u c false = true → Completes s u c (.ctxsw c g rs) false) ∧
      (k.residentIn n = none → k.fillBank = none → Traps s f c (.ctxsw c g rs) (k.overflow n))) ∧
    (s.executes c (.mfb c g rd rs) g false → k.ring = 0 →
      let u := f.setCore c (k.setReg rd (if k.bwin ≤ 9 then k.bankReg k.bwin rs.toNat else 0))
      s.endsWell u c false = true → Completes s u c (.mfb c g rd rs) false) ∧
    (s.executes c (.mtb c g rd rs) g false → k.ring = 0 → (k.bwin ≤ 9 → k.heldBank k.bwin = false) →
      let u := f.setCore c (if k.bwin ≤ 9 then k.setBankReg k.bwin rd.toNat (k.reg rs) else k)
      s.endsWell u c false = true → Completes s u c (.mtb c g rd rs) false) ∧
    (∀ i : Instr, (i = .ctxsw c g rs ∧ 1 < k.ring) ∨ (i = .mfb c g rd rs ∧ 0 < k.ring) ∨ (i = .mtb c g rd rs ∧ 0 < k.ring) →
      s.executes c i g false → Traps s f c i (trapAt 5 0x01 k.pc))

/-- R283, R304, R420, R422: special registers. A number not listed raises vector 4, and so does a write to an RO register; a ring above the register's
minimum raises vector 5. MFS reads the newest pending value; MTS to a mode-bearing register is pending, to any other it writes at once. -/
def Obligations.SpecialRegisters : Prop :=
  ∀ (s : State) (c : CoreId) (g : Guard) (r : Reg) (num : Imm12),
    let f := s.fetched c
    let k := s.coreOf c
    let n := num.toNat
    (s.executes c (.mfs c g r num) g false →
      (srListed n = false → Traps s f c (.mfs c g r num) (trapAt 4 0x05 k.pc)) ∧
      (srListed n = true → srReadRing n < k.ring → Traps s f c (.mfs c g r num) (trapAt 5 0x02 k.pc)) ∧
      (srListed n = true → k.ring ≤ srReadRing n → n ≠ 0x018 →
        let v := f.mfsValue c n
        let u := v.1.setCore c ((v.1.core c).setReg r v.2)
        s.endsWell u c false = true → Completes s u c (.mfs c g r num) false) ∧
      (srListed n = true → k.ring ≤ srReadRing n → n = 0x018 →
        (∀ a, k.badSlot (k.srGet 0x018) k.rstack.length = some a → Traps s f c (.mfs c g r num) (trapAt 14 0x01 a)) ∧
        (∀ v, k.badSlot (k.srGet 0x018) k.rstack.length = none → f.spillAll c k.rstack.length = .ok v →
          let u := v.setCore c ((v.core c).setReg r ((v.core c).srGet 0x018))
          s.endsWell u c false = true → Completes s u c (.mfs c g r num) false)) ∧
      (srListed n = true → n ≠ 1 → n ≠ 0x01B → n ≠ 0x01C → n ≠ 0x020 → n ≠ 0x023 → n ≠ 0x024 → n ≠ 0x030 → n ≠ 0x032 → n ≠ 0x033 → n ≠ 0x035 →
        f.mfsValue c n = (f, k.srPending n))) ∧
    (s.executes c (.mts c g r num) g false →
      (srListed n = false ∨ srReadOnly n = true → Traps s f c (.mts c g r num) (trapAt 4 0x05 k.pc)) ∧
      (srListed n = true → srReadOnly n = false → srWriteRing n < k.ring → Traps s f c (.mts c g r num) (trapAt 5 0x02 k.pc)) ∧
      (srListed n = true → srReadOnly n = false → k.ring ≤ srWriteRing n → n = 0 → 0 < k.ring → k.statFieldBad (k.reg r) = true →
        Traps s f c (.mts c g r num) (trapAt 5 0x03 k.pc)) ∧
      (srListed n = true → srReadOnly n = false → k.ring ≤ srWriteRing n → ¬ (n = 0 ∧ 0 < k.ring ∧ k.statFieldBad (k.reg r) = true) →
        k.reg r &&& srReserved n = 0 → ¬ (n = 0x021 ∧ scratchSize < (k.reg r).toNat + 8192) →
        (srShadowed n = true →
          let u := f.setCore c { k with shadow := k.shadow ++ [⟨4, n, k.reg r &&& srHeld n⟩] }
          s.endsWell u c false = true → Completes s u c (.mts c g r num) false) ∧
        (srShadowed n = false → n ≠ 1 → n ≠ 0x018 → n ≠ 0x01A → n ≠ 0x01B → n ≠ 0x01C → n ≠ 0x023 → n ≠ 0x024 →
          let u := f.setCore c (k.srSet n (k.reg r &&& srHeld n))
          s.endsWell u c false = true → Completes s u c (.mts c g r num) false) ∧
        (n = 0x001 →
          let u := f.setCore c (k.srSet 1 ((k.reg r &&& 0xFE#32) ||| 1#32))
          s.endsWell u c false = true → Completes s u c (.mts c g r num) false) ∧
        (n = 0x018 →
          let u := f.setCore c { k.srSet 0x018 (k.reg r) with rstack := [] }
          s.endsWell u c false = true → Completes s u c (.mts c g r num) false) ∧
        (n = 0x01A →
          let p := k.srSet 0x01A (k.reg r &&& 3#32)
          let u := f.setCore c (if (k.reg r).getLsbD 7 then p.setCrcv (crcEmpty p.crcId) else p)
          s.endsWell u c false = true → Completes s u c (.mts c g r num) false) ∧
        (n = 0x01B →
          let u := f.setCore c (k.setCrcv (k.crcv / 2 ^ 32 * 2 ^ 32 + (k.reg r).toNat))
          s.endsWell u c false = true → Completes s u c (.mts c g r num) false) ∧
        (n = 0x01C →
          let u := f.setCore c (k.setCrcv ((k.reg r).toNat * 2 ^ 32 + k.crcv % 2 ^ 32))
          s.endsWell u c false = true → Completes s u c (.mts c g r num) false) ∧
        (∀ b, (n = 0x023 ∧ b = 0) ∨ (n = 0x024 ∧ b = 4) → k.badMap b (k.reg r) = false →
          let u := f.setCore c (k.clearMap b (k.reg r) 4)
          s.endsWell u c false = true → Completes s u c (.mts c g r num) false))) ∧
    exec (.modeShadowApply c) s = .next (s.due c)

-- ---------------------------------------------------------------- floating point

/-- R332, R333, R338: the arithmetic, sign and fused instructions, in both formats, on the value of a register or an even pair; the result is rounded
once under FPCR.RM and FZ. FNEG, FABS and FMOV change or copy the sign bit and raise no flag. -/
def Obligations.FpArithmetic : Prop :=
  ∀ (s : State) (c : CoreId) (g : Guard) (dbl : Bool) (rd rs rt : Reg),
    let k := s.coreOf c
    let f := fpFmt dbl
    let a := k.fp dbl rs
    let b := k.fp dbl rt
    let d := k.fp dbl rd
    let top := if dbl then 63 else 31
    (dbl = true → oddReg rd = false ∧ oddReg rs = false) →
      ((dbl = true → oddReg rt = false) →
        FpWrites s c g (.fadd c g dbl rd rs rt) dbl rd (f.add k.rm k.fz false a b) ∧
        FpWrites s c g (.fsub c g dbl rd rs rt) dbl rd (f.add k.rm k.fz true a b) ∧
        FpWrites s c g (.fmul c g dbl rd rs rt) dbl rd (f.mul k.rm k.fz a b) ∧
        FpWrites s c g (.fdiv c g dbl rd rs rt) dbl rd (f.div k.rm k.fz a b) ∧
        FpWrites s c g (.fma c g dbl rd rs rt) dbl rd (f.fma k.rm k.fz false false a b d) ∧
        FpWrites s c g (.fms c g dbl rd rs rt) dbl rd (f.fma k.rm k.fz false true a b d) ∧
        FpWrites s c g (.fnma c g dbl rd rs rt) dbl rd (f.fma k.rm k.fz true false a b d)) ∧
      FpWrites s c g (.fneg c g dbl rd rs) dbl rd ⟨if natBit a top then a - 2 ^ top else a + 2 ^ top, 0⟩ ∧
      FpWrites s c g (.fabs c g dbl rd rs) dbl rd ⟨a % 2 ^ top, 0⟩ ∧
      FpWrites s c g (.fmov c g dbl rd rs) dbl rd ⟨a, 0⟩

/-- R332, R341, R342: the compares, which write a predicate, and the conversions between the formats and with signed words. -/
def Obligations.FpCompareConvert : Prop :=
  ∀ (s : State) (c : CoreId) (g : Guard) (dbl : Bool) (rd rs rt : Reg),
    let k := s.coreOf c
    let f := fpFmt dbl
    ((dbl = true → oddReg rs = false ∧ oddReg rt = false) →
      FpCompares s c g (.fcmpeq c g dbl rd rs rt) rd (f.compare k.fz .eq (k.fp dbl rs) (k.fp dbl rt)) ∧
      FpCompares s c g (.fcmplt c g dbl rd rs rt) rd (f.compare k.fz .lt (k.fp dbl rs) (k.fp dbl rt)) ∧
      FpCompares s c g (.fcmple c g dbl rd rs rt) rd (f.compare k.fz .le (k.fp dbl rs) (k.fp dbl rt))) ∧
    ((dbl = true → oddReg rd = false) → (dbl = false → oddReg rs = false) →
      FpWrites s c g (.fcvtf c g dbl rd rs) dbl rd (f.convert (fpFmt (!dbl)) k.rm k.fz (k.fp (!dbl) rs))) ∧
    ((dbl = true → oddReg rs = false) →
      FpWrites s c g (.fcvti c g dbl rd rs) false rd (f.toInt k.rm k.fz (k.fp dbl rs))) ∧
    ((dbl = true → oddReg rd = false) →
      FpWrites s c g (.fcvtfi c g dbl rd rs) dbl rd (f.ofWord k.rm k.fz (k.reg rs)))

/-- R345, with the flags of R336: the results at the edges, in single and in double, under RNE, RZ, RU and RD with FZ = 0. -/
def Obligations.FpEdges : Prop :=
  eachMode (fun rm => (fpFmt false).mul rm false 1 0x3F000000) 0 0 1 0 (fpUF + fpNX) (fpUF + fpNX) ∧
  eachMode (fun rm => (fpFmt true).mul rm false 1 0x3FE0000000000000) 0 0 1 0 (fpUF + fpNX) (fpUF + fpNX) ∧
  eachMode (fun rm => (fpFmt false).add rm false false 1 1) 2 2 2 2 0 0 ∧
  eachMode (fun rm => (fpFmt true).add rm false false 1 1) 2 2 2 2 0 0 ∧
  eachMode (fun rm => (fpFmt false).add rm false true 1 1) 0 0 0 0x80000000 0 0 ∧
  eachMode (fun rm => (fpFmt true).add rm false true 1 1) 0 0 0 0x8000000000000000 0 0 ∧
  eachMode (fun rm => (fpFmt false).div rm false 1 0x7F7FFFFF) 0 0 1 0 (fpUF + fpNX) (fpUF + fpNX) ∧
  eachMode (fun rm => (fpFmt true).div rm false 1 0x7FEFFFFFFFFFFFFF) 0 0 1 0 (fpUF + fpNX) (fpUF + fpNX) ∧
  eachMode (fun rm => (fpFmt false).mul rm false 1 0x7F7FFFFF) 0x34FFFFFF 0x34FFFFFF 0x34FFFFFF 0x34FFFFFF 0 0 ∧
  eachMode (fun rm => (fpFmt true).mul rm false 1 0x7FEFFFFFFFFFFFFF) 0x3CCFFFFFFFFFFFFF 0x3CCFFFFFFFFFFFFF 0x3CCFFFFFFFFFFFFF 0x3CCFFFFFFFFFFFFF 0 0 ∧
  eachMode (fun rm => (fpFmt false).add rm false false 0x7F7FFFFF 1) 0x7F7FFFFF 0x7F7FFFFF 0x7F800000 0x7F7FFFFF fpNX (fpOF + fpNX) ∧
  eachMode (fun rm => (fpFmt true).add rm false false 0x7FEFFFFFFFFFFFFF 1) 0x7FEFFFFFFFFFFFFF 0x7FEFFFFFFFFFFFFF 0x7FF0000000000000 0x7FEFFFFFFFFFFFFF fpNX (fpOF + fpNX) ∧
  eachMode (fun rm => (fpFmt false).add rm false false 0x7F7FFFFF 0x7F7FFFFF) 0x7F800000 0x7F7FFFFF 0x7F800000 0x7F7FFFFF (fpOF + fpNX) (fpOF + fpNX) ∧
  eachMode (fun rm => (fpFmt true).add rm false false 0x7FEFFFFFFFFFFFFF 0x7FEFFFFFFFFFFFFF) 0x7FF0000000000000 0x7FEFFFFFFFFFFFFF 0x7FF0000000000000 0x7FEFFFFFFFFFFFFF (fpOF + fpNX) (fpOF + fpNX) ∧
  eachMode (fun rm => (fpFmt false).div rm false 0x7F7FFFFF 1) 0x7F800000 0x7F7FFFFF 0x7F800000 0x7F7FFFFF (fpOF + fpNX) (fpOF + fpNX) ∧
  eachMode (fun rm => (fpFmt true).div rm false 0x7FEFFFFFFFFFFFFF 1) 0x7FF0000000000000 0x7FEFFFFFFFFFFFFF 0x7FF0000000000000 0x7FEFFFFFFFFFFFFF (fpOF + fpNX) (fpOF + fpNX) ∧
  eachMode (fun rm => (fpFmt false).fma rm false false false 0x7F7FFFFF 0x40000000 0xFF7FFFFF) 0x7F7FFFFF 0x7F7FFFFF 0x7F7FFFFF 0x7F7FFFFF 0 0 ∧
  eachMode (fun rm => (fpFmt true).fma rm false false false 0x7FEFFFFFFFFFFFFF 0x4000000000000000 0xFFEFFFFFFFFFFFFF) 0x7FEFFFFFFFFFFFFF 0x7FEFFFFFFFFFFFFF 0x7FEFFFFFFFFFFFFF 0x7FEFFFFFFFFFFFFF 0 0 ∧
  eachMode (fun rm => (fpFmt false).convert (fpFmt true) rm false 1) 0 0 1 0 (fpUF + fpNX) (fpUF + fpNX) ∧
  eachMode (fun rm => (fpFmt false).convert (fpFmt true) rm false 0x7FEFFFFFFFFFFFFF) 0x7F800000 0x7F7FFFFF 0x7F800000 0x7F7FFFFF (fpOF + fpNX) (fpOF + fpNX) ∧
  eachMode (fun rm => (fpFmt true).convert (fpFmt false) rm false 1) 0x36A0000000000000 0x36A0000000000000 0x36A0000000000000 0x36A0000000000000 0 0 ∧
  eachMode (fun rm => (fpFmt true).convert (fpFmt false) rm false 0x7F7FFFFF) 0x47EFFFFFE0000000 0x47EFFFFFE0000000 0x47EFFFFFE0000000 0x47EFFFFFE0000000 0 0 ∧
  eachMode (fun rm => (fpFmt false).toInt rm false 1) 0 0 1 0 fpNX fpNX ∧
  eachMode (fun rm => (fpFmt true).toInt rm false 1) 0 0 1 0 fpNX fpNX ∧
  eachMode (fun rm => (fpFmt false).toInt rm false 0x7F7FFFFF) 0x7FFFFFFF 0x7FFFFFFF 0x7FFFFFFF 0x7FFFFFFF fpNV fpNV ∧
  eachMode (fun rm => (fpFmt true).toInt rm false 0x7FEFFFFFFFFFFFFF) 0x7FFFFFFF 0x7FFFFFFF 0x7FFFFFFF 0x7FFFFFFF fpNV fpNV

/-- R339, R340: a NaN operand gives the first NaN operand, quieted, with NV when any operand is signalling; an invalid operation with no NaN operand
gives the default NaN and NV. -/
def Obligations.FpNans : Prop :=
  ∀ (dbl : Bool) (rm a b : Nat) (fz : Bool),
    let f := fpFmt dbl
    let nan := fun v => f.expo v = 2 ^ f.w - 1 ∧ f.frac v ≠ 0
    let sig := fun v => nan v ∧ f.frac v < 2 ^ (f.p - 2)
    (nan a → (f.add rm fz false a b).bits = f.quiet a ∧ (f.mul rm fz a b).bits = f.quiet a ∧ (f.div rm fz a b).bits = f.quiet a) ∧
    (¬ nan a → nan b → (f.add rm fz false a b).bits = f.quiet b ∧ (f.mul rm fz a b).bits = f.quiet b ∧ (f.div rm fz a b).bits = f.quiet b) ∧
    (nan a ∨ nan b → ((f.add rm fz false a b).flags = fpNV ↔ sig a ∨ sig b) ∧ (f.compare fz .lt a b) = (false, fpNV) ∧
      (f.compare fz .le a b) = (false, fpNV) ∧ (f.compare fz .eq a b).1 = false ∧ ((f.compare fz .eq a b).2 = fpNV ↔ sig a ∨ sig b)) ∧
    f.mul rm fz 0 (f.infinity false) = ⟨f.defaultNan, fpNV⟩ ∧ f.div rm fz 0 0 = ⟨f.defaultNan, fpNV⟩ ∧
    f.div rm fz (f.infinity false) (f.infinity true) = ⟨f.defaultNan, fpNV⟩ ∧
    f.add rm fz true (f.infinity false) (f.infinity false) = ⟨f.defaultNan, fpNV⟩

-- ---------------------------------------------------------------- decimal

/-- R348, R349: a packed field holds its integer: packing an integer that fits in n bytes and reading it back gives it, and every such field is valid;
zero carries the preferred sign. -/
def Obligations.PackedRoundTrip : Prop :=
  ∀ (n : Nat) (v : Int), 0 < n → packedOver n v = false →
    (packInt n v).length = n ∧ packedBad (packInt n v) = none ∧ packedVal (packInt n v) = v

/-- R359, R360, R362, R363, R364: decimal arithmetic on operands that pass their checks: op1 := op1 op op2 with the class of the result in pd; DZAD does not
read op1, DCMP and DTST write nothing; DMUL and DDIV refuse lengths with L2 > 16 or L1 ≤ L2, and DSRP a rounding mode above 5.
DSRP multiplies by a power of ten on a left shift, and on a right shift keeps the truncated magnitude, to which the rounding mode adds 1 or not; the sign
stays. -/
def Obligations.DecimalArithmetic : Prop :=
  (∀ (s : State) (c : CoreId) (g : Guard) (pd : PredNo) (rd rs rt : Reg),
    let k := s.coreOf c
    let lw := k.reg rt
    let l1 := (lw.extractLsb' 0 5).toNat + 1
    let l2 := (lw.extractLsb' 8 5).toNat + 1
    let o1 : Access → Opnd := fun a => ⟨k.reg rd, l1, a⟩
    let o2 : Opnd := ⟨k.reg rs, l2, accLoad⟩
    let two := fun (f : Int → Int → DecOut) (ls : List (List Byte)) => match ls with
      | [b, a] => f (packedVal a) (packedVal b)
      | _ => .trap 11 0x01 0
    let badLen := 16 < l2 ∨ l1 ≤ l2
    DecimalResult s c g (.dadd c g pd rd rs rt) pd lw (k.reg rd) [o2, o1 accStore] [true, true] false [packedBad, packedBad] (some 1)
      (two fun a b => intoPacked l1 (a + b)) ∧
    DecimalResult s c g (.dsub c g pd rd rs rt) pd lw (k.reg rd) [o2, o1 accStore] [true, true] false [packedBad, packedBad] (some 1)
      (two fun a b => intoPacked l1 (a - b)) ∧
    DecimalResult s c g (.dzad c g pd rd rs rt) pd lw (k.reg rd) [o2, o1 accStore] [true, false] false [packedBad, fun _ => none] (some 1)
      (two fun _ b => intoPacked l1 b) ∧
    DecimalResult s c g (.dcmp c g pd rd rs rt) pd lw (k.reg rd) [o2, o1 accLoad] [true, true] false [packedBad, packedBad] none
      (two fun a b => .done [] (classOf (a - b))) ∧
    DecimalResult s c g (.dtst c g pd rd rt) pd lw (k.reg rd) [o1 accLoad] [true] false [fun _ => none] none
      (fun ls => match ls with
        | [a] => .done [] (if packedBad a = none then classOf (packedVal a) else 3)
        | _ => .trap 11 0x01 0) ∧
    (¬ badLen →
      DecimalResult s c g (.dmul c g pd rd rs rt) pd lw (k.reg rd) [o2, o1 accStore] [true, true] true [packedBad, packedBad] (some 1)
        (fun ls => match ls with
          | [b, a] => if allZero (a.take l2) then intoPacked l1 (packedVal a * packedVal b) else .trap 11 0x01 (k.reg rd)
          | _ => .trap 11 0x01 0) ∧
      DecimalResult s c g (.ddiv c g pd rd rs rt) pd lw (k.reg rd) [o2, o1 accStore] [true, true] true [packedBad, packedBad] (some 1)
        (two fun a b =>
          if b = 0 then .trap 12 0x02 (k.reg rs)
          else if packedOver (l1 - l2) (a.tdiv b) then .trap 12 0x03 (k.reg rd)
          else .done (packInt (l1 - l2) (a.tdiv b) ++ packInt l2 (a.tmod b)) (classOf (a.tdiv b)))) ∧
    (badLen → ∀ i, i = .dmul c g pd rd rs rt ∨ i = .ddiv c g pd rd rs rt → s.executes c i g false →
      TrapsLate s (s.fetched c) c i (trapAt 4 0x08 k.pc)) ∧
    (lwRnd lw ≤ 5 →
      DecimalResult s c g (.dsrp c g pd rd rt) pd lw (k.reg rd) [o1 accStore] [true] false [packedBad] (some 0)
        (fun ls => match ls with
          | [a] => shiftRound l1 (lwShift lw) (lwRnd lw) (packedVal a)
          | _ => .trap 11 0x01 0)) ∧
    (5 < lwRnd lw → s.executes c (.dsrp c g pd rd rt) g false → ∀ ms, (s.fetched c).judgeAll c [o1 accStore] = .ok ms →
      ms.any meetsRegister = false → TrapsLate s (s.fetched c) c (.dsrp c g pd rd rt) (trapAt 11 0x02 k.pc))) ∧
  (∀ (l1 : Nat) (shift a : Int) (rnd : Nat), rnd ≤ 5 →
    (0 ≤ shift → shiftRound l1 shift rnd a = intoPacked l1 (a * 10 ^ shift.toNat)) ∧
    (shift < 0 → ∃ r : Int, shiftRound l1 shift rnd a = intoPacked l1 r ∧
      (r = a.tdiv (10 ^ (-shift).toNat) ∨ r = a.tdiv (10 ^ (-shift).toNat) + (if a < 0 then -1 else 1)) ∧
      (rnd = 0 → r = a.tdiv (10 ^ (-shift).toNat)) ∧ (a.tmod (10 ^ (-shift).toNat) = 0 → r * 10 ^ (-shift).toNat = a) ∧
      (rnd = 4 → (a : Int) ≤ r * 10 ^ (-shift).toNat) ∧ (rnd = 5 → r * 10 ^ (-shift).toNat ≤ a)))

/-- R367, R368, R369: the conversions between packed, zoned and binary; a zoned field of one byte raises vector 4 with code 0x08. -/
def Obligations.DecimalConversions : Prop :=
  ∀ (s : State) (c : CoreId) (g : Guard) (pd : PredNo) (rd rs rt : Reg),
    let f := s.fetched c
    let k := s.coreOf c
    let lw := k.reg rt
    let l1 := (lw.extractLsb' 0 5).toNat + 1
    let lz := (lw.extractLsb' 8 6).toNat + 1
    (lz ≠ 1 →
      DecimalResult s c g (.cvpz c g pd rd rs rt) pd lw (k.reg rd) [⟨k.reg rs, lz, accLoad⟩, ⟨k.reg rd, l1, accStore⟩] [true, false] true
        [zonedBad, fun _ => none] (some 1) (fun ls => match ls with
          | z :: _ => intoPacked l1 (zonedVal z)
          | _ => .trap 11 0x01 0) ∧
      DecimalResult s c g (.cvzp c g pd rd rs rt) pd lw (k.reg rd) [⟨k.reg rs, l1, accLoad⟩, ⟨k.reg rd, lz, accStore⟩] [true, false] true
        [packedBad, fun _ => none] (some 1) (fun ls => match ls with
          | p :: _ => if 10 ^ (lz - 1) ≤ (packedVal p).natAbs then .ovf (zonedOf lz (packedVal p))
              else .done (zonedOf lz (packedVal p)) (classOf (packedVal p))
          | _ => .trap 11 0x01 0)) ∧
    (lz = 1 → ∀ i, i = .cvpz c g pd rd rs rt ∨ i = .cvzp c g pd rd rs rt → s.executes c i g false →
      TrapsLate s f c i (trapAt 4 0x08 k.pc)) ∧
    (oddReg rs = false →
      DecimalResult s c g (.cvbp c g pd rd rs rt) pd lw (k.reg rd) [⟨k.reg rd, l1, accStore⟩] [false] true [fun _ => none] (some 0)
        (fun _ => intoPacked l1 (k.pair rs).toInt)) ∧
    (oddReg rd = false → s.executes c (.cvpb c g pd rd rs rt) g false →
      ∀ (m : List Mapped) (l : List Byte) (r : State), f.judgeAll c [⟨k.reg rs, l1, accLoad⟩] = .ok [m] → meetsRegister m = false →
        f.readAll c [(m, true)] = (r, .ok [l]) →
        (∀ n, packedBad l = some n → TrapsLate s r c (.cvpb c g pd rd rs rt) (trapAt 11 0x01 (k.reg rs + BitVec.ofNat 32 n))) ∧
        (packedBad l = none →
          let u := r.mark false m
          let ovf := packedVal l < -(2 ^ 63) ∨ 2 ^ 63 ≤ packedVal l
          let put := (u.core c).setPair rd (BitVec.ofInt 64 (packedVal l))
          (¬ ovf →
            let v := u.setCore c (put.setClass pd lw (classOf (packedVal l)))
            s.endsWell v c false = true → Completes s v c (.cvpb c g pd rd rs rt) false) ∧
          (ovf → (u.core c).dot = false →
            let v := u.setCore c ((put.stick statDV).setClass pd lw 3)
            s.endsWell v c false = true → Completes s v c (.cvpb c g pd rd rs rt) false) ∧
          (ovf → (u.core c).dot = true → ∃ ea : Word, TrapsLate s r.drawn c (.cvpb c g pd rd rs rt) (trapAt 12 0x01 ea))))

-- ---------------------------------------------------------------- strings, tags, posting, custom instructions

/-- R357, R370, R371, R373: one chunk of a move or a translation, of at most 64 bytes: the destination takes the source's bytes, one at a time in increasing
order (R372), the fill byte past the end of MVSF's source, or the table's entries; pairs advance; a count of 0 does nothing. -/
def Obligations.StringMoves : Prop :=
  ∀ (s : State) (c : CoreId) (g : Guard) (rd rs rt : Reg), oddReg rd = false →
    let f := s.fetched c
    let k := s.coreOf c
    let count := (k.reg (rd ||| 1)).toNat
    let n := min 64 count
    let more := decide (n < count)
    (count = 0 → s.endsWell f c true = true →
      (s.executes c (.mvs c g rd rs) g true → Completes s f c (.mvs c g rd rs) true) ∧
      (s.executes c (.trs c g rd rs) g true → Completes s f c (.trs c g rd rs) true) ∧
      (oddReg rs = false → s.executes c (.mvsf c g rd rs rt) g true → Completes s f c (.mvsf c g rd rs rt) true)) ∧
    (count ≠ 0 →
      (∀ (u : State) (a b : List Mapped) (l : List Byte) (ls : List (List Byte)), s.executes c (.mvs c g rd rs) g true →
        f.readChunk c [⟨k.reg rs, n, accLoad⟩, ⟨k.reg rd, n, accStore⟩] = .ok (u, [a, b], l :: ls) →
        ChunkStores s u c (.mvs c g rd rs) b (seqCopy id ((pasOf a).zip (l.zip (pasOf b))) []) more
          (fun k => (k.setReg rs (k.reg rs + BitVec.ofNat 32 n)).advanceFrom k rd n)) ∧
      (∀ (u : State) (a b : List Mapped) (l : List Byte) (ls : List (List Byte)), oddReg rs = false → s.executes c (.mvsf c g rd rs rt) g true →
        let m := min n (k.reg (rs ||| 1)).toNat
        f.readChunk c [⟨k.reg rs, m, accLoad⟩, ⟨k.reg rd, n, accStore⟩] = .ok (u, [a, b], l :: ls) →
        ChunkStores s u c (.mvsf c g rd rs rt) b
          (seqCopy id ((pasOf a).zip (l.zip (pasOf b))) [] ++ List.replicate (n - m) ((k.reg rt).extractLsb' 0 8)) more
          (fun k => k.advanceTwo rs rd m n)) ∧
      (∀ (u : State) (b : List Mapped) (ls : List (List Byte)), oddReg rs = false → s.executes c (.mvsf c g rd rs rt) g true →
        k.reg (rs ||| 1) = 0 → f.readChunk c [⟨k.reg rs, 0, accLoad⟩, ⟨k.reg rd, n, accStore⟩] = .ok (u, [b], ls) →
        ChunkStores s u c (.mvsf c g rd rs rt) b (List.replicate n ((k.reg rt).extractLsb' 0 8)) more
          (fun k => k.advanceTwo rs rd 0 n)) ∧
      (∀ (u : State) (table str : List Mapped) (l x : List Byte), s.executes c (.trs c g rd rs) g true →
        f.tableChunk c rd rs accStore n = .ok (u, table, str, l, x) →
        ChunkStores s u c (.trs c g rd rs) str x more (fun k => k.advancePair rd n)))

/-- R357, R370, R371, R373: one chunk of a comparison or a scan, of at most 64 bytes: CMPS stops at the first difference of the padded strings, SCNS at the
sought byte, TRTS at the first byte whose table entry is not 0; CRCS continues CRCV over the bytes. -/
def Obligations.StringScans : Prop :=
  ∀ (s : State) (c : CoreId) (g : Guard) (rd rs rt : Reg), oddReg rd = false →
    let f := s.fetched c
    let k := s.coreOf c
    let count := (k.reg (rd ||| 1)).toNat
    let n := min 64 count
    (count = 0 → s.endsWell f c true = true →
      (s.executes c (.scns c g rd rt) g true → Completes s f c (.scns c g rd rt) true) ∧
      (s.executes c (.crcs c g rd) g true → Completes s f c (.crcs c g rd) true) ∧
      (s.executes c (.trts c g rd rs rt) g true → Completes s (f.setCore c (k.setReg rt 0)) c (.trts c g rd rs rt) true) ∧
      (oddReg rs = false → k.reg (rs ||| 1) = 0 → s.executes c (.cmps c g rd rs rt) g true →
        Completes s (f.setCore c (k.setReg rt 0)) c (.cmps c g rd rs rt) true)) ∧
    (count ≠ 0 →
      (∀ (u : State) (ms : List (List Mapped)) (l : List Byte) (ls : List (List Byte)), s.executes c (.scns c g rd rt) g true →
        f.readChunk c [⟨k.reg rd, n, accLoad⟩] = .ok (u, ms, l :: ls) →
        let i := (l.takeWhile fun b => b != (k.reg rt).extractLsb' 0 8).length
        ChunkEnds s (u.setCore c ((u.core c).advancePair rd i)) c (.scns c g rd rt) (i == n && decide (n < count))) ∧
      (∀ (u : State) (ms : List (List Mapped)) (l : List Byte) (ls : List (List Byte)), s.executes c (.crcs c g rd) g true →
        f.readChunk c [⟨k.reg rd, n, accLoad⟩] = .ok (u, ms, l :: ls) →
        let kk := (u.core c).setCrcv (crcMore (u.core c).crcId (u.core c).crcv l)
        ChunkEnds s (u.setCore c (kk.advancePair rd n)) c (.crcs c g rd) (decide (n < count))) ∧
      (∀ (u : State) (table str : List Mapped) (l x : List Byte), s.executes c (.trts c g rd rs rt) g true →
        f.tableChunk c rd rs accLoad n = .ok (u, table, str, l, x) →
        let i := (x.takeWhile fun b => b == 0#8).length
        let kk := (u.core c).advancePair rd i
        (i < n → ChunkEnds s (u.setCore c (kk.setReg rt ((x.getD i 0).zeroExtend 32))) c (.trts c g rd rs rt) false) ∧
        (¬ i < n → n < count → ChunkEnds s (u.setCore c kk) c (.trts c g rd rs rt) true) ∧
        (¬ i < n → ¬ n < count → ChunkEnds s (u.setCore c (kk.setReg rt 0)) c (.trts c g rd rs rt) false))) ∧
    (∀ (u : State) (ms : List (List Mapped)) (ls : List (List Byte)), oddReg rs = false → s.executes c (.cmps c g rd rs rt) g true →
      let lb := (k.reg (rs ||| 1)).toNat
      0 < max count lb →
      let top := max count lb
      let n := min 64 top
      let move := fun (i : Nat) (k : Core) => k.advanceTwo rs rd (min i (min n lb)) (min i (min n count))
      let b := if lb = 0 then [] else ls.headD []
      let a := if count = 0 then [] else ls.getLastD []
      f.readChunk c [⟨k.reg rs, min n lb, accLoad⟩, ⟨k.reg rd, min n count, accLoad⟩] = .ok (u, ms, ls) →
      (∀ i p q, firstDiff ((k.reg rt).extractLsb' 0 8) n 0 a b = some (i, p, q) →
        ChunkEnds s (u.setCore c ((move i (u.core c)).setReg rt (if q.toNat < p.toNat then 1 else 0xFFFFFFFF#32))) c (.cmps c g rd rs rt) false) ∧
      (firstDiff ((k.reg rt).extractLsb' 0 8) n 0 a b = none →
        (n < top → ChunkEnds s (u.setCore c (move n (u.core c))) c (.cmps c g rd rs rt) true) ∧
        (¬ n < top → ChunkEnds s (u.setCore c ((move n (u.core c)).setReg rt 0)) c (.cmps c g rd rs rt) false)))

/-- R357, R373 to R378: one chunk of EDIT, of at most 16 pattern bytes: it walks the pattern from the state that rt and, when it resumes, STAT.EDS hold,
stores what the walk prints, advances both pairs and leaves its state, or at completion its result, in rt and STAT.EDS.
A digit prints as its ASCII digit once significance has begun or when it is not 0, and otherwise as the fill byte; digits are taken high nibble first, and a sign
in the low nibble ends the field. -/
def Obligations.Edit : Prop :=
  (∀ (s : State) (c : CoreId) (g : Guard) (rd rs rt : Reg), oddReg rd = false → oddReg rs = false →
    let f := s.fetched c
    let k := s.coreOf c
    let count := (k.reg (rd ||| 1)).toNat
    let n := min 16 count
    s.executes c (.edit c g rd rs rt) g true →
      (count = 0 → s.endsWell f c true = true → Completes s f c (.edit c g rd rs rt) true) ∧
      (∀ (pat dst : List Mapped) (r v : State) (l out : List Byte) (st : EditSt) (srcs : List Nat), count ≠ 0 →
        f.judgeAll c [⟨k.reg rs, n, accLoad⟩] = .ok [pat] → meetsRegister pat = false → f.loadPieces c pat = (r, .ok l) →
        let u := r.mark false pat
        let eas := (natRange 0 n).map fun i => k.reg rs + BitVec.ofNat 32 i
        u.judge c accStore (operand (k.reg rd).toNat n) none = .ok dst → meetsRegister dst = false →
        u.editWalk c none (editStart k rs rt) [] [] (eas.zip ((pasOf pat).zip (l.zip (pasOf dst)))) = .ok v st out srcs →
        (srcs.any fun p => (pasOf dst).contains p) = false →
        ChunkStores s v c (.edit c g rd rs rt) dst out (decide (n < count)) (editPut st rd rs rt n (decide (n < count))))) ∧
  (-- a digit prints as its ASCII digit once significance has begun, or when it is not 0; a starter begins it
  (∀ (st : EditSt) (d : Nat) (start : Bool), d < 10 →
    ((st.digit d start).1 = if st.sig = true ∨ d ≠ 0 then BitVec.ofNat 8 (0x30 + d) else st.fill) ∧
    ((st.digit d start).2.sig = (st.sig || d != 0 || start)) ∧ ((st.digit d start).2.nz = (st.nz || d != 0)) ∧
    (st.digit d start).2.src = st.src ∧ (st.digit d start).2.low = st.low) ∧
  -- the digits of a byte are taken high nibble first; a sign in the low nibble ends the field
  (∀ (st : EditSt) (b : Byte), st.low = false → b.toNat / 16 ≤ 9 →
    (b.toNat % 16 < 10 → st.take b = some (b.toNat / 16, { st with low := true })) ∧
    (10 ≤ b.toNat % 16 → st.take b = some (b.toNat / 16, { st with src := st.src + 1, sgn := true, neg := b.toNat % 16 % 2 == 1 }))) ∧
  (∀ (st : EditSt) (b : Byte), st.low = true → b.toNat % 16 ≤ 9 → st.take b = some (b.toNat % 16, { st with low := false, src := st.src + 1 })) ∧
  (∀ (st : EditSt) (b : Byte), st.low = false → 9 < b.toNat / 16 → st.take b = none))

/-- R379, R381: TCHK form stamps the record with the frame number and an origin-2 tag and writes rd := 0; a record length above 9,000 raises vector 11.
R379, R380: TCHK verify writes its outcome to rd; a record that needs no change is left as it is, outcome 1 writes the new tag, outcome 2 sets Q, and
it completes and then enters vector 18. -/
def Obligations.Tags : Prop :=
  (∀ (s : State) (c : CoreId) (g : Guard) (rd rs : Reg), s.executes c (.tchkForm c g rd rs) g false →
    let f := s.fetched c
    let ea := ((s.coreOf c).reg rs).toNat
    (∀ (u v : State) (m : Mapped) (ms : List Mapped) (l : List Byte), f.tchkRead c ea = .ok u (m :: ms) l → u.emittedAt m.pa = false →
      let w := u.formed c l
      u.performAll c [(partOf (m :: ms) 16 8, sliceZ w 16 8), (partOf (m :: ms) 0 8, w.take 8)] = .ok v →
      s.endsWell (v.setCore c ((v.core c).setReg rd 0)) c false = true →
      sliceZ w 16 8 = leBytes 8 u.timer.frame ∧ Completes s (v.setCore c ((v.core c).setReg rd 0)) c (.tchkForm c g rd rs) false) ∧
    (∀ (hm : List Mapped) (r : State) (h : List Byte), f.judgeRecord c ea 32 = .ok hm → f.loadPieces c hm = (r, .ok h) → 9000 < leField h 14 2 →
      TrapsLate s r c (.tchkForm c g rd rs) (trapAt 11 0x03 (BitVec.ofNat 32 ea)))) ∧
  (∀ (s : State) (c : CoreId) (g : Guard) (rd rs : Reg), s.executes c (.tchkVerify c g rd rs) g false →
    let f := s.fetched c
    let ea := ((s.coreOf c).reg rs).toNat
    ∀ (u : State) (ms : List Mapped) (l : List Byte), f.tchkRead c ea = .ok u ms l →
      let j := u.tagJudge l
      let put := fun (v : State) => v.setCore c ((v.core c).setReg rd (BitVec.ofNat 32 j.1))
      let ends := fun (v : State) => s.endsWell (put v) c false = true →
        (j.1 ≠ 2 → Completes s (put v) c (.tchkVerify c g rd rs) false) ∧
        (j.1 = 2 → ∃ x, exec (.tchkVerify c g rd rs) s = .next ((s.completed (put v) c false x).enter c (trapAt 18 0x01 (BitVec.ofNat 32 ea))
          ((s.completed (put v) c false x).core c).pc ((s.completed (put v) c false x).core c).rs))
      let piece := if j.1 = 1 then (partOf ms 0 8, j.2.1.take 8) else (partOf ms 13 1, [j.2.1.getD 13 0])
      (j.2.2 = none → ends u) ∧
      (j.2.2 ≠ none → ∀ v w, u.performAll c [piece] = .ok w → (u.verifyAt 1 l).1.performAll c [piece] = .ok v → ends v))

/-- R382 to R387: a POST-family instruction whose list and lines pass their checks and whose locks are free: when a condition of R387 refuses it, rd takes the
outcome and nothing is stored; otherwise every account and the journal entry are stored in one commit, rd is 0 and the journal pointer advances by 64
in its ring. -/
def Obligations.Posting : Prop :=
  ∀ (s : State) (c : CoreId) (g : Guard) (m : BitVec 2) (rd rs rt : Reg),
    PostResult s c g (.post2 c g m rd rs rt) 2 m rd rs rt ∧ PostResult s c g (.post4 c g m rd rs rt) 4 m rd rs rt ∧
    ((s.coreOf c).ring ≤ 1 → PostResult s c g (.post c g m rd rs rt) 1 m rd rs rt) ∧
    (1 < (s.coreOf c).ring → s.executes c (.post c g m rd rs rt) g false →
      Traps s (s.fetched c) c (.post c g m rd rs rt) (trapAt 5 0x01 (s.coreOf c).pc))

/-- R387: the order of refusal: a closed account, then a list of several postings that does not sum to zero, then a balance that overflows, then a debit that
passes its limit; a posting that passes all four is posted, so POST2 and POST4 sum to zero. -/
def Obligations.PostingOrder : Prop :=
  ∀ (legs : List Leg), legs ≠ [] →
    (∀ i g, legs[i]? = some g → g.closed = true → (∀ j h, j < i → legs[j]? = some h → h.closed = false) → postOutcome legs = 16 * i + 2) ∧
    ((∀ g ∈ legs, g.closed = false) →
      (1 < legs.length → (legs.map Leg.amount).sum ≠ 0 → postOutcome legs = 1) ∧
      (postOutcome legs = 0 → (1 < legs.length → (legs.map Leg.amount).sum = 0) ∧ (∀ g ∈ legs, packedOver 16 g.new = false) ∧
        (∀ g ∈ legs, g.amount < 0 → g.limit ≤ g.new)) ∧
      (¬ (1 < legs.length ∧ (legs.map Leg.amount).sum ≠ 0) → (∀ g ∈ legs, packedOver 16 g.new = false) → (∀ g ∈ legs, g.amount < 0 → g.limit ≤ g.new) →
        postOutcome legs = 0))

/-- R311, R450: a CUSTn whose routine is not loaded raises vector 4 with code 0x07 whatever its guard holds; a loaded routine runs, and its own end completes
the instruction. -/
def Obligations.CustomInstructions : Prop :=
  ∀ (s : State) (c : CoreId) (g : Guard) (n : BitVec 4) (sub : BitVec 3) (rd rs rt : Reg),
    let i : Instr := .cust c g n sub rd rs rt
    let resum := imgResumable s.micro.image n.toNat
    (s.meets c resum → g ≠ 1#4 → s.micro.loaded.getLsbD n.toNat = false → Enters s (s.fetched c) c i (trapAt 4 0x07 (s.pcOf c))) ∧
    (∀ (u : State) (x : Cost), s.executes c i g resum → s.custEnc n.toNat rd rs rt = none →
      (s.fetched c).runCust c n.toNat ⟨rd, rs, rt, sub⟩ = .done u x → s.endsWell u c resum = true → exec i s = .next (s.completed u c resum x)) ∧
    (∀ (u : State) (t : Trap), s.executes c i g resum → s.custEnc n.toNat rd rs rt = none →
      (s.fetched c).runCust c n.toNat ⟨rd, rs, rt, sub⟩ = .trap u t → Traps s u c i t)

-- ---------------------------------------------------------------- events of a core

/-- R401, R402, R403, R406, R570: the asynchronous events that a core takes at an instruction boundary, in their order: NMI, a debug halt, a fast
interrupt, the frame-budget overrun, an interrupt; and a breakpoint at the next instruction. The overrun is counted (R63). -/
def Obligations.CoreEvents : Prop :=
  ∀ (s : State) (c : CoreId),
    let k := s.core c
    (k.atBoundary = true → k.nmiReady = true → ∃ t, exec (.nmi c) s = .next t ∧ Entered k (t.core c) 1 ∧
      (t.core c).inNmi = true ∧ (t.core c).nmiPend = false ∧ (t.core c).srGet 0x041 = k.applyAll.srGet 0x041) ∧
    (k.atBoundary = true → k.nmiReady = false → k.haltReady = true → ∃ t, exec (.debugHalt c) s = .next t ∧ Entered k (t.core c) 20 ∧
      (t.core c).srGet 0x041 = 0x1401#32 ∧ (t.core c).inDebug = true ∧ (t.core c).haltPend = false) ∧
    (k.atBoundary = true → k.nmiReady = false → k.haltReady = false → k.fastReady = true →
      ∃ t, exec (.fastInterrupt c) s = .next t ∧ Entered k (t.core c) 16 ∧ (t.core c).bank = 8 ∧ (t.core c).fe = false) ∧
    (k.atBoundary = true → k.nmiReady = false → k.haltReady = false → k.fastReady = false → k.budgetReady = true →
      ∃ t, exec (.frameBudgetOverrun c) s = .next t ∧ Entered k (t.core c) 15 ∧ (t.core c).srGet 0x041 = 0x0F01#32 ∧
        (t.core c).budgetFired = true ∧ (t.lcore (s.lcoreOf c)).overrun = (s.lcore (s.lcoreOf c)).overrun + 1) ∧
    (k.atBoundary = true → k.nmiReady = false → k.haltReady = false → k.fastReady = false → k.budgetReady = false → k.intReady = true →
      ∃ t, exec (.interrupt c) s = .next t ∧ Entered k (t.core c) 17 ∧ (t.core c).bank = 9) ∧
    (k.ready = true → s.atBreakpoint c = true → ∃ t, exec (.breakpoint c) s = .next t ∧ Entered k (t.core c) 20 ∧
      (t.core c).srGet 0x041 = 0x1402#32 ∧ (t.core c).srGet 0x042 = k.pc)

/-- R148, R149, R150, R237, R260, R277, R430, R461, R463: what ends a core's waits, and what its engines do beside it: the oldest buffered store
reaches memory, the spill engine writes the least recently current dirty bank to its slot and marks it clean, a wait for headroom, a capture slot, a
deferred swap or a line lock ends in the waiting instruction's own effect, a lock wait that lasts 2,048 cc enters vector 19 with no lock held, and the
rewritten microcode store lets the core go on. -/
def Obligations.CoreWaits : Prop :=
  ∀ (s : State) (c : CoreId) (g : Guard) (rd rs rt : Reg) (m : BitVec 2) (mode : BitVec 3) (f : BitVec 9),
    let k := s.core c
    let stw : Instr := .stw c g rd rs mode f
    let post : Instr := .post2 c g m rd rs rt
    (∀ e r, k.storeBuf = e :: r → ∃ t, exec (.storeBufferDrain c) s = .next t ∧ (t.core c).storeBuf = r ∧
      ∀ a, s.plain a = true →
        t.byte a = if e.pa ≤ a ∧ a < e.pa + e.bytes.length ∧ ¬ (cwOf a ∈ partCws e.pa e.bytes.length ∧ s.upset a = .uncorrectable) then e.bytes.getD (a - e.pa) 0 else s.byte a) ∧
    (∀ b pa, k.run ≠ .held → k.run ≠ .stopped → (∀ b, b < 8 → k.heldBank b = false → k.vOf b = true ∧ k.dOf b = true) →
      leastRecent (fun b => !k.heldBank b && k.vOf b && k.dOf b) k.recency = some b → s.slotPa c (k.ctxOf b) = some pa →
      (∀ a, pa ≤ a → a < pa + 128 → s.plain a = true ∧ s.upset a ≠ .uncorrectable) →
      ∃ t, exec (.spillWriteback c) s = .next t ∧ (t.core c).dOf b = false ∧ (t.core c).vOf b = true ∧ (t.core c).regs = k.regs ∧
        ∀ n, n < 32 → t.bytes (pa + 4 * n) 4 = leBytes 4 (k.bankReg b n).toNat) ∧
    (∀ n, k.wait = some ⟨.carafe n, some stw⟩ → s.headroom n = true →
      StoreEnds (exec (.carafeWaitEnd c) s) (s.unwaited c (.carafe n)) c g rs mode f stw 4 (fun k => (k.reg rd).toNat)) ∧
    (k.wait = some ⟨.capture, some stw⟩ → s.perc.captures.length < 16384 →
      StoreEnds (exec (.captureSlotWaitEnd c) s) (s.unwaited c .capture) c g rs mode f stw 4 (fun k => (k.reg rd).toNat)) ∧
    (∀ p, k.wait = some ⟨.deferred p, some stw⟩ → s.perc.deferred.contains p = false →
      StoreEnds (exec (.deferredSwapWaitEnd c) s) (s.unwaited c (.deferred p)) c g rs mode f stw 4 (fun k => (k.reg rd).toNat)) ∧
    (∀ l ea, k.wait = some ⟨.lock l ea, some post⟩ → s.lockFree l c = true →
      PostEnds (exec (.lineLockGrant c) s) (s.unwaited c (.lock l ea)) c g post 2 m rd rs rt) ∧
    (∀ l ea i, k.wait = some ⟨.lock l ea, i⟩ → ∃ t, exec (.lineLockTimeout c) s = .next t ∧ Entered k (t.core c) 19 ∧
      (t.core c).srGet 0x041 = 0x1301#32 ∧ (t.core c).srGet 0x042 = ea ∧ (∀ x ∈ t.locks, x.2 ≠ c.val) ∧ ∀ a, t.byte a = s.byte a) ∧
    (∀ w ahead rest, k.parityHold = some w → s.reloadQueue = (c.val, ahead) :: rest → s.micro.goldenBad = [] →
      ∃ t, exec (.microcodeReloadComplete c) s = .next t ∧
      (t.core c).parityHold = none ∧ (∀ x ∈ (t.core c).ucodeBad, x.store ≠ w.store) ∧ (w, s.timer.frame) ∈ (t.core c).reloaded ∧
      (t.core c).pc = k.pc ∧ (t.core c).regs = k.regs ∧ t.roGet (okey 0x1402 1) = (s.roGet (okey 0x1402 1) + 1) % 2 ^ 32) ∧
    (∀ v i, k.wait = some ⟨.egsb v, i⟩ → s.unsent c < 256 → ∃ t, exec (.egsbWaitEnd c) s = .next t ∧ (t.core c).wait = none ∧
      t.egress.subs = s.egress.subs ++ [mkSubmission c k.egsa v])

/-- R117, R118, R237, R245, R263, R405, R406, R570: the device registers of a running core, whose earlier stores have drained. EGSB submits the reply
that EGSA and it describe, or waits beyond 256; DREM emits a derived record and DRST tells its result; IRAISE sets a doorbell line; DBGIN is cleared by
its load; IPEND is cleared by ones. -/
def Obligations.DeviceRegisters : Prop :=
  ∀ (s : State) (c : CoreId) (v : DWord) (w : Word) (rd : Reg), (s.core c).ready = true →
    let d := s.drainAll c
    let k := d.core c
    (v.extractLsb' 40 24 = 0#24 →
      (d.unsent c < 256 → exec (.egsbSubmit c v) s = .next
        { d with egress := { d.egress with subs := d.egress.subs ++ [mkSubmission c k.egsa v] } }) ∧
      (256 ≤ d.unsent c → exec (.egsbSubmit c v) s = .next (d.setCore c { k with wait := some ⟨.egsb v, none⟩ }))) ∧
    (v.extractLsb' 40 24 = 0#24 →
      let addr := (v.extractLsb' 0 40).toNat
      let q := d.engineRead addr 32
      let len := leField q.2 14 2
      let l := q.1.lcoreOf c
      let n := cellsOf (32 + len)
      let x := q.1.lcore l
      (∀ a, addr % 8 = 0 → d.emitRange addr 32 = true → len ≤ 9000 → q.1.emitRange addr (32 + len) = true → l < 64 → n ≤ x.gc →
        q.1.arena (.derived l) = some a → ∃ t r, exec (.dremEmission c v) s = .next t ∧ t.adm.recs = d.adm.recs ++ [r] ∧
          r.derived = some l ∧ r.cells = n ∧ r.bytes = 32 + len ∧ r.frame = s.timer.frame ∧ r.copied = false ∧ r.src = addr ∧
          (t.core c).drstResult = 0 ∧ (t.core c).drstCount = (k.drstCount + 1) % 65536 ∧ (t.core c).drstCred = x.gc - n ∧
          (t.lcore l).gc = x.gc - n ∧ (t.lcore l).uc = x.uc + n) ∧
      (addr % 8 ≠ 0 ∨ d.emitRange addr 32 = false →
        ∃ t, exec (.dremEmission c v) s = .next t ∧ (t.core c).drstResult = 3 ∧ t.adm = d.adm) ∧
      (addr % 8 = 0 → d.emitRange addr 32 = true → 9000 < len →
        ∃ t, exec (.dremEmission c v) s = .next t ∧ (t.core c).drstResult = 2 ∧ t.adm = d.adm) ∧
      (addr % 8 = 0 → d.emitRange addr 32 = true → len ≤ 9000 → q.1.emitRange addr (32 + len) = true → x.gc < n →
        ∃ t, exec (.dremEmission c v) s = .next t ∧ (t.core c).drstResult = 1 ∧ t.adm = d.adm)) ∧
    (∀ id r, s.record id = some r → r.copied = false → r.derived ≠ none →
      ∃ t, exec (.derivedCopyComplete id) s = .next t ∧ t.record id = some { r with copied := true }) ∧
    (w.extractLsb' 14 18 = 0#18 → w.extractLsb' 4 4 = 0#4 → ∀ (p : Section) (q : Nat), d.section = some p → (w.extractLsb' 8 6).toNat < p.nl →
      (d.lcore (w.extractLsb' 8 6).toNat).carrier = some q →
      exec (.iraiseStore c w) s = .next (d.setCore q { d.core q with ipend := (d.core q).ipend ||| (1#17 <<< (w.extractLsb' 0 4).toNat) })) ∧
    (∃ t, exec (.dbginLoad c rd) s = .next t ∧ (t.core c).reg rd = (if k.inf then k.dbgin else 0) ∧ (t.core c).inf = false) ∧
    exec (.dbgoutStore c w) s = .next (d.setCore c { k with dbgout := w, outf := true }) ∧
    exec (.deviceRegisterWrite c 0x3000040000#40 8#4 v) s = .next (d.setCore c { k with egsa := v }) ∧
    (v.extractLsb' 17 15 = 0#15 →
      exec (.deviceRegisterWrite c 0x3000050000#40 4#4 v) s = .next (d.setCore c { k with ipend := k.ipend &&& ~~~ (v.extractLsb' 0 17) }) ∧
      exec (.deviceRegisterWrite c 0x3000050004#40 4#4 v) s = .next (d.setCore c { k with ien := v.extractLsb' 0 17 }) ∧
      exec (.deviceRegisterWrite c 0x3000050008#40 4#4 v) s = .next (d.setCore c { k with ifast := v.extractLsb' 0 17 }))

-- ---------------------------------------------------------------- frames, plans, tasks

/-- R40, R41, R43, R44, R57, R58, R77, R81, R82, R183, R280, R305, R496: the tick begins the next frame at the next instant of the period's grid; an audit
that fails, or a shutdown that was asked for, sets t0 in its place. A release starts the next task of an idle logical core; a switch that is due
brings the pending plan into force; images are placed; a degrade trigger brings the degraded section, or stops admission. -/
def Obligations.FramesAndPlans : Prop :=
  ∀ (s : State),
    (∀ w : TickFacts, s.timer.armed = true → s.barista.stage = .up →
      let n := s.turnTimer
      let m := (if s.timer.running then n.endOfFrame s.timer.frame else n).latchQueue
      -- requests that waited for a write are served after the tick (R471)
      let ticks := fun (p : State → Prop) => ∃ t, exec (.frameTick w) s = t.serveWaiting ∧ (s.zdp.backlog = [] → exec (.frameTick w) s = .next t) ∧ p t
      (s.failing = true → ticks fun t => t = n) ∧
      (s.failing = false → m.auditOk = false → ticks fun t => t.pf.stage = .t0 ∧ t.pf.trigger = 3 ∧ t.timer = n.timer) ∧
      (s.failing = false → m.auditOk = true → m.pf.shutdownAsked = true → ticks fun t => t.pf.stage = .t0 ∧ t.pf.trigger = 4 ∧ t.timer = n.timer) ∧
      (s.failing = false → m.auditOk = true → m.pf.shutdownAsked = false →
        ticks fun t => t.timer.frame = n.timer.frame ∧ t.timer.plantNs = n.timer.plantNs ∧ t.timer.running = true ∧
          t.pf = m.pf) ∧
      n.timer.frame = (if s.timer.running then (s.timer.frame + 1) % 2 ^ 64 else s.timer.frame) ∧
      (0 < s.timer.period → s.timer.plantNs < n.timer.plantNs ∧
        ∃ phase, n.timer.plantNs % s.timer.period = phase % s.timer.period ∧
          (phase ≤ s.timer.plantNs → n.timer.plantNs ≤ s.timer.plantNs + s.timer.period))) ∧
    (∀ (l : LogId) (c : Nat) (tk : TaskEnt), s.timer.running = true → s.failing = false → s.plans.stopping = false → s.tickPending l = false →
      (s.lcore l).carrier = some c → s.nextTask l = some tk → (s.core c).run = .idle → (s.core c).task = none → (s.core c).faulted = false →
      (s.core c).releaseBank < 8 →
      ∃ t, exec (.taskRelease l) s = .next t ∧ (t.core c).run = .running ∧ (t.core c).task = some (s.taskIndex tk) ∧ (t.core c).budget = tk.b ∧
        (t.core c).pc = BitVec.ofNat 32 ((imgCodeEa (s.imageDom tk.image) + tk.entry) % 2 ^ 32) &&& 0xFFFFFFFC#32 ∧ (t.core c).ring = tk.ring % 4 ∧ (t.core c).rs = false ∧
        (t.core c).bank = (s.core c).releaseBank ∧ (∀ r : Reg, r ≠ 31#5 → (t.core c).reg r = 0) ∧ (t.core c).shadow = [] ∧
        (t.lcore l).released = (s.lcore l).released + 1) ∧
    (s.switchDue = true → s.plans.pendPlaced = true → ∃ t, exec .planSwitch s = .next t ∧ t.plans.active = s.plans.pending ∧ t.plans.state = 0 ∧
      t.plans.shadow = [] ∧ t.plans.shadowState = 0 ∧ t.plans.switchFrame = s.timer.frame ∧ t.plans.placed = true ∧ t.timer.frame = s.timer.frame) ∧
    (s.failing = false →
      (s.plans.shadowState = 2 → s.plans.pendPlaced = false →
        let p := parseSection s.plans.pending 0 false
        let olds := match s.section with | some q => s.places q | none => []
        placesClash (s.places p) (s.places p ++ olds ++ s.slotPlaces p) = false →
        ∃ t, exec .imagePlacement s = .next t ∧ t.plans.pendPlaced = true ∧ t.mem = (s.placeImages p).mem) ∧
      (∀ p, s.plans.shadowState ≠ 2 → s.plans.placed = false → s.section = some p →
        placesClash (s.places p) (s.places p ++ [] ++ s.slotPlaces p) = false →
        ∃ t, exec .imagePlacement s = .next t ∧ t.plans.placed = true ∧ t.mem = (s.placeImages p).mem)) ∧
    (∀ g, s.plans.degradeDue = some g → s.failing = false →
      (s.canDegrade g = true → ¬ (g = 2 ∧ s.starved = true) → ∃ t, exec .degradedSwitch s = .next t ∧ t.plans.state = 1 ∧ t.plans.active = s.plans.active ∧
        t.plans.degradeDue = none ∧ t.plans.placed = false) ∧
      (¬ (s.canDegrade g = true ∧ ¬ (g = 2 ∧ s.starved = true)) → g ≤ 2 → ∃ t, exec .degradedSwitch s = .next t ∧ t.adm.stopped = true ∧ t.plans.stopping = true ∧
        t.plans.degradeDue = none))

/-- R46, R48, R49, R50, R51: a sync interval of the chosen port, or an edge of 1PPS_IN, gives the timer an offset and at most 200 ppm of correction; plant
time does not step while a plan is active. An Announce makes the port of the best master the chosen one; management and what is not known is ignored.
Sixteen intervals inside the threshold lock the timer; losing the source holds the last correction; a holdover that outlasts its limit is logged once;
1PPS_OUT rises once for each whole second that plant time reaches, unless its width is 0. No frame number changes. -/
def Obligations.TimeSource : Prop :=
  ∀ (s : State) (m : PtpFacts) (offset : Int),
    let synced := fun (e : Instr) (o : Int) => ∃ t, exec e s = .next t ∧ t.timer.offset = o ∧ t.timer.frame = s.timer.frame ∧
      t.timer.freq.natAbs ≤ s.timer.period / 5000 ∧
      t.timer.srcState = (if s.timer.srcState = 0 ∨ s.timer.srcState = 3 then 1 else s.timer.srcState) ∧
      (s.section ≠ none → t.timer.plantNs = s.timer.plantNs)
    (∀ o, m.kind = .sync o → s.ptpTaken m = true → s.timer.master = some m.port → synced (.ptpMessage m) o) ∧
    (∀ o, m.kind = .sync o → s.ptpTaken m = true → s.timer.master ≠ some m.port → exec (.ptpMessage m) s = .next s) ∧
    (∀ a, m.kind = .announce a → s.ptpTaken m = true → ∃ t x, exec (.ptpMessage m) s = .next t ∧ (m.port, a) ∈ t.timer.announces ∧
      (∀ y ∈ t.timer.announces, y = (m.port, a) ∨ (y ∈ s.timer.announces ∧ y.1 ≠ m.port)) ∧
      x ∈ t.timer.announces ∧ t.timer.master = some x.1 ∧ ∀ y ∈ t.timer.announces, rankLt (announceRank y.2) (announceRank x.2) = false) ∧
    (m.kind = .management ∨ m.kind = .unknown → s.ptpTaken m = true → exec (.ptpMessage m) s = .next s) ∧
    (s.barista.stage = .up → s.timeSource = 5 → synced (.ppsInEdge offset) offset) ∧
    (s.timer.srcState = 1 → 16 ≤ s.timer.lockCount → exec .sourceLocked s = .next { s with timer := { s.timer with srcState := 2 } }) ∧
    (s.timer.srcState = 1 ∨ s.timer.srcState = 2 → ∃ t, exec .sourceLost s = .next t ∧ t.timer.srcState = 3 ∧ t.timer.freq = s.timer.freq ∧
      t.timer.frame = s.timer.frame ∧ t.timer.plantNs = s.timer.plantNs ∧ t.timer.holdNs = s.timer.plantNs) ∧
    (s.heldTooLong = true → s.timer.holdLogged = false → ∃ t, exec .holdoverExpiry s = .next t ∧ t.log.nextSeq = (s.log.nextSeq + 1) % 2 ^ 32 ∧
      exec .holdoverExpiry t = .next t ∧ t.timer = { s.timer with holdLogged := true }) ∧
    (s.timer.srcState = 3 → s.timer.plantNs ≤ s.timer.holdNs + 1000000 * s.objNat (okey 0x0400 8) 10000 → exec .holdoverExpiry s = .next s) ∧
    (∀ n, s.timer.running = true → s.secondReached = n → s.timer.ppsSecond ≠ some n → s.timer.plantNs ≤ 1000000000 * n → ∃ t, exec .ppsOut s = .next t ∧
      t.timer = { s.timer with ppsOut := s.objNat (okey 0x0400 11) 100000 != 0, ppsSecond := some n } ∧ exec .ppsOut t = .next t)

-- ---------------------------------------------------------------- cores that move

/-- R530, R531, R533 to R538: a rotation moves the logical core of the cluster whose carrier's test is the oldest onto a ready spare; a replacement
moves one off a core that reported a fault; a self-test ends in a ready spare or in retirement; a bad row takes the lowest unused spare row of its
bank and is recorded when it has been copied. -/
def Obligations.CoresMove : Prop :=
  ∀ (s : State),
    (∀ (cl l q p : Nat) (rest : List Nat), s.timer.running = true → s.failing = false → s.repair.rotateDue = true → s.replacementDue = false →
      s.rotCluster = some cl → s.oldestIn cl = some l → s.sparesOf cl = q :: rest → (s.lcore l).carrier = some p →
      ∃ t, exec .rotation s = .next t ∧ (t.lcore l).carrier = some q ∧ (t.core q).srGet 0x036 = BitVec.ofNat 32 l ∧ (t.core q).run = .idle ∧
        t.repair.lastCluster = cl ∧ t.repair.rotateDue = false ∧ t.roGet (okey 0x1200 6) = (s.roGet (okey 0x1200 6) + 1) % 2 ^ 64) ∧
    (∀ l : LogId, s.timer.running = true → s.failing = false → s.firstNeed l = true →
      (∀ p q, (s.lcore l).carrier = some p → s.spareFor (s.lcore l).home = some q →
        ∃ t, exec (.faultReplacement l) s = .next t ∧ (t.lcore l).carrier = some q) ∧
      (∀ p, (s.lcore l).carrier = some p → s.spareFor (s.lcore l).home = none →
        ∃ t, exec (.faultReplacement l) s = .next t ∧ (t.lcore l).carrier = none) ∧
      (∀ q, (s.lcore l).carrier = none → s.spareFor (s.lcore l).home = some q →
        ∃ t, exec (.faultReplacement l) s = .next t ∧ (t.lcore l).carrier = some q)) ∧
    (∀ p : CoreId, s.failing = false → (s.core p).state = .underTest ∨ (s.core p).state = .held → s.barista.stage = .up →
      (∀ l, l < 64 → (s.lcore l).carrier ≠ some p.val) → s.repair.retired.contains p.val = false →
      (∃ t, exec (.coreSelfTest p true) s = .next t ∧ (t.core p).state = .ready ∧ (t.core p).faulted = false ∧ (t.core p).lastPass = s.timer.frame) ∧
      (∃ t, exec (.coreSelfTest p false) s = .next t ∧ (t.core p).state = .retired ∧ (t.core p).run = .held ∧ p.val ∈ t.repair.retired)) ∧
    (∀ (kind : BitVec 4) (unit : BitVec 15),
      (∀ n, rowNamed kind.toNat unit.toNat = true → s.rowBad kind.toNat unit.toNat = true → s.repairing kind.toNat unit.toNat = false →
        s.freeSpare kind.toNat (rowBank kind.toNat unit.toNat) = some n → exec (.sramRowRepair kind unit) s = .next
          { s with repair := { s.repair with rows := s.repair.rows ++ [⟨kind.toNat, n, unit.toNat, false⟩] } }) ∧
      (∀ r, (s.repair.rows.find? fun x => x.kind == kind.toNat && x.unit == unit.toNat && !x.done) = some r →
        ∃ t, exec (.sramRowRepairComplete kind unit) s = .next t ∧ { r with done := true } ∈ t.repair.rows ∧
          t.roGet (okey 0x1203 4) = (s.roGet (okey 0x1203 4) + 1) % 2 ^ 16 ∧ ∀ a, t.byte a = s.byte a))

-- ---------------------------------------------------------------- ports

/-- R84 to R87, R90, R98, R103 to R109, R119, R228, R232, R237, R239, R240, R485, R486: an oversize frame, a frame that fails a check before its messages are read,
and a malformed payload each count once under their code; a record that passes every check is admitted whole, with its cells, its credit and its
budget, and its counter; a hello opens its partner; a read request is accepted; ARP and neighbour solicitations for the port's address are answered
on 100G and field ports; a 100G port counts what it discards under 0x02, a field port does not; a link change is shown; the reply that is visited next leaves when its budgets cover it, and is counted when they do not. -/
def Obligations.PortTraffic : Prop :=
  ∀ (s : State) (port : PortId),
    (∀ d : Datagram, s.portOpen d.port = true →
      let counted := fun (code : Nat) => exec (.vrtDatagram d) s = .next (s.count (dropKey d.port code) 1)
      (9216 < d.size → counted 0x22) ∧
      (∀ code, d.size ≤ 9216 → s.frameCode d = some code → counted code) ∧
      (d.size ≤ 9216 → s.frameCode d = none → wellFormedDg d.data = none → counted 0x05) ∧
      (∀ k m r code, d.size ≤ 9216 → s.frameCode d = none → wellFormedDg d.data = some (k, m :: r) → (m :: r).any msgReserved = false →
        s.datagramCode d k m = some code → code ≠ 0x08 → counted code) ∧
      (∀ m e a, d.size ≤ 9216 → s.frameCode d = none → wellFormedDg d.data = some (.records, [m]) → msgReserved m = false →
        s.datagramCode d .records m = none → s.recordCode d.port m false = none → s.entryOf m.cls = some e → s.arena (.cls m.cls) = some a →
        ∃ t r, exec (.vrtDatagram d) s = .next t ∧ t.adm.recs = s.adm.recs ++ [r] ∧ r.partner = m.partner ∧ r.cls = m.cls ∧ r.alive = m.alive ∧
          r.frame = s.timer.frame ∧ r.cells = cellsOf (32 + m.len) ∧ r.bytes = 32 + m.len ∧ t.perc.dirty = s.perc.dirty + 64 * r.cells ∧
          (t.partner m.partner).e = m.alive + 1 ∧ Tab.get 0 t.adm.count m.cls = Tab.get 0 s.adm.count m.cls + 1 ∧
          t.roGet (dropKey d.port 0x20) = (s.roGet (dropKey d.port 0x20) + 1) % 2 ^ 64) ∧
      (∀ m, d.size ≤ 9216 → s.frameCode d = none → wellFormedDg d.data = some (.hello, [m]) → msgReserved m = false →
        s.datagramCode d .hello m = none → (s.partner m.partner).kb = m.g → (m.g = true → s.gcmGood (s.partner m.partner) m = true) →
        ∃ t, exec (.vrtDatagram d) s = .next t ∧ (t.partner m.partner).isOpen = true ∧ (t.partner m.partner).lastPort = d.port ∧
          (t.partner m.partner).mac = d.mac ∧ t.adm.recs = s.adm.recs) ∧
      (∀ m, d.size ≤ 9216 → s.frameCode d = none → wellFormedDg d.data = some (.requests, [m]) → msgReserved m = false →
        s.datagramCode d .requests m = none → m.type = 4 → s.accessCode d.port (s.partner m.partner) ClassEnt.egress m false = none →
        s.openRequests < 8192 → ∃ t, exec (.vrtDatagram d) s = .next t ∧ t.egress.reqs = s.egress.reqs ++
          [⟨s.egress.nextOrder, m.partner, m.cls, d.port, beField m.payload 0 4, .read (beField m.payload 8 8) (beField m.payload 16 8), none⟩])) ∧
    (∀ (np : NetPort) (a : BitVec 32), s.netOpen np = true → s.netIp4 np ≠ 0 → a.toNat = s.netIp4 np →
      exec (.arpRequest np a) s = .next { s with out := s.out ++ [.arp np a] }) ∧
    (∀ (np : NetPort) (a : BitVec 128), s.netOpen np = true → s.netIp6 np ≠ 0 → a.toNat = s.netIp6 np →
      exec (.neighbourSolicitation np a) s = .next { s with out := s.out ++ [.neighbour np a] }) ∧
    (∀ (a : BitVec 32) (b : BitVec 128) (m : PtpFacts), s.portOpen port = true →
      (s.ip4 port = 0 ∨ a.toNat ≠ s.ip4 port → exec (.arpRequest (.eth port) a) s = .next (s.count (dropKey port 0x02) 1)) ∧
      (s.ip6 port = 0 ∨ b.toNat ≠ s.ip6 port → exec (.neighbourSolicitation (.eth port) b) s = .next (s.count (dropKey port 0x02) 1)) ∧
      (m.port = .eth port → s.timeSource ≠ 3 → s.timeSource ≠ 4 → exec (.ptpMessage m) s = .next (s.count (dropKey port 0x02) 1))) ∧
    (∀ (f : Bool) (a : BitVec 32) (b : BitVec 128),
      (a.toNat ≠ s.netIp4 (.field f) → exec (.arpRequest (.field f) a) s = .next s) ∧
      (b.toNat ≠ s.netIp6 (.field f) → exec (.neighbourSolicitation (.field f) b) s = .next s)) ∧
    (∀ why : NonVrt, s.portOpen port = true →
      exec (.nonVrtFrame (.eth port) why) s = .next (s.count (dropKey port (if why = .oversize then 0x22 else 0x02)) 1)) ∧
    (∀ (f : Bool) (why : NonVrt), exec (.nonVrtFrame (.field f) why) s = .next s) ∧
    (∀ up sub, s.barista.stage = .up → s.portMode port ≠ 4 → ∃ t, exec (.portLinkChange (.eth port) up sub) s = .next t ∧
      (s.portMode port ≠ 2 → s.portMode port ≠ 3 → t.linkUp port = up) ∧
      ∀ key, key ≠ portKey port 6 → t.roGet key = s.roGet key) ∧
    (∀ (f up : Bool) sub, s.netOpen (.field f) = true → ∃ t, exec (.portLinkChange (.field f) up sub) s = .next t ∧
      t.roGet (okey (fieldIndex f) 6) = (if up then 1 else 0) ∧ ∀ key, key ≠ okey (fieldIndex f) 6 → t.roGet key = s.roGet key) ∧
    (∀ (cls : Fin 64) (e : ClassEnt) (q : Request), s.portOpen port = true → s.acksStop = false → s.entryOf cls = some e → natBit e.egress port = true →
      (s.liveSubs cls).nextReply port cls = some q →
      let u := s.liveSubs cls
      let r := u.replyTo q
      let i := 64 * port.val + cls.val
      let n := (r.2.message q u.adm.epoch).length
      (Tab.get 0 u.egress.sentBytes i + n ≤ e.eb → Tab.get 0 u.egress.sentCount i + 1 ≤ e.ed →
        ∃ t, exec (.replyTransmit port cls) s = .next t ∧ t.out = s.out ++ [.vrt q.port q.partner (r.1.outAddr (r.1.partner q.partner)) (r.2.message q u.adm.epoch)] ∧
          (r.2.last = true → ∀ x ∈ t.egress.reqs, x.order ≠ q.order)) ∧
      (e.eb < Tab.get 0 u.egress.sentBytes i + n ∨ e.ed < Tab.get 0 u.egress.sentCount i + 1 →
        exec (.replyTransmit port cls) s = .next (u.count (okey (0x0E60 + port.val) 4) 1)))

-- ---------------------------------------------------------------- media

/-- R38, R153, R154, R163, R164, R211, R218, R220 to R223, R540: content that is ready becomes a program unit at the group's next place; a unit whose error
was posted is written again there; an operation that no other precedes goes to its LUN, in one or in pieces; a foreground operation asks the Grinder's to
suspend, and it is resumed; a programmed unit stands in its group, leaves the queue and takes its bytes from B_dirty; a timeout is counted and posted;
a rebuild ends with the LUN retired. -/
def Obligations.MediaQueue : Prop :=
  ∀ (s : State),
    (∀ (grp : GroupId) (p : Nat), s.percolates = true → s.unitRoom grp = some p →
      (s.contentReady grp = true → (∀ o ∈ s.media.posted, o.group ≠ grp.val) →
        ∃ t o l r, exec (.percolatorUnitEnqueue grp) s = .next t ∧ t.media.queue = s.media.queue ++ l ++ o :: r ∧
          o.issuer = .percolator ∧ o.kind = .program ∧ o.issued = false ∧ o.parity = false ∧ o.group = grp.val ∧
          o.blocks.map Prod.fst = natRange p (min (s.unitBlocks grp) (s.stripeUse grp - p % s.stripeUse grp)) ∧
          l.length ≤ 1 ∧ r.length ≤ 1 ∧ ∀ x ∈ l ++ r, x.parity = true) ∧
      (∀ o, (s.media.posted.find? fun x => x.group == grp.val) = some o →
        ∃ t q, exec (.percolatorUnitEnqueue grp) s = .next t ∧ q ∈ t.media.queue ∧ q.blocks = o.blocks ∧ q.parity = o.parity ∧ q.dirty = o.dirty ∧
          ∀ x ∈ t.media.posted, x ∈ s.media.posted ∧ x.id ≠ o.id)) ∧
    (∀ (id : Nat) (o : MediaOp), (s.media.queue.find? fun x => x.id == id) = some o →
      let found := fun (t : State) => t.media.queue.find? fun x => x.id == id
      (o.susp ≠ 2 → o.issued = false → s.servedBefore o = false → s.reserveCovers o = true → s.busyOp o.lun o.id = none →
        (s.pieces o = 0 → ∃ t, exec (.mediaOpIssue id) s = .next t ∧ found t = some { o with issued := true } ∧
          t.media.queue.length = s.media.queue.length ∧ (o.reserved = false → t.media.chans = s.media.chans)) ∧
        (o.sent < s.pieces o → 0 < s.pieceNs o → ∃ t n, exec (.mediaOpIssue id) s = .next t ∧ 0 < n ∧ o.sent + n ≤ s.pieces o ∧
          found t = some { o with issued := true, sent := o.sent + n })) ∧
      (∀ b, o.susp ≠ 2 → o.issued = false → s.servedBefore o = false → s.reserveCovers o = true → s.busyOp o.lun o.id = some b →
        exec (.mediaOpIssue id) s = .next (if o.foreground = true ∧ s.suspends b = true then s.setOp { b with susp := 1 } else s)) ∧
      (o.susp = 2 → s.busyOp o.lun o.id = none → (s.chan o.chan).tCmd ≤ (s.chan o.chan).reserve →
        ∃ t, exec (.mediaOpIssue id) s = .next t ∧ found t = some { o with susp := 0 })) ∧
    (∀ (id : Nat) (o : MediaOp) (st : Byte) (data : List Byte),
      (s.media.queue.find? fun x => x.id == id && x.issued && x.susp != 2 && !s.pieceLeft x) = some o →
      (o.susp = 0 → o.kind = .program → o.area = .journal → o.parity = false →
        ∃ t, exec (.mediaOpComplete id (.done st) data) s = t.serveWaiting ∧
          (s.zdp.backlog = [] → exec (.mediaOpComplete id (.done st) data) s = .next t) ∧ (∀ x ∈ t.media.queue, x.id ≠ id) ∧
          (t.group o.group).blocks = o.blocks.reverse ++ (s.group o.group).blocks ∧ t.perc.dirty = s.perc.dirty - o.dirty) ∧
      (o.susp = 1 → exec (.mediaOpComplete id (.done st) data) s = .next (s.setOp { o with susp := 2 }))) ∧
    (∀ (id : Nat) (o : MediaOp), (s.media.queue.find? fun x => x.id == id && x.issued) = some o →
      ∃ t, exec (.mediaOpTimeout id) s = t.serveWaiting ∧ (s.zdp.backlog = [] → exec (.mediaOpTimeout id) s = .next t) ∧
        t.roGet (okey 0x0D70 4) = (s.roGet (okey 0x0D70 4) + 1) % 2 ^ 32 ∧
        (o.kind = .read → (∀ x ∈ s.media.queue, x.susp ≠ 2) → ∀ x ∈ t.media.queue, x.id ≠ id) ∧
        (o.kind = .program → o.area = .journal → { o with issued := false, susp := 0 } ∈ t.media.posted)) ∧
    (∀ n : Nat, (s.lun n).rebuilding = true → s.failing = false → s.lunRefs n = [] → (∀ o ∈ s.media.queue, o.lun ≠ n) →
      ∃ t, exec (.lunRebuildComplete n) s = .next t ∧ (t.lun n).state = 3 ∧
      (t.lun n).role = 0 ∧ (t.lun n).rebuilding = false ∧ n ∈ t.repair.luns)

/-- R170, R176 to R184, R186, R189, R191, R513: the power-fail sequence, step by step: each trigger sets t0 and what it latches; HOLDTEST falls;
admission stops; every core stops; the flush begins with the domains of cores, clusters and port engines off; the markers are written; SAFE is asserted
with the memories gone but partner SRAM, and a device restart then resets. A sequence that has begun takes no second trigger. A capacitance test starts and ends; recovery
ends with admission closed until the restored records have been presented. -/
def Obligations.PowerLoss : Prop :=
  ∀ (s : State),
    let begun := fun (e : Instr) (n : Nat) => ∃ t, exec e s = .next t ∧ t.pf.stage = .t0 ∧ t.pf.trigger = n ∧ t.pf.cutFrame = s.timer.frame ∧
      t.pf.dirtyAtT0 = s.perc.dirty ∧ t.egress.reqs = [] ∧ t.egress.subs = [] ∧ t.mem = s.mem ∧ t.cores = s.cores
    let moved := fun (e : Instr) (st : PfStage) (p : State → Prop) => ∃ t, exec e s = .next t ∧ t.pf.stage = st ∧ p t
    (s.failing = false → s.barista.stage = .up → begun .pfailAssert 1 ∧
      (∀ a b, s.carafe.armed = true → s.belowWarn a = true → s.belowWarn b = true → begun (.vholdWarnTrigger a b) 2)) ∧
    (s.failing = true → ∃ t, exec .pfailAssert s = .next t ∧ t.pf = s.pf) ∧
    (s.pf.stage = .t0 → moved .holdtestDeassert .holdtestOff fun t => t.barista.holdtest = false ∧ t.carafe.testing = false) ∧
    (s.pf.stage = .holdtestOff → moved .admissionStop .admissionOff fun t => t.acksStop = true) ∧
    (s.pf.stage = .admissionOff → moved .coreStop .coresOff fun t => (∀ x ∈ t.cores, x.2.run = .stopped ∧ x.2.wait = none) ∧ t.locks = []) ∧
    (∀ mv, s.pf.stage = .coresOff → moved (.flushBegin mv) .flushing fun t => t.pf.mvAtT0 = mv ∧
      (∀ a, clusterBase ≤ a → s.plain a = true → t.byte a = 0) ∧ (∀ a, a < clusterBase → t.byte a = s.byte a) ∧
      (s.recovering = true → t.perc.sets = s.perc.sets) ∧
      (s.recovering = false → ∃ x, t.perc.sets = s.perc.sets ++ [x] ∧ x.frame = s.timer.frame ∧ x.records = s.perc.curRecs)) ∧
    (∀ mv, s.pf.stage = .flushing →
      (s.media.present = true → s.useGroups ≠ [] →
        (∀ x ∈ s.perc.sets, x.todo = []) ∧ s.media.posted = [] ∧ ∀ o ∈ s.media.queue, o.issuer ≠ .percolator) →
      moved (.flushComplete mv) .flushed fun t => t.mem = s.mem) ∧
    (s.pf.stage = .flushed → s.pf.restart = false → moved .safeAssert .safe fun t => t.barista.safe = true ∧
      (∀ c, c ∈ t.mem ↔ c ∈ s.mem ∧ memOf c.1 = 2) ∧ ∀ d, d < 112 → t.domain d = 0) ∧
    (s.pf.stage = .flushed → s.pf.restart = true → moved .safeAssert .none fun t => t.barista.stage = .reset ∧ t.barista.lastReset = 2 ∧ t.mem = []) ∧
    (s.timer.running = true → s.failing = false → s.carafe.testDue = true → s.carafe.testing = false →
      s.carafe.cap = none ∨ s.perc.dirty < s.carafe.bMax →
      ∃ t, exec .capacitanceTestStart s = .next t ∧ t.carafe.testing = true ∧ t.barista.holdtest = true) ∧
    (∀ q v, s.carafe.testing = true → ∃ t, exec (.capacitanceTestEnd q v) s = .next t ∧ t.carafe.testing = false ∧ t.carafe.testDue = false ∧
      t.barista.holdtest = false ∧ t.carafe.lastTestNs = s.timer.plantNs ∧
      ((⟨1, 20⟩ : Frac).le (s.codeVolts v) = false → t.carafe.cap = s.carafe.cap) ∧
      ((⟨1, 20⟩ : Frac).le (s.codeVolts v) = true → s.testStated = true →
        t.carafe.cap = some ((s.testFarad q v).num.toNat, (s.testFarad q v).den))) ∧
    (∀ ms, s.barista.stage = .up → s.hasJournal = true → s.timer.armed = false → ∃ t, exec (.recovery ms) s = .next t ∧ t.timer.armed = true ∧
      t.adm.closed = true ∧ t.zdp.sessions = [] ∧ t.perc.recoveryMs = ms)

-- ---------------------------------------------------------------- the Grinder

/-- R139, R203, R204, R208, R212, R213, R216 to R218, R256, R257, R259: a fold reads the segment at the fold point in the Grinder's slots, and its image of the
system area, once programmed, moves the fold point and gives the index its entries. A scrub read is enqueued; what it ends with counts on its block and
queues for relocation what it must. Relocation of the journal is a fold, of anything else a job; what is not live any more leaves the queue. An erase
takes eight slots; wear levelling queues the content of the least worn stripe; an expired record is read to be dropped; a scrub corrects what the code
can and poisons the rest; a missed deadline is counted. -/
def Obligations.GrinderJobs : Prop :=
  ∀ (s : State),
    let op := fun (id : Nat) => s.media.queue.find? fun x => x.id == id && x.issued && x.susp != 2 && !s.pieceLeft x
    let reading := fun (t : State) (refs : List FlashRef) => ∃ l : List MediaOp, t.media.queue = s.media.queue ++ l ∧ l.map MediaOp.ref = refs.map some ∧
      ∀ o ∈ l, o.kind = .read ∧ o.issuer = .grinder ∧ o.issued = false ∧ o.job = some s.media.nextJob
    (s.grinds = true →
    (∀ (grp : GroupId) (x : Seg), s.foldJob grp = none → (s.group grp).foldSeg = some x → s.foldable grp x = true → s.activeJob = none →
      s.jobWaits (.fold grp x.seq) = false → (s.segUnits grp x.place).length ≤ s.freeSlots .grinder → s.segUnits grp x.place ≠ [] →
      ∃ t, exec (.foldSegment grp) s = .next t ∧ reading t ((s.segUnits grp x.place).map fun u => .journal grp u) ∧
        (t.group grp).foldSeq = (s.group grp).foldSeq) ∧
    (∀ (id : Nat) (o : MediaOp) (st : Byte) (data : List Byte) (img : SysImage) (j : Job) (g q : Nat) (f : Nat × Nat × List Byte),
      op id = some o → o.susp = 0 → o.kind = .program → o.area = .system → o.issuer = .grinder → s.media.sysOpen = some img → s.sysJob = some j →
      j.kind = .fold g q → j.fold = some f →
      ∃ t, exec (.mediaOpComplete id (.done st) data) s = t.serveWaiting ∧ (s.zdp.backlog = [] → exec (.mediaOpComplete id (.done st) data) s = .next t) ∧
        (t.group g).foldSeq = f.1 ∧ (t.group g).foldBlock = f.2.1 ∧ (t.group g).foldLink = f.2.2 ∧ (∀ r ∈ j.recs, r ∈ t.media.bulk) ∧
        (∀ r ∈ t.media.bulk, r ∈ j.recs ∨ r ∈ s.media.bulk) ∧ (o.group, img) ∈ t.media.sysImages) ∧
    (∀ (area : FlashArea) (part item : Nat), let ref := s.scrubRef area part item
      s.refHeld ref = true → s.freeSlots .grinder ≠ 0 → s.jobWaits (.move ref) = false →
      (∀ o ∈ s.media.queue, o.ref = some ref → o.issuer ≠ .grinder) →
      ∃ t o, exec (.flashScrubRead area part item) s = .next t ∧ t.media.queue = s.media.queue ++ [o] ∧ o.kind = .read ∧ o.issuer = .grinder ∧ o.issued = false ∧
        o.ref = some ref ∧ o.lun = s.refLun ref ∧ o.job = none) ∧
    (∀ (id : Nat) (o : MediaOp) (ref : FlashRef) (own : ReadTry) (members : List ReadTry) (corrected : Nat) (data : List Byte),
      op id = some o → o.susp = 0 → o.kind = .read → o.issuer = .grinder → o.job = none → o.ref = some ref →
      let n := s.refLun ref
      let stage := (s.dropOp id).readStage ref own members
      let reads := Tab.get 0 (s.lun n).reads (s.refBlock ref) + 1
      ((s.lun n).rebuilding = false → tryStage own < 4 → stage = tryStage own) ∧
      ∃ t, exec (.mediaOpComplete id (.read own members corrected) data) s = t.serveWaiting ∧
        (s.zdp.backlog = [] → exec (.mediaOpComplete id (.read own members corrected) data) s = .next t) ∧
        Tab.get 0 (t.lun n).reads (s.refBlock ref) = reads ∧
        (ref ∈ t.media.relocate ↔ ref ∈ s.media.relocate ∨ 2 ≤ stage ∨ s.objNat (okey 0x0D00 4) 80 < corrected ∨ s.disturbLimit (s.lun n) ≤ reads) ∧
        (stage = 5 → t.roGet (okey (0x0D20 + n / 32) 13) = (s.roGet (okey (0x0D20 + n / 32) 13) + 1) % 2 ^ 64)) ∧
    (∀ ref : FlashRef, ref ∈ s.media.relocate →
      (s.refLive ref = false → ∃ t, exec (.relocation ref) s = .next t ∧ ref ∉ t.media.relocate ∧ t.media.queue = s.media.queue) ∧
      (s.refLive ref = true →
        (∀ g p, ref = .journal g p → exec (.relocation ref) s = exec (.foldSegment g) s) ∧
        (∀ g row, ref = .parity g row → exec (.relocation ref) s = exec (.foldSegment g) s) ∧
        (ref = .system → ∃ t, exec (.relocation ref) s = .next t ∧ ref ∉ t.media.relocate ∧ (t.media.sysDirty = true ∨ t.media.sysOpen ≠ none)) ∧
        ((∀ g p, ref ≠ .journal g p) → (∀ g row, ref ≠ .parity g row) → ref ≠ .system → s.moveJob ref = none → s.activeJob = none →
          s.jobWaits (.move ref) = false → s.freeSlots .grinder ≠ 0 → ∃ t, exec (.relocation ref) s = .next t ∧ reading t [ref] ∧ ref ∈ t.media.relocate))) ∧
    (∀ (grp : GroupId) (bulk : Bool) (n : Nat), 8 ≤ s.freeSlots .grinder → s.erasable grp bulk n = true →
      ∃ t, exec (.journalErase grp bulk n) s = .next t ∧ t.media.queue.length = s.media.queue.length + 8 ∧
        ((if bulk then 2 ^ 20 + n else n), 8, 0) ∈ (t.group grp).erasing ∧
        ∀ o ∈ t.media.queue, o ∈ s.media.queue ∨ (o.kind = .erase ∧ o.issuer = .grinder ∧ o.issued = false ∧ o.group = grp.val)) ∧
    (∀ lun k, (s.lun lun).uneven = true → (s.lun lun).state = 1 → s.leastWorn lun = some k →
      ∃ t, exec (.wearLevelling lun) s = .next t ∧ ∀ r, r ∈ t.media.relocate ↔ r ∈ s.media.relocate ∨ r ∈ s.stripeRefs k) ∧
    (∀ id b, (s.media.bulk.find? fun b => b.id == id) = some b →
      (s.expired b.retention b.frame = false → exec (.recordExpiry id) s = .next s) ∧
      (s.expired b.retention b.frame = true → s.activeJob = none → s.jobWaits (.move (.bulk id)) = false → s.freeSlots .grinder ≠ 0 →
        ∃ t, exec (.recordExpiry id) s = .next t ∧ reading t [.bulk id]))) ∧
    (∀ (a : BitVec 40) (f : EccFinding), s.upset a.toNat = .none →
      let cw := cwOf a.toNat
      let wrong := Config.eccWrong (memOf cw) (s.bytes cw (codeWord (memOf cw))) f.wrong
      let scrubs := fun (i : Instr) (key : Nat) =>
        (wrongSymbols f = 0 → ∃ t, exec i s = .next t ∧ t.mem = s.mem ∧ t.upsets = s.upsets ∧ t.poison = s.poison ∧ t.ro = s.ro) ∧
        (0 < wrongSymbols f → wrongSymbols f ≤ symbolLimit cw → ∃ t, exec i s = .next t ∧ t.upset a.toNat = .none ∧ t.mem = s.mem ∧ t.poison = s.poison ∧
          t.roGet key = (s.roGet key + 1) % 2 ^ 64) ∧
        (symbolLimit cw < wrongSymbols f → wrong = none → ∃ t, exec i s = .next t ∧ t.upset a.toNat = .uncorrectable ∧ t.mem = s.mem ∧
          ((s.poison.filter fun x => x.1 == poisonOf cw).length < 64 → (poisonOf cw, cw) ∈ t.poison)) ∧
        (∀ l, symbolLimit cw < wrongSymbols f → wrong = some l → ∃ t, exec i s = .next t ∧ t.upset a.toNat = .none ∧ t.poison = s.poison ∧
          t.mem = memWriteBut [] cw (sliceZ l 0 (codeWord (memOf cw))) s.mem)
      (sramAt a.toNat = true → scrubs (.sramScrub a f) (okey 0x0A38 3)) ∧
      (memOf a.toNat = 3 → a.toNat < s.dramCap → scrubs (.dramScrub a f) (okey (0x0A30 + s.dramChan cw) 6))) ∧
    (∀ (job : Fin 8) (ms : Nat),
      (s.jobLate job = false → exec (.grinderJobMiss job ms) s = .next s) ∧
      (s.jobLate job = true → ∃ t, exec (.grinderJobMiss job ms) s = .next t ∧ t.log.nextSeq = (s.log.nextSeq + 1) % 2 ^ 32 ∧
        t.roGet (okey 0x0D78 (job.val + 1)) = (s.roGet (okey 0x0D78 (job.val + 1)) + 1) % 2 ^ 32))

-- ---------------------------------------------------------------- Barista

/-- R500 to R502, R508, R511, R513, R515, R516, R550, R554, R556, R560: a watchdog expiry restarts the firmware alone, or the device from a trial slot; a
sensor round keeps the bank's voltage and current, asks for a shutdown at the critical limit and trips at 115 degC; lost power good; NMI_N reaches the cores of
its mask; the two mirrors of the log; PORST_N; boot, into rescue mode, to the wait for PFAIL_N, or up; a VDD step of at most 5 mV; a PMBus error stops the
steps until a retry succeeds, and a regulator of another mode ends them. -/
def Obligations.BaristaWork : Prop :=
  ∀ (s : State),
    (s.firmwareUp = true →
      ((s.barista.slot s.barista.running).state ≠ 3 → ∃ t, exec .watchdogExpiry s = .next t ∧ t.zdp.sessions = [] ∧ t.barista.lastReset = 3 ∧
        t.cores = s.cores ∧ t.mem = s.mem ∧ t.adm = s.adm ∧ t.media = s.media ∧ t.timer = s.timer) ∧
      ((s.barista.slot s.barista.running).state = 3 → s.failing = false → ∃ t, exec .watchdogExpiry s = .next t ∧
        t.pf.shutdownAsked = true ∧ t.pf.restart = true) ∧
      (∀ w : SensorFacts, ∃ t, exec (.sensorSample w) s = .next t ∧
        (let mv := ((s.codeVolts w.bankCode.toNat).mul ⟨1000, 1⟩).floor
        s.testStated = true → mv < 2 ^ 32 → t.barista.bankMv = mv ∧ t.barista.bankMa = s.bankAmps w.isenseUV) ∧
        (s.failing = false → (∃ x ∈ w.temps, s.critLimit ≤ x) → t.pf.shutdownAsked = true))) ∧
    (∀ w : SensorFacts, (∃ x ∈ w.temps, 1150 ≤ x) → ∃ t, exec (.sensorSample w) s = .next t ∧ t.barista.thermtrip = true) ∧
    (∀ d : Fin 112, s.barista.stage = .up → s.domain d = 2 →
      (s.power.good.getLsbD d = true → s.failing = false → ∃ t, exec (.powerGoodLost d) s = .next t ∧ t.power.good.getLsbD d = false ∧
        t.log.nextSeq = (s.log.nextSeq + 1) % 2 ^ 32 ∧ (d.val < 68 → s.repair.retired.contains d.val = false → (t.core d).faulted = true) ∧
        (85 ≤ d.val → t.pf.shutdownAsked = true ∧ t.cores = s.cores)) ∧
      (∃ t, exec (.domainPowerTimeout d) s = .next t ∧ t.power.good.getLsbD d = false ∧ t.pf = s.pf)) ∧
    (∃ t, exec .nmiNAssert s = .next t ∧ t.log.nextSeq = (s.log.nextSeq + 1) % 2 ^ 32 ∧
      (s.barista.stage = .up → s.failing = false → ∀ l c, l < s.nl → natBit (s.objNat (okey 0x1030 1) (2 ^ 64 - 1)) l = true →
        (s.lcore l).carrier = some c → (t.core c).nmiPend = true) ∧
      (s.barista.stage ≠ .up ∨ s.failing = true → t.cores = s.cores)) ∧
    (∀ g, s.media.present = true → s.failing = false → s.log.unmirrored s.log.nand ≠ [] → s.freeSlots .barista ≠ 0 →
      (∀ o ∈ s.media.queue, o.issuer = .barista → o.area ≠ .system) → s.sysTarget (s.log.nextSeq / 128) = some g →
      ∃ t o, exec .logNandMirror s = .next t ∧ t.media.queue = s.media.queue ++ [o] ∧ o.kind = .program ∧ o.issuer = .barista ∧ o.area = .system ∧
        o.issued = false ∧ o.data = ((s.log.unmirrored s.log.nand).take 128).flatMap Prod.snd ∧ t.log = s.log) ∧
    (∀ (id : Nat) (o : MediaOp) (st : Byte) (data : List Byte) (es : List (Nat × List Byte)),
      (s.media.queue.find? fun x => x.id == id && x.issued && x.susp != 2 && !s.pieceLeft x) = some o → o.susp = 0 → o.kind = .program →
      o.area = .system → o.issuer = .barista → o.data = es.flatMap Prod.snd → (∀ e ∈ es, e.2.length = 32 ∧ e.1 = leField e.2 8 4) →
      ∃ t : State, exec (.mediaOpComplete id (.done st) data) s = t.serveWaiting ∧ t.log = { s.log with nand := (es.reverse ++ s.log.nand).take 2097152 }) ∧
    (∀ e, s.barista.stage ≠ .reset → s.pf.stage ≠ .safe →
      ((s.log.unmirrored s.log.nor).find? fun e => decide (s.objNat (okey 0x1010 7) 2 ≤ leField e.2 14 1)) = some e →
      exec .logNorMirror s = .next { s with log := { s.log with nor := (e :: s.log.nor).take 65536 } }) ∧
    (∃ t, exec .porstAssert s = .next t ∧ t.barista.stage = .reset ∧ t.barista.lastReset = 1 ∧ t.barista.safe = true ∧ t.mem = [] ∧ t.cores = [] ∧
      t.zdp.sessions = [] ∧ t.timer.running = false ∧ t.nor = s.nor ∧ t.domains = s.domains ∧ t.repair.retired = s.repair.retired) ∧
    (∀ w : BootFacts, s.barista.stage = .reset →
      (((s.logKept w).chooseSlot w).2 = none → ∃ t, exec (.boot w) s = .next t ∧ t.barista.stage = .rescue ∧ t.cores = s.cores ∧ t.timer.running = s.timer.running) ∧
      (∀ n, ((s.logKept w).chooseSlot w).2 = some n → w.pfail = true → ∃ t, exec (.boot w) s = .next t ∧ t.barista.stage = .waitPfail ∧ t.barista.running = n ∧
        t.power = s.power) ∧
      (∀ n, ((s.logKept w).chooseSlot w).2 = some n → w.pfail = false → w.deadDomains = [] → ∃ t, exec (.boot w) s = .next t ∧ t.barista.stage = .up ∧
        t.barista.running = n ∧ t.barista.bootMs = w.bootMs)) ∧
    (∀ w : BootFacts, s.barista.stage = .waitPfail → s.barista.bootFacts = some w → w.deadDomains = [] →
      ∃ t, exec .bootResume s = .next t ∧ t.barista.stage = .up ∧ t.barista.pfail = false ∧ t.barista.running = s.barista.running) ∧
    (s.avsOn = true →
      (∀ mv : Nat, s.power.avsFaulted = false → ∃ t, exec (.avsUpdate mv) s = .next t ∧ t.roGet (okey 0x1301 2) = max 700 (min 850 mv) ∧
        (s.power.avsMv ≠ 0 → t.power.avsMv ≤ s.power.avsMv + 5 ∧ s.power.avsMv ≤ t.power.avsMv + 5) ∧
        (s.power.avsMv = max 700 (min 850 mv) → t.power.avsMv = s.power.avsMv)) ∧
      exec (.pmbusRetry true ⟨0, true⟩) s = .next { s with power := { s.power with avsFaulted := false } } ∧
      (∀ status : BitVec 16, ∃ t, exec (.pmbusRetry true ⟨status, false⟩) s = .next t ∧ t.avsOn = false ∧ t.log.nextSeq = (s.log.nextSeq + 1) % 2 ^ 32) ∧
      (∀ (ack linear : Bool) (status : BitVec 16), ¬ (ack = true ∧ linear = false) → ¬ (ack = true ∧ status = 0) →
        ∃ t, exec (.pmbusRetry ack ⟨status, linear⟩) s = .next t ∧
        t.power = { s.power with avsFaulted := true } ∧ t.roGet (okey 0x1301 3) = (s.roGet (okey 0x1301 3) + 1) % 2 ^ 32 ∧
        t.log.nextSeq = (s.log.nextSeq + 1) % 2 ^ 32))

-- ---------------------------------------------------------------- writes of objects

/-- R74 to R76, R87, R97, R176, R219, R233, R459, R472, R474, R484, R493, R494, R511, R513, R518 to R520, R536, R540, R551: the objects whose write is a
command. A write that passes the checks of R470 is answered with result 0 and has the effect of its object: a boot image and a user image are answered
when the last block is programmed, and at the tick that clears the slots. -/
def Obligations.ObjectWrites : Prop :=
  ∀ (s : State) (w : ObjWrite),
    let n := leNat w.value
    let held := fun (t : State) (key : Nat) => Tab.get [] t.obj key = w.value ∧ Tab.get [] t.nor key = w.value
    -- the ack sequence of every partner that names the key slot starts again (R121)
    let restarted := fun (t : State) (slot : Nat) => ∀ k, (s.partner k).names slot = true → (t.partner k).ackSeq = 0 ∧ k ∉ t.adm.ackDone
    -- a write that waited for object (i, sub) is answered with result 0
    let waited := fun (q : State) (i sub : Nat) => q.zdp.store = some ⟨w.sid, [], i, sub, s.winOf i sub, []⟩
    let onCores := fun (t : State) (p : Core → Prop) => ∀ l c, l < s.nl → natBit n l = true → (s.lcore l).carrier = some c → p (t.core c)
    Written s 0x0411 1 w (.shadowPlanWrite w) (fun t => t.plans.shadow = w.value ∧ t.plans.shadowState = 1 ∧ t.plans.active = s.plans.active) ∧
    (w.value = [1#8] → Written s 0x0412 1 w (.planCommit w) fun t => t.plans.shadowState = 2 ∧ t.plans.pending = s.plans.shadow ∧
      s.timer.frame + 2 ≤ t.plans.pendingFrame) ∧
    (w.value = [2#8] → Written s 0x0412 1 w (.shadowDiscard w) fun t => t.plans.shadow = [] ∧ t.plans.shadowState = 0) ∧
    Written s 0x0900 3 w (.partnerConfigWrite w) (fun t =>
      let p := t.partner (s.winOf 0x0900 3)
      let q := Partner.ofBytes (sliceZ w.value 0 34 ++ zeros 30)
      p.addr = q.addr ∧ p.classMask = q.classMask ∧ p.vlan = q.vlan ∧ p.keySlot = q.keySlot ∧ p.qs = q.qs ∧ p.qd = q.qd ∧ p.portMask = q.portMask ∧
      p.flags = q.flags ∧ ((s.partner (s.winOf 0x0900 3)).en = false → q.en = true → p.e = 0 ∧ p.aDur = 0xFF#8 ∧ p.ackSeq = 0)) ∧
    Written s 0x0900 2 w (.partnerEntryWrite w) (fun t => t.partner (s.winOf 0x0900 2) = Partner.ofBytes w.value) ∧
    Written s 0x0A00 2 w (.keyWrite w) (fun t => Tab.get [] t.adm.keys (s.winOf 0x0A00 2) = w.value ∧ restarted t (s.winOf 0x0A00 2)) ∧
    Written s 0x0A00 4 w (.keyErase w) (fun t => Tab.get [] t.adm.keys (s.winOf 0x0A00 4) = [] ∧ restarted t (s.winOf 0x0A00 4)) ∧
    Written s 0x0C00 2 w (.orderlyShutdown w) (fun t => t.pf.shutdownAsked = true ∧ t.pf.restart = s.pf.restart) ∧
    (∀ (port : PortId) (fec : Bool), Written s (0x0210 + port.val) (if fec then 2 else 1) w (.portModeWrite port fec w) fun t =>
      held t (okey (0x0210 + port.val) (if fec then 2 else 1)) ∧ t.roGet (okey (0x0210 + port.val) 6) = 0) ∧
    Written s 0x0D60 6 w (.rawCommandStart w) (fun t => ∃ o ∈ t.media.queue, o.kind = .raw ∧ o.issuer = .barista ∧ o.issued = false ∧
      o.lun = s.objNat (okey 0x0D60 1) 0) ∧
    WrittenLater s 0x0E01 4 w (.imageWrite w) (fun t => ∃ x ∈ t.egress.images, x.num = s.winOf 0x0E01 4 ∧ x.length = w.value.length ∧ x.current = false ∧
      ∀ y ∈ s.egress.images, y ∈ t.egress.images ∧ (y.num = x.num → y.version < x.version)) ∧
    (∀ (q : State) (id : Nat) (x : BootImage), waited q 0x0E01 4 → q.egress.images.find? (fun y => y.left.contains id) = some x → x.todo = [] →
      (∀ y ∈ x.left, y = id) → (q.imageOpDone id []).out = q.out ++ [.objectResult w.sid (okey 0x0E01 4) 0]) ∧
    Written s 0x0E01 5 w (.imageDelete w) (fun t => ∀ x ∈ t.egress.images, x.num = s.winOf 0x0E01 5 → s.bound x.num x.version = true) ∧
    (∀ k : BitVec 12, Written s (0x2000 + k.toNat) 1 w (.programImageWrite k false w) (fun t => Tab.get [] t.domains (0x2000 + k.toNat) = w.value) ∧
      Written s (0x2000 + k.toNat) 2 w (.programImageWrite k true w) fun t => held t (okey (0x2000 + k.toNat) 2)) ∧
    (∀ k : BitVec 14, Written s (0x4000 + k.toNat) 1 w (.customerObjectWrite k w) fun t => held t (okey (0x4000 + k.toNat) 1)) ∧
    WrittenLater s 0x1400 2 w (.userImageWrite w) (fun t => t.micro.loading = some w.value ∧ t.micro.loadStage = 0 ∧ t.micro.loaded = s.micro.loaded) ∧
    (∀ q : State, waited q 0x1400 2 → q.micro.loading = some w.value → q.micro.loadStage = 0 →
      q.microTick.out = q.out ++ [.objectResult w.sid (okey 0x1400 2) 0] ∧ q.microTick.micro.loaded = 0 ∧ q.microTick.micro.loadStage = 1) ∧
    (s.micro.loading.isSome = true → s.micro.loadStage = 1 → exec .userImageLoaded s = .next { s with micro := { s.micro with loadStage := 2 } }) ∧
    Written s 0x1400 6 w (.slotUnload w) (fun t => ∀ i, i < 16 → t.micro.unloadDue.getLsbD i = (s.micro.unloadDue.getLsbD i || natBit n i)) ∧
    Written s 0x1020 2 w (.deviceRestart w) (fun t => t.pf.shutdownAsked = true ∧ t.pf.restart = true) ∧
    Written s 0x1100 1 w (.updateImageWrite w) (fun t => (t.barista.slot (1 - s.barista.running)).state = 2 ∧
      (t.barista.slot (1 - s.barista.running)).version = leField w.value 12 4 ∧ t.barista.running = s.barista.running) ∧
    (w.value = [1#8] → Written s 0x1100 8 w (.updateTry w) fun t => (t.barista.slot (1 - s.barista.running)).state = 3 ∧
      (t.barista.slot (1 - s.barista.running)).attempts = 3) ∧
    (w.value = [2#8] → Written s 0x1100 8 w (.updateCommit w) fun t => (t.barista.slot s.barista.running).state = 1 ∧
      (t.barista.rollback = max s.barista.rollback (s.barista.slot s.barista.running).rollback ∨ 128 ≤ t.barista.counter.length)) ∧
    (w.value = [3#8] → Written s 0x1100 8 w (.updateDiscard w) fun t => (t.barista.slot (1 - s.barista.running)).state = 0) ∧
    Written s 0x1200 8 w (.retireCore w) (fun t => n ∈ s.repair.retired ∨ ∃ x ∈ t.repair.retireDue, x.1 = n) ∧
    Written s 0x1200 11 w (.retireLun w) (fun t => (s.lun n).state ≠ 3 → (s.lun n).role = 1 ∨ (s.lun n).role = 2 → (t.lun n).rebuilding = true) ∧
    Written s 0x1300 3 w (.domainRequest w) (fun t => t.domain (s.winOf 0x1300 3) = n) ∧
    Written s 0x1030 2 w (.raiseNmi w) (fun t => onCores t fun k => k.nmiPend = true) ∧
    Written s 0x1030 3 w (.raiseBar w) (fun t => onCores t fun k => k.ipend.getLsbD 16 = true) ∧
    (∀ ring : Fin 4, Written s 0x0208 (ring.val + 1) w (.credentialWrite ring w) fun t => held t (okey 0x0208 (ring.val + 1)) ∧
      ∀ x ∈ t.zdp.sessions, x.isOpen = true → x.ring = ring.val → x.sid = w.sid)

-- ---------------------------------------------------------------- messages of the dictionary protocol

/-- R471, R472, R474, R476 to R483, R486 to R489: what an accepted message of each command does and answers, what the timeouts end, and how CAN FD frames
become messages. -/
def Obligations.ZdpMessages : Prop :=
  ∀ (s : State) (m : ZdpMsg) (x : Session),
    let b := m.bytes
    let d := mData b
    let arrives := fun (cmd : Nat) =>
      mCmd b = cmd ∧ s.reaches m = true ∧ s.zdp.store = none ∧ s.zdp.backlog = [] ∧ msgGood b = true ∧ headReserved b = false
    -- the session once the message is accepted, and the state then
    let y : Session := { x with lastSeq := mSeq b }
    let v := s.setSession y
    let answered := fun (e : Instr) (p : State → Prop) => ∃ t, exec e s = .next t ∧ t.out = s.out ++ s.respond m x (mTotal b) 0 [] ∧ p t
    (arrives 0x01 → clientSource m.src ∉ s.zdp.locked → d.length = 20 → allZero (sliceZ d 1 3) = true → beField d 0 1 ≤ 3 →
      (s.barista.stage = .rescue → beField d 0 1 = 0) → s.tableFull m.src = false → ∃ t z, exec (.zdpOpen m) s = .next t ∧
        t.zdp.sessions = s.zdp.sessions ++ [z] ∧ z.isOpen = false ∧ z.client = m.src ∧ z.ring = beField d 0 1 ∧ z.nc = d.drop 4 ∧
        t.out = s.out ++ s.carried m.src z.lastResp) ∧
    (arrives 0x02 → (s.zdp.sessions.find? fun z => z.sid == mSid b && !z.isOpen && z.client == m.src) = some x → x.lastSeq < mSeq b →
      let cred := s.credential x.ring
      let key := proofOf "ZDP-K" cred x.sid x.nc x.nd
      (d = proofOf "ZDP-P" cred x.sid x.nc x.nd → tagGood key b = true → ∃ t z, exec (.zdpProve m) s = .next t ∧ t.session x.sid = some z ∧
        z.key = key ∧ z.client = x.client ∧ z.ring = x.ring ∧ t.out = s.out ++ s.respond m { x with key := key } (mTotal b) 0 []) ∧
      (d ≠ proofOf "ZDP-P" cred x.sid x.nc x.nd → ∃ t, exec (.zdpProve m) s = .next t ∧ (∀ z ∈ t.zdp.sessions, z.sid ≠ x.sid) ∧
        t.roGet (okey 0x0200 5) = (s.roGet (okey 0x0200 5) + 1) % 2 ^ 32)) ∧
    (s.inOrder m x 0x03 → answered (.zdpClose m) fun t => ∀ z ∈ t.zdp.sessions, z.sid ≠ x.sid) ∧
    (s.inOrder m x 0x04 → answered (.zdpNop m) fun t => t.obj = s.obj ∧ t.nor = s.nor) ∧
    (∀ r, s.inOrder m x 0x10 → v.findObject (mIndex b) (mSub b) = .inl r → x.ring ≤ r.rr → r.acc ≠ .wo → vendor (mIndex b) = false →
      let l := v.readObject (mIndex b) (mSub b) r
      mOff b ≤ l.length → ∃ t, exec (.zdpRead m) s = .next t ∧ t.out = s.out ++ s.respond m x l.length 0 ((l.drop (mOff b)).take (mLen b)) ∧
        t.obj = s.obj ∧ t.nor = s.nor ∧ t.mem = s.mem) ∧
    (∀ r u, s.inOrder m x 0x11 → s.failing = false → v.canWrite y (mIndex b) (mSub b) = .inl r → mOff b = 0 → mTotal b = mLen b →
      let win := v.winOf (mIndex b) (mSub b)
      v.judgeValue (mIndex b) (mSub b) win r d = .ok u →
      (r.pers = false → exec (.zdpWrite m) s = .next ((u.effect x.sid (mIndex b) (mSub b) win r d).refuse x.sid b 0)) ∧
      (r.pers = true → ∃ t, exec (.zdpWrite m) s = .next t ∧ t.zdp.store = some ⟨x.sid, b.take 32, mIndex b, mSub b, win, d⟩ ∧ t.out = u.out ∧
        t.obj = u.obj ∧ t.nor = u.nor)) ∧
    (∀ r, s.inOrder m x 0x12 → s.failing = false → x.transfer = none → mOff b = 0 → v.canWrite y (mIndex b) (mSub b) = .inl r →
      vendor (mIndex b) = false → (mIndex b = 0x0411 → mTotal b ≤ 4194304) → mTotal b ≤ r.ty.max → d.length < mTotal b → mLen b ≤ mTotal b →
      answered (.zdpWriteSeg m) fun t => ∃ z, t.session x.sid = some z ∧
        z.transfer = some ⟨okey (mIndex b) (mSub b), mTotal b, d⟩) ∧
    (∀ r l, s.inOrder m x 0x12 → s.failing = false → x.transfer = some ⟨okey (mIndex b) (mSub b), mTotal b, l⟩ → l.length = mOff b →
      l.length + mLen b ≤ mTotal b → v.findObject (mIndex b) (mSub b) = .inl r → l.length + d.length ≠ mTotal b →
      answered (.zdpWriteSeg m) fun t => ∃ z, t.session x.sid = some z ∧
        z.transfer = some ⟨okey (mIndex b) (mSub b), mTotal b, l ++ d⟩) ∧
    (s.inOrder m x 0x13 → x.transfer ≠ none → answered (.zdpCancel m) fun t => ∃ z, t.session x.sid = some z ∧ z.transfer = none) ∧
    (knownCommand (mCmd b) = false → s.inOrder m x (mCmd b) → ∃ t, exec (.unknownCommand m) s = .next t ∧
      t.out = s.out ++ s.respond m x (mTotal b) abCommand [] ∧ t.obj = s.obj) ∧
    (∀ sid, s.anySession sid = some x →
      (∃ t, exec (.transferTimeout sid) s = .next t ∧ ∀ z ∈ t.zdp.sessions, z.sid = sid → z.transfer = none) ∧
      (x.busy = false → ∃ t, exec (.sessionIdleTimeout sid) s = .next t ∧
        ∀ z, z ∈ t.zdp.sessions ↔ z ∈ s.zdp.sessions ∧ z.sid ≠ sid)) ∧
    (∀ src, ∃ t, exec (.openLockoutEnd src) s = .next t ∧ ∀ z, z ∈ t.zdp.locked ↔ z ∈ s.zdp.locked ∧ z ≠ clientSource src) ∧
    (∀ p, s.zdp.store = some p → p.byRule = false → s.zdp.backlog = [] →
      let q : State := { s with zdp := { s.zdp with store := none, backlog := [] } }
      (∀ r, s.failing = false → q.findObject p.index p.sub = .inl r →
        exec (.persistentStoreComplete true) s = .next ((q.effect p.sid p.index p.sub p.win r p.value).refuse p.sid p.req 0)) ∧
      (s.failing = false → exec (.persistentStoreComplete false) s = .next (q.refuse p.sid p.req abStore)) ∧
      (s.failing = true → ∀ good, exec (.persistentStoreComplete good) s = .next (q.refuse p.sid p.req abPowerFail))) ∧
    -- while a write waits, requests of other sessions wait behind it, in their order (R471)
    (∀ p, s.zdp.store = some p → s.reaches m = true → mSid b ≠ p.sid → ∀ e, (e = .zdpRead m ∧ mCmd b = 0x10) ∨ (e = .zdpWrite m ∧ mCmd b = 0x11) →
      exec e s = .next { s with zdp := { s.zdp with backlog := s.zdp.backlog ++ [m] } }) ∧
    (∀ (f : CanFrame) (h : Byte) (l : List Byte), f.data = h :: l → s.canReaches = true → f.ident.toNat = 0x5C0 + s.canNode →
      let can := fun (c : Option (Nat × List Byte)) => ({ s with zdp := { s.zdp with can := c } } : State)
      (h.getLsbD 7 = true → h.getLsbD 6 = false → exec (.canFdFrame f) s = .next (can (some (1, l)))) ∧
      (h.getLsbD 7 = true → h.getLsbD 6 = true → exec (.canFdFrame f) s = (can none).receiveNext { src := .can, bytes := l.take (mSize l) }) ∧
      (∀ n k, h.getLsbD 7 = false → s.zdp.can = some (n, k) → h.toNat % 64 = n →
        (h.getLsbD 6 = false → exec (.canFdFrame f) s = .next (can (some ((n + 1) % 64, k ++ l)))) ∧
        (h.getLsbD 6 = true → exec (.canFdFrame f) s =
          (can none).receiveNext { src := .can, bytes := (k ++ l).take (mSize (k ++ l)) }))) ∧
    (s.zdp.can ≠ none → ∃ t, exec .canReassemblyTimeout s = .next t ∧ t.zdp.can = none ∧
      t.roGet (okey 0x0206 6) = (s.roGet (okey 0x0206 6) + 1) % 2 ^ 32) ∧
    (s.roGet (okey 0x0206 5) = 3 → ∃ t, exec .canBusOffRecovery s = .next t ∧ t.roGet (okey 0x0206 5) = 1) ∧
    (∀ st, s.roGet (okey 0x0206 5) ≠ 0 → s.roGet (okey 0x0206 5) ≠ 3 → ∃ t, exec (.canFaultConfinement st) s = .next t ∧
      t.roGet (okey 0x0206 5) = canCode st)

-- ---------------------------------------------------------------- JTAG

/-- R569 to R571: EXTEST, CLAMP and HIGHZ drive or release the pins while SAFE is asserted and act as BYPASS otherwise; a TAP reset selects BYPASS;
the debug unit's four functions act on the carrier of their logical core while debug is enabled, and on nothing otherwise. -/
def Obligations.JtagDebug : Prop :=
  ∀ (s : State) (cells pins : List Bool) (l : LogId) (n : BitVec 2) (en full : Bool) (ea : BitVec 30) (word : Word),
    let scanned := fun (e : Instr) (ir : BitVec 8) (cells pins : List Bool) =>
      exec e s = .next { s with jtag := { s.jtag with ir := ir, cells := cells, captured := pins } }
    let chosen := fun (e : Instr) (ir : BitVec 8) => scanned e ir s.jtag.cells s.jtag.captured
    (s.barista.safe = true → scanned (.extest cells pins) 0x00#8 cells pins ∧
      (∀ t, exec (.extest cells pins) s = .next t → t.pinsDriven = some cells) ∧ (∀ t, exec .clamp s = .next t → t.pinsDriven = some s.jtag.cells) ∧
      ∀ t, exec .highz s = .next t → t.pinsReleased = true) ∧
    (s.barista.safe = false → chosen (.extest cells pins) 0x00#8 ∧
      ∀ e t, e = .extest cells pins ∨ e = .clamp ∨ e = .highz → exec e s = .next t → t.pinsDriven = none ∧ t.pinsReleased = false) ∧
    scanned (.samplePreload cells pins) 0x01#8 cells pins ∧ chosen .clamp 0x03#8 ∧ chosen .highz 0x04#8 ∧ chosen .bypass 0xFF#8 ∧ chosen .tapReset 0xFF#8 ∧
    (∀ e, e = .debugHaltRequest l ∨ e = .breakpointSet l n en ea ∨ e = .debugMailboxIn l word full ∨ e = .debugMailboxOut l →
      (s.jtag.debug = false → chosen e 0x21#8) ∧
      (s.jtag.debug = true → (s.lcore l).carrier = none → ∃ t, exec e s = .next t ∧ t.cores = s.cores ∧ t.jtag.captured = dataBits 0)) ∧
    (∀ c, s.jtag.debug = true → (s.lcore l).carrier = some c →
      let k := s.core c
      let shown := fun (e : Instr) (fn v : Nat) (k' : Core) => exec e s = .next
        (({ s with jtag := { s.jtag with ir := 0x21#8, sel := BitVec.ofNat 8 (64 * fn + l.val), captured := dataBits v } } : State).setCore c k')
      shown (.debugHaltRequest l) 0 (if k.inDebug then 1 else 0) { k with haltPend := true } ∧
      shown (.breakpointSet l n en ea) 1 ((Tab.get Brk.off k.brks k.brkSel).data k.brkSel)
        { k with brks := Tab.put Brk.off n.toNat ⟨en, ea⟩ k.brks, brkSel := n.toNat } ∧
      shown (.debugMailboxIn l word full) 2 (if k.inf then 2 ^ 32 else 0) { k with dbgin := word, inf := k.inf || full } ∧
      shown (.debugMailboxOut l) 3 ((if k.outf then 2 ^ 32 else 0) + k.dbgout.toNat) { k with outf := false })

-- ---------------------------------------------------------------- reset, and whole-machine rules

/-- R44, R97, R101, R153, R157, R304, R405, R413, R499, R510, R512, R531: what reset leaves, for the values that the spec gives: the special registers of R304, no
partner enabled, no plan, an empty event log, page keys of 0, SAFE asserted and the timer stopped. -/
def Obligations.ResetValues : Prop :=
  let s := State.reset
  (∀ c : CoreId, let k := s.core c
    k.srGet 0x000 = 0x00009000#32 ∧ k.srGet 0x021 = 0xE000#32 ∧ k.srGet 0x036 = 0xFF#32 ∧ (∀ n, n < 16 → k.srGet (0x080 + n) = 3#32) ∧
    k.ring = 0 ∧ k.ie = false ∧ k.run = .held ∧ k.nmiPend = false ∧ k.storeBuf = [] ∧ k.wait = none) ∧
  (∀ n, s.partner n = Partner.zero) ∧ s.plans.state = 2 ∧ s.plans.shadowState = 0 ∧ s.section = none ∧
  s.log.ring = [] ∧ s.log.nextSeq = 0 ∧ (∀ a, s.pageKey a = PageKey.reset) ∧ s.barista.safe = true ∧ s.barista.stage = .reset ∧
  s.timer.running = false ∧ s.timer.period = 250000 ∧ s.poison = [] ∧ s.locks = [] ∧ s.zdp.sessions = [] ∧ s.pending = []

/-- R243, R262: reset memory has its one canonical form (the form is the model's own, log 5). -/
def Obligations.ResetInvariant : Prop := State.reset.Inv

/-- R8: what an undefined case leaves as it is: the fuses, the OTP, the anti-rollback counter, Barista and its event log; the other cores, the ring of a context
above ring 0 and the special registers that its ring may not write, and every byte of memory that none of its descriptors opens to its stores.
R297: a transfer that ends a loop, and a loop that ends before its start, are such cases, and the core goes on. -/
def Obligations.UndefinedCases : Prop :=
  ∀ (s : State),
    let kept := fun (t : State) => t.repair.fuses = s.repair.fuses ∧ t.barista.otp = s.barista.otp ∧ t.barista.counter = s.barista.counter ∧
      t.barista.stage = s.barista.stage ∧ t.log = s.log
    (∀ c, let k := s.core c; let t := s.havoc c
      kept t ∧ (∀ d, d ≠ c → t.core d = s.core d) ∧
      (k.ring ≠ 0 → (t.core c).ring = k.ring ∧ ∀ n, n ≠ 0 → srReadOnly n = false → srWriteRing n < k.ring → (t.core c).srGet n = k.srGet n) ∧
      ∀ a, s.plain a = true → (∀ d ∈ k.openDescs, ∀ p ∈ s.openPages c d, ¬ (p ≤ a ∧ a < p + 4096)) → t.byte a = s.byte a) ∧
    (∀ ring, kept (s.havocObjects ring)) ∧
    (∀ (c : CoreId) (g : Guard) (off : BitVec 22), s.executes c (.br c g off) g false → (s.coreOf c).loopEndAt (s.pcOf c) = true →
      exec (.br c g off) s = .next ((s.fetched c).havoc c)) ∧
    (∀ (c : CoreId) (g : Guard) (rd rs : Reg), s.executes c (.mov c g rd rs) g false →
      s.endsWell ((s.fetched c).setCore c ((s.coreOf c).setReg rd ((s.coreOf c).reg rs))) c false = false →
      exec (.mov c g rd rs) s = .next ((s.fetched c).havoc c))

/-- R262, R273, R313: an instruction that reads and writes registers and predicates alone, executed, trapped or skipped, in no undefined case (R297,
R309), changes no byte of memory outside the key area, no other core, no lock of another core, and nothing of the record path, the media, the protocol
or the objects; a trap gives back headroom that the core had reserved for first touches (log 65). -/
def Obligations.RegisterOnlyFrame : Prop :=
  ∀ (i : Instr) (c : Nat) (s t : State), registerCore i = some c → ((s.due c).core c).badLoop (s.pcOf c) = false →
    (∀ c g rd imm, i = .lih c g rd imm ∨ i = .lil c g rd imm → imm.getLsbD 16 = false) → exec i s = .next t →
    (∀ a, ¬ (s.keyArea ≤ a ∧ a < s.dramCap) → t.byte a = s.byte a) ∧ ((s.core c).touchHeld = [] → t.perc = s.perc) ∧ (∀ d, d ≠ c → t.core d = s.core d) ∧ (∀ x ∈ s.locks, x.2 ≠ c → x ∈ t.locks) ∧
    t.lcores = s.lcores ∧ t.timer = s.timer ∧ t.plans = s.plans ∧ t.adm = s.adm ∧ t.media = s.media ∧ t.egress = s.egress ∧
    t.zdp = s.zdp ∧ t.barista = s.barista ∧ t.micro = s.micro ∧ t.power = s.power ∧ t.jtag = s.jtag ∧ t.obj = s.obj ∧ t.nor = s.nor ∧
    t.domains = s.domains ∧ t.out = s.out ∧ t.pending = s.pending
end

