-- ==== Sys2Proof/Laws/Tab.lean ====
section
/-!
SUPPORT. The laws of sparse tables: what a key reads after a write, and that each operation keeps the canonical form.
-/

namespace Sys2Proof.Machine

variable {α : Type}

-- ---------------------------------------------------------------- reads after writes

@[simp] theorem Tab.get_insert_self (d : α) (i : Nat) (x : α) (t : Tab α) : Tab.get d (Tab.insert i x t) i = x := by
  induction t with
  | nil => simp [Tab.insert, Tab.get]
  | cons e t ih =>
    obtain ⟨k, v⟩ := e
    unfold Tab.insert
    by_cases h1 : i < k
    · simp [h1, Tab.get]
    · by_cases h2 : i = k
      · simp [h2, Tab.get]
      · simp [h1, h2, Tab.get, ih]

theorem Tab.get_insert_ne (d : α) {i j : Nat} (x : α) (t : Tab α) (h : j ≠ i) : Tab.get d (Tab.insert i x t) j = Tab.get d t j := by
  induction t with
  | nil => simp [Tab.insert, Tab.get, h]
  | cons e t ih =>
    obtain ⟨k, v⟩ := e
    unfold Tab.insert
    by_cases h1 : i < k
    · simp [h1, Tab.get, h]
    · by_cases h2 : i = k
      · subst h2; simp [Tab.get, h]
      · simp [h1, h2, Tab.get, ih]

@[simp] theorem Tab.get_erase_self (d : α) (i : Nat) (t : Tab α) : Tab.get d (Tab.erase i t) i = d := by
  induction t with
  | nil => rfl
  | cons e t ih =>
    obtain ⟨k, v⟩ := e
    unfold Tab.erase
    by_cases h : i = k <;> simp [h, Tab.get]
    · subst h; exact ih
    · exact ih

theorem Tab.get_erase_ne (d : α) {i j : Nat} (t : Tab α) (h : j ≠ i) : Tab.get d (Tab.erase i t) j = Tab.get d t j := by
  induction t with
  | nil => rfl
  | cons e t ih =>
    obtain ⟨k, v⟩ := e
    unfold Tab.erase
    by_cases h1 : i = k
    · subst h1; simp [Tab.get, h, ih]
    · simp [h1, Tab.get, ih]

@[simp] theorem Tab.get_put_self [DecidableEq α] (d : α) (i : Nat) (x : α) (t : Tab α) : Tab.get d (Tab.put d i x t) i = x := by
  unfold Tab.put
  split
  · next h => simp [h]
  · simp

theorem Tab.get_put_ne [DecidableEq α] (d : α) {i j : Nat} (x : α) (t : Tab α) (h : j ≠ i) : Tab.get d (Tab.put d i x t) j = Tab.get d t j := by
  unfold Tab.put
  split
  · exact Tab.get_erase_ne d t h
  · exact Tab.get_insert_ne d x t h

/-- The later of two writes of a key stands. -/
theorem Tab.insert_insert (i : Nat) (x y : α) (t : Tab α) : Tab.insert i x (Tab.insert i y t) = Tab.insert i x t := by
  induction t with
  | nil => simp [Tab.insert]
  | cons e t ih =>
    obtain ⟨k, v⟩ := e
    by_cases h1 : i < k
    · simp [Tab.insert, h1]
    · by_cases h2 : i = k
      · subst h2; simp [Tab.insert]
      · simp [Tab.insert, h1, h2, ih]

-- ---------------------------------------------------------------- the canonical form

theorem Tab.erase_eq_filter (i : Nat) (t : Tab α) : Tab.erase i t = t.filter fun e => e.1 != i := by
  induction t with
  | nil => rfl
  | cons e t ih =>
    obtain ⟨k, v⟩ := e
    unfold Tab.erase
    by_cases h : i = k
    · subst h; simp [ih]
    · rw [if_neg h, List.filter_cons_of_pos (by simpa using fun e => h e.symm), ih]

variable [DecidableEq α]

theorem Tab.wfFrom_mono (d : α) {lo hi : Nat} {t : Tab α} (h : Tab.wfFrom d hi t = true) (hl : lo ≤ hi) : Tab.wfFrom d lo t = true := by
  cases t with
  | nil => rfl
  | cons e t => simp only [Tab.wfFrom, Bool.and_eq_true, decide_eq_true_eq] at h ⊢; exact ⟨⟨by omega, h.1.2⟩, h.2⟩

theorem Tab.wfFrom_insert (d : α) {lo i : Nat} {x : α} {t : Tab α} (hx : x ≠ d) (hi : lo ≤ i) (h : Tab.wfFrom d lo t = true) :
    Tab.wfFrom d lo (Tab.insert i x t) = true := by
  induction t generalizing lo with
  | nil => simp [Tab.insert, Tab.wfFrom, hx, hi]
  | cons e t ih =>
    obtain ⟨k, v⟩ := e
    simp only [Tab.wfFrom, Bool.and_eq_true, decide_eq_true_eq] at h
    obtain ⟨⟨hk, hv⟩, ht⟩ := h
    unfold Tab.insert
    by_cases h1 : i < k
    · simp only [h1, if_true, Tab.wfFrom, Bool.and_eq_true, decide_eq_true_eq]
      exact ⟨⟨hi, hx⟩, ⟨⟨by omega, hv⟩, ht⟩⟩
    · by_cases h2 : i = k
      · subst h2; simp [Tab.wfFrom, hk, hx, ht]
      · simp only [h1, h2, if_false, Tab.wfFrom, Bool.and_eq_true, decide_eq_true_eq]
        exact ⟨⟨hk, hv⟩, ih (by omega) ht⟩

theorem Tab.wfFrom_filter (d : α) (p : Nat × α → Bool) {lo : Nat} {t : Tab α} (h : Tab.wfFrom d lo t = true) :
    Tab.wfFrom d lo (t.filter p) = true := by
  induction t generalizing lo with
  | nil => rfl
  | cons e t ih =>
    obtain ⟨k, v⟩ := e
    simp only [Tab.wfFrom, Bool.and_eq_true, decide_eq_true_eq] at h
    obtain ⟨⟨hk, hv⟩, ht⟩ := h
    by_cases hp : p (k, v) = true
    · simp only [List.filter_cons, hp, if_true, Tab.wfFrom, Bool.and_eq_true, decide_eq_true_eq]
      exact ⟨⟨hk, hv⟩, ih ht⟩
    · simp only [List.filter_cons, hp]
      exact Tab.wfFrom_mono d (ih ht) (by omega)

/-- Writing a key keeps the canonical form. -/
theorem Tab.wf_put (d : α) (i : Nat) (x : α) {t : Tab α} (h : Tab.wf d t = true) : Tab.wf d (Tab.put d i x t) = true := by
  unfold Tab.put Tab.wf
  split
  · rw [Tab.erase_eq_filter]; exact Tab.wfFrom_filter d _ h
  · next hx => exact Tab.wfFrom_insert d hx (by omega) h

/-- So does keeping some of the keys. -/
theorem Tab.wf_filter (d : α) (p : Nat × α → Bool) {t : Tab α} (h : Tab.wf d t = true) : Tab.wf d (t.filter p) = true := Tab.wfFrom_filter d p h

/-- A key below every listed one reads the default. -/
theorem Tab.get_below (d : α) {lo i : Nat} {t : Tab α} (h : Tab.wfFrom d lo t = true) (hi : i < lo) : Tab.get d t i = d := by
  induction t generalizing lo with
  | nil => rfl
  | cons e t ih =>
    obtain ⟨k, v⟩ := e
    simp only [Tab.wfFrom, Bool.and_eq_true, decide_eq_true_eq] at h
    rw [Tab.get, if_neg (by omega)]
    exact ih h.2 (by omega)

end Sys2Proof.Machine
end

