-- ==== Sys2Proof/Laws/Memory.lean ====
section
/-!
SUPPORT. Memory: its canonical form through every operation that writes it (log 5), a read after a write (R262), and which operations leave
it alone.
-/

namespace Sys2Proof.Machine

/-- Reset memory lists nothing. -/
theorem reset_mem_wf : Memory.wf State.reset.mem = true := rfl

-- ---------------------------------------------------------------- bytes

theorem memWrite_wf (pa : Nat) (l : List Byte) {m : List Host.Cell} (h : Memory.wf m = true) : Memory.wf (memWrite pa l m) = true := by
  induction l generalizing pa m with
  | nil => exact h
  | cons b t ih => exact ih _ (Tab.wf_put _ _ _ h)

/-- What an address reads after bytes are written: the byte written there, or what it read before. -/
theorem get_memWrite (pa : Nat) (l : List Byte) (m : List Host.Cell) (a : Nat) :
    Tab.get 0 (memWrite pa l m) a = if pa ≤ a ∧ a < pa + l.length then l.getD (a - pa) 0 else Tab.get 0 m a := by
  induction l generalizing pa m with
  | nil =>
    have h : ¬ (pa ≤ a ∧ a < pa + ([] : List Byte).length) := by simp only [List.length_nil]; omega
    rw [if_neg h]; rfl
  | cons b t ih =>
    rw [memWrite, ih]
    by_cases h : a = pa
    · subst h
      rw [if_neg (by omega), if_pos (by simp), Tab.get_put_self]
      simp
    · by_cases h1 : pa + 1 ≤ a ∧ a < pa + 1 + t.length
      · rw [if_pos h1, if_pos (by simp only [List.length_cons]; omega), show a - pa = (a - (pa + 1)) + 1 by omega]
        simp
      · rw [if_neg h1, if_neg (by simp only [List.length_cons]; omega), Tab.get_put_ne _ _ _ h]

theorem memWriteBut_wf (no : List Nat) (pa : Nat) (l : List Byte) {m : List Host.Cell} (h : Memory.wf m = true) :
    Memory.wf (memWriteBut no pa l m) = true := by
  induction l generalizing pa m with
  | nil => exact h
  | cons b t ih =>
    unfold memWriteBut
    split
    · exact ih _ h
    · exact ih _ (Tab.wf_put _ _ _ h)

/-- What an address reads after bytes are written but for those in code words that refuse them. -/
theorem get_memWriteBut (no : List Nat) (pa : Nat) (l : List Byte) (m : List Host.Cell) (a : Nat) :
    Tab.get 0 (memWriteBut no pa l m) a =
      if pa ≤ a ∧ a < pa + l.length ∧ no.contains (cwOf a) = false then l.getD (a - pa) 0 else Tab.get 0 m a := by
  induction l generalizing pa m with
  | nil =>
    have h : ¬ (pa ≤ a ∧ a < pa + ([] : List Byte).length ∧ no.contains (cwOf a) = false) := by simp only [List.length_nil]; omega
    rw [if_neg h]; rfl
  | cons b t ih =>
    rw [memWriteBut, ih]
    by_cases h : a = pa
    · subst h
      rw [if_neg (by omega)]
      by_cases hc : no.contains (cwOf a)
      · rw [if_pos hc, if_neg (fun h2 => by rw [hc] at h2; exact absurd h2.2.2 (by decide))]
      · rw [if_neg hc, if_pos ⟨Nat.le_refl _, by simp, by simpa using hc⟩, Tab.get_put_self]; simp
    · have hm : Tab.get 0 (if no.contains (cwOf pa) then m else Tab.put 0 pa b m) a = Tab.get 0 m a := by
        split
        · rfl
        · exact Tab.get_put_ne _ _ _ h
      rw [hm]
      by_cases h1 : pa + 1 ≤ a ∧ a < pa + 1 + t.length ∧ no.contains (cwOf a) = false
      · rw [if_pos h1, if_pos ⟨by omega, by simp only [List.length_cons]; omega, h1.2.2⟩, show a - pa = (a - (pa + 1)) + 1 by omega]
        simp
      · rw [if_neg h1, if_neg (by intro h2; exact h1 ⟨by omega, by have := h2.2.1; simp only [List.length_cons] at this; omega, h2.2.2⟩)]

/-- Clearing code words changes neither a byte nor how an address reads. -/
theorem clearWords_eq (l : List Nat) (s : State) : ∃ u p, l.foldl State.clearWord s = { s with upsets := u, poison := p } := by
  induction l generalizing s with
  | nil => exact ⟨s.upsets, s.poison, rfl⟩
  | cons a t ih => obtain ⟨u, p, h⟩ := ih (s.clearWord a); exact ⟨u, p, h⟩

/-- The code words that refuse the bytes of a store of `n` bytes at an address. -/
def State.refuses (s : State) (pa n : Nat) : List Nat := ((wholeCws pa n).foldl State.clearWord s).refusedCws pa n

/-- Everything that bytes reaching memory do to it. -/
theorem poke_mem (s : State) (pa : Nat) (l : List Byte) : (s.poke pa l).mem = memWriteBut (s.refuses pa l.length) pa l s.mem := by
  obtain ⟨u, p, h⟩ := clearWords_eq (wholeCws pa l.length) s
  simp [State.poke, State.refuses, h]

theorem poke_wf {s : State} (pa : Nat) (l : List Byte) (h : Memory.wf s.mem = true) : Memory.wf (s.poke pa l).mem = true := by
  rw [poke_mem]; exact memWriteBut_wf _ _ _ h

/-- A byte after bytes reach memory (R262): an address that memory cells hold takes the byte written, unless its code word refuses it (R257); every
other address reads as before. -/
theorem poke_byte (s : State) (pa : Nat) (l : List Byte) (a : Nat) :
    (s.poke pa l).byte a = if s.plain a ∧ pa ≤ a ∧ a < pa + l.length ∧ (s.refuses pa l.length).contains (cwOf a) = false
      then l.getD (a - pa) 0 else s.byte a := by
  obtain ⟨u, p, h⟩ := clearWords_eq (wholeCws pa l.length) s
  have hp : s.poke pa l = { s with upsets := u, poison := p, mem := memWriteBut (s.refuses pa l.length) pa l s.mem } := by
    simp [State.poke, State.refuses, h]
  have hb : (s.poke pa l).byte a = if s.plain a then Tab.get 0 (memWriteBut (s.refuses pa l.length) pa l s.mem) a else s.byte a := by
    rw [hp]
    by_cases hq : s.plain a = true
    · rw [if_pos hq]; exact if_pos hq
    · rw [if_neg hq]
      unfold State.byte
      rw [if_neg hq]
      exact if_neg hq
  rw [hb, get_memWriteBut]
  by_cases hq : s.plain a = true
  · simp only [hq, if_true, true_and]
    congr 1
    exact (if_pos hq).symm
  · rw [if_neg hq, if_neg (fun hc => hq hc.1)]

-- ---------------------------------------------------------------- what leaves memory alone

theorem countCorrected_mem (s : State) (cw : Nat) : (s.countCorrected cw).mem = s.mem := by
  unfold State.countCorrected; split <;> rfl

theorem poisonWord_mem (s : State) (cw : Nat) : (s.poisonWord cw).mem = s.mem := by
  unfold State.poisonWord
  simp only
  split
  · rfl
  · split <;> split <;> rfl

@[simp] theorem meetWord_mem (s : State) (cw : Nat) : (s.meetWord cw).1.mem = s.mem := by
  unfold State.meetWord
  split
  · rfl
  · exact countCorrected_mem _ _
  · exact poisonWord_mem _ _

/-- An access that meets code words corrects and counts; it changes no byte (R256, R257). -/
@[simp] theorem meetWords_mem (l : List Nat) (s : State) : (s.meetWords l).1.mem = s.mem := by
  induction l generalizing s with
  | nil => rfl
  | cons cw t ih =>
    unfold State.meetWords
    simp only
    split
    · exact meetWord_mem s cw
    · rw [ih]; exact meetWord_mem s cw

@[simp] theorem meetStore_mem (ms : List Mapped) (s : State) : (s.meetStore ms).1.mem = s.mem := by
  induction ms generalizing s with
  | nil => rfl
  | cons m t ih =>
    unfold State.meetStore
    simp only
    split
    · exact meetWords_mem _ _
    · rw [ih]; exact meetWords_mem _ _

theorem logEvent_mem (s : State) (code sev : Nat) (l : List Byte) (p : List (Nat × List Byte)) : (s.logEvent code sev l p).mem = s.mem := rfl

/-- An engine that reads changes no byte. -/
@[simp] theorem engineRead_mem (s : State) (pa n : Nat) : (s.engineRead pa n).1.mem = s.mem := by
  unfold State.engineRead
  split
  · rfl
  · simp only
    split <;> simp [logEvent_mem]

/-- What a capture reads, if there is one to make, changes no byte. -/
theorem captureRead_mem (s : State) (b : Bool) (pa n : Nat) : (if b then s.engineRead pa n else (s, [])).1.mem = s.mem := by
  split
  · exact engineRead_mem s pa n
  · rfl

theorem touchLine_mem (s : State) (c n : Nat) : (s.touchLine c n).1.mem = s.mem := by
  unfold State.touchLine
  have h := fun (u : State) => captureRead_mem u ((s.pageKey (256 * n)).pend.getLsbD (n % 16)) (256 * n) 256
  cases hh : (s.core c).touchHeld.contains n <;> simp only [if_true, Bool.false_eq_true, if_false]
  all_goals
    split
    · rfl
    · split
      · rfl
      · first
          | exact (h _).trans rfl
          | (split
             · rfl
             · exact (h _).trans rfl)

theorem touchLines_mem (c : Nat) (l : List Nat) (s : State) : (s.touchLines c l).1.mem = s.mem := by
  induction l generalizing s with
  | nil => rfl
  | cons n t ih =>
    unfold State.touchLines
    simp only
    split
    · exact touchLine_mem s c n
    · rw [ih]; exact touchLine_mem s c n

/-- A first touch reserves, captures and marks its line; it changes no byte (R149). -/
@[simp] theorem touch_mem (s : State) (c : Nat) (ms : List Mapped) : (s.touch c ms).1.mem = s.mem := by
  unfold State.touch
  simp only
  split
  · rfl
  · exact touchLines_mem _ _ _

@[simp] theorem keyFetch_mem (s : State) (p : Nat) : (s.keyFetch p).mem = s.mem := by
  unfold State.keyFetch
  split
  · rfl
  · simp only
    split <;> rfl

theorem markPage_mem (s : State) (b : Bool) (pa : Nat) : (s.markPage b pa).mem = s.mem := by
  unfold State.markPage
  simp only
  split
  · rfl
  · exact keyFetch_mem s _

@[simp] theorem mark_mem (b : Bool) (ms : List Mapped) (s : State) : (s.mark b ms).mem = s.mem := by
  induction ms generalizing s with
  | nil => rfl
  | cons m t ih => exact (ih _).trans (markPage_mem s b m.pa)

@[simp] theorem setCore_mem (s : State) (c : Nat) (k : Core) : (s.setCore c k).mem = s.mem := rfl

@[simp] theorem keepFetched_mem (c : Nat) (n pa : Nat) (s : State) : (s.keepFetched c pa n).mem = s.mem := by
  induction n generalizing pa s with
  | zero => rfl
  | succ n ih => rw [State.keepFetched, ih]; rfl

-- ---------------------------------------------------------------- the store buffer and the commits

theorem corePoke_wf {s : State} (c pa : Nat) (l : List Byte) (h : Memory.wf s.mem = true) : Memory.wf (s.corePoke c pa l).mem = true := by
  unfold State.corePoke
  split
  · exact poke_wf _ _ (by rw [keepFetched_mem]; exact h)
  · exact poke_wf _ _ h

theorem drainOne_wf {s : State} (c : Nat) (h : Memory.wf s.mem = true) : Memory.wf (s.drainOne c).mem = true := by
  unfold State.drainOne
  split
  · exact h
  · exact corePoke_wf _ _ _ h

theorem drain_wf (n : Nat) {s : State} (c : Nat) (h : Memory.wf s.mem = true) : Memory.wf (s.drain c n).mem = true := by
  induction n generalizing s with
  | zero => exact h
  | succ n ih => exact ih (drainOne_wf c h)

theorem drainAll_wf {s : State} (c : Nat) (h : Memory.wf s.mem = true) : Memory.wf (s.drainAll c).mem = true := drain_wf _ c h

theorem pushStore_wf {s : State} (c : Nat) (e : SbEntry) (n : Nat) (h : Memory.wf s.mem = true) : Memory.wf (s.pushStore c e n).mem = true := by
  unfold State.pushStore; rw [setCore_mem]; exact drain_wf _ c h

theorem pushPieces_wf (ms : List Mapped) {s : State} (c : Nat) (l : List Byte) (h : Memory.wf s.mem = true) :
    Memory.wf (s.pushPieces c ms l).mem = true := by
  induction ms generalizing s l with
  | nil => exact h
  | cons m t ih => exact ih _ (pushStore_wf c _ _ h)

theorem pokePieces_wf (ms : List Mapped) {s : State} (c : Nat) (l : List Byte) (h : Memory.wf s.mem = true) :
    Memory.wf (s.pokePieces c ms l).mem = true := by
  induction ms generalizing s l with
  | nil => exact h
  | cons m t ih =>
    unfold State.pokePieces
    split
    · exact ih _ h
    · exact ih _ (corePoke_wf _ _ _ h)

theorem pokeAll_wf (c : Nat) (ws : List (List Mapped × List Byte)) {s : State} (h : Memory.wf s.mem = true) :
    Memory.wf (ws.foldl (fun a w => a.pokePieces c w.1 w.2) s).mem = true := by
  induction ws generalizing s with
  | nil => exact h
  | cons w t ih => exact ih (pokePieces_wf _ _ _ h)

/-- The states that performing a store may answer keep a property of states. -/
def StoreRes.keeps (p : State → Prop) : StoreRes → Prop
  | .ok u => p u
  | .wait u _ => p u
  | .trap u _ => p u
  | .undef _ => True

/-- A store through the buffer keeps the form, however it ends. -/
theorem performStore_wf {s : State} (c : Nat) (ms : List Mapped) (l : List Byte) (h : Memory.wf s.mem = true) :
    (s.performStore c ms l).keeps fun u => Memory.wf u.mem = true := by
  have hm : Memory.wf (s.meetStore ms).1.mem = true := by rw [meetStore_mem]; exact h
  have ht : Memory.wf ((s.meetStore ms).1.touch c ms).1.mem = true := by rw [touch_mem]; exact hm
  unfold State.performStore
  split
  · trivial
  · rcases h1 : (s.meetStore ms).2 with _ | cw <;> simp only [h1]
    · rcases h2 : ((s.meetStore ms).1.touch c ms).2 with _ | w <;> simp only
      · exact pushPieces_wf _ c _ (by rw [mark_mem]; exact ht)
      · exact ht
    · exact hm

/-- So do writes past the buffer. -/
theorem performAll_wf {s : State} (c : Nat) (ws : List (List Mapped × List Byte)) (h : Memory.wf s.mem = true) :
    (s.performAll c ws).keeps fun u => Memory.wf u.mem = true := by
  have hd := drainAll_wf c h
  have hm : Memory.wf ((s.drainAll c).meetStore ((ws.flatMap Prod.fst).filter fun m => m.type != 5)).1.mem = true := by rw [meetStore_mem]; exact hd
  have ht : Memory.wf ((((s.drainAll c).meetStore ((ws.flatMap Prod.fst).filter fun m => m.type != 5)).1).touch c (ws.flatMap Prod.fst)).1.mem = true := by
    rw [touch_mem]; exact hm
  unfold State.performAll
  rcases h1 : ((s.drainAll c).meetStore ((ws.flatMap Prod.fst).filter fun m => m.type != 5)).2 with _ | cw <;> simp only [h1]
  · rcases h2 : ((((s.drainAll c).meetStore ((ws.flatMap Prod.fst).filter fun m => m.type != 5)).1).touch c (ws.flatMap Prod.fst)).2 with _ | w <;> simp only
    · exact pokeAll_wf c ws (by rw [mark_mem]; exact ht)
    · exact ht
  · exact hm

/-- So does a commit. -/
theorem performCommit_wf {s : State} (c : Nat) (ws : List (List Mapped × List Byte)) (h : Memory.wf s.mem = true) :
    (s.performCommit c ws).keeps fun u => Memory.wf u.mem = true := by
  unfold State.performCommit
  split
  · trivial
  · exact performAll_wf c ws h

/-- A CASW that fails leaves memory with its buffered stores drained. -/
theorem performHeld_wf {s : State} (c : Nat) (ms : List Mapped) (h : Memory.wf s.mem = true) :
    (s.performHeld c ms).keeps fun u => Memory.wf u.mem = true := by
  have ht : Memory.wf ((s.drainAll c).touch c ms).1.mem = true := by rw [touch_mem]; exact drainAll_wf c h
  unfold State.performHeld
  rcases h2 : ((s.drainAll c).touch c ms).2 with _ | w <;> simp only [h2]
  · simp only [StoreRes.keeps, mark_mem]; exact ht
  · exact ht

-- ---------------------------------------------------------------- ranges

theorem clearRange_wf (lo n : Nat) {m : List Host.Cell} (h : Memory.wf m = true) : Memory.wf (clearRange lo n m) = true := Tab.wf_filter _ _ h

/-- Entries at or above a bound, moved by an offset, stay in order. -/
theorem shift_wf {m : List Host.Cell} {lo : Nat} (a b : Nat) (h : Tab.wfFrom 0#8 lo m = true) (ha : ∀ x ∈ m, a ≤ x.1) (hl : a ≤ lo) :
    Tab.wfFrom 0#8 (lo - a + b) (m.map fun x => (x.1 - a + b, x.2)) = true := by
  induction m generalizing lo with
  | nil => rfl
  | cons e t ih =>
    obtain ⟨k, v⟩ := e
    simp only [Tab.wfFrom, Bool.and_eq_true, decide_eq_true_eq] at h
    obtain ⟨⟨hk, hv⟩, ht⟩ := h
    simp only [List.map_cons, Tab.wfFrom, Bool.and_eq_true, decide_eq_true_eq]
    have hi := ih ht (fun x hx => ha x (List.mem_cons_of_mem _ hx)) (by omega)
    exact ⟨⟨by omega, hv⟩, by rw [show k - a + b + 1 = k + 1 - a + b by omega]; exact hi⟩

/-- Two tables in order, the first below a bound and the second from it on, are one. -/
theorem append_wf {m n : List Host.Cell} {lo mid : Nat} (hm : Tab.wfFrom 0#8 lo m = true) (hn : Tab.wfFrom 0#8 mid n = true)
    (hb : ∀ x ∈ m, x.1 < mid) (hl : lo ≤ mid) : Tab.wfFrom 0#8 lo (m ++ n) = true := by
  induction m generalizing lo with
  | nil => exact Tab.wfFrom_mono _ hn hl
  | cons e t ih =>
    obtain ⟨k, v⟩ := e
    simp only [Tab.wfFrom, Bool.and_eq_true, decide_eq_true_eq] at hm
    obtain ⟨⟨hk, hv⟩, ht⟩ := hm
    have hk' := hb (k, v) (List.mem_cons_self ..)
    simp only [List.cons_append, Tab.wfFrom, Bool.and_eq_true, decide_eq_true_eq]
    exact ⟨⟨hk, hv⟩, ih ht (fun x hx => hb x (List.mem_cons_of_mem _ hx)) (by simp only at hk'; omega)⟩

/-- A table whose entries all lie at or above a bound is in order from it. -/
theorem raise_wf {m : List Host.Cell} {lo hi : Nat} (h : Tab.wfFrom 0#8 lo m = true) (ha : ∀ x ∈ m, hi ≤ x.1) : Tab.wfFrom 0#8 hi m = true := by
  cases m with
  | nil => rfl
  | cons e t =>
    simp only [Tab.wfFrom, Bool.and_eq_true, decide_eq_true_eq] at h ⊢
    exact ⟨⟨ha e (List.mem_cons_self ..), h.1.2⟩, h.2⟩

/-- A range takes the contents of another (R531). -/
theorem copyRange_wf (lo n b : Nat) {m : List Host.Cell} (h : Memory.wf m = true) : Memory.wf (copyRange lo n b m) = true := by
  unfold copyRange shiftRange Memory.wf Tab.wf
  have hf := fun p => Tab.wfFrom_filter (lo := 0) (0#8) p h
  have h2 : Tab.wfFrom 0#8 b ((m.filter fun x => decide (lo ≤ x.1) && decide (x.1 < lo + n)).map fun x => (x.1 - lo + b, x.2)) = true := by
    have hr := raise_wf (hi := lo) (hf fun x => decide (lo ≤ x.1) && decide (x.1 < lo + n)) (by
      intro x hx; have := (List.mem_filter.mp hx).2; simp at this; omega)
    have := shift_wf lo b hr (by intro x hx; have := (List.mem_filter.mp hx).2; simp at this; omega) (Nat.le_refl _)
    simpa using this
  have h3 : Tab.wfFrom 0#8 (b + n) (m.filter fun x => decide (b + n ≤ x.1)) = true :=
    raise_wf (hf _) (by intro x hx; have := (List.mem_filter.mp hx).2; simpa using this)
  have h1 := append_wf (hf fun x => decide (x.1 < b)) h2 (by intro x hx; have := (List.mem_filter.mp hx).2; simpa using this) (Nat.zero_le _)
  refine append_wf h1 h3 ?_ (Nat.zero_le _)
  intro x hx
  rcases List.mem_append.mp hx with hx | hx
  · have := (List.mem_filter.mp hx).2; simp at this; omega
  · obtain ⟨y, hy, rfl⟩ := List.mem_map.mp hx
    have := (List.mem_filter.mp hy).2; simp at this ⊢; omega

theorem moveScratch_wf {s : State} (p q : Nat) (lost : Bool) (h : Memory.wf s.mem = true) : Memory.wf (s.moveScratch p q lost).mem = true := by
  unfold State.moveScratch
  simp only
  split
  · exact clearRange_wf _ _ h
  · exact copyRange_wf _ _ _ h

-- ---------------------------------------------------------------- power loss and recovery

theorem setDomain_mem (s : State) (d v : Nat) : (s.setDomain d v).mem = s.mem := by
  unfold State.setDomain
  split <;> rfl

theorem setDomains_mem (l : List Nat) (v : Nat) (s : State) : (l.foldl (fun a d => a.setDomain d v) s).mem = s.mem := by
  induction l generalizing s with
  | nil => rfl
  | cons d t ih => rw [List.foldl_cons, ih, setDomain_mem]

theorem switchOff_wf {s : State} (h : Memory.wf s.mem = true) : Memory.wf s.switchOff.mem = true := by
  unfold State.switchOff
  simp only [setDomains_mem]
  exact Tab.wf_filter _ _ h

theorem allOff_wf {s : State} (h : Memory.wf s.mem = true) : Memory.wf s.allOff.mem = true := by
  unfold State.allOff
  simp only [setDomains_mem]
  exact Tab.wf_filter _ _ h

theorem dropVolatile_wf {s : State} (h : Memory.wf s.mem = true) : Memory.wf s.dropVolatile.mem = true := Tab.wf_filter _ _ h

end Sys2Proof.Machine
end

