-- ==== Sys2Proof/Laws/State.lean ====
section
/-!
SUPPORT. What the machine's updates change and leave alone: one lemma per field and update, each true by its definition, and what an updated table
reads.
-/

namespace Sys2Proof.Machine

-- State.setCore
@[simp] theorem State.setCore_lcores (s : State) (c : Nat) (k : Core) : (s.setCore c k).lcores = s.lcores := rfl
@[simp] theorem State.setCore_mem (s : State) (c : Nat) (k : Core) : (s.setCore c k).mem = s.mem := rfl
@[simp] theorem State.setCore_keys (s : State) (c : Nat) (k : Core) : (s.setCore c k).keys = s.keys := rfl
@[simp] theorem State.setCore_keyCache (s : State) (c : Nat) (k : Core) : (s.setCore c k).keyCache = s.keyCache := rfl
@[simp] theorem State.setCore_keyMem (s : State) (c : Nat) (k : Core) : (s.setCore c k).keyMem = s.keyMem := rfl
@[simp] theorem State.setCore_stale (s : State) (c : Nat) (k : Core) : (s.setCore c k).stale = s.stale := rfl
@[simp] theorem State.setCore_upsets (s : State) (c : Nat) (k : Core) : (s.setCore c k).upsets = s.upsets := rfl
@[simp] theorem State.setCore_poison (s : State) (c : Nat) (k : Core) : (s.setCore c k).poison = s.poison := rfl
@[simp] theorem State.setCore_locks (s : State) (c : Nat) (k : Core) : (s.setCore c k).locks = s.locks := rfl
@[simp] theorem State.setCore_lockQueue (s : State) (c : Nat) (k : Core) : (s.setCore c k).lockQueue = s.lockQueue := rfl
@[simp] theorem State.setCore_timer (s : State) (c : Nat) (k : Core) : (s.setCore c k).timer = s.timer := rfl
@[simp] theorem State.setCore_plans (s : State) (c : Nat) (k : Core) : (s.setCore c k).plans = s.plans := rfl
@[simp] theorem State.setCore_adm (s : State) (c : Nat) (k : Core) : (s.setCore c k).adm = s.adm := rfl
@[simp] theorem State.setCore_perc (s : State) (c : Nat) (k : Core) : (s.setCore c k).perc = s.perc := rfl
@[simp] theorem State.setCore_carafe (s : State) (c : Nat) (k : Core) : (s.setCore c k).carafe = s.carafe := rfl
@[simp] theorem State.setCore_pf (s : State) (c : Nat) (k : Core) : (s.setCore c k).pf = s.pf := rfl
@[simp] theorem State.setCore_media (s : State) (c : Nat) (k : Core) : (s.setCore c k).media = s.media := rfl
@[simp] theorem State.setCore_egress (s : State) (c : Nat) (k : Core) : (s.setCore c k).egress = s.egress := rfl
@[simp] theorem State.setCore_zdp (s : State) (c : Nat) (k : Core) : (s.setCore c k).zdp = s.zdp := rfl
@[simp] theorem State.setCore_log (s : State) (c : Nat) (k : Core) : (s.setCore c k).log = s.log := rfl
@[simp] theorem State.setCore_barista (s : State) (c : Nat) (k : Core) : (s.setCore c k).barista = s.barista := rfl
@[simp] theorem State.setCore_micro (s : State) (c : Nat) (k : Core) : (s.setCore c k).micro = s.micro := rfl
@[simp] theorem State.setCore_repair (s : State) (c : Nat) (k : Core) : (s.setCore c k).repair = s.repair := rfl
@[simp] theorem State.setCore_power (s : State) (c : Nat) (k : Core) : (s.setCore c k).power = s.power := rfl
@[simp] theorem State.setCore_jtag (s : State) (c : Nat) (k : Core) : (s.setCore c k).jtag = s.jtag := rfl
@[simp] theorem State.setCore_obj (s : State) (c : Nat) (k : Core) : (s.setCore c k).obj = s.obj := rfl
@[simp] theorem State.setCore_nor (s : State) (c : Nat) (k : Core) : (s.setCore c k).nor = s.nor := rfl
@[simp] theorem State.setCore_domains (s : State) (c : Nat) (k : Core) : (s.setCore c k).domains = s.domains := rfl
@[simp] theorem State.setCore_ro (s : State) (c : Nat) (k : Core) : (s.setCore c k).ro = s.ro := rfl
@[simp] theorem State.setCore_out (s : State) (c : Nat) (k : Core) : (s.setCore c k).out = s.out := rfl
@[simp] theorem State.setCore_freeCtr (s : State) (c : Nat) (k : Core) : (s.setCore c k).freeCtr = s.freeCtr := rfl
@[simp] theorem State.setCore_pending (s : State) (c : Nat) (k : Core) : (s.setCore c k).pending = s.pending := rfl

-- State.setLcore
@[simp] theorem State.setLcore_cores (s : State) (l : Nat) (x : LCore) : (s.setLcore l x).cores = s.cores := rfl
@[simp] theorem State.setLcore_mem (s : State) (l : Nat) (x : LCore) : (s.setLcore l x).mem = s.mem := rfl
@[simp] theorem State.setLcore_keys (s : State) (l : Nat) (x : LCore) : (s.setLcore l x).keys = s.keys := rfl
@[simp] theorem State.setLcore_keyCache (s : State) (l : Nat) (x : LCore) : (s.setLcore l x).keyCache = s.keyCache := rfl
@[simp] theorem State.setLcore_keyMem (s : State) (l : Nat) (x : LCore) : (s.setLcore l x).keyMem = s.keyMem := rfl
@[simp] theorem State.setLcore_stale (s : State) (l : Nat) (x : LCore) : (s.setLcore l x).stale = s.stale := rfl
@[simp] theorem State.setLcore_upsets (s : State) (l : Nat) (x : LCore) : (s.setLcore l x).upsets = s.upsets := rfl
@[simp] theorem State.setLcore_poison (s : State) (l : Nat) (x : LCore) : (s.setLcore l x).poison = s.poison := rfl
@[simp] theorem State.setLcore_locks (s : State) (l : Nat) (x : LCore) : (s.setLcore l x).locks = s.locks := rfl
@[simp] theorem State.setLcore_lockQueue (s : State) (l : Nat) (x : LCore) : (s.setLcore l x).lockQueue = s.lockQueue := rfl
@[simp] theorem State.setLcore_timer (s : State) (l : Nat) (x : LCore) : (s.setLcore l x).timer = s.timer := rfl
@[simp] theorem State.setLcore_plans (s : State) (l : Nat) (x : LCore) : (s.setLcore l x).plans = s.plans := rfl
@[simp] theorem State.setLcore_adm (s : State) (l : Nat) (x : LCore) : (s.setLcore l x).adm = s.adm := rfl
@[simp] theorem State.setLcore_perc (s : State) (l : Nat) (x : LCore) : (s.setLcore l x).perc = s.perc := rfl
@[simp] theorem State.setLcore_carafe (s : State) (l : Nat) (x : LCore) : (s.setLcore l x).carafe = s.carafe := rfl
@[simp] theorem State.setLcore_pf (s : State) (l : Nat) (x : LCore) : (s.setLcore l x).pf = s.pf := rfl
@[simp] theorem State.setLcore_media (s : State) (l : Nat) (x : LCore) : (s.setLcore l x).media = s.media := rfl
@[simp] theorem State.setLcore_egress (s : State) (l : Nat) (x : LCore) : (s.setLcore l x).egress = s.egress := rfl
@[simp] theorem State.setLcore_zdp (s : State) (l : Nat) (x : LCore) : (s.setLcore l x).zdp = s.zdp := rfl
@[simp] theorem State.setLcore_log (s : State) (l : Nat) (x : LCore) : (s.setLcore l x).log = s.log := rfl
@[simp] theorem State.setLcore_barista (s : State) (l : Nat) (x : LCore) : (s.setLcore l x).barista = s.barista := rfl
@[simp] theorem State.setLcore_micro (s : State) (l : Nat) (x : LCore) : (s.setLcore l x).micro = s.micro := rfl
@[simp] theorem State.setLcore_repair (s : State) (l : Nat) (x : LCore) : (s.setLcore l x).repair = s.repair := rfl
@[simp] theorem State.setLcore_power (s : State) (l : Nat) (x : LCore) : (s.setLcore l x).power = s.power := rfl
@[simp] theorem State.setLcore_jtag (s : State) (l : Nat) (x : LCore) : (s.setLcore l x).jtag = s.jtag := rfl
@[simp] theorem State.setLcore_obj (s : State) (l : Nat) (x : LCore) : (s.setLcore l x).obj = s.obj := rfl
@[simp] theorem State.setLcore_nor (s : State) (l : Nat) (x : LCore) : (s.setLcore l x).nor = s.nor := rfl
@[simp] theorem State.setLcore_domains (s : State) (l : Nat) (x : LCore) : (s.setLcore l x).domains = s.domains := rfl
@[simp] theorem State.setLcore_ro (s : State) (l : Nat) (x : LCore) : (s.setLcore l x).ro = s.ro := rfl
@[simp] theorem State.setLcore_out (s : State) (l : Nat) (x : LCore) : (s.setLcore l x).out = s.out := rfl
@[simp] theorem State.setLcore_freeCtr (s : State) (l : Nat) (x : LCore) : (s.setLcore l x).freeCtr = s.freeCtr := rfl
@[simp] theorem State.setLcore_pending (s : State) (l : Nat) (x : LCore) : (s.setLcore l x).pending = s.pending := rfl

-- State.drawn
@[simp] theorem State.drawn_cores (s : State) : s.drawn.cores = s.cores := rfl
@[simp] theorem State.drawn_lcores (s : State) : s.drawn.lcores = s.lcores := rfl
@[simp] theorem State.drawn_mem (s : State) : s.drawn.mem = s.mem := rfl
@[simp] theorem State.drawn_keys (s : State) : s.drawn.keys = s.keys := rfl
@[simp] theorem State.drawn_keyCache (s : State) : s.drawn.keyCache = s.keyCache := rfl
@[simp] theorem State.drawn_keyMem (s : State) : s.drawn.keyMem = s.keyMem := rfl
@[simp] theorem State.drawn_stale (s : State) : s.drawn.stale = s.stale := rfl
@[simp] theorem State.drawn_upsets (s : State) : s.drawn.upsets = s.upsets := rfl
@[simp] theorem State.drawn_poison (s : State) : s.drawn.poison = s.poison := rfl
@[simp] theorem State.drawn_locks (s : State) : s.drawn.locks = s.locks := rfl
@[simp] theorem State.drawn_lockQueue (s : State) : s.drawn.lockQueue = s.lockQueue := rfl
@[simp] theorem State.drawn_timer (s : State) : s.drawn.timer = s.timer := rfl
@[simp] theorem State.drawn_plans (s : State) : s.drawn.plans = s.plans := rfl
@[simp] theorem State.drawn_adm (s : State) : s.drawn.adm = s.adm := rfl
@[simp] theorem State.drawn_perc (s : State) : s.drawn.perc = s.perc := rfl
@[simp] theorem State.drawn_carafe (s : State) : s.drawn.carafe = s.carafe := rfl
@[simp] theorem State.drawn_pf (s : State) : s.drawn.pf = s.pf := rfl
@[simp] theorem State.drawn_media (s : State) : s.drawn.media = s.media := rfl
@[simp] theorem State.drawn_egress (s : State) : s.drawn.egress = s.egress := rfl
@[simp] theorem State.drawn_zdp (s : State) : s.drawn.zdp = s.zdp := rfl
@[simp] theorem State.drawn_log (s : State) : s.drawn.log = s.log := rfl
@[simp] theorem State.drawn_barista (s : State) : s.drawn.barista = s.barista := rfl
@[simp] theorem State.drawn_micro (s : State) : s.drawn.micro = s.micro := rfl
@[simp] theorem State.drawn_repair (s : State) : s.drawn.repair = s.repair := rfl
@[simp] theorem State.drawn_power (s : State) : s.drawn.power = s.power := rfl
@[simp] theorem State.drawn_jtag (s : State) : s.drawn.jtag = s.jtag := rfl
@[simp] theorem State.drawn_obj (s : State) : s.drawn.obj = s.obj := rfl
@[simp] theorem State.drawn_nor (s : State) : s.drawn.nor = s.nor := rfl
@[simp] theorem State.drawn_domains (s : State) : s.drawn.domains = s.domains := rfl
@[simp] theorem State.drawn_ro (s : State) : s.drawn.ro = s.ro := rfl
@[simp] theorem State.drawn_out (s : State) : s.drawn.out = s.out := rfl
@[simp] theorem State.drawn_pending (s : State) : s.drawn.pending = s.pending := rfl

-- State.unlock
@[simp] theorem State.unlock_cores (s : State) (c : Nat) : (s.unlock c).cores = s.cores := rfl
@[simp] theorem State.unlock_lcores (s : State) (c : Nat) : (s.unlock c).lcores = s.lcores := rfl
@[simp] theorem State.unlock_mem (s : State) (c : Nat) : (s.unlock c).mem = s.mem := rfl
@[simp] theorem State.unlock_keys (s : State) (c : Nat) : (s.unlock c).keys = s.keys := rfl
@[simp] theorem State.unlock_keyCache (s : State) (c : Nat) : (s.unlock c).keyCache = s.keyCache := rfl
@[simp] theorem State.unlock_keyMem (s : State) (c : Nat) : (s.unlock c).keyMem = s.keyMem := rfl
@[simp] theorem State.unlock_stale (s : State) (c : Nat) : (s.unlock c).stale = s.stale := rfl
@[simp] theorem State.unlock_upsets (s : State) (c : Nat) : (s.unlock c).upsets = s.upsets := rfl
@[simp] theorem State.unlock_poison (s : State) (c : Nat) : (s.unlock c).poison = s.poison := rfl
@[simp] theorem State.unlock_timer (s : State) (c : Nat) : (s.unlock c).timer = s.timer := rfl
@[simp] theorem State.unlock_plans (s : State) (c : Nat) : (s.unlock c).plans = s.plans := rfl
@[simp] theorem State.unlock_adm (s : State) (c : Nat) : (s.unlock c).adm = s.adm := rfl
@[simp] theorem State.unlock_perc (s : State) (c : Nat) : (s.unlock c).perc = s.perc := rfl
@[simp] theorem State.unlock_carafe (s : State) (c : Nat) : (s.unlock c).carafe = s.carafe := rfl
@[simp] theorem State.unlock_pf (s : State) (c : Nat) : (s.unlock c).pf = s.pf := rfl
@[simp] theorem State.unlock_media (s : State) (c : Nat) : (s.unlock c).media = s.media := rfl
@[simp] theorem State.unlock_egress (s : State) (c : Nat) : (s.unlock c).egress = s.egress := rfl
@[simp] theorem State.unlock_zdp (s : State) (c : Nat) : (s.unlock c).zdp = s.zdp := rfl
@[simp] theorem State.unlock_log (s : State) (c : Nat) : (s.unlock c).log = s.log := rfl
@[simp] theorem State.unlock_barista (s : State) (c : Nat) : (s.unlock c).barista = s.barista := rfl
@[simp] theorem State.unlock_micro (s : State) (c : Nat) : (s.unlock c).micro = s.micro := rfl
@[simp] theorem State.unlock_repair (s : State) (c : Nat) : (s.unlock c).repair = s.repair := rfl
@[simp] theorem State.unlock_power (s : State) (c : Nat) : (s.unlock c).power = s.power := rfl
@[simp] theorem State.unlock_jtag (s : State) (c : Nat) : (s.unlock c).jtag = s.jtag := rfl
@[simp] theorem State.unlock_obj (s : State) (c : Nat) : (s.unlock c).obj = s.obj := rfl
@[simp] theorem State.unlock_nor (s : State) (c : Nat) : (s.unlock c).nor = s.nor := rfl
@[simp] theorem State.unlock_domains (s : State) (c : Nat) : (s.unlock c).domains = s.domains := rfl
@[simp] theorem State.unlock_ro (s : State) (c : Nat) : (s.unlock c).ro = s.ro := rfl
@[simp] theorem State.unlock_out (s : State) (c : Nat) : (s.unlock c).out = s.out := rfl
@[simp] theorem State.unlock_freeCtr (s : State) (c : Nat) : (s.unlock c).freeCtr = s.freeCtr := rfl
@[simp] theorem State.unlock_pending (s : State) (c : Nat) : (s.unlock c).pending = s.pending := rfl

-- State.setPartner
@[simp] theorem State.setPartner_cores (s : State) (n : Nat) (p : Partner) : (s.setPartner n p).cores = s.cores := rfl
@[simp] theorem State.setPartner_lcores (s : State) (n : Nat) (p : Partner) : (s.setPartner n p).lcores = s.lcores := rfl
@[simp] theorem State.setPartner_mem (s : State) (n : Nat) (p : Partner) : (s.setPartner n p).mem = s.mem := rfl
@[simp] theorem State.setPartner_keys (s : State) (n : Nat) (p : Partner) : (s.setPartner n p).keys = s.keys := rfl
@[simp] theorem State.setPartner_keyCache (s : State) (n : Nat) (p : Partner) : (s.setPartner n p).keyCache = s.keyCache := rfl
@[simp] theorem State.setPartner_keyMem (s : State) (n : Nat) (p : Partner) : (s.setPartner n p).keyMem = s.keyMem := rfl
@[simp] theorem State.setPartner_stale (s : State) (n : Nat) (p : Partner) : (s.setPartner n p).stale = s.stale := rfl
@[simp] theorem State.setPartner_upsets (s : State) (n : Nat) (p : Partner) : (s.setPartner n p).upsets = s.upsets := rfl
@[simp] theorem State.setPartner_poison (s : State) (n : Nat) (p : Partner) : (s.setPartner n p).poison = s.poison := rfl
@[simp] theorem State.setPartner_locks (s : State) (n : Nat) (p : Partner) : (s.setPartner n p).locks = s.locks := rfl
@[simp] theorem State.setPartner_lockQueue (s : State) (n : Nat) (p : Partner) : (s.setPartner n p).lockQueue = s.lockQueue := rfl
@[simp] theorem State.setPartner_timer (s : State) (n : Nat) (p : Partner) : (s.setPartner n p).timer = s.timer := rfl
@[simp] theorem State.setPartner_plans (s : State) (n : Nat) (p : Partner) : (s.setPartner n p).plans = s.plans := rfl
@[simp] theorem State.setPartner_perc (s : State) (n : Nat) (p : Partner) : (s.setPartner n p).perc = s.perc := rfl
@[simp] theorem State.setPartner_carafe (s : State) (n : Nat) (p : Partner) : (s.setPartner n p).carafe = s.carafe := rfl
@[simp] theorem State.setPartner_pf (s : State) (n : Nat) (p : Partner) : (s.setPartner n p).pf = s.pf := rfl
@[simp] theorem State.setPartner_media (s : State) (n : Nat) (p : Partner) : (s.setPartner n p).media = s.media := rfl
@[simp] theorem State.setPartner_egress (s : State) (n : Nat) (p : Partner) : (s.setPartner n p).egress = s.egress := rfl
@[simp] theorem State.setPartner_zdp (s : State) (n : Nat) (p : Partner) : (s.setPartner n p).zdp = s.zdp := rfl
@[simp] theorem State.setPartner_log (s : State) (n : Nat) (p : Partner) : (s.setPartner n p).log = s.log := rfl
@[simp] theorem State.setPartner_barista (s : State) (n : Nat) (p : Partner) : (s.setPartner n p).barista = s.barista := rfl
@[simp] theorem State.setPartner_micro (s : State) (n : Nat) (p : Partner) : (s.setPartner n p).micro = s.micro := rfl
@[simp] theorem State.setPartner_repair (s : State) (n : Nat) (p : Partner) : (s.setPartner n p).repair = s.repair := rfl
@[simp] theorem State.setPartner_power (s : State) (n : Nat) (p : Partner) : (s.setPartner n p).power = s.power := rfl
@[simp] theorem State.setPartner_jtag (s : State) (n : Nat) (p : Partner) : (s.setPartner n p).jtag = s.jtag := rfl
@[simp] theorem State.setPartner_obj (s : State) (n : Nat) (p : Partner) : (s.setPartner n p).obj = s.obj := rfl
@[simp] theorem State.setPartner_nor (s : State) (n : Nat) (p : Partner) : (s.setPartner n p).nor = s.nor := rfl
@[simp] theorem State.setPartner_domains (s : State) (n : Nat) (p : Partner) : (s.setPartner n p).domains = s.domains := rfl
@[simp] theorem State.setPartner_ro (s : State) (n : Nat) (p : Partner) : (s.setPartner n p).ro = s.ro := rfl
@[simp] theorem State.setPartner_out (s : State) (n : Nat) (p : Partner) : (s.setPartner n p).out = s.out := rfl
@[simp] theorem State.setPartner_freeCtr (s : State) (n : Nat) (p : Partner) : (s.setPartner n p).freeCtr = s.freeCtr := rfl
@[simp] theorem State.setPartner_pending (s : State) (n : Nat) (p : Partner) : (s.setPartner n p).pending = s.pending := rfl

-- State.setPageKey
@[simp] theorem State.setPageKey_cores (s : State) (n : Nat) (k : PageKey) : (s.setPageKey n k).cores = s.cores := rfl
@[simp] theorem State.setPageKey_lcores (s : State) (n : Nat) (k : PageKey) : (s.setPageKey n k).lcores = s.lcores := rfl
@[simp] theorem State.setPageKey_mem (s : State) (n : Nat) (k : PageKey) : (s.setPageKey n k).mem = s.mem := rfl
@[simp] theorem State.setPageKey_keyCache (s : State) (n : Nat) (k : PageKey) : (s.setPageKey n k).keyCache = s.keyCache := rfl
@[simp] theorem State.setPageKey_keyMem (s : State) (n : Nat) (k : PageKey) : (s.setPageKey n k).keyMem = s.keyMem := rfl
@[simp] theorem State.setPageKey_stale (s : State) (n : Nat) (k : PageKey) : (s.setPageKey n k).stale = s.stale := rfl
@[simp] theorem State.setPageKey_upsets (s : State) (n : Nat) (k : PageKey) : (s.setPageKey n k).upsets = s.upsets := rfl
@[simp] theorem State.setPageKey_poison (s : State) (n : Nat) (k : PageKey) : (s.setPageKey n k).poison = s.poison := rfl
@[simp] theorem State.setPageKey_locks (s : State) (n : Nat) (k : PageKey) : (s.setPageKey n k).locks = s.locks := rfl
@[simp] theorem State.setPageKey_lockQueue (s : State) (n : Nat) (k : PageKey) : (s.setPageKey n k).lockQueue = s.lockQueue := rfl
@[simp] theorem State.setPageKey_timer (s : State) (n : Nat) (k : PageKey) : (s.setPageKey n k).timer = s.timer := rfl
@[simp] theorem State.setPageKey_plans (s : State) (n : Nat) (k : PageKey) : (s.setPageKey n k).plans = s.plans := rfl
@[simp] theorem State.setPageKey_adm (s : State) (n : Nat) (k : PageKey) : (s.setPageKey n k).adm = s.adm := rfl
@[simp] theorem State.setPageKey_perc (s : State) (n : Nat) (k : PageKey) : (s.setPageKey n k).perc = s.perc := rfl
@[simp] theorem State.setPageKey_carafe (s : State) (n : Nat) (k : PageKey) : (s.setPageKey n k).carafe = s.carafe := rfl
@[simp] theorem State.setPageKey_pf (s : State) (n : Nat) (k : PageKey) : (s.setPageKey n k).pf = s.pf := rfl
@[simp] theorem State.setPageKey_media (s : State) (n : Nat) (k : PageKey) : (s.setPageKey n k).media = s.media := rfl
@[simp] theorem State.setPageKey_egress (s : State) (n : Nat) (k : PageKey) : (s.setPageKey n k).egress = s.egress := rfl
@[simp] theorem State.setPageKey_zdp (s : State) (n : Nat) (k : PageKey) : (s.setPageKey n k).zdp = s.zdp := rfl
@[simp] theorem State.setPageKey_log (s : State) (n : Nat) (k : PageKey) : (s.setPageKey n k).log = s.log := rfl
@[simp] theorem State.setPageKey_barista (s : State) (n : Nat) (k : PageKey) : (s.setPageKey n k).barista = s.barista := rfl
@[simp] theorem State.setPageKey_micro (s : State) (n : Nat) (k : PageKey) : (s.setPageKey n k).micro = s.micro := rfl
@[simp] theorem State.setPageKey_repair (s : State) (n : Nat) (k : PageKey) : (s.setPageKey n k).repair = s.repair := rfl
@[simp] theorem State.setPageKey_power (s : State) (n : Nat) (k : PageKey) : (s.setPageKey n k).power = s.power := rfl
@[simp] theorem State.setPageKey_jtag (s : State) (n : Nat) (k : PageKey) : (s.setPageKey n k).jtag = s.jtag := rfl
@[simp] theorem State.setPageKey_obj (s : State) (n : Nat) (k : PageKey) : (s.setPageKey n k).obj = s.obj := rfl
@[simp] theorem State.setPageKey_nor (s : State) (n : Nat) (k : PageKey) : (s.setPageKey n k).nor = s.nor := rfl
@[simp] theorem State.setPageKey_domains (s : State) (n : Nat) (k : PageKey) : (s.setPageKey n k).domains = s.domains := rfl
@[simp] theorem State.setPageKey_ro (s : State) (n : Nat) (k : PageKey) : (s.setPageKey n k).ro = s.ro := rfl
@[simp] theorem State.setPageKey_out (s : State) (n : Nat) (k : PageKey) : (s.setPageKey n k).out = s.out := rfl
@[simp] theorem State.setPageKey_freeCtr (s : State) (n : Nat) (k : PageKey) : (s.setPageKey n k).freeCtr = s.freeCtr := rfl
@[simp] theorem State.setPageKey_pending (s : State) (n : Nat) (k : PageKey) : (s.setPageKey n k).pending = s.pending := rfl

-- State.clearWord
@[simp] theorem State.clearWord_cores (s : State) (w : Nat) : (s.clearWord w).cores = s.cores := rfl
@[simp] theorem State.clearWord_lcores (s : State) (w : Nat) : (s.clearWord w).lcores = s.lcores := rfl
@[simp] theorem State.clearWord_mem (s : State) (w : Nat) : (s.clearWord w).mem = s.mem := rfl
@[simp] theorem State.clearWord_keys (s : State) (w : Nat) : (s.clearWord w).keys = s.keys := rfl
@[simp] theorem State.clearWord_keyCache (s : State) (w : Nat) : (s.clearWord w).keyCache = s.keyCache := rfl
@[simp] theorem State.clearWord_keyMem (s : State) (w : Nat) : (s.clearWord w).keyMem = s.keyMem := rfl
@[simp] theorem State.clearWord_stale (s : State) (w : Nat) : (s.clearWord w).stale = s.stale := rfl
@[simp] theorem State.clearWord_locks (s : State) (w : Nat) : (s.clearWord w).locks = s.locks := rfl
@[simp] theorem State.clearWord_lockQueue (s : State) (w : Nat) : (s.clearWord w).lockQueue = s.lockQueue := rfl
@[simp] theorem State.clearWord_timer (s : State) (w : Nat) : (s.clearWord w).timer = s.timer := rfl
@[simp] theorem State.clearWord_plans (s : State) (w : Nat) : (s.clearWord w).plans = s.plans := rfl
@[simp] theorem State.clearWord_adm (s : State) (w : Nat) : (s.clearWord w).adm = s.adm := rfl
@[simp] theorem State.clearWord_perc (s : State) (w : Nat) : (s.clearWord w).perc = s.perc := rfl
@[simp] theorem State.clearWord_carafe (s : State) (w : Nat) : (s.clearWord w).carafe = s.carafe := rfl
@[simp] theorem State.clearWord_pf (s : State) (w : Nat) : (s.clearWord w).pf = s.pf := rfl
@[simp] theorem State.clearWord_media (s : State) (w : Nat) : (s.clearWord w).media = s.media := rfl
@[simp] theorem State.clearWord_egress (s : State) (w : Nat) : (s.clearWord w).egress = s.egress := rfl
@[simp] theorem State.clearWord_zdp (s : State) (w : Nat) : (s.clearWord w).zdp = s.zdp := rfl
@[simp] theorem State.clearWord_log (s : State) (w : Nat) : (s.clearWord w).log = s.log := rfl
@[simp] theorem State.clearWord_barista (s : State) (w : Nat) : (s.clearWord w).barista = s.barista := rfl
@[simp] theorem State.clearWord_micro (s : State) (w : Nat) : (s.clearWord w).micro = s.micro := rfl
@[simp] theorem State.clearWord_repair (s : State) (w : Nat) : (s.clearWord w).repair = s.repair := rfl
@[simp] theorem State.clearWord_power (s : State) (w : Nat) : (s.clearWord w).power = s.power := rfl
@[simp] theorem State.clearWord_jtag (s : State) (w : Nat) : (s.clearWord w).jtag = s.jtag := rfl
@[simp] theorem State.clearWord_obj (s : State) (w : Nat) : (s.clearWord w).obj = s.obj := rfl
@[simp] theorem State.clearWord_nor (s : State) (w : Nat) : (s.clearWord w).nor = s.nor := rfl
@[simp] theorem State.clearWord_domains (s : State) (w : Nat) : (s.clearWord w).domains = s.domains := rfl
@[simp] theorem State.clearWord_ro (s : State) (w : Nat) : (s.clearWord w).ro = s.ro := rfl
@[simp] theorem State.clearWord_out (s : State) (w : Nat) : (s.clearWord w).out = s.out := rfl
@[simp] theorem State.clearWord_freeCtr (s : State) (w : Nat) : (s.clearWord w).freeCtr = s.freeCtr := rfl
@[simp] theorem State.clearWord_pending (s : State) (w : Nat) : (s.clearWord w).pending = s.pending := rfl

-- State.roSet
@[simp] theorem State.roSet_cores (s : State) (key v : Nat) : (s.roSet key v).cores = s.cores := rfl
@[simp] theorem State.roSet_lcores (s : State) (key v : Nat) : (s.roSet key v).lcores = s.lcores := rfl
@[simp] theorem State.roSet_mem (s : State) (key v : Nat) : (s.roSet key v).mem = s.mem := rfl
@[simp] theorem State.roSet_keys (s : State) (key v : Nat) : (s.roSet key v).keys = s.keys := rfl
@[simp] theorem State.roSet_keyCache (s : State) (key v : Nat) : (s.roSet key v).keyCache = s.keyCache := rfl
@[simp] theorem State.roSet_keyMem (s : State) (key v : Nat) : (s.roSet key v).keyMem = s.keyMem := rfl
@[simp] theorem State.roSet_stale (s : State) (key v : Nat) : (s.roSet key v).stale = s.stale := rfl
@[simp] theorem State.roSet_upsets (s : State) (key v : Nat) : (s.roSet key v).upsets = s.upsets := rfl
@[simp] theorem State.roSet_poison (s : State) (key v : Nat) : (s.roSet key v).poison = s.poison := rfl
@[simp] theorem State.roSet_locks (s : State) (key v : Nat) : (s.roSet key v).locks = s.locks := rfl
@[simp] theorem State.roSet_lockQueue (s : State) (key v : Nat) : (s.roSet key v).lockQueue = s.lockQueue := rfl
@[simp] theorem State.roSet_timer (s : State) (key v : Nat) : (s.roSet key v).timer = s.timer := rfl
@[simp] theorem State.roSet_plans (s : State) (key v : Nat) : (s.roSet key v).plans = s.plans := rfl
@[simp] theorem State.roSet_adm (s : State) (key v : Nat) : (s.roSet key v).adm = s.adm := rfl
@[simp] theorem State.roSet_perc (s : State) (key v : Nat) : (s.roSet key v).perc = s.perc := rfl
@[simp] theorem State.roSet_carafe (s : State) (key v : Nat) : (s.roSet key v).carafe = s.carafe := rfl
@[simp] theorem State.roSet_pf (s : State) (key v : Nat) : (s.roSet key v).pf = s.pf := rfl
@[simp] theorem State.roSet_media (s : State) (key v : Nat) : (s.roSet key v).media = s.media := rfl
@[simp] theorem State.roSet_egress (s : State) (key v : Nat) : (s.roSet key v).egress = s.egress := rfl
@[simp] theorem State.roSet_zdp (s : State) (key v : Nat) : (s.roSet key v).zdp = s.zdp := rfl
@[simp] theorem State.roSet_log (s : State) (key v : Nat) : (s.roSet key v).log = s.log := rfl
@[simp] theorem State.roSet_barista (s : State) (key v : Nat) : (s.roSet key v).barista = s.barista := rfl
@[simp] theorem State.roSet_micro (s : State) (key v : Nat) : (s.roSet key v).micro = s.micro := rfl
@[simp] theorem State.roSet_repair (s : State) (key v : Nat) : (s.roSet key v).repair = s.repair := rfl
@[simp] theorem State.roSet_power (s : State) (key v : Nat) : (s.roSet key v).power = s.power := rfl
@[simp] theorem State.roSet_jtag (s : State) (key v : Nat) : (s.roSet key v).jtag = s.jtag := rfl
@[simp] theorem State.roSet_obj (s : State) (key v : Nat) : (s.roSet key v).obj = s.obj := rfl
@[simp] theorem State.roSet_nor (s : State) (key v : Nat) : (s.roSet key v).nor = s.nor := rfl
@[simp] theorem State.roSet_domains (s : State) (key v : Nat) : (s.roSet key v).domains = s.domains := rfl
@[simp] theorem State.roSet_out (s : State) (key v : Nat) : (s.roSet key v).out = s.out := rfl
@[simp] theorem State.roSet_freeCtr (s : State) (key v : Nat) : (s.roSet key v).freeCtr = s.freeCtr := rfl
@[simp] theorem State.roSet_pending (s : State) (key v : Nat) : (s.roSet key v).pending = s.pending := rfl

-- State.count
@[simp] theorem State.count_cores (s : State) (key n bits : Nat) : (s.count key n bits).cores = s.cores := rfl
@[simp] theorem State.count_lcores (s : State) (key n bits : Nat) : (s.count key n bits).lcores = s.lcores := rfl
@[simp] theorem State.count_mem (s : State) (key n bits : Nat) : (s.count key n bits).mem = s.mem := rfl
@[simp] theorem State.count_keys (s : State) (key n bits : Nat) : (s.count key n bits).keys = s.keys := rfl
@[simp] theorem State.count_keyCache (s : State) (key n bits : Nat) : (s.count key n bits).keyCache = s.keyCache := rfl
@[simp] theorem State.count_keyMem (s : State) (key n bits : Nat) : (s.count key n bits).keyMem = s.keyMem := rfl
@[simp] theorem State.count_stale (s : State) (key n bits : Nat) : (s.count key n bits).stale = s.stale := rfl
@[simp] theorem State.count_upsets (s : State) (key n bits : Nat) : (s.count key n bits).upsets = s.upsets := rfl
@[simp] theorem State.count_poison (s : State) (key n bits : Nat) : (s.count key n bits).poison = s.poison := rfl
@[simp] theorem State.count_locks (s : State) (key n bits : Nat) : (s.count key n bits).locks = s.locks := rfl
@[simp] theorem State.count_lockQueue (s : State) (key n bits : Nat) : (s.count key n bits).lockQueue = s.lockQueue := rfl
@[simp] theorem State.count_timer (s : State) (key n bits : Nat) : (s.count key n bits).timer = s.timer := rfl
@[simp] theorem State.count_plans (s : State) (key n bits : Nat) : (s.count key n bits).plans = s.plans := rfl
@[simp] theorem State.count_adm (s : State) (key n bits : Nat) : (s.count key n bits).adm = s.adm := rfl
@[simp] theorem State.count_perc (s : State) (key n bits : Nat) : (s.count key n bits).perc = s.perc := rfl
@[simp] theorem State.count_carafe (s : State) (key n bits : Nat) : (s.count key n bits).carafe = s.carafe := rfl
@[simp] theorem State.count_pf (s : State) (key n bits : Nat) : (s.count key n bits).pf = s.pf := rfl
@[simp] theorem State.count_media (s : State) (key n bits : Nat) : (s.count key n bits).media = s.media := rfl
@[simp] theorem State.count_egress (s : State) (key n bits : Nat) : (s.count key n bits).egress = s.egress := rfl
@[simp] theorem State.count_zdp (s : State) (key n bits : Nat) : (s.count key n bits).zdp = s.zdp := rfl
@[simp] theorem State.count_log (s : State) (key n bits : Nat) : (s.count key n bits).log = s.log := rfl
@[simp] theorem State.count_barista (s : State) (key n bits : Nat) : (s.count key n bits).barista = s.barista := rfl
@[simp] theorem State.count_micro (s : State) (key n bits : Nat) : (s.count key n bits).micro = s.micro := rfl
@[simp] theorem State.count_repair (s : State) (key n bits : Nat) : (s.count key n bits).repair = s.repair := rfl
@[simp] theorem State.count_power (s : State) (key n bits : Nat) : (s.count key n bits).power = s.power := rfl
@[simp] theorem State.count_jtag (s : State) (key n bits : Nat) : (s.count key n bits).jtag = s.jtag := rfl
@[simp] theorem State.count_obj (s : State) (key n bits : Nat) : (s.count key n bits).obj = s.obj := rfl
@[simp] theorem State.count_nor (s : State) (key n bits : Nat) : (s.count key n bits).nor = s.nor := rfl
@[simp] theorem State.count_domains (s : State) (key n bits : Nat) : (s.count key n bits).domains = s.domains := rfl
@[simp] theorem State.count_out (s : State) (key n bits : Nat) : (s.count key n bits).out = s.out := rfl
@[simp] theorem State.count_freeCtr (s : State) (key n bits : Nat) : (s.count key n bits).freeCtr = s.freeCtr := rfl
@[simp] theorem State.count_pending (s : State) (key n bits : Nat) : (s.count key n bits).pending = s.pending := rfl

-- State.logEvent
@[simp] theorem State.logEvent_cores (s : State) (code sev : Nat) (l : List Byte) (p : List (Nat × List Byte)) : (s.logEvent code sev l p).cores = s.cores := rfl
@[simp] theorem State.logEvent_lcores (s : State) (code sev : Nat) (l : List Byte) (p : List (Nat × List Byte)) : (s.logEvent code sev l p).lcores = s.lcores := rfl
@[simp] theorem State.logEvent_mem (s : State) (code sev : Nat) (l : List Byte) (p : List (Nat × List Byte)) : (s.logEvent code sev l p).mem = s.mem := rfl
@[simp] theorem State.logEvent_keys (s : State) (code sev : Nat) (l : List Byte) (p : List (Nat × List Byte)) : (s.logEvent code sev l p).keys = s.keys := rfl
@[simp] theorem State.logEvent_keyCache (s : State) (code sev : Nat) (l : List Byte) (p : List (Nat × List Byte)) : (s.logEvent code sev l p).keyCache = s.keyCache := rfl
@[simp] theorem State.logEvent_keyMem (s : State) (code sev : Nat) (l : List Byte) (p : List (Nat × List Byte)) : (s.logEvent code sev l p).keyMem = s.keyMem := rfl
@[simp] theorem State.logEvent_stale (s : State) (code sev : Nat) (l : List Byte) (p : List (Nat × List Byte)) : (s.logEvent code sev l p).stale = s.stale := rfl
@[simp] theorem State.logEvent_upsets (s : State) (code sev : Nat) (l : List Byte) (p : List (Nat × List Byte)) : (s.logEvent code sev l p).upsets = s.upsets := rfl
@[simp] theorem State.logEvent_poison (s : State) (code sev : Nat) (l : List Byte) (p : List (Nat × List Byte)) : (s.logEvent code sev l p).poison = s.poison := rfl
@[simp] theorem State.logEvent_locks (s : State) (code sev : Nat) (l : List Byte) (p : List (Nat × List Byte)) : (s.logEvent code sev l p).locks = s.locks := rfl
@[simp] theorem State.logEvent_lockQueue (s : State) (code sev : Nat) (l : List Byte) (p : List (Nat × List Byte)) : (s.logEvent code sev l p).lockQueue = s.lockQueue := rfl
@[simp] theorem State.logEvent_timer (s : State) (code sev : Nat) (l : List Byte) (p : List (Nat × List Byte)) : (s.logEvent code sev l p).timer = s.timer := rfl
@[simp] theorem State.logEvent_plans (s : State) (code sev : Nat) (l : List Byte) (p : List (Nat × List Byte)) : (s.logEvent code sev l p).plans = s.plans := rfl
@[simp] theorem State.logEvent_adm (s : State) (code sev : Nat) (l : List Byte) (p : List (Nat × List Byte)) : (s.logEvent code sev l p).adm = s.adm := rfl
@[simp] theorem State.logEvent_perc (s : State) (code sev : Nat) (l : List Byte) (p : List (Nat × List Byte)) : (s.logEvent code sev l p).perc = s.perc := rfl
@[simp] theorem State.logEvent_carafe (s : State) (code sev : Nat) (l : List Byte) (p : List (Nat × List Byte)) : (s.logEvent code sev l p).carafe = s.carafe := rfl
@[simp] theorem State.logEvent_pf (s : State) (code sev : Nat) (l : List Byte) (p : List (Nat × List Byte)) : (s.logEvent code sev l p).pf = s.pf := rfl
@[simp] theorem State.logEvent_media (s : State) (code sev : Nat) (l : List Byte) (p : List (Nat × List Byte)) : (s.logEvent code sev l p).media = s.media := rfl
@[simp] theorem State.logEvent_egress (s : State) (code sev : Nat) (l : List Byte) (p : List (Nat × List Byte)) : (s.logEvent code sev l p).egress = s.egress := rfl
@[simp] theorem State.logEvent_zdp (s : State) (code sev : Nat) (l : List Byte) (p : List (Nat × List Byte)) : (s.logEvent code sev l p).zdp = s.zdp := rfl
@[simp] theorem State.logEvent_barista (s : State) (code sev : Nat) (l : List Byte) (p : List (Nat × List Byte)) : (s.logEvent code sev l p).barista = s.barista := rfl
@[simp] theorem State.logEvent_micro (s : State) (code sev : Nat) (l : List Byte) (p : List (Nat × List Byte)) : (s.logEvent code sev l p).micro = s.micro := rfl
@[simp] theorem State.logEvent_repair (s : State) (code sev : Nat) (l : List Byte) (p : List (Nat × List Byte)) : (s.logEvent code sev l p).repair = s.repair := rfl
@[simp] theorem State.logEvent_power (s : State) (code sev : Nat) (l : List Byte) (p : List (Nat × List Byte)) : (s.logEvent code sev l p).power = s.power := rfl
@[simp] theorem State.logEvent_jtag (s : State) (code sev : Nat) (l : List Byte) (p : List (Nat × List Byte)) : (s.logEvent code sev l p).jtag = s.jtag := rfl
@[simp] theorem State.logEvent_obj (s : State) (code sev : Nat) (l : List Byte) (p : List (Nat × List Byte)) : (s.logEvent code sev l p).obj = s.obj := rfl
@[simp] theorem State.logEvent_nor (s : State) (code sev : Nat) (l : List Byte) (p : List (Nat × List Byte)) : (s.logEvent code sev l p).nor = s.nor := rfl
@[simp] theorem State.logEvent_domains (s : State) (code sev : Nat) (l : List Byte) (p : List (Nat × List Byte)) : (s.logEvent code sev l p).domains = s.domains := rfl
@[simp] theorem State.logEvent_ro (s : State) (code sev : Nat) (l : List Byte) (p : List (Nat × List Byte)) : (s.logEvent code sev l p).ro = s.ro := rfl
@[simp] theorem State.logEvent_out (s : State) (code sev : Nat) (l : List Byte) (p : List (Nat × List Byte)) : (s.logEvent code sev l p).out = s.out := rfl
@[simp] theorem State.logEvent_freeCtr (s : State) (code sev : Nat) (l : List Byte) (p : List (Nat × List Byte)) : (s.logEvent code sev l p).freeCtr = s.freeCtr := rfl
@[simp] theorem State.logEvent_pending (s : State) (code sev : Nat) (l : List Byte) (p : List (Nat × List Byte)) : (s.logEvent code sev l p).pending = s.pending := rfl

-- State.setGroup
@[simp] theorem State.setGroup_cores (s : State) (g : Nat) (x : Group) : (s.setGroup g x).cores = s.cores := rfl
@[simp] theorem State.setGroup_lcores (s : State) (g : Nat) (x : Group) : (s.setGroup g x).lcores = s.lcores := rfl
@[simp] theorem State.setGroup_mem (s : State) (g : Nat) (x : Group) : (s.setGroup g x).mem = s.mem := rfl
@[simp] theorem State.setGroup_keys (s : State) (g : Nat) (x : Group) : (s.setGroup g x).keys = s.keys := rfl
@[simp] theorem State.setGroup_keyCache (s : State) (g : Nat) (x : Group) : (s.setGroup g x).keyCache = s.keyCache := rfl
@[simp] theorem State.setGroup_keyMem (s : State) (g : Nat) (x : Group) : (s.setGroup g x).keyMem = s.keyMem := rfl
@[simp] theorem State.setGroup_stale (s : State) (g : Nat) (x : Group) : (s.setGroup g x).stale = s.stale := rfl
@[simp] theorem State.setGroup_upsets (s : State) (g : Nat) (x : Group) : (s.setGroup g x).upsets = s.upsets := rfl
@[simp] theorem State.setGroup_poison (s : State) (g : Nat) (x : Group) : (s.setGroup g x).poison = s.poison := rfl
@[simp] theorem State.setGroup_locks (s : State) (g : Nat) (x : Group) : (s.setGroup g x).locks = s.locks := rfl
@[simp] theorem State.setGroup_lockQueue (s : State) (g : Nat) (x : Group) : (s.setGroup g x).lockQueue = s.lockQueue := rfl
@[simp] theorem State.setGroup_timer (s : State) (g : Nat) (x : Group) : (s.setGroup g x).timer = s.timer := rfl
@[simp] theorem State.setGroup_plans (s : State) (g : Nat) (x : Group) : (s.setGroup g x).plans = s.plans := rfl
@[simp] theorem State.setGroup_adm (s : State) (g : Nat) (x : Group) : (s.setGroup g x).adm = s.adm := rfl
@[simp] theorem State.setGroup_perc (s : State) (g : Nat) (x : Group) : (s.setGroup g x).perc = s.perc := rfl
@[simp] theorem State.setGroup_carafe (s : State) (g : Nat) (x : Group) : (s.setGroup g x).carafe = s.carafe := rfl
@[simp] theorem State.setGroup_pf (s : State) (g : Nat) (x : Group) : (s.setGroup g x).pf = s.pf := rfl
@[simp] theorem State.setGroup_egress (s : State) (g : Nat) (x : Group) : (s.setGroup g x).egress = s.egress := rfl
@[simp] theorem State.setGroup_zdp (s : State) (g : Nat) (x : Group) : (s.setGroup g x).zdp = s.zdp := rfl
@[simp] theorem State.setGroup_log (s : State) (g : Nat) (x : Group) : (s.setGroup g x).log = s.log := rfl
@[simp] theorem State.setGroup_barista (s : State) (g : Nat) (x : Group) : (s.setGroup g x).barista = s.barista := rfl
@[simp] theorem State.setGroup_micro (s : State) (g : Nat) (x : Group) : (s.setGroup g x).micro = s.micro := rfl
@[simp] theorem State.setGroup_repair (s : State) (g : Nat) (x : Group) : (s.setGroup g x).repair = s.repair := rfl
@[simp] theorem State.setGroup_power (s : State) (g : Nat) (x : Group) : (s.setGroup g x).power = s.power := rfl
@[simp] theorem State.setGroup_jtag (s : State) (g : Nat) (x : Group) : (s.setGroup g x).jtag = s.jtag := rfl
@[simp] theorem State.setGroup_obj (s : State) (g : Nat) (x : Group) : (s.setGroup g x).obj = s.obj := rfl
@[simp] theorem State.setGroup_nor (s : State) (g : Nat) (x : Group) : (s.setGroup g x).nor = s.nor := rfl
@[simp] theorem State.setGroup_domains (s : State) (g : Nat) (x : Group) : (s.setGroup g x).domains = s.domains := rfl
@[simp] theorem State.setGroup_ro (s : State) (g : Nat) (x : Group) : (s.setGroup g x).ro = s.ro := rfl
@[simp] theorem State.setGroup_out (s : State) (g : Nat) (x : Group) : (s.setGroup g x).out = s.out := rfl
@[simp] theorem State.setGroup_freeCtr (s : State) (g : Nat) (x : Group) : (s.setGroup g x).freeCtr = s.freeCtr := rfl
@[simp] theorem State.setGroup_pending (s : State) (g : Nat) (x : Group) : (s.setGroup g x).pending = s.pending := rfl

-- State.setLun
@[simp] theorem State.setLun_cores (s : State) (n : Nat) (x : Lun) : (s.setLun n x).cores = s.cores := rfl
@[simp] theorem State.setLun_lcores (s : State) (n : Nat) (x : Lun) : (s.setLun n x).lcores = s.lcores := rfl
@[simp] theorem State.setLun_mem (s : State) (n : Nat) (x : Lun) : (s.setLun n x).mem = s.mem := rfl
@[simp] theorem State.setLun_keys (s : State) (n : Nat) (x : Lun) : (s.setLun n x).keys = s.keys := rfl
@[simp] theorem State.setLun_keyCache (s : State) (n : Nat) (x : Lun) : (s.setLun n x).keyCache = s.keyCache := rfl
@[simp] theorem State.setLun_keyMem (s : State) (n : Nat) (x : Lun) : (s.setLun n x).keyMem = s.keyMem := rfl
@[simp] theorem State.setLun_stale (s : State) (n : Nat) (x : Lun) : (s.setLun n x).stale = s.stale := rfl
@[simp] theorem State.setLun_upsets (s : State) (n : Nat) (x : Lun) : (s.setLun n x).upsets = s.upsets := rfl
@[simp] theorem State.setLun_poison (s : State) (n : Nat) (x : Lun) : (s.setLun n x).poison = s.poison := rfl
@[simp] theorem State.setLun_locks (s : State) (n : Nat) (x : Lun) : (s.setLun n x).locks = s.locks := rfl
@[simp] theorem State.setLun_lockQueue (s : State) (n : Nat) (x : Lun) : (s.setLun n x).lockQueue = s.lockQueue := rfl
@[simp] theorem State.setLun_timer (s : State) (n : Nat) (x : Lun) : (s.setLun n x).timer = s.timer := rfl
@[simp] theorem State.setLun_plans (s : State) (n : Nat) (x : Lun) : (s.setLun n x).plans = s.plans := rfl
@[simp] theorem State.setLun_adm (s : State) (n : Nat) (x : Lun) : (s.setLun n x).adm = s.adm := rfl
@[simp] theorem State.setLun_perc (s : State) (n : Nat) (x : Lun) : (s.setLun n x).perc = s.perc := rfl
@[simp] theorem State.setLun_carafe (s : State) (n : Nat) (x : Lun) : (s.setLun n x).carafe = s.carafe := rfl
@[simp] theorem State.setLun_pf (s : State) (n : Nat) (x : Lun) : (s.setLun n x).pf = s.pf := rfl
@[simp] theorem State.setLun_egress (s : State) (n : Nat) (x : Lun) : (s.setLun n x).egress = s.egress := rfl
@[simp] theorem State.setLun_zdp (s : State) (n : Nat) (x : Lun) : (s.setLun n x).zdp = s.zdp := rfl
@[simp] theorem State.setLun_log (s : State) (n : Nat) (x : Lun) : (s.setLun n x).log = s.log := rfl
@[simp] theorem State.setLun_barista (s : State) (n : Nat) (x : Lun) : (s.setLun n x).barista = s.barista := rfl
@[simp] theorem State.setLun_micro (s : State) (n : Nat) (x : Lun) : (s.setLun n x).micro = s.micro := rfl
@[simp] theorem State.setLun_repair (s : State) (n : Nat) (x : Lun) : (s.setLun n x).repair = s.repair := rfl
@[simp] theorem State.setLun_power (s : State) (n : Nat) (x : Lun) : (s.setLun n x).power = s.power := rfl
@[simp] theorem State.setLun_jtag (s : State) (n : Nat) (x : Lun) : (s.setLun n x).jtag = s.jtag := rfl
@[simp] theorem State.setLun_obj (s : State) (n : Nat) (x : Lun) : (s.setLun n x).obj = s.obj := rfl
@[simp] theorem State.setLun_nor (s : State) (n : Nat) (x : Lun) : (s.setLun n x).nor = s.nor := rfl
@[simp] theorem State.setLun_domains (s : State) (n : Nat) (x : Lun) : (s.setLun n x).domains = s.domains := rfl
@[simp] theorem State.setLun_ro (s : State) (n : Nat) (x : Lun) : (s.setLun n x).ro = s.ro := rfl
@[simp] theorem State.setLun_out (s : State) (n : Nat) (x : Lun) : (s.setLun n x).out = s.out := rfl
@[simp] theorem State.setLun_freeCtr (s : State) (n : Nat) (x : Lun) : (s.setLun n x).freeCtr = s.freeCtr := rfl
@[simp] theorem State.setLun_pending (s : State) (n : Nat) (x : Lun) : (s.setLun n x).pending = s.pending := rfl

-- State.setChan
@[simp] theorem State.setChan_cores (s : State) (n : Nat) (x : Chan) : (s.setChan n x).cores = s.cores := rfl
@[simp] theorem State.setChan_lcores (s : State) (n : Nat) (x : Chan) : (s.setChan n x).lcores = s.lcores := rfl
@[simp] theorem State.setChan_mem (s : State) (n : Nat) (x : Chan) : (s.setChan n x).mem = s.mem := rfl
@[simp] theorem State.setChan_keys (s : State) (n : Nat) (x : Chan) : (s.setChan n x).keys = s.keys := rfl
@[simp] theorem State.setChan_keyCache (s : State) (n : Nat) (x : Chan) : (s.setChan n x).keyCache = s.keyCache := rfl
@[simp] theorem State.setChan_keyMem (s : State) (n : Nat) (x : Chan) : (s.setChan n x).keyMem = s.keyMem := rfl
@[simp] theorem State.setChan_stale (s : State) (n : Nat) (x : Chan) : (s.setChan n x).stale = s.stale := rfl
@[simp] theorem State.setChan_upsets (s : State) (n : Nat) (x : Chan) : (s.setChan n x).upsets = s.upsets := rfl
@[simp] theorem State.setChan_poison (s : State) (n : Nat) (x : Chan) : (s.setChan n x).poison = s.poison := rfl
@[simp] theorem State.setChan_locks (s : State) (n : Nat) (x : Chan) : (s.setChan n x).locks = s.locks := rfl
@[simp] theorem State.setChan_lockQueue (s : State) (n : Nat) (x : Chan) : (s.setChan n x).lockQueue = s.lockQueue := rfl
@[simp] theorem State.setChan_timer (s : State) (n : Nat) (x : Chan) : (s.setChan n x).timer = s.timer := rfl
@[simp] theorem State.setChan_plans (s : State) (n : Nat) (x : Chan) : (s.setChan n x).plans = s.plans := rfl
@[simp] theorem State.setChan_adm (s : State) (n : Nat) (x : Chan) : (s.setChan n x).adm = s.adm := rfl
@[simp] theorem State.setChan_perc (s : State) (n : Nat) (x : Chan) : (s.setChan n x).perc = s.perc := rfl
@[simp] theorem State.setChan_carafe (s : State) (n : Nat) (x : Chan) : (s.setChan n x).carafe = s.carafe := rfl
@[simp] theorem State.setChan_pf (s : State) (n : Nat) (x : Chan) : (s.setChan n x).pf = s.pf := rfl
@[simp] theorem State.setChan_egress (s : State) (n : Nat) (x : Chan) : (s.setChan n x).egress = s.egress := rfl
@[simp] theorem State.setChan_zdp (s : State) (n : Nat) (x : Chan) : (s.setChan n x).zdp = s.zdp := rfl
@[simp] theorem State.setChan_log (s : State) (n : Nat) (x : Chan) : (s.setChan n x).log = s.log := rfl
@[simp] theorem State.setChan_barista (s : State) (n : Nat) (x : Chan) : (s.setChan n x).barista = s.barista := rfl
@[simp] theorem State.setChan_micro (s : State) (n : Nat) (x : Chan) : (s.setChan n x).micro = s.micro := rfl
@[simp] theorem State.setChan_repair (s : State) (n : Nat) (x : Chan) : (s.setChan n x).repair = s.repair := rfl
@[simp] theorem State.setChan_power (s : State) (n : Nat) (x : Chan) : (s.setChan n x).power = s.power := rfl
@[simp] theorem State.setChan_jtag (s : State) (n : Nat) (x : Chan) : (s.setChan n x).jtag = s.jtag := rfl
@[simp] theorem State.setChan_obj (s : State) (n : Nat) (x : Chan) : (s.setChan n x).obj = s.obj := rfl
@[simp] theorem State.setChan_nor (s : State) (n : Nat) (x : Chan) : (s.setChan n x).nor = s.nor := rfl
@[simp] theorem State.setChan_domains (s : State) (n : Nat) (x : Chan) : (s.setChan n x).domains = s.domains := rfl
@[simp] theorem State.setChan_ro (s : State) (n : Nat) (x : Chan) : (s.setChan n x).ro = s.ro := rfl
@[simp] theorem State.setChan_out (s : State) (n : Nat) (x : Chan) : (s.setChan n x).out = s.out := rfl
@[simp] theorem State.setChan_freeCtr (s : State) (n : Nat) (x : Chan) : (s.setChan n x).freeCtr = s.freeCtr := rfl
@[simp] theorem State.setChan_pending (s : State) (n : Nat) (x : Chan) : (s.setChan n x).pending = s.pending := rfl

-- State.setOp
@[simp] theorem State.setOp_cores (s : State) (o : MediaOp) : (s.setOp o).cores = s.cores := rfl
@[simp] theorem State.setOp_lcores (s : State) (o : MediaOp) : (s.setOp o).lcores = s.lcores := rfl
@[simp] theorem State.setOp_mem (s : State) (o : MediaOp) : (s.setOp o).mem = s.mem := rfl
@[simp] theorem State.setOp_keys (s : State) (o : MediaOp) : (s.setOp o).keys = s.keys := rfl
@[simp] theorem State.setOp_keyCache (s : State) (o : MediaOp) : (s.setOp o).keyCache = s.keyCache := rfl
@[simp] theorem State.setOp_keyMem (s : State) (o : MediaOp) : (s.setOp o).keyMem = s.keyMem := rfl
@[simp] theorem State.setOp_stale (s : State) (o : MediaOp) : (s.setOp o).stale = s.stale := rfl
@[simp] theorem State.setOp_upsets (s : State) (o : MediaOp) : (s.setOp o).upsets = s.upsets := rfl
@[simp] theorem State.setOp_poison (s : State) (o : MediaOp) : (s.setOp o).poison = s.poison := rfl
@[simp] theorem State.setOp_locks (s : State) (o : MediaOp) : (s.setOp o).locks = s.locks := rfl
@[simp] theorem State.setOp_lockQueue (s : State) (o : MediaOp) : (s.setOp o).lockQueue = s.lockQueue := rfl
@[simp] theorem State.setOp_timer (s : State) (o : MediaOp) : (s.setOp o).timer = s.timer := rfl
@[simp] theorem State.setOp_plans (s : State) (o : MediaOp) : (s.setOp o).plans = s.plans := rfl
@[simp] theorem State.setOp_adm (s : State) (o : MediaOp) : (s.setOp o).adm = s.adm := rfl
@[simp] theorem State.setOp_perc (s : State) (o : MediaOp) : (s.setOp o).perc = s.perc := rfl
@[simp] theorem State.setOp_carafe (s : State) (o : MediaOp) : (s.setOp o).carafe = s.carafe := rfl
@[simp] theorem State.setOp_pf (s : State) (o : MediaOp) : (s.setOp o).pf = s.pf := rfl
@[simp] theorem State.setOp_egress (s : State) (o : MediaOp) : (s.setOp o).egress = s.egress := rfl
@[simp] theorem State.setOp_zdp (s : State) (o : MediaOp) : (s.setOp o).zdp = s.zdp := rfl
@[simp] theorem State.setOp_log (s : State) (o : MediaOp) : (s.setOp o).log = s.log := rfl
@[simp] theorem State.setOp_barista (s : State) (o : MediaOp) : (s.setOp o).barista = s.barista := rfl
@[simp] theorem State.setOp_micro (s : State) (o : MediaOp) : (s.setOp o).micro = s.micro := rfl
@[simp] theorem State.setOp_repair (s : State) (o : MediaOp) : (s.setOp o).repair = s.repair := rfl
@[simp] theorem State.setOp_power (s : State) (o : MediaOp) : (s.setOp o).power = s.power := rfl
@[simp] theorem State.setOp_jtag (s : State) (o : MediaOp) : (s.setOp o).jtag = s.jtag := rfl
@[simp] theorem State.setOp_obj (s : State) (o : MediaOp) : (s.setOp o).obj = s.obj := rfl
@[simp] theorem State.setOp_nor (s : State) (o : MediaOp) : (s.setOp o).nor = s.nor := rfl
@[simp] theorem State.setOp_domains (s : State) (o : MediaOp) : (s.setOp o).domains = s.domains := rfl
@[simp] theorem State.setOp_ro (s : State) (o : MediaOp) : (s.setOp o).ro = s.ro := rfl
@[simp] theorem State.setOp_out (s : State) (o : MediaOp) : (s.setOp o).out = s.out := rfl
@[simp] theorem State.setOp_freeCtr (s : State) (o : MediaOp) : (s.setOp o).freeCtr = s.freeCtr := rfl
@[simp] theorem State.setOp_pending (s : State) (o : MediaOp) : (s.setOp o).pending = s.pending := rfl

-- State.enqueue
@[simp] theorem State.enqueue_cores (s : State) (o : MediaOp) : (s.enqueue o).cores = s.cores := rfl
@[simp] theorem State.enqueue_lcores (s : State) (o : MediaOp) : (s.enqueue o).lcores = s.lcores := rfl
@[simp] theorem State.enqueue_mem (s : State) (o : MediaOp) : (s.enqueue o).mem = s.mem := rfl
@[simp] theorem State.enqueue_keys (s : State) (o : MediaOp) : (s.enqueue o).keys = s.keys := rfl
@[simp] theorem State.enqueue_keyCache (s : State) (o : MediaOp) : (s.enqueue o).keyCache = s.keyCache := rfl
@[simp] theorem State.enqueue_keyMem (s : State) (o : MediaOp) : (s.enqueue o).keyMem = s.keyMem := rfl
@[simp] theorem State.enqueue_stale (s : State) (o : MediaOp) : (s.enqueue o).stale = s.stale := rfl
@[simp] theorem State.enqueue_upsets (s : State) (o : MediaOp) : (s.enqueue o).upsets = s.upsets := rfl
@[simp] theorem State.enqueue_poison (s : State) (o : MediaOp) : (s.enqueue o).poison = s.poison := rfl
@[simp] theorem State.enqueue_locks (s : State) (o : MediaOp) : (s.enqueue o).locks = s.locks := rfl
@[simp] theorem State.enqueue_lockQueue (s : State) (o : MediaOp) : (s.enqueue o).lockQueue = s.lockQueue := rfl
@[simp] theorem State.enqueue_timer (s : State) (o : MediaOp) : (s.enqueue o).timer = s.timer := rfl
@[simp] theorem State.enqueue_plans (s : State) (o : MediaOp) : (s.enqueue o).plans = s.plans := rfl
@[simp] theorem State.enqueue_adm (s : State) (o : MediaOp) : (s.enqueue o).adm = s.adm := rfl
@[simp] theorem State.enqueue_perc (s : State) (o : MediaOp) : (s.enqueue o).perc = s.perc := rfl
@[simp] theorem State.enqueue_carafe (s : State) (o : MediaOp) : (s.enqueue o).carafe = s.carafe := rfl
@[simp] theorem State.enqueue_pf (s : State) (o : MediaOp) : (s.enqueue o).pf = s.pf := rfl
@[simp] theorem State.enqueue_egress (s : State) (o : MediaOp) : (s.enqueue o).egress = s.egress := rfl
@[simp] theorem State.enqueue_zdp (s : State) (o : MediaOp) : (s.enqueue o).zdp = s.zdp := rfl
@[simp] theorem State.enqueue_log (s : State) (o : MediaOp) : (s.enqueue o).log = s.log := rfl
@[simp] theorem State.enqueue_barista (s : State) (o : MediaOp) : (s.enqueue o).barista = s.barista := rfl
@[simp] theorem State.enqueue_micro (s : State) (o : MediaOp) : (s.enqueue o).micro = s.micro := rfl
@[simp] theorem State.enqueue_repair (s : State) (o : MediaOp) : (s.enqueue o).repair = s.repair := rfl
@[simp] theorem State.enqueue_power (s : State) (o : MediaOp) : (s.enqueue o).power = s.power := rfl
@[simp] theorem State.enqueue_jtag (s : State) (o : MediaOp) : (s.enqueue o).jtag = s.jtag := rfl
@[simp] theorem State.enqueue_obj (s : State) (o : MediaOp) : (s.enqueue o).obj = s.obj := rfl
@[simp] theorem State.enqueue_nor (s : State) (o : MediaOp) : (s.enqueue o).nor = s.nor := rfl
@[simp] theorem State.enqueue_domains (s : State) (o : MediaOp) : (s.enqueue o).domains = s.domains := rfl
@[simp] theorem State.enqueue_ro (s : State) (o : MediaOp) : (s.enqueue o).ro = s.ro := rfl
@[simp] theorem State.enqueue_out (s : State) (o : MediaOp) : (s.enqueue o).out = s.out := rfl
@[simp] theorem State.enqueue_freeCtr (s : State) (o : MediaOp) : (s.enqueue o).freeCtr = s.freeCtr := rfl
@[simp] theorem State.enqueue_pending (s : State) (o : MediaOp) : (s.enqueue o).pending = s.pending := rfl

-- State.result
@[simp] theorem State.result_cores (s : State) (sid i sub code : Nat) : (s.result sid i sub code).cores = s.cores := rfl
@[simp] theorem State.result_lcores (s : State) (sid i sub code : Nat) : (s.result sid i sub code).lcores = s.lcores := rfl
@[simp] theorem State.result_mem (s : State) (sid i sub code : Nat) : (s.result sid i sub code).mem = s.mem := rfl
@[simp] theorem State.result_keys (s : State) (sid i sub code : Nat) : (s.result sid i sub code).keys = s.keys := rfl
@[simp] theorem State.result_keyCache (s : State) (sid i sub code : Nat) : (s.result sid i sub code).keyCache = s.keyCache := rfl
@[simp] theorem State.result_keyMem (s : State) (sid i sub code : Nat) : (s.result sid i sub code).keyMem = s.keyMem := rfl
@[simp] theorem State.result_stale (s : State) (sid i sub code : Nat) : (s.result sid i sub code).stale = s.stale := rfl
@[simp] theorem State.result_upsets (s : State) (sid i sub code : Nat) : (s.result sid i sub code).upsets = s.upsets := rfl
@[simp] theorem State.result_poison (s : State) (sid i sub code : Nat) : (s.result sid i sub code).poison = s.poison := rfl
@[simp] theorem State.result_locks (s : State) (sid i sub code : Nat) : (s.result sid i sub code).locks = s.locks := rfl
@[simp] theorem State.result_lockQueue (s : State) (sid i sub code : Nat) : (s.result sid i sub code).lockQueue = s.lockQueue := rfl
@[simp] theorem State.result_timer (s : State) (sid i sub code : Nat) : (s.result sid i sub code).timer = s.timer := rfl
@[simp] theorem State.result_plans (s : State) (sid i sub code : Nat) : (s.result sid i sub code).plans = s.plans := rfl
@[simp] theorem State.result_adm (s : State) (sid i sub code : Nat) : (s.result sid i sub code).adm = s.adm := rfl
@[simp] theorem State.result_perc (s : State) (sid i sub code : Nat) : (s.result sid i sub code).perc = s.perc := rfl
@[simp] theorem State.result_carafe (s : State) (sid i sub code : Nat) : (s.result sid i sub code).carafe = s.carafe := rfl
@[simp] theorem State.result_pf (s : State) (sid i sub code : Nat) : (s.result sid i sub code).pf = s.pf := rfl
@[simp] theorem State.result_media (s : State) (sid i sub code : Nat) : (s.result sid i sub code).media = s.media := rfl
@[simp] theorem State.result_egress (s : State) (sid i sub code : Nat) : (s.result sid i sub code).egress = s.egress := rfl
@[simp] theorem State.result_zdp (s : State) (sid i sub code : Nat) : (s.result sid i sub code).zdp = s.zdp := rfl
@[simp] theorem State.result_log (s : State) (sid i sub code : Nat) : (s.result sid i sub code).log = s.log := rfl
@[simp] theorem State.result_barista (s : State) (sid i sub code : Nat) : (s.result sid i sub code).barista = s.barista := rfl
@[simp] theorem State.result_micro (s : State) (sid i sub code : Nat) : (s.result sid i sub code).micro = s.micro := rfl
@[simp] theorem State.result_repair (s : State) (sid i sub code : Nat) : (s.result sid i sub code).repair = s.repair := rfl
@[simp] theorem State.result_power (s : State) (sid i sub code : Nat) : (s.result sid i sub code).power = s.power := rfl
@[simp] theorem State.result_jtag (s : State) (sid i sub code : Nat) : (s.result sid i sub code).jtag = s.jtag := rfl
@[simp] theorem State.result_obj (s : State) (sid i sub code : Nat) : (s.result sid i sub code).obj = s.obj := rfl
@[simp] theorem State.result_nor (s : State) (sid i sub code : Nat) : (s.result sid i sub code).nor = s.nor := rfl
@[simp] theorem State.result_domains (s : State) (sid i sub code : Nat) : (s.result sid i sub code).domains = s.domains := rfl
@[simp] theorem State.result_ro (s : State) (sid i sub code : Nat) : (s.result sid i sub code).ro = s.ro := rfl
@[simp] theorem State.result_freeCtr (s : State) (sid i sub code : Nat) : (s.result sid i sub code).freeCtr = s.freeCtr := rfl
@[simp] theorem State.result_pending (s : State) (sid i sub code : Nat) : (s.result sid i sub code).pending = s.pending := rfl

-- State.holdValue
@[simp] theorem State.holdValue_cores (s : State) (key : Nat) (v : List Byte) (pers : Bool) : (s.holdValue key v pers).cores = s.cores := rfl
@[simp] theorem State.holdValue_lcores (s : State) (key : Nat) (v : List Byte) (pers : Bool) : (s.holdValue key v pers).lcores = s.lcores := rfl
@[simp] theorem State.holdValue_mem (s : State) (key : Nat) (v : List Byte) (pers : Bool) : (s.holdValue key v pers).mem = s.mem := rfl
@[simp] theorem State.holdValue_keys (s : State) (key : Nat) (v : List Byte) (pers : Bool) : (s.holdValue key v pers).keys = s.keys := rfl
@[simp] theorem State.holdValue_keyCache (s : State) (key : Nat) (v : List Byte) (pers : Bool) : (s.holdValue key v pers).keyCache = s.keyCache := rfl
@[simp] theorem State.holdValue_keyMem (s : State) (key : Nat) (v : List Byte) (pers : Bool) : (s.holdValue key v pers).keyMem = s.keyMem := rfl
@[simp] theorem State.holdValue_stale (s : State) (key : Nat) (v : List Byte) (pers : Bool) : (s.holdValue key v pers).stale = s.stale := rfl
@[simp] theorem State.holdValue_upsets (s : State) (key : Nat) (v : List Byte) (pers : Bool) : (s.holdValue key v pers).upsets = s.upsets := rfl
@[simp] theorem State.holdValue_poison (s : State) (key : Nat) (v : List Byte) (pers : Bool) : (s.holdValue key v pers).poison = s.poison := rfl
@[simp] theorem State.holdValue_locks (s : State) (key : Nat) (v : List Byte) (pers : Bool) : (s.holdValue key v pers).locks = s.locks := rfl
@[simp] theorem State.holdValue_lockQueue (s : State) (key : Nat) (v : List Byte) (pers : Bool) : (s.holdValue key v pers).lockQueue = s.lockQueue := rfl
@[simp] theorem State.holdValue_timer (s : State) (key : Nat) (v : List Byte) (pers : Bool) : (s.holdValue key v pers).timer = s.timer := rfl
@[simp] theorem State.holdValue_plans (s : State) (key : Nat) (v : List Byte) (pers : Bool) : (s.holdValue key v pers).plans = s.plans := rfl
@[simp] theorem State.holdValue_adm (s : State) (key : Nat) (v : List Byte) (pers : Bool) : (s.holdValue key v pers).adm = s.adm := rfl
@[simp] theorem State.holdValue_perc (s : State) (key : Nat) (v : List Byte) (pers : Bool) : (s.holdValue key v pers).perc = s.perc := rfl
@[simp] theorem State.holdValue_carafe (s : State) (key : Nat) (v : List Byte) (pers : Bool) : (s.holdValue key v pers).carafe = s.carafe := rfl
@[simp] theorem State.holdValue_pf (s : State) (key : Nat) (v : List Byte) (pers : Bool) : (s.holdValue key v pers).pf = s.pf := rfl
@[simp] theorem State.holdValue_media (s : State) (key : Nat) (v : List Byte) (pers : Bool) : (s.holdValue key v pers).media = s.media := rfl
@[simp] theorem State.holdValue_egress (s : State) (key : Nat) (v : List Byte) (pers : Bool) : (s.holdValue key v pers).egress = s.egress := rfl
@[simp] theorem State.holdValue_zdp (s : State) (key : Nat) (v : List Byte) (pers : Bool) : (s.holdValue key v pers).zdp = s.zdp := rfl
@[simp] theorem State.holdValue_log (s : State) (key : Nat) (v : List Byte) (pers : Bool) : (s.holdValue key v pers).log = s.log := rfl
@[simp] theorem State.holdValue_barista (s : State) (key : Nat) (v : List Byte) (pers : Bool) : (s.holdValue key v pers).barista = s.barista := rfl
@[simp] theorem State.holdValue_micro (s : State) (key : Nat) (v : List Byte) (pers : Bool) : (s.holdValue key v pers).micro = s.micro := rfl
@[simp] theorem State.holdValue_repair (s : State) (key : Nat) (v : List Byte) (pers : Bool) : (s.holdValue key v pers).repair = s.repair := rfl
@[simp] theorem State.holdValue_power (s : State) (key : Nat) (v : List Byte) (pers : Bool) : (s.holdValue key v pers).power = s.power := rfl
@[simp] theorem State.holdValue_jtag (s : State) (key : Nat) (v : List Byte) (pers : Bool) : (s.holdValue key v pers).jtag = s.jtag := rfl
@[simp] theorem State.holdValue_domains (s : State) (key : Nat) (v : List Byte) (pers : Bool) : (s.holdValue key v pers).domains = s.domains := rfl
@[simp] theorem State.holdValue_ro (s : State) (key : Nat) (v : List Byte) (pers : Bool) : (s.holdValue key v pers).ro = s.ro := rfl
@[simp] theorem State.holdValue_out (s : State) (key : Nat) (v : List Byte) (pers : Bool) : (s.holdValue key v pers).out = s.out := rfl
@[simp] theorem State.holdValue_freeCtr (s : State) (key : Nat) (v : List Byte) (pers : Bool) : (s.holdValue key v pers).freeCtr = s.freeCtr := rfl
@[simp] theorem State.holdValue_pending (s : State) (key : Nat) (v : List Byte) (pers : Bool) : (s.holdValue key v pers).pending = s.pending := rfl

-- State.putKey
@[simp] theorem State.putKey_cores (s : State) (n : Nat) (v : List Byte) : (s.putKey n v).cores = s.cores := rfl
@[simp] theorem State.putKey_lcores (s : State) (n : Nat) (v : List Byte) : (s.putKey n v).lcores = s.lcores := rfl
@[simp] theorem State.putKey_mem (s : State) (n : Nat) (v : List Byte) : (s.putKey n v).mem = s.mem := rfl
@[simp] theorem State.putKey_keys (s : State) (n : Nat) (v : List Byte) : (s.putKey n v).keys = s.keys := rfl
@[simp] theorem State.putKey_keyCache (s : State) (n : Nat) (v : List Byte) : (s.putKey n v).keyCache = s.keyCache := rfl
@[simp] theorem State.putKey_keyMem (s : State) (n : Nat) (v : List Byte) : (s.putKey n v).keyMem = s.keyMem := rfl
@[simp] theorem State.putKey_stale (s : State) (n : Nat) (v : List Byte) : (s.putKey n v).stale = s.stale := rfl
@[simp] theorem State.putKey_upsets (s : State) (n : Nat) (v : List Byte) : (s.putKey n v).upsets = s.upsets := rfl
@[simp] theorem State.putKey_poison (s : State) (n : Nat) (v : List Byte) : (s.putKey n v).poison = s.poison := rfl
@[simp] theorem State.putKey_locks (s : State) (n : Nat) (v : List Byte) : (s.putKey n v).locks = s.locks := rfl
@[simp] theorem State.putKey_lockQueue (s : State) (n : Nat) (v : List Byte) : (s.putKey n v).lockQueue = s.lockQueue := rfl
@[simp] theorem State.putKey_timer (s : State) (n : Nat) (v : List Byte) : (s.putKey n v).timer = s.timer := rfl
@[simp] theorem State.putKey_plans (s : State) (n : Nat) (v : List Byte) : (s.putKey n v).plans = s.plans := rfl
@[simp] theorem State.putKey_perc (s : State) (n : Nat) (v : List Byte) : (s.putKey n v).perc = s.perc := rfl
@[simp] theorem State.putKey_carafe (s : State) (n : Nat) (v : List Byte) : (s.putKey n v).carafe = s.carafe := rfl
@[simp] theorem State.putKey_pf (s : State) (n : Nat) (v : List Byte) : (s.putKey n v).pf = s.pf := rfl
@[simp] theorem State.putKey_media (s : State) (n : Nat) (v : List Byte) : (s.putKey n v).media = s.media := rfl
@[simp] theorem State.putKey_egress (s : State) (n : Nat) (v : List Byte) : (s.putKey n v).egress = s.egress := rfl
@[simp] theorem State.putKey_zdp (s : State) (n : Nat) (v : List Byte) : (s.putKey n v).zdp = s.zdp := rfl
@[simp] theorem State.putKey_log (s : State) (n : Nat) (v : List Byte) : (s.putKey n v).log = s.log := rfl
@[simp] theorem State.putKey_barista (s : State) (n : Nat) (v : List Byte) : (s.putKey n v).barista = s.barista := rfl
@[simp] theorem State.putKey_micro (s : State) (n : Nat) (v : List Byte) : (s.putKey n v).micro = s.micro := rfl
@[simp] theorem State.putKey_repair (s : State) (n : Nat) (v : List Byte) : (s.putKey n v).repair = s.repair := rfl
@[simp] theorem State.putKey_power (s : State) (n : Nat) (v : List Byte) : (s.putKey n v).power = s.power := rfl
@[simp] theorem State.putKey_jtag (s : State) (n : Nat) (v : List Byte) : (s.putKey n v).jtag = s.jtag := rfl
@[simp] theorem State.putKey_obj (s : State) (n : Nat) (v : List Byte) : (s.putKey n v).obj = s.obj := rfl
@[simp] theorem State.putKey_domains (s : State) (n : Nat) (v : List Byte) : (s.putKey n v).domains = s.domains := rfl
@[simp] theorem State.putKey_ro (s : State) (n : Nat) (v : List Byte) : (s.putKey n v).ro = s.ro := rfl
@[simp] theorem State.putKey_out (s : State) (n : Nat) (v : List Byte) : (s.putKey n v).out = s.out := rfl
@[simp] theorem State.putKey_freeCtr (s : State) (n : Nat) (v : List Byte) : (s.putKey n v).freeCtr = s.freeCtr := rfl
@[simp] theorem State.putKey_pending (s : State) (n : Nat) (v : List Byte) : (s.putKey n v).pending = s.pending := rfl

-- ---------------------------------------------------------------- what an updated table reads

@[simp] theorem State.core_setCore (s : State) (c : Nat) (k : Core) : (s.setCore c k).core c = k := Tab.get_insert_self _ _ _ _
theorem State.core_setCore_ne (s : State) {c d : Nat} (k : Core) (h : d ≠ c) : (s.setCore c k).core d = s.core d := Tab.get_insert_ne _ _ _ h
@[simp] theorem State.lcore_setLcore (s : State) (l : Nat) (x : LCore) : (s.setLcore l x).lcore l = x := Tab.get_insert_self _ _ _ _
theorem State.lcore_setLcore_ne (s : State) {l m : Nat} (x : LCore) (h : m ≠ l) : (s.setLcore l x).lcore m = s.lcore m := Tab.get_insert_ne _ _ _ h
@[simp] theorem State.partner_setPartner (s : State) (n : Nat) (p : Partner) : (s.setPartner n p).partner n = p := Tab.get_put_self _ _ _ _
theorem State.partner_setPartner_ne (s : State) {n m : Nat} (p : Partner) (h : m ≠ n) : (s.setPartner n p).partner m = s.partner m :=
  Tab.get_put_ne _ _ _ h
@[simp] theorem State.roGet_roSet (s : State) (key v : Nat) : (s.roSet key v).roGet key = v := Tab.get_put_self _ _ _ _
theorem State.roGet_roSet_ne (s : State) {key k : Nat} (v : Nat) (h : k ≠ key) : (s.roSet key v).roGet k = s.roGet k := Tab.get_put_ne _ _ _ h
@[simp] theorem State.roGet_count (s : State) (key n bits : Nat) : (s.count key n bits).roGet key = (s.roGet key + n) % 2 ^ bits :=
  Tab.get_put_self _ _ _ _
theorem State.roGet_count_ne (s : State) {key k : Nat} (n bits : Nat) (h : k ≠ key) : (s.count key n bits).roGet k = s.roGet k :=
  Tab.get_put_ne _ _ _ h
@[simp] theorem State.roGet_logEvent (s : State) (code sev : Nat) (l : List Byte) (p : List (Nat × List Byte)) (k : Nat) :
    (s.logEvent code sev l p).roGet k = s.roGet k := rfl
@[simp] theorem State.group_setGroup (s : State) (g : Nat) (x : Group) : (s.setGroup g x).group g = x := Tab.get_put_self _ _ _ _
@[simp] theorem State.lun_setLun (s : State) (n : Nat) (x : Lun) : (s.setLun n x).lun n = x := Tab.get_put_self _ _ _ _
theorem State.lun_setLun_ne (s : State) {n m : Nat} (x : Lun) (h : m ≠ n) : (s.setLun n x).lun m = s.lun m := Tab.get_put_ne _ _ _ h
@[simp] theorem State.chan_setChan (s : State) (n : Nat) (x : Chan) : (s.setChan n x).chan n = x := Tab.get_put_self _ _ _ _
@[simp] theorem State.pageKey_setPageKey (s : State) (pa : Nat) (k : PageKey) : (s.setPageKey (pa / 4096) k).pageKey pa = k :=
  Tab.get_put_self _ _ _ _

/-- One event of one part takes one sequence number (R505, R506). -/
theorem State.logEvent_nextSeq (s : State) (code sev : Nat) (l : List Byte) :
    (s.logEvent code sev l []).log.nextSeq = (s.log.nextSeq + 1) % 2 ^ 32 := rfl

-- ---------------------------------------------------------------- registers of a core

@[simp] theorem Core.srGet_srSet (k : Core) (n : Nat) (v : Word) : (k.srSet n v).srGet n = v := Tab.get_insert_self _ _ _ _
theorem Core.srGet_srSet_ne (k : Core) {n m : Nat} (v : Word) (h : m ≠ n) : (k.srSet n v).srGet m = k.srGet m := Tab.get_insert_ne _ _ _ h

-- Core.srSet
@[simp] theorem Core.srSet_regs (k : Core) (n : Nat) (v : Word) : (k.srSet n v).regs = k.regs := rfl
@[simp] theorem Core.srSet_pc (k : Core) (n : Nat) (v : Word) : (k.srSet n v).pc = k.pc := rfl
@[simp] theorem Core.srSet_rs (k : Core) (n : Nat) (v : Word) : (k.srSet n v).rs = k.rs := rfl
@[simp] theorem Core.srSet_shadow (k : Core) (n : Nat) (v : Word) : (k.srSet n v).shadow = k.shadow := rfl
@[simp] theorem Core.srSet_rstack (k : Core) (n : Nat) (v : Word) : (k.srSet n v).rstack = k.rstack := rfl
@[simp] theorem Core.srSet_bankV (k : Core) (n : Nat) (v : Word) : (k.srSet n v).bankV = k.bankV := rfl
@[simp] theorem Core.srSet_bankD (k : Core) (n : Nat) (v : Word) : (k.srSet n v).bankD = k.bankD := rfl
@[simp] theorem Core.srSet_bankCtx (k : Core) (n : Nat) (v : Word) : (k.srSet n v).bankCtx = k.bankCtx := rfl
@[simp] theorem Core.srSet_recency (k : Core) (n : Nat) (v : Word) : (k.srSet n v).recency = k.recency := rfl
@[simp] theorem Core.srSet_cycle (k : Core) (n : Nat) (v : Word) : (k.srSet n v).cycle = k.cycle := rfl
@[simp] theorem Core.srSet_run (k : Core) (n : Nat) (v : Word) : (k.srSet n v).run = k.run := rfl
@[simp] theorem Core.srSet_wait (k : Core) (n : Nat) (v : Word) : (k.srSet n v).wait = k.wait := rfl
@[simp] theorem Core.srSet_micro (k : Core) (n : Nat) (v : Word) : (k.srSet n v).micro = k.micro := rfl
@[simp] theorem Core.srSet_parityHold (k : Core) (n : Nat) (v : Word) : (k.srSet n v).parityHold = k.parityHold := rfl
@[simp] theorem Core.srSet_storeBuf (k : Core) (n : Nat) (v : Word) : (k.srSet n v).storeBuf = k.storeBuf := rfl
@[simp] theorem Core.srSet_touchHeld (k : Core) (n : Nat) (v : Word) : (k.srSet n v).touchHeld = k.touchHeld := rfl
@[simp] theorem Core.srSet_staleOwn (k : Core) (n : Nat) (v : Word) : (k.srSet n v).staleOwn = k.staleOwn := rfl
@[simp] theorem Core.srSet_budget (k : Core) (n : Nat) (v : Word) : (k.srSet n v).budget = k.budget := rfl
@[simp] theorem Core.srSet_budgetFired (k : Core) (n : Nat) (v : Word) : (k.srSet n v).budgetFired = k.budgetFired := rfl
@[simp] theorem Core.srSet_budgetPend (k : Core) (n : Nat) (v : Word) : (k.srSet n v).budgetPend = k.budgetPend := rfl
@[simp] theorem Core.srSet_iresLeft (k : Core) (n : Nat) (v : Word) : (k.srSet n v).iresLeft = k.iresLeft := rfl
@[simp] theorem Core.srSet_sinceTick (k : Core) (n : Nat) (v : Word) : (k.srSet n v).sinceTick = k.sinceTick := rfl
@[simp] theorem Core.srSet_task (k : Core) (n : Nat) (v : Word) : (k.srSet n v).task = k.task := rfl
@[simp] theorem Core.srSet_taskCtx (k : Core) (n : Nat) (v : Word) : (k.srSet n v).taskCtx = k.taskCtx := rfl
@[simp] theorem Core.srSet_inNmi (k : Core) (n : Nat) (v : Word) : (k.srSet n v).inNmi = k.inNmi := rfl
@[simp] theorem Core.srSet_inMc (k : Core) (n : Nat) (v : Word) : (k.srSet n v).inMc = k.inMc := rfl
@[simp] theorem Core.srSet_fastDepth (k : Core) (n : Nat) (v : Word) : (k.srSet n v).fastDepth = k.fastDepth := rfl
@[simp] theorem Core.srSet_bsDepth (k : Core) (n : Nat) (v : Word) : (k.srSet n v).bsDepth = k.bsDepth := rfl
@[simp] theorem Core.srSet_fbInt (k : Core) (n : Nat) (v : Word) : (k.srSet n v).fbInt = k.fbInt := rfl
@[simp] theorem Core.srSet_bsInt (k : Core) (n : Nat) (v : Word) : (k.srSet n v).bsInt = k.bsInt := rfl
@[simp] theorem Core.srSet_nmiPend (k : Core) (n : Nat) (v : Word) : (k.srSet n v).nmiPend = k.nmiPend := rfl
@[simp] theorem Core.srSet_haltPend (k : Core) (n : Nat) (v : Word) : (k.srSet n v).haltPend = k.haltPend := rfl
@[simp] theorem Core.srSet_inDebug (k : Core) (n : Nat) (v : Word) : (k.srSet n v).inDebug = k.inDebug := rfl
@[simp] theorem Core.srSet_egsa (k : Core) (n : Nat) (v : Word) : (k.srSet n v).egsa = k.egsa := rfl
@[simp] theorem Core.srSet_drstResult (k : Core) (n : Nat) (v : Word) : (k.srSet n v).drstResult = k.drstResult := rfl
@[simp] theorem Core.srSet_drstCount (k : Core) (n : Nat) (v : Word) : (k.srSet n v).drstCount = k.drstCount := rfl
@[simp] theorem Core.srSet_drstCred (k : Core) (n : Nat) (v : Word) : (k.srSet n v).drstCred = k.drstCred := rfl
@[simp] theorem Core.srSet_ipend (k : Core) (n : Nat) (v : Word) : (k.srSet n v).ipend = k.ipend := rfl
@[simp] theorem Core.srSet_ien (k : Core) (n : Nat) (v : Word) : (k.srSet n v).ien = k.ien := rfl
@[simp] theorem Core.srSet_ifast (k : Core) (n : Nat) (v : Word) : (k.srSet n v).ifast = k.ifast := rfl
@[simp] theorem Core.srSet_dbgin (k : Core) (n : Nat) (v : Word) : (k.srSet n v).dbgin = k.dbgin := rfl
@[simp] theorem Core.srSet_inf (k : Core) (n : Nat) (v : Word) : (k.srSet n v).inf = k.inf := rfl
@[simp] theorem Core.srSet_dbgout (k : Core) (n : Nat) (v : Word) : (k.srSet n v).dbgout = k.dbgout := rfl
@[simp] theorem Core.srSet_outf (k : Core) (n : Nat) (v : Word) : (k.srSet n v).outf = k.outf := rfl
@[simp] theorem Core.srSet_brks (k : Core) (n : Nat) (v : Word) : (k.srSet n v).brks = k.brks := rfl
@[simp] theorem Core.srSet_brkSel (k : Core) (n : Nat) (v : Word) : (k.srSet n v).brkSel = k.brkSel := rfl
@[simp] theorem Core.srSet_ucodeBad (k : Core) (n : Nat) (v : Word) : (k.srSet n v).ucodeBad = k.ucodeBad := rfl
@[simp] theorem Core.srSet_reloaded (k : Core) (n : Nat) (v : Word) : (k.srSet n v).reloaded = k.reloaded := rfl
@[simp] theorem Core.srSet_faultFrame (k : Core) (n : Nat) (v : Word) : (k.srSet n v).faultFrame = k.faultFrame := rfl
@[simp] theorem Core.srSet_faulted (k : Core) (n : Nat) (v : Word) : (k.srSet n v).faulted = k.faulted := rfl
@[simp] theorem Core.srSet_scratchLost (k : Core) (n : Nat) (v : Word) : (k.srSet n v).scratchLost = k.scratchLost := rfl
@[simp] theorem Core.srSet_state (k : Core) (n : Nat) (v : Word) : (k.srSet n v).state = k.state := rfl
@[simp] theorem Core.srSet_lastPass (k : Core) (n : Nat) (v : Word) : (k.srSet n v).lastPass = k.lastPass := rfl

-- Core.stick
@[simp] theorem Core.stick_regs (k : Core) (m : Word) : (k.stick m).regs = k.regs := rfl
@[simp] theorem Core.stick_pc (k : Core) (m : Word) : (k.stick m).pc = k.pc := rfl
@[simp] theorem Core.stick_rs (k : Core) (m : Word) : (k.stick m).rs = k.rs := rfl
@[simp] theorem Core.stick_shadow (k : Core) (m : Word) : (k.stick m).shadow = k.shadow := rfl
@[simp] theorem Core.stick_rstack (k : Core) (m : Word) : (k.stick m).rstack = k.rstack := rfl
@[simp] theorem Core.stick_bankV (k : Core) (m : Word) : (k.stick m).bankV = k.bankV := rfl
@[simp] theorem Core.stick_bankD (k : Core) (m : Word) : (k.stick m).bankD = k.bankD := rfl
@[simp] theorem Core.stick_bankCtx (k : Core) (m : Word) : (k.stick m).bankCtx = k.bankCtx := rfl
@[simp] theorem Core.stick_recency (k : Core) (m : Word) : (k.stick m).recency = k.recency := rfl
@[simp] theorem Core.stick_cycle (k : Core) (m : Word) : (k.stick m).cycle = k.cycle := rfl
@[simp] theorem Core.stick_run (k : Core) (m : Word) : (k.stick m).run = k.run := rfl
@[simp] theorem Core.stick_wait (k : Core) (m : Word) : (k.stick m).wait = k.wait := rfl
@[simp] theorem Core.stick_micro (k : Core) (m : Word) : (k.stick m).micro = k.micro := rfl
@[simp] theorem Core.stick_parityHold (k : Core) (m : Word) : (k.stick m).parityHold = k.parityHold := rfl
@[simp] theorem Core.stick_storeBuf (k : Core) (m : Word) : (k.stick m).storeBuf = k.storeBuf := rfl
@[simp] theorem Core.stick_touchHeld (k : Core) (m : Word) : (k.stick m).touchHeld = k.touchHeld := rfl
@[simp] theorem Core.stick_staleOwn (k : Core) (m : Word) : (k.stick m).staleOwn = k.staleOwn := rfl
@[simp] theorem Core.stick_budget (k : Core) (m : Word) : (k.stick m).budget = k.budget := rfl
@[simp] theorem Core.stick_budgetFired (k : Core) (m : Word) : (k.stick m).budgetFired = k.budgetFired := rfl
@[simp] theorem Core.stick_budgetPend (k : Core) (m : Word) : (k.stick m).budgetPend = k.budgetPend := rfl
@[simp] theorem Core.stick_iresLeft (k : Core) (m : Word) : (k.stick m).iresLeft = k.iresLeft := rfl
@[simp] theorem Core.stick_sinceTick (k : Core) (m : Word) : (k.stick m).sinceTick = k.sinceTick := rfl
@[simp] theorem Core.stick_task (k : Core) (m : Word) : (k.stick m).task = k.task := rfl
@[simp] theorem Core.stick_taskCtx (k : Core) (m : Word) : (k.stick m).taskCtx = k.taskCtx := rfl
@[simp] theorem Core.stick_inNmi (k : Core) (m : Word) : (k.stick m).inNmi = k.inNmi := rfl
@[simp] theorem Core.stick_inMc (k : Core) (m : Word) : (k.stick m).inMc = k.inMc := rfl
@[simp] theorem Core.stick_fastDepth (k : Core) (m : Word) : (k.stick m).fastDepth = k.fastDepth := rfl
@[simp] theorem Core.stick_bsDepth (k : Core) (m : Word) : (k.stick m).bsDepth = k.bsDepth := rfl
@[simp] theorem Core.stick_fbInt (k : Core) (m : Word) : (k.stick m).fbInt = k.fbInt := rfl
@[simp] theorem Core.stick_bsInt (k : Core) (m : Word) : (k.stick m).bsInt = k.bsInt := rfl
@[simp] theorem Core.stick_nmiPend (k : Core) (m : Word) : (k.stick m).nmiPend = k.nmiPend := rfl
@[simp] theorem Core.stick_haltPend (k : Core) (m : Word) : (k.stick m).haltPend = k.haltPend := rfl
@[simp] theorem Core.stick_inDebug (k : Core) (m : Word) : (k.stick m).inDebug = k.inDebug := rfl
@[simp] theorem Core.stick_egsa (k : Core) (m : Word) : (k.stick m).egsa = k.egsa := rfl
@[simp] theorem Core.stick_drstResult (k : Core) (m : Word) : (k.stick m).drstResult = k.drstResult := rfl
@[simp] theorem Core.stick_drstCount (k : Core) (m : Word) : (k.stick m).drstCount = k.drstCount := rfl
@[simp] theorem Core.stick_drstCred (k : Core) (m : Word) : (k.stick m).drstCred = k.drstCred := rfl
@[simp] theorem Core.stick_ipend (k : Core) (m : Word) : (k.stick m).ipend = k.ipend := rfl
@[simp] theorem Core.stick_ien (k : Core) (m : Word) : (k.stick m).ien = k.ien := rfl
@[simp] theorem Core.stick_ifast (k : Core) (m : Word) : (k.stick m).ifast = k.ifast := rfl
@[simp] theorem Core.stick_dbgin (k : Core) (m : Word) : (k.stick m).dbgin = k.dbgin := rfl
@[simp] theorem Core.stick_inf (k : Core) (m : Word) : (k.stick m).inf = k.inf := rfl
@[simp] theorem Core.stick_dbgout (k : Core) (m : Word) : (k.stick m).dbgout = k.dbgout := rfl
@[simp] theorem Core.stick_outf (k : Core) (m : Word) : (k.stick m).outf = k.outf := rfl
@[simp] theorem Core.stick_brks (k : Core) (m : Word) : (k.stick m).brks = k.brks := rfl
@[simp] theorem Core.stick_brkSel (k : Core) (m : Word) : (k.stick m).brkSel = k.brkSel := rfl
@[simp] theorem Core.stick_ucodeBad (k : Core) (m : Word) : (k.stick m).ucodeBad = k.ucodeBad := rfl
@[simp] theorem Core.stick_reloaded (k : Core) (m : Word) : (k.stick m).reloaded = k.reloaded := rfl
@[simp] theorem Core.stick_faultFrame (k : Core) (m : Word) : (k.stick m).faultFrame = k.faultFrame := rfl
@[simp] theorem Core.stick_faulted (k : Core) (m : Word) : (k.stick m).faulted = k.faulted := rfl
@[simp] theorem Core.stick_scratchLost (k : Core) (m : Word) : (k.stick m).scratchLost = k.scratchLost := rfl
@[simp] theorem Core.stick_state (k : Core) (m : Word) : (k.stick m).state = k.state := rfl
@[simp] theorem Core.stick_lastPass (k : Core) (m : Word) : (k.stick m).lastPass = k.lastPass := rfl

-- Core.setPred
@[simp] theorem Core.setPred_regs (k : Core) (p : Nat) (b : Bool) : (k.setPred p b).regs = k.regs := by unfold Core.setPred; split <;> rfl
@[simp] theorem Core.setPred_pc (k : Core) (p : Nat) (b : Bool) : (k.setPred p b).pc = k.pc := by unfold Core.setPred; split <;> rfl
@[simp] theorem Core.setPred_rs (k : Core) (p : Nat) (b : Bool) : (k.setPred p b).rs = k.rs := by unfold Core.setPred; split <;> rfl
@[simp] theorem Core.setPred_shadow (k : Core) (p : Nat) (b : Bool) : (k.setPred p b).shadow = k.shadow := by unfold Core.setPred; split <;> rfl
@[simp] theorem Core.setPred_rstack (k : Core) (p : Nat) (b : Bool) : (k.setPred p b).rstack = k.rstack := by unfold Core.setPred; split <;> rfl
@[simp] theorem Core.setPred_bankV (k : Core) (p : Nat) (b : Bool) : (k.setPred p b).bankV = k.bankV := by unfold Core.setPred; split <;> rfl
@[simp] theorem Core.setPred_bankD (k : Core) (p : Nat) (b : Bool) : (k.setPred p b).bankD = k.bankD := by unfold Core.setPred; split <;> rfl
@[simp] theorem Core.setPred_bankCtx (k : Core) (p : Nat) (b : Bool) : (k.setPred p b).bankCtx = k.bankCtx := by unfold Core.setPred; split <;> rfl
@[simp] theorem Core.setPred_recency (k : Core) (p : Nat) (b : Bool) : (k.setPred p b).recency = k.recency := by unfold Core.setPred; split <;> rfl
@[simp] theorem Core.setPred_cycle (k : Core) (p : Nat) (b : Bool) : (k.setPred p b).cycle = k.cycle := by unfold Core.setPred; split <;> rfl
@[simp] theorem Core.setPred_run (k : Core) (p : Nat) (b : Bool) : (k.setPred p b).run = k.run := by unfold Core.setPred; split <;> rfl
@[simp] theorem Core.setPred_wait (k : Core) (p : Nat) (b : Bool) : (k.setPred p b).wait = k.wait := by unfold Core.setPred; split <;> rfl
@[simp] theorem Core.setPred_micro (k : Core) (p : Nat) (b : Bool) : (k.setPred p b).micro = k.micro := by unfold Core.setPred; split <;> rfl
@[simp] theorem Core.setPred_parityHold (k : Core) (p : Nat) (b : Bool) : (k.setPred p b).parityHold = k.parityHold := by unfold Core.setPred; split <;> rfl
@[simp] theorem Core.setPred_storeBuf (k : Core) (p : Nat) (b : Bool) : (k.setPred p b).storeBuf = k.storeBuf := by unfold Core.setPred; split <;> rfl
@[simp] theorem Core.setPred_touchHeld (k : Core) (p : Nat) (b : Bool) : (k.setPred p b).touchHeld = k.touchHeld := by unfold Core.setPred; split <;> rfl
@[simp] theorem Core.setPred_staleOwn (k : Core) (p : Nat) (b : Bool) : (k.setPred p b).staleOwn = k.staleOwn := by unfold Core.setPred; split <;> rfl
@[simp] theorem Core.setPred_budget (k : Core) (p : Nat) (b : Bool) : (k.setPred p b).budget = k.budget := by unfold Core.setPred; split <;> rfl
@[simp] theorem Core.setPred_budgetFired (k : Core) (p : Nat) (b : Bool) : (k.setPred p b).budgetFired = k.budgetFired := by unfold Core.setPred; split <;> rfl
@[simp] theorem Core.setPred_budgetPend (k : Core) (p : Nat) (b : Bool) : (k.setPred p b).budgetPend = k.budgetPend := by unfold Core.setPred; split <;> rfl
@[simp] theorem Core.setPred_iresLeft (k : Core) (p : Nat) (b : Bool) : (k.setPred p b).iresLeft = k.iresLeft := by unfold Core.setPred; split <;> rfl
@[simp] theorem Core.setPred_sinceTick (k : Core) (p : Nat) (b : Bool) : (k.setPred p b).sinceTick = k.sinceTick := by unfold Core.setPred; split <;> rfl
@[simp] theorem Core.setPred_task (k : Core) (p : Nat) (b : Bool) : (k.setPred p b).task = k.task := by unfold Core.setPred; split <;> rfl
@[simp] theorem Core.setPred_taskCtx (k : Core) (p : Nat) (b : Bool) : (k.setPred p b).taskCtx = k.taskCtx := by unfold Core.setPred; split <;> rfl
@[simp] theorem Core.setPred_inNmi (k : Core) (p : Nat) (b : Bool) : (k.setPred p b).inNmi = k.inNmi := by unfold Core.setPred; split <;> rfl
@[simp] theorem Core.setPred_inMc (k : Core) (p : Nat) (b : Bool) : (k.setPred p b).inMc = k.inMc := by unfold Core.setPred; split <;> rfl
@[simp] theorem Core.setPred_fastDepth (k : Core) (p : Nat) (b : Bool) : (k.setPred p b).fastDepth = k.fastDepth := by unfold Core.setPred; split <;> rfl
@[simp] theorem Core.setPred_bsDepth (k : Core) (p : Nat) (b : Bool) : (k.setPred p b).bsDepth = k.bsDepth := by unfold Core.setPred; split <;> rfl
@[simp] theorem Core.setPred_fbInt (k : Core) (p : Nat) (b : Bool) : (k.setPred p b).fbInt = k.fbInt := by unfold Core.setPred; split <;> rfl
@[simp] theorem Core.setPred_bsInt (k : Core) (p : Nat) (b : Bool) : (k.setPred p b).bsInt = k.bsInt := by unfold Core.setPred; split <;> rfl
@[simp] theorem Core.setPred_nmiPend (k : Core) (p : Nat) (b : Bool) : (k.setPred p b).nmiPend = k.nmiPend := by unfold Core.setPred; split <;> rfl
@[simp] theorem Core.setPred_haltPend (k : Core) (p : Nat) (b : Bool) : (k.setPred p b).haltPend = k.haltPend := by unfold Core.setPred; split <;> rfl
@[simp] theorem Core.setPred_inDebug (k : Core) (p : Nat) (b : Bool) : (k.setPred p b).inDebug = k.inDebug := by unfold Core.setPred; split <;> rfl
@[simp] theorem Core.setPred_egsa (k : Core) (p : Nat) (b : Bool) : (k.setPred p b).egsa = k.egsa := by unfold Core.setPred; split <;> rfl
@[simp] theorem Core.setPred_drstResult (k : Core) (p : Nat) (b : Bool) : (k.setPred p b).drstResult = k.drstResult := by unfold Core.setPred; split <;> rfl
@[simp] theorem Core.setPred_drstCount (k : Core) (p : Nat) (b : Bool) : (k.setPred p b).drstCount = k.drstCount := by unfold Core.setPred; split <;> rfl
@[simp] theorem Core.setPred_drstCred (k : Core) (p : Nat) (b : Bool) : (k.setPred p b).drstCred = k.drstCred := by unfold Core.setPred; split <;> rfl
@[simp] theorem Core.setPred_ipend (k : Core) (p : Nat) (b : Bool) : (k.setPred p b).ipend = k.ipend := by unfold Core.setPred; split <;> rfl
@[simp] theorem Core.setPred_ien (k : Core) (p : Nat) (b : Bool) : (k.setPred p b).ien = k.ien := by unfold Core.setPred; split <;> rfl
@[simp] theorem Core.setPred_ifast (k : Core) (p : Nat) (b : Bool) : (k.setPred p b).ifast = k.ifast := by unfold Core.setPred; split <;> rfl
@[simp] theorem Core.setPred_dbgin (k : Core) (p : Nat) (b : Bool) : (k.setPred p b).dbgin = k.dbgin := by unfold Core.setPred; split <;> rfl
@[simp] theorem Core.setPred_inf (k : Core) (p : Nat) (b : Bool) : (k.setPred p b).inf = k.inf := by unfold Core.setPred; split <;> rfl
@[simp] theorem Core.setPred_dbgout (k : Core) (p : Nat) (b : Bool) : (k.setPred p b).dbgout = k.dbgout := by unfold Core.setPred; split <;> rfl
@[simp] theorem Core.setPred_outf (k : Core) (p : Nat) (b : Bool) : (k.setPred p b).outf = k.outf := by unfold Core.setPred; split <;> rfl
@[simp] theorem Core.setPred_brks (k : Core) (p : Nat) (b : Bool) : (k.setPred p b).brks = k.brks := by unfold Core.setPred; split <;> rfl
@[simp] theorem Core.setPred_brkSel (k : Core) (p : Nat) (b : Bool) : (k.setPred p b).brkSel = k.brkSel := by unfold Core.setPred; split <;> rfl
@[simp] theorem Core.setPred_ucodeBad (k : Core) (p : Nat) (b : Bool) : (k.setPred p b).ucodeBad = k.ucodeBad := by unfold Core.setPred; split <;> rfl
@[simp] theorem Core.setPred_reloaded (k : Core) (p : Nat) (b : Bool) : (k.setPred p b).reloaded = k.reloaded := by unfold Core.setPred; split <;> rfl
@[simp] theorem Core.setPred_faultFrame (k : Core) (p : Nat) (b : Bool) : (k.setPred p b).faultFrame = k.faultFrame := by unfold Core.setPred; split <;> rfl
@[simp] theorem Core.setPred_faulted (k : Core) (p : Nat) (b : Bool) : (k.setPred p b).faulted = k.faulted := by unfold Core.setPred; split <;> rfl
@[simp] theorem Core.setPred_scratchLost (k : Core) (p : Nat) (b : Bool) : (k.setPred p b).scratchLost = k.scratchLost := by unfold Core.setPred; split <;> rfl
@[simp] theorem Core.setPred_state (k : Core) (p : Nat) (b : Bool) : (k.setPred p b).state = k.state := by unfold Core.setPred; split <;> rfl
@[simp] theorem Core.setPred_lastPass (k : Core) (p : Nat) (b : Bool) : (k.setPred p b).lastPass = k.lastPass := by unfold Core.setPred; split <;> rfl

-- Core.setReg
@[simp] theorem Core.setReg_sr (k : Core) (r : Reg) (v : Word) : (k.setReg r v).sr = k.sr := rfl
@[simp] theorem Core.setReg_pc (k : Core) (r : Reg) (v : Word) : (k.setReg r v).pc = k.pc := rfl
@[simp] theorem Core.setReg_rs (k : Core) (r : Reg) (v : Word) : (k.setReg r v).rs = k.rs := rfl
@[simp] theorem Core.setReg_shadow (k : Core) (r : Reg) (v : Word) : (k.setReg r v).shadow = k.shadow := rfl
@[simp] theorem Core.setReg_rstack (k : Core) (r : Reg) (v : Word) : (k.setReg r v).rstack = k.rstack := rfl
@[simp] theorem Core.setReg_bankV (k : Core) (r : Reg) (v : Word) : (k.setReg r v).bankV = k.bankV := rfl
@[simp] theorem Core.setReg_bankCtx (k : Core) (r : Reg) (v : Word) : (k.setReg r v).bankCtx = k.bankCtx := rfl
@[simp] theorem Core.setReg_recency (k : Core) (r : Reg) (v : Word) : (k.setReg r v).recency = k.recency := rfl
@[simp] theorem Core.setReg_cycle (k : Core) (r : Reg) (v : Word) : (k.setReg r v).cycle = k.cycle := rfl
@[simp] theorem Core.setReg_run (k : Core) (r : Reg) (v : Word) : (k.setReg r v).run = k.run := rfl
@[simp] theorem Core.setReg_wait (k : Core) (r : Reg) (v : Word) : (k.setReg r v).wait = k.wait := rfl
@[simp] theorem Core.setReg_micro (k : Core) (r : Reg) (v : Word) : (k.setReg r v).micro = k.micro := rfl
@[simp] theorem Core.setReg_parityHold (k : Core) (r : Reg) (v : Word) : (k.setReg r v).parityHold = k.parityHold := rfl
@[simp] theorem Core.setReg_storeBuf (k : Core) (r : Reg) (v : Word) : (k.setReg r v).storeBuf = k.storeBuf := rfl
@[simp] theorem Core.setReg_touchHeld (k : Core) (r : Reg) (v : Word) : (k.setReg r v).touchHeld = k.touchHeld := rfl
@[simp] theorem Core.setReg_staleOwn (k : Core) (r : Reg) (v : Word) : (k.setReg r v).staleOwn = k.staleOwn := rfl
@[simp] theorem Core.setReg_budget (k : Core) (r : Reg) (v : Word) : (k.setReg r v).budget = k.budget := rfl
@[simp] theorem Core.setReg_budgetFired (k : Core) (r : Reg) (v : Word) : (k.setReg r v).budgetFired = k.budgetFired := rfl
@[simp] theorem Core.setReg_budgetPend (k : Core) (r : Reg) (v : Word) : (k.setReg r v).budgetPend = k.budgetPend := rfl
@[simp] theorem Core.setReg_iresLeft (k : Core) (r : Reg) (v : Word) : (k.setReg r v).iresLeft = k.iresLeft := rfl
@[simp] theorem Core.setReg_sinceTick (k : Core) (r : Reg) (v : Word) : (k.setReg r v).sinceTick = k.sinceTick := rfl
@[simp] theorem Core.setReg_task (k : Core) (r : Reg) (v : Word) : (k.setReg r v).task = k.task := rfl
@[simp] theorem Core.setReg_taskCtx (k : Core) (r : Reg) (v : Word) : (k.setReg r v).taskCtx = k.taskCtx := rfl
@[simp] theorem Core.setReg_inNmi (k : Core) (r : Reg) (v : Word) : (k.setReg r v).inNmi = k.inNmi := rfl
@[simp] theorem Core.setReg_inMc (k : Core) (r : Reg) (v : Word) : (k.setReg r v).inMc = k.inMc := rfl
@[simp] theorem Core.setReg_fastDepth (k : Core) (r : Reg) (v : Word) : (k.setReg r v).fastDepth = k.fastDepth := rfl
@[simp] theorem Core.setReg_bsDepth (k : Core) (r : Reg) (v : Word) : (k.setReg r v).bsDepth = k.bsDepth := rfl
@[simp] theorem Core.setReg_fbInt (k : Core) (r : Reg) (v : Word) : (k.setReg r v).fbInt = k.fbInt := rfl
@[simp] theorem Core.setReg_bsInt (k : Core) (r : Reg) (v : Word) : (k.setReg r v).bsInt = k.bsInt := rfl
@[simp] theorem Core.setReg_nmiPend (k : Core) (r : Reg) (v : Word) : (k.setReg r v).nmiPend = k.nmiPend := rfl
@[simp] theorem Core.setReg_haltPend (k : Core) (r : Reg) (v : Word) : (k.setReg r v).haltPend = k.haltPend := rfl
@[simp] theorem Core.setReg_inDebug (k : Core) (r : Reg) (v : Word) : (k.setReg r v).inDebug = k.inDebug := rfl
@[simp] theorem Core.setReg_egsa (k : Core) (r : Reg) (v : Word) : (k.setReg r v).egsa = k.egsa := rfl
@[simp] theorem Core.setReg_drstResult (k : Core) (r : Reg) (v : Word) : (k.setReg r v).drstResult = k.drstResult := rfl
@[simp] theorem Core.setReg_drstCount (k : Core) (r : Reg) (v : Word) : (k.setReg r v).drstCount = k.drstCount := rfl
@[simp] theorem Core.setReg_drstCred (k : Core) (r : Reg) (v : Word) : (k.setReg r v).drstCred = k.drstCred := rfl
@[simp] theorem Core.setReg_ipend (k : Core) (r : Reg) (v : Word) : (k.setReg r v).ipend = k.ipend := rfl
@[simp] theorem Core.setReg_ien (k : Core) (r : Reg) (v : Word) : (k.setReg r v).ien = k.ien := rfl
@[simp] theorem Core.setReg_ifast (k : Core) (r : Reg) (v : Word) : (k.setReg r v).ifast = k.ifast := rfl
@[simp] theorem Core.setReg_dbgin (k : Core) (r : Reg) (v : Word) : (k.setReg r v).dbgin = k.dbgin := rfl
@[simp] theorem Core.setReg_inf (k : Core) (r : Reg) (v : Word) : (k.setReg r v).inf = k.inf := rfl
@[simp] theorem Core.setReg_dbgout (k : Core) (r : Reg) (v : Word) : (k.setReg r v).dbgout = k.dbgout := rfl
@[simp] theorem Core.setReg_outf (k : Core) (r : Reg) (v : Word) : (k.setReg r v).outf = k.outf := rfl
@[simp] theorem Core.setReg_brks (k : Core) (r : Reg) (v : Word) : (k.setReg r v).brks = k.brks := rfl
@[simp] theorem Core.setReg_brkSel (k : Core) (r : Reg) (v : Word) : (k.setReg r v).brkSel = k.brkSel := rfl
@[simp] theorem Core.setReg_ucodeBad (k : Core) (r : Reg) (v : Word) : (k.setReg r v).ucodeBad = k.ucodeBad := rfl
@[simp] theorem Core.setReg_reloaded (k : Core) (r : Reg) (v : Word) : (k.setReg r v).reloaded = k.reloaded := rfl
@[simp] theorem Core.setReg_faultFrame (k : Core) (r : Reg) (v : Word) : (k.setReg r v).faultFrame = k.faultFrame := rfl
@[simp] theorem Core.setReg_faulted (k : Core) (r : Reg) (v : Word) : (k.setReg r v).faulted = k.faulted := rfl
@[simp] theorem Core.setReg_scratchLost (k : Core) (r : Reg) (v : Word) : (k.setReg r v).scratchLost = k.scratchLost := rfl
@[simp] theorem Core.setReg_state (k : Core) (r : Reg) (v : Word) : (k.setReg r v).state = k.state := rfl
@[simp] theorem Core.setReg_lastPass (k : Core) (r : Reg) (v : Word) : (k.setReg r v).lastPass = k.lastPass := rfl

end Sys2Proof.Machine
end

