-- ==== Sys2Proof/Laws/Ops.lean ====
section
/-!
SUPPORT. The shared operations of the ledger core: one lemma for each that says everything it can change (R256, R257, R288, R393, R404, R426).
-/

namespace Sys2Proof.Machine

/-- A charge of cycles changes its own core, and draws a free value when its cost is a range. -/
theorem charge_eq (s : State) (c : Nat) (x : Cost) :
    ∃ n, (n = x.lo ∨ n = x.draw s.freeVal) ∧ s.charge c x =
      { s with cores := Tab.insert c ((s.core c).charge n) s.cores, freeCtr := if x.hi ≤ x.lo then s.freeCtr else s.freeCtr + 1 } := by
  unfold State.charge
  by_cases h : x.hi ≤ x.lo
  · exact ⟨x.lo, .inl rfl, by simp [h, State.setCore]⟩
  · exact ⟨x.draw s.freeVal, .inr rfl, by simp [h, State.setCore, State.drawn]⟩

/-- A charge, then a change of the same core, changes that core. -/
theorem charge_setCore (s : State) (c : Nat) (x : Cost) (k : Core) :
    (s.charge c x).setCore c k = { s with cores := Tab.insert c k s.cores, freeCtr := (s.charge c x).freeCtr } := by
  obtain ⟨n, -, h⟩ := charge_eq s c x
  rw [h]
  simp only [State.setCore, Tab.insert_insert]

/-- Completion changes its own core, and draws a free value when its cost is a range. -/
theorem retire_eq (s : State) (c : Nat) (pc : Word) (rep : Bool) (x : Cost) :
    ∃ k n, s.retire c pc rep x = { s with cores := Tab.insert c k s.cores, freeCtr := n } :=
  ⟨_, _, charge_setCore s c (x.plus (s.loopAdd c pc rep)) _⟩

theorem retireTo_eq (s : State) (c : Nat) (target : Word) (x : Cost) :
    ∃ k n, s.retireTo c target x = { s with cores := Tab.insert c k s.cores, freeCtr := n } :=
  ⟨_, _, charge_setCore s c x _⟩

/-- A reported fault holds its core, frees its locks and may ask for its retirement (R535, R536). -/
theorem reportFault_eq (s : State) (c cause : Nat) :
    ∃ l, s.reportFault c cause = { (s.unlock c) with
      cores := Tab.insert c ((s.core c).report s.timer.frame) s.cores, repair := { s.repair with retireDue := l } } := by
  unfold State.reportFault
  simp only
  split
  · exact ⟨_, rfl⟩
  · exact ⟨s.repair.retireDue, rfl⟩

/-- A fault that is taken frees the locks of its core and changes that core; a machine check without MCE stops it, which is logged and reported;
a halt counts (R395, R404, R570). -/
theorem enter_eq (s : State) (c : Nat) (t : Trap) (pc : Word) (rs : Bool) :
    ∃ k n ro log l, s.enter c t pc rs = { (s.unlock c) with
      cores := Tab.insert c k s.cores, freeCtr := n, ro := ro, log := log, repair := { s.repair with retireDue := l } } := by
  unfold State.enter
  simp only
  split
  · unfold State.checkstop
    simp only
    obtain ⟨l, h⟩ := reportFault_eq ((s.unlock c).logEvent 0x0601 3 (leBytes 4 pc.toNat ++ [BitVec.ofNat 8 c] ++ leBytes 2 (t.ecause.toNat % 65536))) c 2
    rw [h]
    exact ⟨_, s.freeCtr, s.ro, _, l, by simp [State.unlock, State.logEvent, List.filter_filter]; exact ⟨rfl, rfl⟩⟩
  · obtain ⟨n, -, h⟩ := charge_eq (((if t.vec = 20 then (s.unlock c).count (okey 0x1310 2) 1 32 else s.unlock c)).setCore c
      (((s.unlock c).core c).enter t.vec (some t) pc rs)) c
      ((if t.vec = 20 then (s.unlock c).count (okey 0x1310 2) 1 32 else s.unlock c).entryCost c t.vec)
    rw [h]
    split
    · exact ⟨_, _, _, s.log, s.repair.retireDue, by simp only [State.setCore, Tab.insert_insert]; rfl⟩
    · exact ⟨_, _, s.ro, s.log, s.repair.retireDue, by simp only [State.setCore, Tab.insert_insert]; rfl⟩

-- ---------------------------------------------------------------- fetch

/-- What meeting code words can change: what they hold, the poison lists, the counters and the log (R256, R257). -/
def Scrubbed (s t : State) : Prop := ∃ u p ro log, t = { s with upsets := u, poison := p, ro := ro, log := log }

theorem Scrubbed.refl (s : State) : Scrubbed s s := ⟨_, _, _, _, rfl⟩

theorem Scrubbed.trans {s t u : State} (h : Scrubbed s t) (g : Scrubbed t u) : Scrubbed s u := by
  obtain ⟨a, b, c, d, rfl⟩ := h
  obtain ⟨a, b, c, d, rfl⟩ := g
  exact ⟨a, b, c, d, rfl⟩

theorem roSet_scrubs (s : State) (k v : Nat) : Scrubbed s (s.roSet k v) := ⟨_, _, _, _, rfl⟩
theorem count_scrubs (s : State) (k n b : Nat) : Scrubbed s (s.count k n b) := ⟨_, _, _, _, rfl⟩
theorem logEvent_scrubs (s : State) (code sev : Nat) (l : List Byte) : Scrubbed s (s.logEvent code sev l []) := ⟨_, _, _, _, rfl⟩

theorem countCorrected_scrubs (s : State) (cw : Nat) : Scrubbed s (s.countCorrected cw) := by
  unfold State.countCorrected
  split
  · exact (count_scrubs ..).trans (roSet_scrubs ..)
  · exact count_scrubs ..
  · exact (count_scrubs ..).trans (roSet_scrubs ..)

theorem poisonWord_scrubs (s : State) (cw : Nat) : Scrubbed s (s.poisonWord cw) := by
  have add : ∀ t : State, Scrubbed t (if (t.poison.filter fun x => x.1 == poisonOf cw).length < 64 then
      { t with poison := t.poison ++ [(poisonOf cw, cw)] } else t.logEvent 0x0502 2 [BitVec.ofNat 8 (min (poisonOf cw) 4)]) := by
    intro t
    split
    · exact ⟨_, _, _, _, rfl⟩
    · exact logEvent_scrubs ..
  unfold State.poisonWord
  simp only
  split
  · exact .refl s
  · refine Scrubbed.trans ?_ (add _)
    split
    · exact (count_scrubs ..).trans (roSet_scrubs ..)
    · exact count_scrubs ..
    · exact (count_scrubs ..).trans (roSet_scrubs ..)

theorem meetWord_scrubs (s : State) (cw : Nat) : Scrubbed s (s.meetWord cw).1 := by
  unfold State.meetWord
  split
  · exact .refl s
  · exact Scrubbed.trans ⟨_, _, _, _, rfl⟩ (countCorrected_scrubs _ cw)
  · exact poisonWord_scrubs s cw

theorem meetWords_scrubs (l : List Nat) (s : State) : Scrubbed s (s.meetWords l).1 := by
  induction l generalizing s with
  | nil => exact .refl s
  | cons cw t ih =>
    unfold State.meetWords
    simp only
    split
    · exact meetWord_scrubs s cw
    · exact (meetWord_scrubs s cw).trans (ih _)

/-- What marking a page can change: its key, the key cache and the key area behind it (R255, R415). -/
def Keyed (s t : State) : Prop := ∃ k kc km, t = { s with keys := k, keyCache := kc, keyMem := km }

theorem Keyed.refl (s : State) : Keyed s s := ⟨_, _, _, rfl⟩

theorem Keyed.trans {s t u : State} (h : Keyed s t) (g : Keyed t u) : Keyed s u := by
  obtain ⟨a, b, c, rfl⟩ := h
  obtain ⟨a, b, c, rfl⟩ := g
  exact ⟨a, b, c, rfl⟩

theorem keyFetch_keys (s : State) (p : Nat) : Keyed s (s.keyFetch p) := by
  unfold State.keyFetch
  split
  · exact .refl s
  · simp only
    split <;> exact ⟨_, _, _, rfl⟩

theorem markPage_keys (s : State) (b : Bool) (pa : Nat) : Keyed s (s.markPage b pa) := by
  unfold State.markPage
  simp only
  split
  · exact .refl s
  · exact (keyFetch_keys s _).trans ⟨_, _, _, rfl⟩

theorem mark_keys (b : Bool) (ms : List Mapped) (s : State) : Keyed s (s.mark b ms) := by
  induction ms generalizing s with
  | nil => exact .refl s
  | cons m t ih => exact (markPage_keys s b m.pa).trans (ih _)

/-- A fetch meets its code word and marks its page; it changes no byte, no core and nothing else (R288, R415). -/
theorem fetch_eq (s : State) (c : Nat) (pc : Word) : ∃ t, Scrubbed s t ∧ Keyed t (s.fetch c pc).1 := by
  unfold State.fetch
  rcases s.judge c accFetch [⟨pc.toNat, 4⟩] none with t | ms
  · exact ⟨s, .refl s, .refl s⟩
  · simp only
    generalize cwsOf _ 4 = l
    split
    · exact ⟨_, meetWords_scrubs _ s, .refl _⟩
    · exact ⟨_, meetWords_scrubs _ s, mark_keys false ms _⟩

end Sys2Proof.Machine
end

