-- ==== Sys2Proof/Laws/Run.lean ====
section
/-!
SUPPORT. What running one instruction can do (R271, R288, R307, R308, R393): one lemma for each way it ends.
-/

namespace Sys2Proof.Machine

/-- An executed instruction without an encoding fault ends as its body says. -/
theorem runInstr_executes {s : State} {c : CoreId} {i : Instr} {g : Guard} {resum : Bool} (xfer : Bool) (fcost : Cost) (body : State → Res)
    (h : s.executes c i g resum) :
    s.runInstr c i g none resum xfer fcost body =
      (s.fetched c).finish c i (s.pcOf c) (s.repeats c resum) (s.rsOf c && resum) (body (s.fetched c)) := by
  obtain ⟨⟨h1, h2, h3, h4⟩, h5, h6, h7⟩ := h
  unfold State.runInstr
  rw [if_neg (by simp [h1])]
  simp only [State.due, State.rsOf, State.fetches, State.pcOf, State.fetched] at h2 h3 h4 h6 h7
  rw [if_neg (by simpa [and_assoc] using h2), if_neg (by simp [h3])]
  split
  · rename_i heq; rw [heq] at h4; simp at h4
  · rename_i s' _ heq
    rw [heq] at h7
    simp only [h5, h6, h7, State.fetched, State.due, State.pcOf, heq, State.repeats, State.rsOf]
    simp

/-- An instruction whose guard fails completes at its false-guard cost. -/
theorem runInstr_guard_false {s : State} {c : CoreId} (i : Instr) {g : Guard} {resum xfer : Bool} (fcost : Cost) (body : State → Res)
    (h : s.meets c resum) (hr : guardReserved g = false) (hg : ((s.due c).core c).guardHolds g = false)
    (hx : xfer = true → ((s.due c).core c).loopEndAt (s.pcOf c) = false) :
    s.runInstr c i g none resum xfer fcost body =
      (s.fetched c).finish c i (s.pcOf c) (s.repeats c resum) (s.rsOf c && resum) (.done (s.fetched c) fcost) := by
  obtain ⟨h1, h2, h3, h4⟩ := h
  unfold State.runInstr
  rw [if_neg (by simp [h1])]
  simp only [State.due, State.rsOf, State.fetches, State.pcOf] at h2 h3 h4 hg hx
  rw [if_neg (by simpa [and_assoc] using h2), if_neg (by simp [h3])]
  split
  · rename_i heq; rw [heq] at h4; simp at h4
  · rename_i s' _ heq
    simp only [hr, hg, State.fetched, State.due, State.pcOf, heq, State.repeats, State.rsOf]
    cases xfer with
    | true => simp only [hx rfl]; simp
    | false => simp

/-- An encoding fault enters vector 4 whatever the guard holds. -/
theorem runInstr_encoding {s : State} {c : CoreId} (i : Instr) {g : Guard} {resum : Bool} (xfer : Bool) (fcost : Cost) (body : State → Res)
    (code : Nat) (h : s.meets c resum) :
    (g = 1#4 → ∀ enc, s.runInstr c i g enc resum xfer fcost body =
      .next ((s.fetched c).enter c (trapAt 4 0x02 (s.pcOf c)) (s.pcOf c) (s.rsOf c))) ∧
    (g ≠ 1#4 → s.runInstr c i g (some code) resum xfer fcost body =
      .next ((s.fetched c).enter c (trapAt 4 code (s.pcOf c)) (s.pcOf c) (s.rsOf c))) := by
  obtain ⟨h1, h2, h3, h4⟩ := h
  simp only [State.due, State.rsOf, State.fetches, State.pcOf] at h2 h3 h4
  constructor
  · intro hg enc
    unfold State.runInstr
    rw [if_neg (by simp [h1]), if_neg (by simpa [and_assoc] using h2), if_neg (by simp [h3])]
    split
    · rename_i heq; rw [heq] at h4; simp at h4
    · rename_i heq
      simp only [State.fetched, State.due, State.pcOf, heq, State.rsOf]
      simp [guardReserved, hg]
  · intro hg
    unfold State.runInstr
    rw [if_neg (by simp [h1]), if_neg (by simpa [and_assoc] using h2), if_neg (by simp [h3])]
    split
    · rename_i heq; rw [heq] at h4; simp at h4
    · rename_i heq
      simp only [State.fetched, State.due, State.pcOf, heq, State.rsOf]
      simp [guardReserved, hg]

/-- A body that is done completes the instruction. -/
theorem finish_done {s u : State} {c : Nat} (i : Instr) {resum : Bool} (x : Cost) (h : s.endsWell u c resum = true) :
    (s.fetched c).finish c i (s.pcOf c) (s.repeats c resum) (s.rsOf c && resum) (.done u x) = .next (s.completed u c resum x) := by
  simp only [State.endsWell, Bool.not_eq_true'] at h
  simp only [State.finish, State.completed]
  rw [if_neg (by simpa using h)]

/-- A body that traps enters the vector, the saved PC at the instruction and the saved RS as it stood. -/
theorem finish_trap {s u : State} {c : Nat} (i : Instr) {resum : Bool} (t : Trap) :
    (s.fetched c).finish c i (s.pcOf c) (s.repeats c resum) (s.rsOf c && resum) (.trap u t) = .next ((s.undone u c).enter c t (s.pcOf c) (s.rsOf c)) := by
  simp only [State.finish, State.repeats, State.undone]
  cases resum <;> simp

/-- A body that traps late enters the vector once its work's time is charged. -/
theorem finish_trapLate {s u : State} {c : Nat} (i : Instr) {resum : Bool} (t : Trap) (x : Cost) :
    (s.fetched c).finish c i (s.pcOf c) (s.repeats c resum) (s.rsOf c && resum) (.trapLate u t x) =
      .next (((s.undone u c).charge c x).enter c t (s.pcOf c) (s.rsOf c)) := by
  simp only [State.finish, State.repeats, State.undone]
  cases resum <;> simp

/-- A transfer outside a loop's end goes to its target. -/
theorem finish_jump {s u : State} {c : Nat} (i : Instr) {rep resumed : Bool} {pc : Word} (target : Word) (x : Cost)
    (h : (u.core c).loopEndAt pc = false) : s.finish c i pc rep resumed (.jump u target x) = .next (u.retireTo c target x) := by
  simp only [State.finish]
  rw [if_neg (by simp [h])]

/-- An instruction that only changes its core has the result that `CoreResult` states. -/
theorem core_result {s : State} {c : CoreId} {i : Instr} {g : Guard} {x : Cost} {f : Core → Core}
    (h : exec i s = s.runInstr c i g none false false (cc 1) fun s => .done (s.setCore c (f (s.core c))) x) : CoreResult s c g i x f := by
  intro hx he
  rw [h, runInstr_executes _ _ _ hx]
  exact finish_done _ _ he

end Sys2Proof.Machine
end

