-- ==== Sys2Proof/Tests/Slice0.lean ====
section
/-!
SUPPORT. Tests: what the checks of WellFormed refuse, words of instructions written out from the spec's encodings, for every statement that has
hypotheses a state and operands that meet them (theorems wit_…), and single steps with results from the spec (theorems test_…).
-/

namespace Sys2Proof.Tests
open Sys2Proof.Machine
set_option Elab.async false

-- ---------------------------------------------------------------- ill-formed terms that WellFormed refuses

/-- A datagram of no bytes by port 0. -/
def frame0 : Datagram := ⟨0, 64, false, false, 0, 0, true, false, false, true, .good, 0, 0, 0, 0, []⟩

/-- 32 channels of nothing, and a board that boots. -/
def chan0 : ChanFacts := ⟨[], 0, 0, 0, 0, 0, 0, 0, 0, 0, [], 0, false, false, 0, none, 0, 0⟩
def board0 : BootFacts :=
  ⟨false, (true, true), (true, true), false, [], [], List.replicate 32 chan0, List.replicate 4 true, (⟨0, 0, 0, 0⟩, ⟨0, 0, 0, 0⟩), 900⟩

/-- Sensors in range. -/
def sensors0 : SensorFacts := ⟨List.replicate 24 300, [750, 1100, 1100, 900, 1800, 1200, 3300, 12000], 48000, 0, 0⟩

theorem test_wf_guard : Instr.wf (.add 0 1 1 2 3) = false ∧ Instr.wf (.add 0 0 1 2 3) = true := by decide
theorem test_wf_loop_level : Instr.wf (.loop 0 0 3 1 4) = false ∧ Instr.wf (.loopi 0 0 3 9 4) = false ∧ Instr.wf (.loop 0 0 2 1 4) = true := by decide
theorem test_wf_loop_end : Instr.wf (.loop 0 0 0 1 0) = false ∧ Instr.wf (.loopi 0 0 2 1 0) = false ∧ Instr.wf (.loopi 0 0 2 0 1) = true := by decide
theorem test_wf_pair : Instr.wf (.ldd 0 0 3 2 0 0) = false ∧ Instr.wf (.fadd 0 0 true 2 4 5) = false ∧ Instr.wf (.fadd 0 0 false 2 4 5) = true ∧
    Instr.wf (.edit 0 0 2 5 4) = false ∧ Instr.wf (.edit 0 0 2 4 5) = true := by decide
theorem test_wf_reserved_constant : Instr.wf (.lih 0 0 1 0x10000) = false ∧ Instr.wf (.lil 0 0 1 0x1FFFF) = false ∧ Instr.wf (.li 0 0 1 0x1FFFF) = true := by decide
theorem test_wf_reserved_index : Instr.wf (.ldw 0 0 1 2 3 0x1) = false ∧ Instr.wf (.stb 0 0 1 2 3 0x2) = false ∧ Instr.wf (.ldw 0 0 1 2 3 0x1FC) = true ∧
    Instr.wf (.ldw 0 0 1 2 0 0x1) = true := by decide
theorem test_wf_device_window : Instr.wf (.deviceRegisterWrite 0 0x2FFFFFFFFF 4 0) = false ∧ Instr.wf (.deviceRegisterWrite 0 0x3100000000 4 0) = false ∧
    Instr.wf (.deviceRegisterWrite 0 0x3000000000 3 0) = false ∧ Instr.wf (.deviceRegisterWrite 0 0x30FFFFFFF8 8 0) = true := by decide
theorem test_wf_samples : Instr.wf (.frameTick ⟨2, 1⟩) = false ∧ Instr.wf (.frameTick ⟨1, 1⟩) = true := by decide
theorem test_wf_frame : Instr.wf (.vrtDatagram { frame0 with size := 45 }) = false ∧ Instr.wf (.vrtDatagram { frame0 with size := 46 }) = true ∧
    Instr.wf (.vrtDatagram { frame0 with size := 46, tags := 1 }) = false ∧ Instr.wf (.vrtDatagram { frame0 with size := 46, ip6 := true }) = false ∧
    Instr.wf (.vrtDatagram { frame0 with udp := false, data := [0] }) = false := by decide
theorem test_wf_read : Instr.wf (.mediaOpComplete 0 (.read (.retry 0) [] 0) []) = false ∧ Instr.wf (.mediaOpComplete 0 (.read .hard [.hard] 0) []) = false ∧
    Instr.wf (.mediaOpComplete 0 (.read .fail [] 0) []) = false ∧ Instr.wf (.mediaOpComplete 0 (.read .fail (List.replicate 7 (.retry 15)) 3) []) = true ∧
    Instr.wf (.mediaOpComplete 0 (.read .soft [] 9) []) = true := by decide
theorem test_wf_drop : Instr.wf (.capacitanceTestEnd 1 0) = false ∧ Instr.wf (.capacitanceTestEnd 1 1) = true := by decide
theorem test_wf_lun : Instr.wf (.wearLevelling 1024) = false ∧ Instr.wf (.wearLevelling 1023) = true ∧ Instr.wf (.lunRebuildComplete 1024) = false := by decide
theorem test_wf_shortfall : Instr.wf (.grinderJobMiss 0 0) = false ∧ Instr.wf (.grinderJobMiss 7 1) = true := by decide
theorem test_wf_row : Instr.wf (.sramRowRepair 1 0) = false ∧ Instr.wf (.sramRowRepair 3 4096) = false ∧ Instr.wf (.sramRowRepair 4 8704) = false ∧
    Instr.wf (.sramRowRepair 2 32767) = true ∧ Instr.wf (.sramRowRepairComplete 4 8703) = true := by decide
theorem test_wf_sensors : Instr.wf (.sensorSample { sensors0 with temps := [] }) = false ∧ Instr.wf (.sensorSample { sensors0 with rails := [750] }) = false ∧
    Instr.wf (.sensorSample sensors0) = true := by decide
theorem test_wf_board : Instr.wf (.boot { board0 with chans := [chan0] }) = false ∧ Instr.wf (.boot board0) = true ∧
    Instr.wf (.boot { board0 with chans := List.replicate 32 { chan0 with luns := [⟨3, true, []⟩, ⟨3, false, []⟩] } }) = false ∧
    Instr.wf (.boot { board0 with chans := List.replicate 32 { chan0 with iface := 3 } }) = false ∧
    Instr.wf (.boot { board0 with chans := List.replicate 32 { chan0 with levels := 16 } }) = false ∧
    Instr.wf (.boot { board0 with sysGood := [true] }) = false ∧
    Instr.wf (.boot { board0 with dram := (⟨3300, 0, 4, 1⟩, ⟨0, 0, 0, 0⟩) }) = false ∧
    Instr.wf (.boot { board0 with dram := (⟨6400, 2 ^ 36, 8, 2⟩, ⟨3200, 0, 4, 1⟩) }) = true := by decide
theorem test_wf_cells : Instr.wf (.extest [true] []) = false ∧ Instr.wf (.samplePreload [] [true]) = false ∧ Instr.wf (.extest [true] [false]) = true := by decide
theorem test_wf_can : Instr.wf (.canFdFrame ⟨0x5C1, List.replicate 9 0⟩) = false ∧ Instr.wf (.canFdFrame ⟨0x5C1, List.replicate 12 0⟩) = true ∧
    Instr.wf (.canFdFrame ⟨0x5C1, List.replicate 65 0⟩) = false := by decide
theorem test_wf_illegal : Instr.wf (.illegalInstruction 0 0) = true ∧ Instr.wf (.illegalInstruction 0 0x04C00000) = true ∧
    Instr.wf (.illegalInstruction 0 0x00000001) = false := by decide

-- ---------------------------------------------------------------- words written out from the tables of chapters 10 to 12

-- guard, major, rd, rs, rt and func of the R layout; imm12 of the I layout; mode and f of the M layout (R306)
theorem test_word_alu : decodeWord 0 0b0000_000000_00011_00001_00010_0000001#32 = .instr (.add 0 0 3 1 2) ∧
    decodeWord 0 0b0110_000000_11111_00001_00000_0010001#32 = .instr (.sexth 0 6 31 1) := by decide
theorem test_word_immediate : decodeWord 0 0b0000_000100_00011_00001_111111111111#32 = .instr (.addi 0 0 3 1 0xFFF) ∧
    decodeWord 0 0b0000_010001_00011_00001_000000000010#32 = .instr (.lih 0 0 3 0x1002) := by decide
theorem test_word_shift : decodeWord 0 0b0000_000010_00011_00001_00010_0000100#32 = .instr (.rol 0 0 3 1 2) ∧
    decodeWord 0 0b0000_001011_00011_00001_000000100001#32 = .instr (.rori 0 0 3 1 33) := by decide
theorem test_word_compare : decodeWord 0 0b0000_000011_01011_00001_00010_0000100#32 = .instr (.cmpleu 0 0 11 1 2) ∧
    decodeWord 0 0b0000_000011_00011_00001_00010_0010011#32 = .instr (.pxor 0 0 3 1 2) := by decide
theorem test_word_divide : decodeWord 0 0b0000_000001_00100_00001_00010_0001101#32 = .instr (.divqru 0 0 4 1 2) := by decide
theorem test_word_memory : decodeWord 0 0b0000_011000_00011_00001_001_111111111#32 = .instr (.ldw 0 0 3 1 1 0x1FF) ∧
    decodeWord 0 0b0000_011101_00100_00001_011_000100000#32 = .instr (.std 0 0 4 1 3 0x20) := by decide
theorem test_word_atomic : decodeWord 0 0b0000_011110_00011_00001_00010_0000001#32 = .instr (.casw 0 0 3 1 2) ∧
    decodeWord 0 0b0000_011111_00000_00000_00000_0000001#32 = .instr (.fencei 0 0) := by decide
theorem test_word_control : decodeWord 0 0b0000_100000_1111111111111111111111#32 = .instr (.br 0 0 0x3FFFFF) ∧
    decodeWord 0 0b0000_100011_00010_00101_000000000100#32 = .instr (.loop 0 0 2 5 4) ∧
    decodeWord 0 0b0000_100100_11101_00101_000000000100#32 = .instr (.loopi 0 0 1 0b11100101 4) ∧
    decodeWord 0 0b0000_100101_00000_01111_000000000001#32 = .instr (.rpti 0 0 0xF001) := by decide
theorem test_word_system : decodeWord 0 0b0000_101000_00000_00000_000000001111#32 = .instr (.sysc 0 0 15) ∧
    decodeWord 0 0b0000_101001_00000_00000_00000_0000100#32 = .instr (.mret 0 0) ∧
    decodeWord 0 0b0000_101010_00011_00000_000000011000#32 = .instr (.mfs 0 0 3 0x018) ∧
    decodeWord 0 0b0000_101011_00000_00011_000100000001#32 = .instr (.mts 0 0 3 0x101) ∧
    decodeWord 0 0b0000_101100_00000_00001_00010_0000001#32 = .instr (.kset 0 0 1 2) := by decide
theorem test_word_float : decodeWord 0 0b0000_110000_00100_00010_00110_1000011#32 = .instr (.fdiv 0 0 true 4 2 6) ∧
    decodeWord 0 0b0000_110000_00011_00010_00000_0011001#32 = .instr (.fcvti 0 0 false 3 2) ∧
    decodeWord 0 0b0000_110001_00100_00010_00110_0000010#32 = .instr (.fnma 0 0 false 4 2 6) := by decide
theorem test_word_decimal : decodeWord 0 0b0000_110010_00100_00010_00110_0101111#32 = .instr (.ddiv 0 0 7 4 2 6) ∧
    decodeWord 0 0b0000_110011_00100_00010_00110_0011001#32 = .instr (.cvbp 0 0 1 4 2 6) := by decide
theorem test_word_string : decodeWord 0 0b0000_110100_00100_00010_00110_0000111#32 = .instr (.edit 0 0 4 2 6) ∧
    decodeWord 0 0b0000_110100_00100_00000_00110_0000011#32 = .instr (.scns 0 0 4 6) := by decide
theorem test_word_posting : decodeWord 0 0b0000_110101_00100_00010_00110_0001010#32 = .instr (.post4 0 0 2 4 2 6) ∧
    decodeWord 0 0b0000_110101_00100_00010_00000_0010001#32 = .instr (.tchkForm 0 0 4 2) ∧
    decodeWord 0 0b0000_111000_00100_00010_00110_1111101#32 = .instr (.cust 0 0 15 5 4 2 6) := by decide
theorem test_word_reserved : decodeWord 0 0 = .reserved 0x01 ∧ decodeWord 0 0x10000001 = .reserved 0x02 ∧
    decodeWord 0 0b0000_100011_00011_00101_000000000100#32 = .reserved 0x01 ∧ decodeWord 0 0b0000_010011_00000_00000_000000000000#32 = .reserved 0x01 := by decide

-- ---------------------------------------------------------------- a core that runs in ring 0, on bank 0, at address 0

/-- Region descriptors: cluster SRAM at 0, a return stack at 0x20000, record SRAM at 0x30000, scratch at 0x40000, device registers at 0x100000. -/
def regions : List (Nat × Word) :=
  [(0x000, 0#32), (0x100, 0x93#32), (0x101, 0xF000#32), (0x102, 0#32), (0x104, 0x200E3#32), (0x108, 0x300A3#32), (0x10A, 0x2000000#32),
    (0x10C, 0x40083#32), (0x10D, 0xF000#32), (0x110, 0x1000D3#32), (0x111, 0xFF000#32), (0x112, 0x3000000#32)]

/-- Core 0 running with these special registers, general registers of bank 0 and bytes of cluster SRAM. -/
def coreWith (sr regs : List (Nat × Word)) : Core :=
  let k := (regions ++ sr).foldl (fun k x => k.srSet x.1 x.2) { Core.reset with run := .running, bankV := 0xFF }
  { k with regs := regs }
def withMem (s : State) (ea : Nat) (l : List Byte) : State := s.poke (clusterBase + ea) l
def ready (sr regs : List (Nat × Word)) : State := State.reset.setCore 0 (coreWith sr regs)

/-- `State.executes` as a Bool. -/
def runs (s : State) (c : Nat) (i : Instr) (g : Guard) (resum : Bool) : Bool :=
  (s.core c).ready && !(s.rsOf c && !resum && ((s.due c).core c).rc == 0) && !(s.due c).atBreakpoint c && s.fetches c &&
    !guardReserved g && ((s.due c).core c).guardHolds g && ((s.fetched c).badBuiltin c i).isNone

theorem executes_of_runs (s : State) (c : Nat) (i : Instr) (g : Guard) (resum : Bool) (h : runs s c i g resum = true) : s.executes c i g resum := by
  simp only [runs, Bool.and_eq_true, Bool.not_eq_true', Option.isNone_iff_eq_none] at h
  obtain ⟨⟨⟨⟨⟨⟨a, b⟩, c⟩, d⟩, e⟩, f⟩, g⟩ := h
  exact ⟨⟨a, b, c, d⟩, e, f, g⟩

/-- Every instruction of the list is executed in `s`, as `State.executes` says. -/
def allRun (s : State) (l : List Instr) : Bool :=
  l.all fun i => match i.at? with
    | some (c, g) => runs s c i g (resumable i)
    | none => false

/-- With every loop count 0, an instruction may end anywhere. -/
theorem endsWell_of_no_loop (s t : State) (c : Nat) (resum : Bool) (h : (t.core c).lc 0 = 0 ∧ (t.core c).lc 1 = 0 ∧ (t.core c).lc 2 = 0) :
    s.endsWell t c resum = true := by
  simp [State.endsWell, Core.badLoop, Core.loopHit, h]

/-- A register, the status and the PC of core 0 once `i` has run; none when it does not answer a next state. -/
def after (s : State) (i : Instr) (f : Core → α) : Option α :=
  match exec i s with
  | .next t => some (f (t.core 0))
  | _ => none
def regAfter (s : State) (i : Instr) (r : Reg) : Option Word := after s i fun k => k.reg r
def flagAfter (s : State) (i : Instr) (n : Nat) : Option Bool := after s i fun k => k.stat.getLsbD n

-- ---------------------------------------------------------------- the binary unit

/-- Two operands at the edge: the most negative word and -1. -/
def edge : State := ready [] [(1, 0x80000000#32), (2, 0xFFFFFFFF#32), (4, 0x7FFFFFFF#32), (5, 1#32)]

theorem wit_alu : allRun edge [.add 0 0 3 1 2, .sub 0 0 3 1 2, .and 0 0 3 1 2, .or 0 0 3 1 2, .xor 0 0 3 1 2, .andn 0 0 3 1 2, .min 0 0 3 1 2,
    .max 0 0 3 1 2, .minu 0 0 3 1 2, .maxu 0 0 3 1 2, .neg 0 0 3 1, .abs 0 0 3 1, .mov 0 0 3 1, .sextb 0 0 3 1, .sexth 0 0 3 1, .zextb 0 0 3 1,
    .zexth 0 0 3 1, .clz 0 0 3 1, .popc 0 0 3 1, .bswap 0 0 3 1, .bswaph 0 0 3 1] = true := by decide +kernel
theorem wit_ends_well : ((edge.fetched 0).core 0).lc 0 = 0 ∧ ((edge.fetched 0).core 0).lc 1 = 0 ∧ ((edge.fetched 0).core 0).lc 2 = 0 := by decide +kernel
theorem wit_immediates : allRun edge [.addi 0 0 3 1 0x800, .andi 0 0 3 1 0xFFF, .ori 0 0 3 1 0xFFF, .xori 0 0 3 1 0xFFF, .li 0 0 3 0x1FFFF,
    .lih 0 0 3 0xFFFF, .lil 0 0 3 0xFFFF, .lih 0 0 3 0x10000, .lil 0 0 3 0x10000] = true ∧
    BitVec.getLsbD (0xFFFF#17) 16 = false ∧ BitVec.getLsbD (0x10000#17) 16 = true := by decide +kernel
theorem wit_shifts : allRun edge [.shl 0 0 3 1 2, .shr 0 0 3 1 2, .sar 0 0 3 1 2, .ror 0 0 3 1 2, .rol 0 0 3 1 2, .shli 0 0 3 1 63, .shri 0 0 3 1 32,
    .sari 0 0 3 1 31, .rori 0 0 3 1 0] = true := by decide +kernel
theorem wit_compares : allRun edge [.cmpeq 0 0 1 1 2, .cmplt 0 0 9 1 2, .cmpltu 0 0 17 1 2, .cmple 0 0 25 1 2, .cmpleu 0 0 0 1 2, .tst 0 0 7 1 2,
    .cmpeqi 0 0 1 1 0xFFF, .cmplti 0 0 1 1 0, .cmpltui 0 0 1 1 0x800, .tsti 0 0 1 1 1, .pand 0 0 1 2 3, .pandn 0 0 7 0 0, .por 0 0 0 1 2,
    .pxor 0 0 1 1 1] = true := by decide +kernel
theorem wit_multiply_divide : allRun edge [.mul 0 0 3 1 2, .mulh 0 0 3 1 2, .mulhu 0 0 3 1 2, .div 0 0 3 1 2, .divu 0 0 3 1 2, .rem 0 0 3 1 2,
    .remu 0 0 3 1 6, .divqr 0 0 8 1 2, .divqru 0 0 8 1 2] = true ∧ oddReg 8 = false ∧ (edge.coreOf 0).reg 6 = 0#32 ∧ (edge.coreOf 0).dzt = false ∧
    ((ready [(0, 0x200000#32)] []).coreOf 0).dzt = true ∧ runs (ready [(0, 0x200000#32)] []) 0 (.div 0 0 3 1 2) 0 false = true := by decide +kernel
theorem wit_division_law : (0x80000000#32 : Word) ≠ 0 ∧ ¬ ((0x80000001#32 : Word) = 0x80000000#32 ∧ (0xFFFFFFFF#32 : Word) = 0xFFFFFFFF#32) := by decide

-- R312: V on overflow of ADD, SUB, NEG and ABS; results modulo 2^32
theorem test_add : regAfter edge (.add 0 0 3 1 2) 3 = some 0x7FFFFFFF#32 ∧ flagAfter edge (.add 0 0 3 1 2) 7 = some true := by decide +kernel
theorem test_sub : regAfter edge (.sub 0 0 3 1 2) 3 = some 0x80000001#32 ∧ flagAfter edge (.sub 0 0 3 1 2) 7 = some false := by decide +kernel
theorem test_abs : regAfter edge (.abs 0 0 3 1) 3 = some 0x80000000#32 ∧ flagAfter edge (.abs 0 0 3 1) 7 = some true := by decide +kernel
theorem test_andn : regAfter edge (.andn 0 0 3 2 1) 3 = some 0x7FFFFFFF#32 ∧ regAfter edge (.andn 0 0 3 1 2) 3 = some 0#32 := by decide +kernel
theorem test_min_max : regAfter edge (.min 0 0 3 1 2) 3 = some 0x80000000#32 ∧ regAfter edge (.minu 0 0 3 1 2) 3 = some 0x80000000#32 ∧
    regAfter edge (.max 0 0 3 1 4) 3 = some 0x7FFFFFFF#32 ∧ regAfter edge (.maxu 0 0 3 1 4) 3 = some 0x80000000#32 := by decide +kernel
theorem test_counts : regAfter edge (.clz 0 0 3 5) 3 = some 31#32 ∧ regAfter edge (.clz 0 0 3 6) 3 = some 32#32 ∧ regAfter edge (.popc 0 0 3 2) 3 = some 32#32 ∧
    regAfter edge (.bswap 0 0 3 5) 3 = some 0x01000000#32 ∧ regAfter edge (.bswaph 0 0 3 5) 3 = some 0x100#32 := by decide +kernel
theorem test_immediates : regAfter edge (.addi 0 0 3 1 0x800) 3 = some 0x7FFFF800#32 ∧ regAfter edge (.li 0 0 3 0x10000) 3 = some 0xFFFF0000#32 ∧
    regAfter edge (.lih 0 0 4 0x1234) 4 = some 0x1234FFFF#32 ∧ regAfter edge (.lil 0 0 4 0x1234) 4 = some 0x7FFF1234#32 := by decide +kernel
-- R315: amounts are bits [5:0]; 32 to 63 shift everything out
theorem test_shifts : regAfter edge (.shli 0 0 3 5 32) 3 = some 0#32 ∧ regAfter edge (.sari 0 0 3 1 63) 3 = some 0xFFFFFFFF#32 ∧
    regAfter edge (.shli 0 0 3 5 65) 3 = some 2#32 ∧ regAfter edge (.rori 0 0 3 5 33) 3 = some 0x80000000#32 ∧ regAfter edge (.sari 0 0 3 1 31) 3 = some 0xFFFFFFFF#32 := by
  decide +kernel
-- R317: combine modes 0 to 3 in rd[4:3]
theorem test_compare : after edge (.cmplt 0 0 1 1 2) (fun k => k.pred 1) = some true ∧ after edge (.cmplt 0 0 9 1 2) (fun k => k.pred 1) = some false ∧
    after edge (.cmplt 0 0 17 1 2) (fun k => k.pred 1) = some false ∧ after edge (.cmpltu 0 0 25 1 2) (fun k => k.pred 1) = some true ∧
    after edge (.cmpltu 0 0 0 2 1) (fun k => k.pred 0) = some true := by decide +kernel
-- R319: truncation toward zero; a remainder has the dividend's sign
theorem test_divide : regAfter (ready [] [(1, 0xFFFFFFF9#32), (2, 2#32)]) (.divqr 0 0 4 1 2) 4 = some 0xFFFFFFFD#32 ∧
    regAfter (ready [] [(1, 0xFFFFFFF9#32), (2, 2#32)]) (.divqr 0 0 4 1 2) 5 = some 0xFFFFFFFF#32 ∧
    regAfter edge (.div 0 0 3 1 2) 3 = some 0x80000000#32 ∧ flagAfter edge (.div 0 0 3 1 2) 7 = some true ∧
    regAfter edge (.remu 0 0 3 1 6) 3 = some 0x80000000#32 := by decide +kernel
theorem test_multiply : regAfter edge (.mulh 0 0 3 1 2) 3 = some 0#32 ∧ regAfter edge (.mulhu 0 0 3 1 2) 3 = some 0x7FFFFFFF#32 ∧
    regAfter edge (.mul 0 0 3 1 2) 3 = some 0x80000000#32 ∧ flagAfter edge (.mul 0 0 3 1 2) 7 = some true := by decide +kernel

-- ---------------------------------------------------------------- guards, encodings, completion

/-- p1 is 0: a guard on p1 fails. -/
theorem wit_guard_false : Instr.at? (.stw 0 2 1 2 0 0) = some (0, 2) ∧ Instr.encFault (.stw 0 2 1 2 0 0) = none ∧ guardReserved 2 = false ∧
    ((edge.due 0).core 0).guardHolds 2 = false ∧ runs edge 0 (.stw 0 3 1 2 0 0) 3 false = true ∧ transfers (.br 0 2 1) = true ∧
    ((edge.due 0).core 0).loopEndAt (edge.pcOf 0) = false ∧ edge.endsWell (edge.fetched 0) 0 false = true := by decide +kernel
theorem wit_encoding_faults : Instr.at? (.add 0 1 1 2 3) = some (0, 1) ∧ Instr.at? (.loop 0 2 3 1 1) = some (0, 2) ∧
    Instr.encFault (.loop 0 2 3 1 1) = some 0x01 ∧ Instr.encFault (.loopi 0 2 2 1 0) = some 0x06 ∧ Instr.encFault (.ldd 0 2 31 0 0 0) = some 0x04 ∧
    (edge.core 0).ready = true ∧ (edge.rsOf 0 && !false && ((edge.due 0).core 0).rc == 0) = false ∧ (edge.due 0).atBreakpoint 0 = false ∧
    edge.fetches 0 = true := by decide +kernel
theorem test_guard_false : after edge (.stw 0 2 1 2 0 0) (fun k => (k.pc, k.storeBuf.length)) = some (4#32, 0) := by decide +kernel
-- vector 4 at VBASE + 128, ECAUSE = vector and code, EPC the instruction
theorem test_reserved_guard : after edge (.add 0 1 1 2 3) (fun k => (k.pc, k.srGet 0x041, k.srGet 0x044)) = some (128#32, 0x402#32, 0#32) := by decide +kernel
theorem test_odd_pair : after edge (.ldd 0 2 31 0 0 0) (fun k => (k.pc, k.srGet 0x041)) = some (128#32, 0x404#32) := by decide +kernel

theorem wit_exception_entry : (trapAt 20 0x02 0).vec ≤ 20 ∧ ((17 : Nat) = 1 ∨ (17 : Nat) = 16 ∨ (17 : Nat) = 17) := by decide
theorem wit_return_restores : (trapAt 9 0x01 0).vec = 9 ∧ (edge.core 0).shadow = [] := by decide +kernel
theorem wit_completion_advances : ((edge.core 0).srSet 2 2#32).rc > 1 ∧ ¬ (true = true ∧ (edge.core 0).rc > 1) ∧ (edge.core 0).loopEndAt 0 = false ∧
    (((edge.core 0).srSet 0x00D 2#32).loopHit 0 1 = true ∧ ((edge.core 0).srSet 0x00D 2#32).loopHit 0 2 = false ∧
      ((edge.core 0).srSet 0x00D 2#32).lc 1 ≠ 1) ∧ ((edge.core 0).srSet 0x00D 1#32).lc 1 = 1 ∧
      ((edge.core 0).srSet 0x00D 1#32).loopHit 0 0 = false := by decide +kernel

-- ---------------------------------------------------------------- memory

/-- Registers for addresses: w1 = 0x100, w2 = 0x300FC, w3 and w4 data, w6 = 0x101. -/
def mem : State :=
  withMem (ready [(0x018, 0x20010#32), (0x019, 0x20010#32)]
    [(1, 0x100#32), (2, 0x300FC#32), (3, 0x11223344#32), (4, 0xA0B0C0D0#32), (5, 0x50607080#32), (6, 0x103#32), (7, 0x20000#32), (8, 0x50000#32),
      (31, 0x8000#32)]) 0x100 [0x81#8, 0x92#8, 0xA3#8, 0xB4#8, 0x05#8, 0x06#8, 0x07#8, 0x08#8]

/-- The checks of an access of `n` bytes pass and it is performed. -/
def loads (s : State) (ea : Word) (n : Nat) : Bool :=
  match (s.fetched 0).judge 0 accLoad (halves ea.toNat n) none with
  | .ok ms => match (s.fetched 0).performLoad 0 ms with
    | .ok u _ => s.endsWell u 0 false
    | _ => false
  | _ => false
def stores (s : State) (ea : Word) (v n : Nat) : Bool :=
  match (s.fetched 0).judge 0 accStore (halves ea.toNat n) none with
  | .ok ms => match (s.fetched 0).performPut 0 ms v n with
    | .ok u => s.endsWell u 0 false
    | _ => false
  | _ => false
def refused (s : State) (a : Access) (ea : Word) (n : Nat) : Bool :=
  match (s.fetched 0).judge 0 a (halves ea.toNat n) none with
  | .error _ => true
  | _ => false

theorem wit_loads : allRun mem [.ldb 0 0 9 1 0 0, .ldbu 0 0 9 1 0 0, .ldh 0 0 9 1 0 0, .ldhu 0 0 9 1 0 0, .ldw 0 0 9 1 2 1, .ldd 0 0 10 1 0 0,
    .ldw 0 0 9 8 0 0] = true ∧ badIndex 2 1 = false ∧ loads mem 0x100 1 = true ∧ loads mem 0x103 2 = true ∧ loads mem 0x105 8 = true ∧
    refused mem accLoad 0x50000 4 = true ∧ oddReg 10 = false := by decide +kernel
theorem wit_stores : allRun mem [.stb 0 0 3 1 0 0, .sth 0 0 3 1 0 0, .stw 0 0 3 1 1 0x1FF, .std 0 0 4 1 0 0, .stw 0 0 3 7 0 0] = true ∧
    stores mem 0x100 0 1 = true ∧ stores mem 0x103 0 2 = true ∧ stores mem 0x105 0 8 = true ∧ refused mem accStore 0x20000 4 = true := by decide +kernel
-- LDB sign-extends; a load of the base register keeps what was loaded; post-increment (R290, R291)
theorem test_loads : regAfter mem (.ldb 0 0 9 1 0 0) 9 = some 0xFFFFFF81#32 ∧ regAfter mem (.ldhu 0 0 9 6 0 0) 9 = some 0x05B4#32 ∧
    regAfter mem (.ldd 0 0 10 1 0 0) 11 = some 0xB4A39281#32 ∧ regAfter mem (.ldd 0 0 10 1 0 0) 10 = some 0x08070605#32 := by decide +kernel
theorem test_store : (match exec (.std 0 0 4 1 0 1) mem with
    | .next t => (t.drainAll 0).bytes (clusterBase + 0x108) 8
    | _ => []) = [0x80#8, 0x70#8, 0x60#8, 0x50#8, 0xD0#8, 0xC0#8, 0xB0#8, 0xA0#8] := by decide +kernel
-- vector 9, code 0x01: no descriptor matches
theorem test_no_region : after mem (.ldw 0 0 9 8 0 0) (fun k => (k.pc, k.srGet 0x041, k.srGet 0x042)) = some (0x120#32, 0x10901#32, 0x50000#32) := by decide +kernel

theorem wit_memory_reads_back : youngest (mem.core 0).storeBuf (clusterBase + 0x100) 8 = none ∧
    ((cwsOf (clusterBase + 0x11C) 8).all fun cw => mem.upset cw == .none && cwOf cw == cw) = true ∧
    ¬ (partnerBase ≤ clusterBase ∧ clusterBase < partnerBase + partnerSize) := by decide +kernel
theorem wit_store_frame : (match mem.performStore 0 [⟨0x100, 1, 1, 0, clusterBase + 0x100⟩] [0x55#8] with
    | .ok _ => true
    | _ => false) = true ∧ (mem.core 0).storeBuf.length ≤ 8 ∧ ¬ (clusterBase + 0x100 ≤ clusterBase + 0x101 ∧ clusterBase + 0x101 < clusterBase + 0x100 + 1) := by
  decide +kernel
theorem wit_data_stack : allRun mem [.push 0 0 3, .pop 0 0 9] = true ∧ stores mem 0x7FFC 0x11223344 4 = true ∧ loads mem 0x8000 4 = true ∧
    allRun (ready [] [(31, 0x50000#32)]) [.push 0 0 3, .pop 0 0 9] = true ∧ refused (ready [] [(31, 0x50000#32)]) accStore 0x4FFFC 4 = false ∧
    refused (ready [] [(31, 0x60000#32)]) accStore 0x5FFFC 4 = true ∧ refused (ready [] [(31, 0x60000#32)]) accLoad 0x60000 4 = true := by decide +kernel
theorem test_push : after mem (.push 0 0 3) (fun k => (k.reg 31, k.storeBuf.map SbEntry.pa)) = some (0x7FFC#32, [clusterBase + 0x7FFC]) := by decide +kernel

/-- The word of an atomic: its checks pass, no code word of it is bad, and the commit is performed. -/
def atomicMeets (s : State) (ea : Nat) : Bool :=
  match (s.fetched 0).judge 0 accStore (halves ea 4) none with
  | .ok ms =>
    let d := (s.fetched 0).drainAll 0
    let r := d.meetWords (ms.flatMap fun m => cwsOf m.pa m.n)
    r.2.isNone && ((s.fetched 0).atomicRegion (s.coreOf 0) ea).isNone && ea % 4 == 0 &&
      (match r.1.performCommit 0 [(ms, [0, 0, 0, 0])] with
      | .ok u => s.endsWell u 0 false
      | _ => false) && match r.1.performHeld 0 ms with
      | .ok u => s.endsWell u 0 false
      | _ => false
  | _ => false
theorem wit_atomics : allRun mem [.swpw 0 0 3 1 4, .casw 0 0 3 1 4, .faddw 0 0 3 1 4] = true ∧ atomicMeets mem 0x100 = true ∧ 0x103 % 4 ≠ 0 ∧
    ((mem.fetched 0).atomicRegion (mem.coreOf 0) 0x103).isNone = true ∧ (match (mem.fetched 0).judge 0 accStore (halves 0x103 4) (some (accStore.trap 8 0x02 0x103)) with
      | .error _ => true
      | _ => false) = true ∧ ((mem.fetched 0).atomicRegion (mem.coreOf 0) 0x20000).isSome = true := by decide +kernel
theorem test_atomics : regAfter mem (.faddw 0 0 3 1 4) 3 = some 0xB4A39281#32 ∧ (match exec (.faddw 0 0 3 1 4) mem with
    | .next t => t.bytes (clusterBase + 0x100) 4
    | _ => []) = [0x51#8, 0x53#8, 0x54#8, 0x55#8] ∧ (match exec (.casw 0 0 3 1 4) mem with
    | .next t => t.bytes (clusterBase + 0x100) 4
    | _ => []) = [0x81#8, 0x92#8, 0xA3#8, 0xB4#8] := by decide +kernel
theorem wit_fences : allRun mem [.fence 0 0, .fencei 0 0] = true ∧ mem.endsWell ((mem.fetched 0).drainAll 0) 0 false = true := by decide +kernel

-- ---------------------------------------------------------------- transfers, loops, calls, returns

/-- w1 = 0x100, w6 = 0x103; a return stack at 0x20000 with an entry at RSP = 0x20010 and STKBASE = 0x20020. -/
def flow : State :=
  (ready [(0x018, 0x20010#32), (0x019, 0x20020#32)] [(1, 0x100#32), (6, 0x103#32)]).poke (scratchBase + 0x10) [0x40#8, 0x02#8]
def flowWith (k : Core → Core) : State := flow.setCore 0 (k (flow.core 0))
def fullStack : State := flowWith fun k => { k with rstack := (List.range 16).map fun n => BitVec.ofNat 32 (4 * n) }
def emptyStack : State := flowWith fun k => k.srSet 0x018 0x20020#32

theorem wit_transfers : allRun flow [.br 0 0 1, .call 0 0 0x3FFFFF, .jr 0 0 1, .jr 0 0 6, .callr 0 0 1, .callr 0 0 6, .ret 0 0] = true ∧
    (flow.coreOf 0).loopEndAt (flow.pcOf 0) = false ∧ (flow.coreOf 0).rstack = [] ∧ (flow.coreOf 0).srGet 0x018 ≠ (flow.coreOf 0).srGet 0x019 ∧
    (match (flow.fetched 0).judge 0 accLoad (halves 0x20010 4) none with
      | .ok ms => match (flow.fetched 0).performLoad 0 ms with
        | .ok u v => v == 0x240 && !(u.core 0).loopEndAt 0
        | _ => false
      | _ => false) = true := by decide +kernel
theorem wit_transfer_stack : runs fullStack 0 (.call 0 0 1) 0 false = true ∧ (fullStack.coreOf 0).rstack.length = 16 ∧
    (match (fullStack.fetched 0).spillOldest 0 with
      | .ok u => !(u.core 0).loopEndAt 0
      | _ => false) = true ∧ runs emptyStack 0 (.ret 0 0) 0 false = true ∧ (emptyStack.coreOf 0).srGet 0x018 = (emptyStack.coreOf 0).srGet 0x019 ∧
    (let s := fullStack.setCore 0 ((fullStack.core 0).srSet 0x018 0x20000#32)
     runs s 0 (.callr 0 0 1) 0 false = true ∧ (s.coreOf 0).onReturnStack 0x1FFFC = false) ∧
    (let s := flowWith fun k => { k with rstack := [0x80#32, 0x90#32] }
     runs s 0 (.ret 0 0) 0 false = true ∧ (s.coreOf 0).rstack = [0x80#32, 0x90#32]) := by decide +kernel
theorem test_transfers : after flow (.br 0 0 0x3FFFFF) (fun k => k.pc) = some 0xFFFFFFFC#32 ∧ after flow (.ret 0 0) (fun k => (k.pc, k.srGet 0x018)) = some (0x240#32, 0x20014#32) ∧
    after flow (.callr 0 0 1) (fun k => (k.pc, k.rstack)) = some (0x100#32, [4#32]) := by decide +kernel

theorem wit_loops : (2#2 : BitVec 2) ≠ 3#2 ∧ (0xFFF#12 : Imm12) ≠ 0#12 ∧ allRun flow [.loop 0 0 2 1 0xFFF, .loopi 0 0 0 0 1, .rpt 0 0 1, .rpti 0 0 0] = true ∧
    (match (flow.fetched 0).fetch 0 4 with
      | (q, .ok w) => !rptRefused q.custResumable (decodeWord 0 (BitVec.ofNat 32 w))
      | _ => false) = true := by decide +kernel
theorem wit_rpt_refused : runs (withMem flow 4 [0x01#8, 0#8, 0#8, 0x09#8]) 0 (.rpt 0 0 1) 0 false = true ∧
    (match ((withMem flow 4 [0x01#8, 0#8, 0#8, 0x09#8]).fetched 0).fetch 0 4 with
      | (q, .ok w) => rptRefused q.custResumable (decodeWord 0 (BitVec.ofNat 32 w))
      | _ => false) = true := by decide +kernel
theorem test_loop : after flow (.loopi 0 0 1 0 3) (fun k => (k.pc, k.srGet 5, k.srGet 9, k.srGet 13)) = some (16#32, 4#32, 12#32, 0#32) := by decide +kernel
theorem test_rpt : after flow (.rpti 0 0 0) (fun k => (k.pc, k.rs)) = some (8#32, false) ∧ after flow (.rpt 0 0 1) (fun k => (k.pc, k.rs, k.rc)) = some (4#32, true, 256) := by
  decide +kernel

/-- Gate 2 leads to 0x800 in ring 0 and lets rings to 3 call it; the core is in ring 2. -/
def user : State := flowWith fun k => ((k.srSet 0 0x20000000#32).srSet 0x082 0x800#32).srSet 0x070 0x30#32
theorem wit_system_call : runs user 0 (.sysc 0 0 2) 0 false = true ∧ runs user 0 (.sysc 0 0 3) 0 false = true ∧ (user.coreOf 0).badLoop 0 = false ∧
    ((user.coreOf 0).applyAll).ring = 2 ∧ ((((user.coreOf 0).applyAll).srGet 0x082).extractLsb' 0 2).toNat = 0 ∧
    (((((user.coreOf 0).applyAll).srGet 0x070).extractLsb' 4 2).toNat < 2) = False ∧ ((((user.coreOf 0).applyAll).srGet 0x083).extractLsb' 0 2).toNat = 3 := by decide +kernel
theorem test_sysc : after user (.sysc 0 0 2) (fun k => (k.pc, k.ring, k.srGet 0x054)) = some (0x800#32, 0, 4#32) ∧
    after user (.sysc 0 0 3) (fun k => (k.pc, k.srGet 0x041, k.srGet 0x042)) = some (0xA0#32, 0x505#32, 3#32) := by decide +kernel

/-- A handler of each class is in progress, its pair naming bank 0. -/
def handler : State := flowWith fun k => { ((((k.srSet 0x044 0x200#32).srSet 0x048 0x300#32).srSet 0x04C 0x400#32).srSet 0x050 0x500#32) with
  bsDepth := 1, fastDepth := 1, inNmi := true, inMc := true, task := some 0 }
theorem wit_returns : allRun handler [.eret 0 0, .fret 0 0, .nret 0 0, .mret 0 0, .sret 0 0] = true ∧ (handler.coreOf 0).loopEndAt 0 = false ∧
    ((handler.coreOf 0).applyAll).ring = 0 ∧ (handler.coreOf 0).badRestore 0 = false ∧ 0 < ((user.coreOf 0).applyAll).ring ∧
    allRun user [.eret 0 0, .fret 0 0, .nret 0 0, .mret 0 0] = true ∧
    ((flowWith fun k => k.srSet 0 0x30000000#32).coreOf 0).applyAll.ring = 3 ∧ runs handler 0 (.tend 0 0) 0 false = true ∧ (handler.coreOf 0).tendOk = true := by decide +kernel
theorem test_returns : after handler (.eret 0 0) (fun k => (k.pc, k.bsDepth)) = some (0x200#32, 0) ∧ after handler (.fret 0 0) (fun k => k.pc) = some 0x300#32 ∧
    after handler (.nret 0 0) (fun k => (k.pc, k.inNmi)) = some (0x400#32, false) ∧ after handler (.mret 0 0) (fun k => (k.pc, k.inMc)) = some (0x500#32, false) ∧
    after handler (.tend 0 0) (fun k => k.run) = some .idle := by decide +kernel

-- ---------------------------------------------------------------- contexts, special registers, storage keys

/-- Context 5 is resident in bank 3; the other banks are free; the slots start at 0xE000. -/
def banks : State := (ready [] [(1, 5#32), (2, 6#32), (9, 0x77#32)]).setCore 0 { (ready [] [(1, 5#32), (2, 6#32), (9, 0x77#32)]).core 0 with bankV := 0x08, bankCtx := [(3, 5)] }
def banksFull : State := banks.setCore 0 { banks.core 0 with bankV := 0xFF, bankD := 0xFF }
theorem wit_banks : runs banks 0 (.ctxsw 0 0 1) 0 false = true ∧ (banks.coreOf 0).residentIn 5 = some 3 ∧ (banks.coreOf 0).residentIn 6 = none ∧
    (banks.coreOf 0).fillBank = some 1 ∧ (banks.fetched 0).slotPa 0 6 = some (scratchBase + 0xE000 + 768) ∧
    (((banks.fetched 0).drainAll 0).meetWords (cwsOf (scratchBase + 0xE000 + 768) 128)).2 = none ∧ (banks.coreOf 0).ring = 0 ∧
    (banksFull.coreOf 0).residentIn 6 = none ∧ (banksFull.coreOf 0).fillBank = none ∧ allRun banks [.mfb 0 0 3 9, .mtb 0 0 3 9] = true ∧
    (banks.coreOf 0).heldBank (banks.coreOf 0).bwin = true ∧
    (let s := banks.setCore 0 ((banks.core 0).srSet 0x022 7#32)
     (s.coreOf 0).heldBank (s.coreOf 0).bwin = false ∧ runs s 0 (.mtb 0 0 3 9) 0 false = true) ∧
    (let s := banks.setCore 0 ((banks.core 0).srSet 0 0x20000000#32)
     allRun s [.ctxsw 0 0 1, .mfb 0 0 3 9, .mtb 0 0 3 9] = true ∧ 1 < (s.coreOf 0).ring) := by decide +kernel
theorem test_banks : after banks (.ctxsw 0 0 1) (fun k => k.bank) = some 3 ∧ after banks (.mfb 0 0 3 9) (fun k => k.reg 3) = some 0x77#32 ∧
    after banks (.ctxsw 0 0 2) (fun k => (k.bank, k.vOf 1, k.dOf 1, k.ctxOf 1)) = some (1, true, false, 6) := by decide +kernel

def spec : State := ready [(0x018, 0x20010#32)] [(1, 0x60#32), (3, 0xFFFFFFFF#32)]
theorem wit_special_registers : allRun spec [.mfs 0 0 9 0x003, .mfs 0 0 9 0x018, .mts 0 0 1 0x030, .mts 0 0 1 0x000, .mts 0 0 1 0x001, .mts 0 0 1 0x018,
      .mts 0 0 1 0x01B, .mts 0 0 3 0x01C, .mts 0 0 1 0x01A, .mts 0 0 3 0x023] = true ∧
    srListed 0x003 = false ∧ srListed 0x018 = true ∧ srReadOnly 0x030 = true ∧ srReadOnly 0x023 = false ∧ (spec.coreOf 0).ring = 0 ∧
    srReadRing 0x040 < (user.coreOf 0).ring ∧ srWriteRing 0x040 < (user.coreOf 0).ring ∧ runs user 0 (.mts 0 0 1 0x040) 0 false = true ∧
    runs user 0 (.mts 0 0 3 0) 0 false = true ∧ (user.coreOf 0).statFieldBad ((user.coreOf 0).reg 3) = true ∧
    ((spec.coreOf 0).reg 1 &&& srReserved 0 = 0) ∧ srShadowed 0 = true ∧ srShadowed 0x018 = false ∧ (spec.coreOf 0).badMap 0 0xFFFFFFFF#32 = false ∧
    (spec.coreOf 0).badSlot 0x20010#32 0 = none ∧
    (let s := spec.setCore 0 { (spec.core 0).srSet 0x018 0x20004#32 with rstack := [4#32, 8#32] }
     runs s 0 (.mfs 0 0 9 0x018) 0 false = true ∧ (s.coreOf 0).badSlot 0x20004#32 2 = some 0x1FFFC#32) ∧
    (let s := spec.setCore 0 { spec.core 0 with rstack := [4#32] }
     (s.coreOf 0).badSlot 0x20010#32 1 = none ∧ (match (s.fetched 0).spillAll 0 1 with
      | .ok _ => true
      | _ => false) = true) := by decide +kernel
theorem test_mts_mode : after spec (.mts 0 0 1 0x000) (fun k => (k.stat, k.shadow)) = some (0#32, [⟨3, 0, 0x60#32⟩]) := by decide +kernel
theorem test_mfs_rsp : after (spec.setCore 0 { spec.core 0 with rstack := [4#32, 8#32] }) (.mfs 0 0 9 0x018) (fun k => (k.reg 9, k.rstack)) =
    some (0x20008#32, []) := by decide +kernel

/-- w1 names record page 0, w2 a page of cluster SRAM; w3 = DUR, w4 = REF and CHG; the Carafe has 4,096 bytes of headroom. -/
def keys0 : State := { ready [] [(1, 0x30000#32), (2, 0x1000#32), (3, 0x80#32), (4, 0x60#32), (5, 0x40000#32)] with
  carafe := { State.reset.carafe with bMax := 4096 } }
def keysDur : State := keys0.setPageKey (recordBase / 4096) ⟨0x80, 0, 0, 0, 0⟩
def keyAt (s : State) (ea : Nat) : Option Nat :=
  match (s.fetched 0).keyTarget 0 ea with
  | .ok pa => some pa
  | .error _ => none
def keyed (s : State) : State := ((s.fetched 0).drainAll 0).keyFetch (recordBase / 4096)
theorem wit_storage_keys : allRun keys0 [.krd 0 0 8 1, .krref 0 0 8 1, .kset 0 0 1 4, .kset 0 0 2 3, .kset 0 0 1 3] = true ∧
    keyAt keys0 0x30000 = some recordBase ∧ keyAt keys0 0x1000 = some (clusterBase + 0x1000) ∧ (keys0.coreOf 0).ring = 0 ∧
    (keyed keys0).reservedPage recordBase = false ∧ (keyed keys0).headroom 4096 = true ∧
    ((keyed keys0).pageKey recordBase).key.getLsbD 7 = false ∧ memOf (clusterBase + 0x1000) = 0 ∧ memOf recordBase = 1 ∧
    runs keysDur 0 (.kset 0 0 1 4) 0 false = true ∧ ((keyed keysDur).pageKey recordBase).key.getLsbD 7 = true ∧
    ((keyed keysDur).pageKey recordBase).cur = 0 ∧ allRun user [.krd 0 0 8 1, .krref 0 0 8 1, .kset 0 0 1 4] = true ∧ 1 < (user.coreOf 0).ring := by
  decide +kernel
theorem test_kset : (match exec (.kset 0 0 1 3) keys0 with
    | .next t => (t.pageKey recordBase, t.perc.dirty)
    | _ => (PageKey.reset, 0)) = (⟨0x80, 0xFFFF, 0, 0, 0⟩, 4096) := by decide +kernel
-- CHG reads 1 while CUR is not 0 (R146)
theorem test_krd : (match exec (.krd 0 0 8 1) (keys0.setPageKey (recordBase / 4096) ⟨0x80, 1, 2, 0, 0⟩) with
    | .next t => ((t.core 0).reg 8, (t.core 0).reg 9)
    | _ => (0, 0)) = (0x20001#32, 0xA0#32) := by decide +kernel

-- ---------------------------------------------------------------- floating point

/-- w0 = 0, w2 the largest single, w3 the smallest; pairs 4 = 1.0 and 6 = a signalling NaN in double. -/
def flt : State := ready [] [(2, 0x7F7FFFFF#32), (3, 1#32), (4, 0x3FF00000#32), (6, 0x7FF00000#32), (7, 1#32)]
theorem wit_fp : allRun flt [.fadd 0 0 false 8 2 3, .fsub 0 0 true 8 4 6, .fmul 0 0 false 8 3 3, .fdiv 0 0 true 8 4 0, .fma 0 0 false 8 2 3,
    .fms 0 0 true 8 4 6, .fnma 0 0 false 8 2 3, .fneg 0 0 true 8 4, .fabs 0 0 false 8 2, .fmov 0 0 true 8 6, .fcmpeq 0 0 true 1 4 6, .fcmplt 0 0 false 1 2 3,
    .fcmple 0 0 true 1 4 4, .fcvtf 0 0 false 9 4, .fcvti 0 0 true 9 4, .fcvtfi 0 0 false 9 3] = true ∧ oddReg 8 = false ∧ oddReg 4 = false ∧
    (flt.coreOf 0).fpTraps fpDZ = false ∧ ((flt.setCore 0 ((flt.core 0).srSet 0x01D 0x1F00#32)).coreOf 0).fpTraps fpDZ = true := by decide +kernel
theorem wit_fp_nans : (fpFmt true).expo 0x7FF0000000000001 = 2 ^ (fpFmt true).w - 1 ∧ (fpFmt true).frac 0x7FF0000000000001 ≠ 0 ∧
    (fpFmt true).frac 0x7FF0000000000001 < 2 ^ ((fpFmt true).p - 2) ∧ (fpFmt true).frac 0 = 0 := by decide
-- R345: smallest subnormal times 0.5 rounds to 0 with underflow and inexact; 1.0 / 0.0 is infinity with DZ
theorem test_fp : regAfter flt (.fmul 0 0 false 8 2 2) 8 = some 0x7F800000#32 ∧ regAfter flt (.fdiv 0 0 true 8 4 0) 8 = some 0x7FF00000#32 ∧
    regAfter flt (.fadd 0 0 false 8 3 3) 8 = some 2#32 ∧ regAfter flt (.fcvtfi 0 0 false 8 4) 8 = some 0x4E7FC000#32 ∧
    regAfter flt (.fmov 0 0 true 8 6) 9 = some 1#32 ∧ regAfter flt (.fadd 0 0 true 8 4 6) 8 = some 0x7FF80000#32 := by decide +kernel

-- ---------------------------------------------------------------- decimal

/-- op1 at 0x100, op2 at 0x110 (packed, 2 bytes each: +9 and -12), a zoned field at 0x120 ("12-"), lengths 2 and 2; w10 a pair for binary. -/
def dec : State := withMem (withMem (withMem (ready [] [(1, 0x100#32), (2, 0x110#32), (3, 0x120#32), (4, 0x10000101#32), (5, 0x10000201#32), (6, 0x10000007#32),
    (7, 0x06000001#32), (8, 0x10000001#32), (10, 0xFFFFFFFF#32), (11, 0xFFFFFFF4#32), (12, 0x50000#32)])
    0x100 [0x00#8, 0x9C#8]) 0x110 [0x01#8, 0x2D#8]) 0x120 [0x31#8, 0x32#8, 0x2D#8]

/-- Operands pass their checks and are read. -/
def decMeets (s : State) (apart : Bool) (ops : List Opnd) (reads : List Bool) : Bool :=
  match (s.fetched 0).judgeAll 0 ops with
  | .ok ms => !ms.any meetsRegister && !badOverlap apart ms && match (s.fetched 0).readAll 0 (ms.zip reads) with
    | (_, .ok ls) => (firstInvalid ops (ops.map fun _ => fun l => if l.isEmpty then none else packedBad l) ls).isNone
    | _ => false
  | _ => false
theorem wit_decimal : allRun dec [.dadd 0 0 1 1 2 4, .dsub 0 0 2 1 2 4, .dzad 0 0 1 1 2 4, .dcmp 0 0 1 1 2 4, .dmul 0 0 1 1 2 6, .ddiv 0 0 1 1 2 6, .dtst 0 0 1 1 8,
      .dsrp 0 0 1 1 8, .dsrp 0 0 1 1 7, .dmul 0 0 1 1 2 4] = true ∧
    decMeets dec false [⟨0x110, 2, accLoad⟩, ⟨0x100, 2, accStore⟩] [true, true] = true ∧ decMeets dec false [⟨0x100, 2, accStore⟩] [true] = true ∧
    (match (dec.fetched 0).judgeAll 0 [⟨0x50000, 2, accLoad⟩] with
      | .error _ => true
      | _ => false) = true ∧ (2 : Nat) ≤ ((0x10000007#32 : Word).extractLsb' 0 5).toNat ∧ lwRnd 0x10000001#32 ≤ 5 ∧ 5 < lwRnd 0x06000001#32 := by decide +kernel
theorem wit_decimal_conversions : allRun dec [.cvpz 0 0 1 1 3 5, .cvzp 0 0 1 3 1 5, .cvbp 0 0 1 1 10 8, .cvpb 0 0 1 12 2 8, .cvpz 0 0 1 1 3 8] = true ∧
    (((0x10000201#32 : Word).extractLsb' 8 6).toNat + 1 ≠ 1) ∧ (((0x10000001#32 : Word).extractLsb' 8 6).toNat + 1 = 1) ∧ oddReg 10 = false ∧
    decMeets dec true [⟨0x100, 2, accLoad⟩] [true] = true ∧ decMeets dec true [⟨0x120, 3, accLoad⟩, ⟨0x100, 2, accStore⟩] [false, false] = true := by decide +kernel
theorem wit_packed : packedOver 2 999 = false ∧ packedOver 2 1000 = true ∧ (0 : Nat) < 2 := by decide
theorem wit_shift_rounds : (5 : Nat) ≤ 5 ∧ (0 : Int) ≤ 0 ∧ (-1 : Int) < 0 ∧ (10 : Int).tmod (10 ^ (-(-1 : Int)).toNat) = 0 := by decide
def cells (s : State) (i : Instr) (ea n : Nat) : List Byte :=
  match exec i s with
  | .next t => t.bytes (clusterBase + ea) n
  | _ => []
theorem test_dadd : cells dec (.dadd 0 0 1 1 2 4) 0x100 2 = [0x00#8, 0x3D#8] ∧ cells dec (.dsub 0 0 1 1 2 4) 0x100 2 = [0x02#8, 0x1C#8] ∧
    cells dec (.dzad 0 0 1 1 2 4) 0x100 2 = [0x01#8, 0x2D#8] ∧ cells dec (.dmul 0 0 1 2 1 4) 0x110 2 = [0x01#8, 0x2D#8] := by decide +kernel
theorem test_conversions : cells dec (.cvpz 0 0 1 1 3 5) 0x100 2 = [0x01#8, 0x2D#8] ∧ cells dec (.cvzp 0 0 1 3 1 5) 0x120 3 = [0x30#8, 0x39#8, 0x2B#8] ∧
    cells dec (.cvbp 0 0 1 1 10 8) 0x100 2 = [0x01#8, 0x2D#8] ∧ after dec (.cvpb 0 0 1 12 2 8) (fun k => (k.reg 12, k.reg 13)) = some (0xFFFFFFFF#32, 0xFFFFFFF4#32) := by
  decide +kernel
theorem test_dcmp : after dec (.dcmp 0 0 1 1 2 4) (fun k => k.pred 1) = some false ∧ after dec (.dcmp 0 0 1 2 1 4) (fun k => k.pred 1) = some false := by decide +kernel

-- ---------------------------------------------------------------- strings, EDIT

/-- Pairs: 2 = a string of 3 bytes at 0x100, 4 = 66 bytes at 0x200, 6 = none at 0x300, 8 = a pattern of 5 bytes at 0x400 whose source is at 0x440,
10 = its destination; w14 = the sought byte. -/
def str : State := withMem (withMem (withMem (ready [] [(2, 0x100#32), (3, 3#32), (4, 0x200#32), (5, 66#32), (6, 0x300#32), (8, 0x400#32), (9, 0x440#32), (10, 0x500#32),
    (11, 5#32), (14, 0x62#32), (15, 0x20#32)]) 0x100 [0x61#8, 0x62#8, 0x63#8]) 0x400 [1#8, 2#8, 0x2C#8, 1#8, 0x2D#8]) 0x440 [0x01#8, 0x2D#8]

def chunk (s : State) (ops : List Opnd) : Bool :=
  match (s.fetched 0).readChunk 0 ops with
  | .ok (_, _, _) => true
  | _ => false
theorem wit_string_moves : runs str 0 (.mvs 0 0 2 4) 0 true = true ∧ runs str 0 (.mvsf 0 0 4 2 14) 0 true = true ∧ runs str 0 (.trs 0 0 2 4) 0 true = true ∧
    runs str 0 (.mvs 0 0 6 4) 0 true = true ∧ runs str 0 (.mvsf 0 0 4 6 14) 0 true = true ∧ oddReg 2 = false ∧ ((str.coreOf 0).reg (6 ||| 1)).toNat = 0 ∧
    chunk str [⟨0x200, 3, accLoad⟩, ⟨0x100, 3, accStore⟩] = true ∧ chunk str [⟨0x100, 3, accLoad⟩, ⟨0x200, 64, accStore⟩] = true ∧
    chunk str [⟨0x300, 0, accLoad⟩, ⟨0x200, 64, accStore⟩] = true ∧ (match (str.fetched 0).tableChunk 0 2 4 accStore 3 with
      | .ok _ => true
      | _ => false) = true ∧ str.endsWell (str.fetched 0) 0 true = true := by decide +kernel
theorem wit_string_scans : runs str 0 (.scns 0 0 2 14) 0 true = true ∧ runs str 0 (.crcs 0 0 4) 0 true = true ∧ runs str 0 (.trts 0 0 2 4 14) 0 true = true ∧
    runs str 0 (.cmps 0 0 2 4 15) 0 true = true ∧ runs str 0 (.cmps 0 0 6 6 15) 0 true = true ∧ chunk str [⟨0x100, 3, accLoad⟩] = true ∧
    chunk str [⟨0x200, 64, accLoad⟩, ⟨0x100, 3, accLoad⟩] = true ∧ (match (str.fetched 0).tableChunk 0 2 4 accLoad 3 with
      | .ok _ => true
      | _ => false) = true ∧ firstDiff 0x20 3 0 [0x61#8] [0x61#8, 0x20#8, 0x20#8] = none ∧ (firstDiff 0x20 3 0 [0x61#8] [0x61#8, 0x20#8, 0x21#8]).isSome = true := by decide +kernel
theorem test_moves : cells str (.mvsf 0 0 4 2 14) 0x200 5 = [0x61#8, 0x62#8, 0x63#8, 0x62#8, 0x62#8] ∧
    after str (.mvsf 0 0 4 2 14) (fun k => (k.pc, k.rs, k.reg 4, k.reg 5)) = some (0#32, true, 0x240#32, 2#32) := by decide +kernel
theorem test_scan : after str (.scns 0 0 2 14) (fun k => (k.reg 2, k.reg 3)) = some (0x101#32, 2#32) ∧
    after str (.cmps 0 0 2 4 15) (fun k => (k.reg 14, k.reg 15)) = some (0x62#32, 1#32) := by decide +kernel
theorem wit_edit : runs str 0 (.edit 0 0 10 8 15) 0 true = true ∧ oddReg 10 = false ∧ oddReg 8 = false ∧ ((str.coreOf 0).reg (10 ||| 1)).toNat = 5 ∧
    (match (str.fetched 0).judgeAll 0 [⟨0x400, 5, accLoad⟩] with
      | .ok [pat] => !meetsRegister pat && match (str.fetched 0).loadPieces 0 pat with
        | (r, .ok l) => match (r.mark false pat).judge 0 accStore (operand 0x500 5) none with
          | .ok dst => !meetsRegister dst && match (r.mark false pat).editWalk 0 none (editStart (str.coreOf 0) 8 15) [] []
              (((natRange 0 5).map fun i => 0x400#32 + BitVec.ofNat 32 i).zip ((pasOf pat).zip (l.zip (pasOf dst)))) with
            | .ok _ _ _ srcs => !(srcs.any fun p => (pasOf dst).contains p)
            | _ => false
          | _ => false
        | _ => false
      | _ => false) = true ∧ (2 : Nat) < 10 ∧ (0x2D#8 : Byte).toNat / 16 ≤ 9 ∧ 10 ≤ (0x2D#8 : Byte).toNat % 16 ∧ 9 < (0xA0#8 : Byte).toNat / 16 := by decide +kernel
-- digits 0, 1, 2: the leading zero prints the fill byte, and significance begins at 1
theorem test_edit : cells str (.edit 0 0 10 8 15) 0x500 5 = [0x20#8, 0x31#8, 0x2C#8, 0x32#8, 0x2D#8] := by decide +kernel

-- ---------------------------------------------------------------- tags, posting, custom instructions

/-- A record of no payload under its tag (origin 1, polynomial 0), the same with a zero tag, and one with Q set. -/
def recGood : List Byte := patch (zeros 32) 0 (leBytes 8 (mkTag (crc 0 (coveredBytes (zeros 32))) 0 0 1).toNat)
def recLong : List Byte := patch (zeros 32) 14 (leBytes 2 9001)
def tagged (l : List Byte) : State := withMem (ready [] [(1, 0x100#32)]) 0x100 l
def tchk (s : State) : Option (State × List Mapped × List Byte) :=
  match (s.fetched 0).tchkRead 0 0x100 with
  | .ok u ms l => some (u, ms, l)
  | _ => none
theorem wit_tags : runs (tagged recGood) 0 (.tchkForm 0 0 2 1) 0 false = true ∧ (match tchk (tagged recGood) with
      | some (u, m :: ms, l) => !u.emittedAt m.pa && match u.performAll 0 [(partOf (m :: ms) 16 8, sliceZ (u.formed 0 l) 16 8), (partOf (m :: ms) 0 8, (u.formed 0 l).take 8)] with
        | .ok _ => true
        | _ => false
      | _ => false) = true ∧ (match ((tagged recLong).fetched 0).judgeRecord 0 0x100 32 with
      | .ok hm => match ((tagged recLong).fetched 0).loadPieces 0 hm with
        | (_, .ok h) => decide (9000 < leField h 14 2)
        | _ => false
      | _ => false) = true := by decide +kernel
theorem wit_tag_verify : runs (tagged recGood) 0 (.tchkVerify 0 0 2 1) 0 false = true ∧ (match tchk (tagged recGood) with
      | some (u, _, l) => decide ((u.tagJudge l).1 = 0 ∧ (u.tagJudge l).2.2 = none)
      | none => false) = true ∧ (match tchk (tagged (zeros 32)) with
      | some (u, ms, l) => decide ((u.tagJudge l).1 = 1 ∧ (u.tagJudge l).2.2 ≠ none) && match u.performAll 0 [(partOf ms 0 8, (u.tagJudge l).2.1.take 8)] with
        | .ok _ => match (u.verifyAt 1 l).1.performAll 0 [(partOf ms 0 8, (u.tagJudge l).2.1.take 8)] with
          | .ok _ => true
          | _ => false
        | _ => false
      | none => false) = true ∧ (match tchk (tagged (patch recGood 13 [8#8])) with
      | some (u, _, l) => decide ((u.tagJudge l).1 = 2 ∧ (u.tagJudge l).2.2 = none)
      | none => false) = true := by decide +kernel
/-- A record whose admission frame its tag does not cover: outcome 2, and Q is written (R136). -/
def recTorn : List Byte := patch recGood 16 [1#8]
theorem wit_tag_quarantine : runs (tagged recTorn) 0 (.tchkVerify 0 0 2 1) 0 false = true ∧ (match tchk (tagged recTorn) with
      | some (u, ms, l) =>
        let j := u.tagJudge l
        let piece := (partOf ms 13 1, [j.2.1.getD 13 0])
        decide (j.1 = 2 ∧ j.2.2 ≠ none) && match u.performAll 0 [piece], (u.verifyAt 1 l).1.performAll 0 [piece] with
          | .ok _, .ok _ => true
          | _, _ => false
      | none => false) = true := by decide +kernel
-- the CRC-32C of "123456789" and its CRC-32 (the check values of R128's polynomials)
theorem test_crc : crc 0 ((List.range 9).map fun n => BitVec.ofNat 8 (0x31 + n)) = 0xE3069283 ∧ crc 1 ((List.range 9).map fun n => BitVec.ofNat 8 (0x31 + n)) = 0xCBF43926 := by
  decide +kernel
theorem test_tchk : regAfter (tagged recGood) (.tchkVerify 0 0 2 1) 2 = some 0#32 ∧ regAfter (tagged (zeros 32)) (.tchkVerify 0 0 2 1) 2 = some 1#32 ∧
    after (tagged (patch recGood 13 [8#8])) (.tchkVerify 0 0 2 1) (fun k => (k.reg 2, k.srGet 0x041, k.srGet 0x044)) = some (0#32, 0x1201#32, 4#32) := by decide +kernel

/-- Four accounts of balance 0 and limit -100 at 0x30000, a list at 0x200 that posts `a` and -5 in turn, the journal pointer at 0x30100. -/
def account : List Byte := packInt 16 0 ++ packInt 16 (-100) ++ zeros 32
def posting (a : Int) : State :=
  (withMem (ready [(0x010, 0x30100#32), (0x014, 0x1000#32)] [(1, 0x200#32), (2, 0x30100#32)]) 0x200
    (leBytes 32 7 ++ (leBytes 16 0x30000 ++ packInt 16 a) ++ (leBytes 16 0x30040 ++ packInt 16 (-5)) ++ (leBytes 16 0x30080 ++ packInt 16 a) ++
      (leBytes 16 0x300C0 ++ packInt 16 (-5)))).poke recordBase (account ++ account ++ account ++ account)

/-- The hypotheses of a posting of `n` legs up to its accounts' reading, and its outcome; with outcome 0 also that the commit is made. -/
def postMeets (s : State) (n : Nat) : Option Nat :=
  let f := s.fetched 0
  match f.judgeList 0 0x200 (32 + 32 * n) with
  | .ok lm => match f.loadPieces 0 lm with
    | (r, .ok l) =>
      let u := r.mark false lm
      let eas := (natRange 0 n).map fun j => BitVec.ofNat 32 (leField l (32 + 32 * j) 4)
      match u.judgeLines 0 (eas ++ [0x30100#32]) with
      | .ok lines =>
        let amts := (natRange 0 n).map fun j => (0x200#32 + BitVec.ofNat 32 (48 + 32 * j), sliceZ l (48 + 32 * j) 16)
        if (lines.map Mapped.pa).eraseDups.length = lines.length ∧ firstBadField amts = none ∧ listReserved n l = false then
          match u.takeLocks 0 ((lines.map fun x => (x.pa, BitVec.ofNat 32 x.ea)).foldr insertLine []) with
          | (q, none) => match q.readLegs 0 ((eas.zip (lines.zip amts)).map fun x => (⟨x.1, x.2.1, packedVal x.2.2.2, []⟩ : Leg)) with
            | (w, .ok legs) => if legs.any fun x => accountReserved x.bytes then none else
              (match w.performCommit 0 (legs.map fun x => ([x.line], x.posted w.timer.frame)) with
              | .ok _ => some (postOutcome legs)
              | _ => none)
            | _ => none
          | _ => none
        else none
      | _ => none
    | _ => none
  | _ => none
theorem wit_posting : runs (posting 5) 0 (.post 0 0 0 3 1 2) 0 false = true ∧ runs (posting 5) 0 (.post2 0 0 0 3 1 2) 0 false = true ∧
    runs (posting 5) 0 (.post4 0 0 0 3 1 2) 0 false = true ∧ postMeets (posting 5) 1 = some 0 ∧ postMeets (posting 5) 2 = some 0 ∧
    postMeets (posting 5) 4 = some 0 ∧ postMeets (posting 6) 2 = some 1 ∧ ((posting 5).coreOf 0).ring ≤ 1 ∧ 1 < (user.coreOf 0).ring ∧
    runs user 0 (.post 0 0 0 3 1 2) 0 false = true := by decide +kernel
def leg (a : Int) (closed : Byte) : Leg := ⟨0, ⟨0, 64, 2, 0, 0⟩, a, patch account 40 [closed]⟩
theorem wit_posting_order : [leg 5 1] ≠ [] ∧ ([leg 5 0, leg (-5) 1][1]?).map Leg.closed = some true ∧ (leg 5 0).closed = false ∧
    ([leg 5 0, leg (-6) 0].map Leg.amount).sum ≠ 0 ∧ postOutcome [leg 5 0, leg (-5) 0] = 0 ∧ packedOver 16 (leg 5 0).new = false ∧
    (leg (-5) 0).limit ≤ (leg (-5) 0).new := by decide +kernel
-- balances after the posting; the journal pointer advances by 64; an unbalanced list changes nothing (R386, R387)
theorem test_post2 : (match exec (.post2 0 0 0 3 1 2) (posting 5) with
    | .next t => (t.bytes (recordBase + 0x4F) 1, t.bytes (recordBase + 15) 1, (t.core 0).reg 3, (t.core 0).reg 2, t.locks)
    | _ => ([], [], 1, 0, [])) = ([0x5D#8], [0x5C#8], 0#32, 0x30140#32, []) := by decide +kernel
theorem test_post_refused : (match exec (.post2 0 0 0 3 1 2) (posting 6) with
    | .next t => (t.bytes (recordBase + 15) 1, (t.core 0).reg 3, (t.core 0).reg 2)
    | _ => ([], 0, 0)) = ([0x0C#8], 1#32, 0x30100#32) := by decide +kernel

/-- A user image whose routine of slot 0 is one microword: SEQ `q`, commit. -/
def userImage (q : Nat) : List Byte :=
  patch (zeros 320) 16 (leBytes 2 1 ++ leBytes 2 1 ++ leBytes 2 1) ++ leBytes 8 (960 * 2 ^ 22 + q * 256 + 2) ++ patch (zeros 16) 9 [3#8]
def custom (q : Nat) : State := { ready [] [] with micro := { State.reset.micro with image := userImage q, loaded := 1 } }
theorem wit_custom : runs (custom 5) 0 (.cust 0 0 0 0 1 2 3) 0 false = true ∧ imgResumable (userImage 5) 0 = false ∧ (custom 5).custEnc 0 1 2 3 = none ∧
    (match ((custom 5).fetched 0).runCust 0 0 ⟨1, 2, 3, 0⟩ with
      | .done u _ => (custom 5).endsWell u 0 false
      | _ => false) = true ∧ (match ((custom 7).fetched 0).runCust 0 0 ⟨1, 2, 3, 0⟩ with
      | .trap _ _ => true
      | _ => false) = true ∧ (custom 5).micro.loaded.getLsbD 15 = false := by decide +kernel
theorem test_custom_unloaded : after (custom 5) (.cust 0 2 15 0 1 2 3) (fun k => (k.pc, k.srGet 0x041)) = some (128#32, 0x407#32) := by decide +kernel

-- ---------------------------------------------------------------- events and waits of a core

def eventful (f : Core → Core) : State := flowWith fun k => f { k.srSet 0 0xC0080000#32 with ipend := 1, ien := 1 }
theorem wit_core_events : ((eventful fun k => { k with nmiPend := true }).core 0).atBoundary = true ∧ ((eventful fun k => { k with nmiPend := true }).core 0).nmiReady = true ∧
    ((eventful fun k => { k with haltPend := true }).core 0).haltReady = true ∧ ((eventful fun k => { k with haltPend := true }).core 0).nmiReady = false ∧
    ((eventful fun k => { k with ifast := 1 }).core 0).fastReady = true ∧ ((eventful fun k => { k with ifast := 1 }).core 0).haltReady = false ∧
    ((eventful fun k => { k with budgetPend := true, task := some 0 }).core 0).budgetReady = true ∧
    ((eventful fun k => { k with budgetPend := true, task := some 0 }).core 0).fastReady = false ∧
    ((eventful id).core 0).budgetReady = false ∧ ((eventful id).core 0).intReady = true ∧
    ((eventful fun k => { k with brks := [(0, ⟨true, 0⟩)] }).core 0).ready = true ∧
    ({ (eventful fun k => { k with brks := [(0, ⟨true, 0⟩)] }) with jtag := { State.reset.jtag with debug := true } } : State).atBreakpoint 0 = true := by decide +kernel
theorem test_interrupt : after (eventful id) (.interrupt 0) (fun k => (k.pc, k.bank, k.ie, k.srGet 0x044)) = some (0x220#32, 9, false, 0#32) ∧
    after (eventful fun k => { k with ifast := 1 }) (.fastInterrupt 0) (fun k => (k.pc, k.bank, k.fe)) = some (0x200#32, 8, false) := by decide +kernel

/-- Core 0 waits in a store at 0x100, or in a posting. -/
def waiting (w : WaitWhy) (i : Instr) (s : State) : State := s.setCore 0 { s.core 0 with wait := some ⟨w, some i⟩ }
theorem wit_core_waits :
    ((ready [] []).setCore 0 { (ready [] []).core 0 with storeBuf := [⟨clusterBase, [1#8]⟩] }).core 0 ≠ (ready [] []).core 0 ∧
    (banksFull.core 0).run ≠ .held ∧ ((natRange 0 8).all fun b => (banksFull.core 0).heldBank b || ((banksFull.core 0).vOf b && (banksFull.core 0).dOf b)) = true ∧
    leastRecent (fun b => !(banksFull.core 0).heldBank b && (banksFull.core 0).vOf b && (banksFull.core 0).dOf b) (banksFull.core 0).recency = some 1 ∧
    banksFull.slotPa 0 ((banksFull.core 0).ctxOf 1) = some (scratchBase + 0xE000) ∧
    keys0.headroom 4096 = true ∧ keys0.perc.captures.length < 16384 ∧ keys0.perc.deferred.contains 1 = false ∧ keys0.lockFree recordBase 0 = true ∧
    runs ((waiting (.carafe 1) (.stw 0 0 3 1 0 0) mem).unwaited 0 (.carafe 1)) 0 (.stw 0 0 3 1 0 0) 0 false = true ∧
    runs ((waiting .capture (.stw 0 0 3 1 0 0) mem).unwaited 0 .capture) 0 (.stw 0 0 3 1 0 0) 0 false = true ∧
    runs ((waiting (.deferred 1) (.stw 0 0 3 1 0 0) mem).unwaited 0 (.deferred 1)) 0 (.stw 0 0 3 1 0 0) 0 false = true ∧
    stores ((waiting (.carafe 1) (.stw 0 0 3 1 0 0) mem).unwaited 0 (.carafe 1)) 0x100 0x11223344 4 = true ∧
    runs ((waiting (.lock recordBase 0x30000) (.post2 0 0 0 3 1 2) (posting 5)).unwaited 0 (.lock recordBase 0x30000)) 0 (.post2 0 0 0 3 1 2) 0 false = true ∧
    postMeets ((waiting (.lock recordBase 0x30000) (.post2 0 0 0 3 1 2) (posting 5)).unwaited 0 (.lock recordBase 0x30000)) 2 = some 0 ∧
    (let s := { keys0.setCore 0 { keys0.core 0 with parityHold := some ⟨1, 2⟩ } with micro := { keys0.micro with reloads := [(0, 0)] } }
     (s.core 0).parityHold = some ⟨1, 2⟩ ∧ s.reloadQueue = [(0, 0)] ∧ s.micro.goldenBad = []) ∧ keys0.unsent 0 < 256 := by decide +kernel
theorem test_spill : (match exec (.spillWriteback 0) (banksFull.setCore 0 { banksFull.core 0 with regs := [(32, 0xA1B2C3D4#32)] }) with
    | .next t => ((t.core 0).dOf 1, t.bytes (scratchBase + 0xE000) 4)
    | _ => (true, [])) = (false, [0xD4#8, 0xC3#8, 0xB2#8, 0xA1#8]) := by decide +kernel
theorem test_lock_timeout : after (waiting (.lock recordBase 0x30000) (.post2 0 0 0 3 1 2) (posting 5)) (.lineLockTimeout 0)
    (fun k => (k.pc, k.srGet 0x041, k.srGet 0x042, k.wait)) = some (0x260#32, 0x1301#32, 0x30000#32, none) := by decide +kernel

-- ---------------------------------------------------------------- device registers, a plan

/-- A plan DOMAIN: one logical core, one task of image 0x2000 (mask of class 0, context 1), class 0 on every port with room for 64 cells. -/
def planDom : List Byte :=
  patch (zeros 128) 20 (leBytes 4 250000 ++ leBytes 2 1 ++ [1#8, 0#8, 1#8, 0#8] ++ leBytes 2 50) |> (patch · 44 (leBytes 4 160 ++ leBytes 4 128)) |>
    (· ++ ([0#8, 1#8, 15#8, 15#8] ++ zeros 4 ++ leBytes 4 4096 ++ leBytes 4 16 ++ leBytes 4 4096 ++ leBytes 4 16 ++ zeros 8)) |>
    (· ++ (leBytes 4 1 ++ leBytes 2 0x2000 ++ [1#8, 0#8] ++ zeros 4 ++ leBytes 4 0 ++ leBytes 4 100000 ++ leBytes 4 1000 ++ leBytes 8 1 ++ zeros 288))
def imageDom : List Byte := patch (zeros 40) 16 [1#8] |> (patch · 20 (leBytes 4 0x4000 ++ leBytes 4 0x10000 ++ leBytes 4 0x8000))

/-- The plan in force with core 0 idle as the carrier of logical core 0; the timer runs. -/
def planned : State := { State.reset with
  cores := [(0, { coreWith [(0x036, 0#32)] [] with run := .idle })]
  lcores := [(0, { LCore.reset with carrier := some 0, gc := 2 })]
  timer := { State.reset.timer with armed := true, running := true }
  barista := { State.reset.barista with stage := .up }
  plans := { State.reset.plans with active := planDom, state := 0, placed := true }
  adm := { State.reset.adm with freeS := 1048574, arenas := [⟨.cls 0, false, 0, 64, 0, 0, 0, false, 0, 64, 0, 0, 0, false⟩,
    ⟨.derived 0, false, 64, 16, 0, 0, 0, false, 64, 16, 0, 0, 0, false⟩] }
  domains := [(0x2000, imageDom)] }
def emitting : State := withMem (planned.setCore 0 { planned.core 0 with run := .running }) 0x100 (zeros 32)

theorem wit_device_registers : (emitting.core 0).ready = true ∧ (emitting.drainAll 0).unsent 0 < 256 ∧ (0x2200000100#64 : DWord).extractLsb' 40 24 = 0#24 ∧
    (emitting.drainAll 0).emitRange (clusterBase + 0x100) 32 = true ∧ leField ((emitting.drainAll 0).engineRead (clusterBase + 0x100) 32).2 14 2 = 0 ∧
    emitting.lcoreOf 0 = 0 ∧ cellsOf 32 ≤ (emitting.lcore 0).gc ∧ (emitting.arena (.derived 0)).isSome = true ∧ 0x101 % 8 ≠ 0 ∧
    (emitting.setLcore 0 { emitting.lcore 0 with gc := 0 }).emitRange (clusterBase + 0x100) 32 = true ∧
    leField ((withMem emitting 0x100 recLong).engineRead (clusterBase + 0x100) 32).2 14 2 = 9001 ∧
    (0x00000003#32 : Word).extractLsb' 14 18 = 0#18 ∧ (emitting.section.map fun p => p.nl) = some 1 ∧ (emitting.lcore 0).carrier = some 0 ∧
    (0x1FFFF#64 : DWord).extractLsb' 17 15 = 0#15 := by decide +kernel
theorem wit_derived_copy : (match exec (.dremEmission 0 0x2200000100) emitting with
    | .next t => (t.record 0).map fun r => (r.copied, r.derived)
    | _ => none) = some (false, some 0) := by decide +kernel
theorem test_drem : (match exec (.dremEmission 0 0x2200000100) emitting with
    | .next t => ((t.core 0).drstResult, (t.core 0).drstCred, (t.lcore 0).uc, t.adm.recs.length)
    | _ => (9, 0, 0, 0)) = (0, 1, 1, 1) ∧ after emitting (.dremEmission 0 0x2200000101) (fun k => k.drstResult) = some 3 := by decide +kernel
theorem test_iraise : after emitting (.iraiseStore 0 3) (fun k => k.ipend) = some 8#17 ∧
    after (emitting.setCore 0 { emitting.core 0 with dbgin := 7, inf := true }) (.dbginLoad 0 5) (fun k => (k.reg 5, k.inf)) = some (7#32, false) := by decide +kernel

-- ---------------------------------------------------------------- frames, plans, time, cores that move

def withAdm (f : Admission → Admission) : State := { planned with adm := f planned.adm }
def withPlans (f : Plans → Plans) : State := { planned with plans := f planned.plans }
def dying : State := { planned with pf := { planned.pf with stage := .t0 } }
def auditedAt (s : State) : State := (s.turnTimer.endOfFrame s.timer.frame).latchQueue
def degradable : State := withPlans fun p => { p with active := patch planDom 56 (leBytes 4 128), degradeDue := some 1 }

theorem wit_frame_ticks : (planned.timer.armed = true ∧ planned.timer.running = true ∧ planned.barista.stage = .up ∧ 0 < planned.timer.period) ∧
    dying.failing = true ∧ planned.failing = false ∧ (auditedAt planned).auditOk = true ∧ (auditedAt planned).pf.shutdownAsked = false ∧
    (auditedAt (withAdm fun a => { a with freeS := 0 })).auditOk = false ∧
    (auditedAt { planned with pf := { planned.pf with shutdownAsked := true } }).auditOk = true ∧
    (auditedAt { planned with pf := { planned.pf with shutdownAsked := true } }).pf.shutdownAsked = true ∧ planned.zdp.backlog = [] := by decide +kernel
theorem wit_release : planned.plans.stopping = false ∧ planned.tickPending 0 = false ∧ (planned.lcore 0).carrier = some 0 ∧
    (planned.nextTask 0).map TaskEnt.image = some 0x2000 ∧ (planned.core 0).run = .idle ∧ (planned.core 0).task = none ∧
    (planned.core 0).faulted = false ∧ (planned.core 0).releaseBank < 8 := by decide +kernel
theorem wit_plan_switch :
    let s := withPlans fun p => { p with pending := planDom, shadowState := 2, pendingFrame := 0, pendPlaced := true }
    let u := withPlans fun p => { p with pending := planDom, shadowState := 2, pendingFrame := 3, pendPlaced := false }
    let p := parseSection planDom 0 false
    s.switchDue = true ∧ s.plans.pendPlaced = true ∧ u.plans.shadowState = 2 ∧ u.plans.pendPlaced = false ∧ u.section = some p ∧
    placesClash (u.places p) (u.places p ++ u.places p ++ u.slotPlaces p) = false ∧
    (let w := withPlans fun q => { q with placed := false }
     w.section = some p ∧ w.plans.shadowState ≠ 2 ∧ w.plans.placed = false ∧ placesClash (w.places p) (w.places p ++ [] ++ w.slotPlaces p) = false) := by
  decide +kernel
theorem wit_degrade : degradable.plans.degradeDue = some 1 ∧ degradable.failing = false ∧ degradable.canDegrade 1 = true ∧
    ¬ ((1 : Nat) = 2 ∧ degradable.starved = true) ∧ (withPlans fun p => { p with degradeDue := some 2 }).canDegrade 2 = false := by decide +kernel

/-- The clock follows source `n` in state `st`; field port 0 is the chosen one. -/
def clocked (n : Byte) (st : Nat) : State :=
  { planned with obj := [(okey 0x0400 4, [n])], timer := { planned.timer with srcState := st, lockCount := 16, master := some (.field false) } }
def ptp (port : NetPort) (kind : PtpKind) : PtpFacts := ⟨port, 1, 0, kind⟩
def master : Announce := ⟨128, 6, 0x21, 0, 128, 1, 0, 1⟩
theorem wit_time_source : (clocked 1 0).ptpTaken (ptp (.field false) (.sync 40)) = true ∧ (clocked 1 0).timer.master = some (.field false) ∧
    (clocked 1 0).ptpTaken (ptp (.field true) (.sync 40)) = true ∧ (clocked 1 0).timer.master ≠ some (.field true) ∧
    (clocked 1 0).ptpTaken (ptp (.field true) (.announce master)) = true ∧ (clocked 1 0).ptpTaken (ptp (.field true) .unknown) = true ∧
    (clocked 5 0).timeSource = 5 ∧ (clocked 5 0).barista.stage = .up ∧
    ((clocked 1 1).timer.srcState = 1 ∧ 16 ≤ (clocked 1 1).timer.lockCount) ∧ (clocked 1 0).section ≠ none ∧
    (let s := { clocked 1 3 with timer := { (clocked 1 3).timer with plantNs := 10000000001 } }
     s.heldTooLong = true ∧ s.timer.holdLogged = false) ∧
    ((clocked 1 3).timer.srcState = 3 ∧ (clocked 1 3).timer.plantNs ≤ (clocked 1 3).timer.holdNs + 1000000 * (clocked 1 3).objNat (okey 0x0400 8) 10000) ∧
    (let s := { clocked 1 3 with timer := { (clocked 1 3).timer with plantNs := 2999999999 } }
     s.timer.running = true ∧ s.secondReached = 3 ∧ s.timer.ppsSecond ≠ some 3 ∧ s.timer.plantNs ≤ 1000000000 * 3) := by decide +kernel
-- an Announce of a worse clock class does not displace the best master (R48)
theorem test_master : (match exec (.ptpMessage (ptp (.field true) (.announce { master with clockClass := 7 }))) { clocked 1 0 with
      timer := { (clocked 1 0).timer with announces := [(.field false, master)] } } with
    | .next t => (t.timer.master, t.timer.announces.length)
    | _ => (none, 0)) = (some (.field false), 2) := by decide +kernel

/-- The plan runs with core 1 a powered spare in state `st`. -/
def spared (st : CoreState) (f : Core → Core) : State :=
  { planned with
    cores := [(0, f (planned.core 0)), (1, { Core.reset with state := st, run := .held })]
    power := { planned.power with dom := [(1, 2)] }
    repair := { planned.repair with rotateDue := true } }
def unmoved : State := { spared .ready id with lcores := [(0, { LCore.reset with carrier := none, gc := 2 })] }
def badRow (rows : List RowRepair) : State := { planned with poison := [(1, clusterBase)], repair := { planned.repair with rows := rows } }
theorem wit_rotation : (spared .ready id).replacementDue = false ∧ (spared .ready id).rotCluster = some 0 ∧ (spared .ready id).oldestIn 0 = some 0 ∧
    (spared .ready id).sparesOf 0 = [1] ∧ (spared .ready id).timer.running = true ∧ (spared .ready id).failing = false := by decide +kernel
theorem wit_replacement :
    let s := spared .ready fun k => { k with faulted := true }
    let u := spared .held fun k => { k with faulted := true }
    s.firstNeed 0 = true ∧ s.spareFor (s.lcore 0).home = some 1 ∧ (s.lcore 0).carrier = some 0 ∧ u.firstNeed 0 = true ∧
    u.spareFor (u.lcore 0).home = none ∧ (u.lcore 0).carrier = some 0 ∧ unmoved.firstNeed 0 = true ∧ (unmoved.lcore 0).carrier = none ∧
    unmoved.spareFor (unmoved.lcore 0).home = some 1 := by decide +kernel
theorem wit_self_test : ((spared .underTest id).core 1).state = .underTest ∧ (spared .underTest id).repair.retired.contains 1 = false ∧
    ((natRange 0 64).all fun l => ((spared .underTest id).lcore l).carrier != some 1) = true ∧ (spared .underTest id).barista.stage = .up := by
  decide +kernel
theorem wit_row_repair : rowNamed 4 0 = true ∧ (badRow []).rowBad 4 0 = true ∧ (badRow []).repairing 4 0 = false ∧
    (badRow []).freeSpare 4 (rowBank 4 0) = some 0 ∧
    ((badRow [⟨4, 0, 0, false⟩]).repair.rows.find? fun x => x.kind == 4 && x.unit == 0 && !x.done) = some ⟨4, 0, 0, false⟩ := by decide +kernel
-- the task's budget and pc at its release; the section bytes after a switch
theorem test_release : after planned (.taskRelease 0) (fun k => (k.run, k.budget, k.task)) = some (.running, 1000, some 0) := by decide +kernel
theorem test_rotation : (match exec .rotation (spared .ready id) with
    | .next t => ((t.lcore 0).carrier, (t.core 1).run, (t.core 0).state)
    | _ => (none, .held, .held)) = (some 1, .idle, .underTest) := by decide +kernel

-- ---------------------------------------------------------------- ports

/-- Port 0 is up with the addresses 10.0.0.1 and 0x55; partner 1 (10.0.0.2, class 0, every port) is enabled and open. -/
def ported : State := { planned with
  obj := [(portKey 0 4, leBytes 4 0x0A000001), (portKey 0 5, beBytes 16 0x55)]
  ro := [(portKey 0 6, 1)]
  carafe := { planned.carafe with bMax := 1000000 }
  adm := { planned.adm with partners := [(1, { Partner.zero with
    addr := 0xFFFF0A000002, classMask := 1, portMask := 15, flags := 1, status := 4, gS := 20, tS := 20 })] } }
def vrtHead (type flags alive len epoch : Nat) : List Byte :=
  [1#8, BitVec.ofNat 8 type, BitVec.ofNat 8 flags, 0#8] ++ beBytes 4 1 ++ [BitVec.ofNat 8 alive, 0#8] ++ beBytes 2 len ++ beBytes 4 epoch ++ beBytes 8 77 ++
    zeros 8
def datagram (l : List Byte) : Datagram :=
  { port := 0, size := 100 + l.length, fragment := false, pause := false, tags := 0, vid := 0, udp := true, ip6 := false, options := false
    ipSumGood := true, udpSum := .good, mac := 0x020000000002, src := 0xFFFF0A000002, dst := 0xFFFF0A000001, udpDst := 46228, data := l }
def recordDg : Datagram := datagram (vrtHead 1 0 0 8 0 ++ zeros 8)
def helloDg : Datagram := datagram (vrtHead 3 0 0 0 0)
def requestDg : Datagram := datagram (vrtHead 4 0 0 24 0 ++ zeros 24)
def firstMsg (d : Datagram) : VrtMsg := match wellFormedDg d.data with | some (_, m :: _) => m | _ => ⟨[], [], []⟩
/-- A refused request waits for its reply; `n` bytes have left the port in class 0. -/
def replying (n : Nat) : State := { ported with egress := { ported.egress with reqs := [⟨0, 1, 0, 0, 9, .read 0 0, some 2⟩], sentBytes := [(0, n)] } }

theorem wit_datagrams : ported.portOpen 0 = true ∧ ported.frameCode recordDg = none ∧ recordDg.size ≤ 9216 ∧
    ported.frameCode { recordDg with fragment := true } = some 1 ∧ wellFormedDg [] = none ∧
    ported.datagramCode { recordDg with src := 0 } .records (firstMsg recordDg) = some 7 ∧
    wellFormedDg recordDg.data = some (.records, [firstMsg recordDg]) ∧ wellFormedDg helloDg.data = some (.hello, [firstMsg helloDg]) ∧
    wellFormedDg requestDg.data = some (.requests, [firstMsg requestDg]) ∧ msgReserved (firstMsg recordDg) = false ∧
    msgReserved (firstMsg helloDg) = false ∧ msgReserved (firstMsg requestDg) = false ∧
    ported.datagramCode recordDg .records (firstMsg recordDg) = none ∧ ported.recordCode 0 (firstMsg recordDg) false = none ∧
    (ported.entryOf 0).isSome = true ∧ (ported.arena (.cls 0)).isSome = true ∧ ported.datagramCode helloDg .hello (firstMsg helloDg) = none ∧
    (ported.partner 1).kb = (firstMsg helloDg).g ∧ (firstMsg helloDg).g = false ∧
    ported.datagramCode requestDg .requests (firstMsg requestDg) = none ∧ (firstMsg requestDg).type = 4 ∧
    ported.accessCode 0 (ported.partner 1) ClassEnt.egress (firstMsg requestDg) false = none ∧ ported.openRequests < 8192 := by decide +kernel
theorem wit_ports : ported.ip4 0 = 0x0A000001 ∧ ported.ip6 0 = 0x55 ∧ ported.portMode 0 ≠ 4 ∧ ported.portMode 0 ≠ 2 ∧ ported.portMode 0 ≠ 3 ∧
    ported.acksStop = false ∧ ((((replying 0).liveSubs 0).nextReply 0 0).map Request.order) = some 0 ∧
    ((replying 0).entryOf 0).map (fun e => (natBit e.egress 0, e.eb, e.ed)) = some (true, 4096, 16) ∧
    Tab.get 0 ((replying 4090).liveSubs 0).egress.sentBytes 0 + 32 > 4096 := by decide +kernel
/-- The same with addresses on field port 0, which takes frames (its mode is AUTO). -/
def fielded : State := { ported with obj := [(okey 0x0204 3, leBytes 4 9), (okey 0x0204 4, beBytes 16 5), (portKey 0 4, leBytes 4 0x0A000001), (portKey 0 5, beBytes 16 0x55)] }
theorem wit_field_ports : ported.netOpen (.eth 0) = true ∧ ported.netIp4 (.eth 0) = 0x0A000001 ∧ ported.netIp6 (.eth 0) = 0x55 ∧
    fielded.netOpen (.field false) = true ∧ fielded.netIp4 (.field false) = 9 ∧ fielded.netIp6 (.field false) = 5 := by decide +kernel
theorem test_field_link : (match exec (.portLinkChange (.field false) true none) fielded with
    | .next t => t.roGet (okey 0x0204 6) | _ => 9) = 1 := by decide +kernel
-- the record's place and credits; a frame from a wrong address (code 0x07)
theorem test_datagram : (match exec (.vrtDatagram recordDg) ported with
    | .next t => (t.adm.recs.map Rec.cells, (t.partner 1).gS.toNat, (t.partner 1).e.toNat, t.roGet (dropKey 0 0x20))
    | _ => ([], 0, 0, 0)) = ([1], 19, 1, 1) ∧ (match exec (.vrtDatagram { recordDg with src := 0 }) ported with
    | .next t => t.roGet (dropKey 0 7)
    | _ => 0) = 1 := by decide +kernel

-- ---------------------------------------------------------------- media

/-- Group 0 has one journal stripe set of three blocks (LUN 0 of every channel) and a bulk LUN; the timer runs. -/
def chanOf : Chan := { Chan.off with sPg := 4096, tXfer := 1000, tCmd := 10, nBlk := 3, pages := 37, pagePages := 74, reserve := 100000 }
def journalLun : Lun := { Lun.absent with role := 1, state := 1, blocks := 3 }
def plainB (kind : Nat) (data : List Byte) : Block := ⟨kind, 0, 0, 0, 0, 0, 0, 0, [], data⟩
def op0 (k : OpKind) (issued : Bool) : MediaOp := { mkOp .percolator k 0 0 1010 with id := 7, issued := issued, dirty := 64, blocks := [(3, plainB 0 [])] }
def mediated (q : List MediaOp) (g : Group) : State := { planned with
  perc := { planned.perc with dirty := 100, sets := [⟨0, 4, 9, [⟨[.key 0 0x80], 1, 0, none⟩], 1, 0, 0, none, false, []⟩] }
  media := { planned.media with
    present := true
    chans := (natRange 0 8).map fun n => (n, chanOf)
    luns := (natRange 0 8).flatMap fun n => [(32 * n, journalLun), (32 * n + 1, { journalLun with role := 2, multi := 3, erases := [(0, 9)] })]
    groups := [(0, { g with sets := 1 })]
    queue := q, nextOp := 8 } }
/-- An operation of the Grinder: a bulk program, which moves in pieces. -/
def bulkOp (issued : Bool) (susp : Nat) : MediaOp := { op0 .program issued with issuer := .grinder, area := .bulk, susp := susp }
def found (s : State) (o : MediaOp) : Bool := (s.media.queue.find? fun x => x.id == o.id) == some o
/-- The hypotheses of a completion: the operation is issued, not suspended, and its data has moved. -/
def completes (s : State) (o : MediaOp) : Bool :=
  (s.media.queue.find? fun x => x.id == o.id && x.issued && x.susp != 2 && !s.pieceLeft x) == some o
/-- An operation whose turn it is. -/
def turns (s : State) (o : MediaOp) : Bool :=
  found s o && o.susp != 2 && !o.issued && !s.servedBefore o && s.reserveCovers o
theorem wit_media : (mediated [] Group.empty).percolates = true ∧ (mediated [] Group.empty).contentReady 0 = true ∧
    (mediated [] Group.empty).unitRoom 0 = some 0 ∧ (mediated [] Group.empty).media.posted = [] ∧
    (let s := { mediated [] Group.empty with media := { (mediated [] Group.empty).media with posted := [op0 .program false] } }
     s.percolates = true ∧ s.unitRoom 0 = some 0 ∧ (s.media.posted.find? fun x => x.group == 0) = some (op0 .program false)) := by decide +kernel
theorem wit_media_issue :
    (let s := mediated [op0 .program false] Group.empty
     turns s (op0 .program false) = true ∧ s.busyOp 0 7 = none ∧ s.pieces (op0 .program false) = 0) ∧
    (let s := mediated [bulkOp false 0] Group.empty
     turns s (bulkOp false 0) = true ∧ s.busyOp 0 7 = none ∧ 0 < s.pieces (bulkOp false 0) ∧ 0 < s.pieceNs (bulkOp false 0)) ∧
    (let b := { bulkOp true 0 with id := 6, sent := 1 }
     let s := mediated [op0 .read false, b] Group.empty
     turns s (op0 .read false) = true ∧ s.busyOp 0 7 = some b) ∧
    (let s := mediated [bulkOp true 2] Group.empty
     found s (bulkOp true 2) = true ∧ s.busyOp 0 7 = none ∧ (s.chan 0).tCmd ≤ (s.chan 0).reserve) := by decide +kernel
theorem wit_media_ends : completes (mediated [op0 .program true] Group.empty) (op0 .program true) = true ∧ (op0 .program true).parity = false ∧
    (op0 .program true).area = .journal ∧ (op0 .program true).susp = 0 ∧
    completes (mediated [{ bulkOp true 1 with sent := 1 }] Group.empty) { bulkOp true 1 with sent := 1 } = true ∧
    completes (mediated [op0 .read true] Group.empty) (op0 .read true) = true ∧ (mediated [] Group.empty).zdp.backlog = [] ∧
    (let s := { mediated [] Group.empty with media := { (mediated [] Group.empty).media with luns := [(5, { journalLun with rebuilding := true })] } }
     (s.lun 5).rebuilding = true ∧ s.lunRefs 5 = [] ∧ s.media.queue = [] ∧ s.failing = false) := by decide +kernel
theorem test_unit_done : (match exec (.mediaOpComplete 7 (.done 0xE0) []) (mediated [op0 .program true] Group.empty) with
    | .next t => (t.perc.dirty, (t.group 0).blocks.map fun b => b.1, t.media.queue.length)
    | _ => (0, [], 9)) = (36, [3], 0) := by decide +kernel

-- ---------------------------------------------------------------- the Grinder

/-- Segment 0 stands in the group, closed: its header, and one lost place before a pad when `lost`. -/
def segmented (lost : Bool) : State := { mediated [] { Group.empty with
    seq := 1, used := [0], blocks := (if lost then [(2, plainB 0 [])] else []) ++ [(0, plainB 4 (zeros 64))] } with perc := planned.perc }
def bulkRec : BulkRec := ⟨4, 0, 1, 0, 1, false, [2 ^ 20 + 3], 0, 32, 0⟩
/-- A bulk record of retention class 1 (one hour) in the stripe 1, ten hours later; the stripe 2 is in use and empty. -/
def bulked : State :=
  let s := mediated [] Group.empty
  { s with
    obj := [(okey 0x0D41 1, [1#8])]
    ro := [(okey 0x0A30 3, 1048576)]
    timer := { s.timer with frame := 144000000 }
    media := { s.media with bulk := [bulkRec], bulkUsed := [1, 2], relocate := [.bulk 4], periods := [(0, 250000)] } }
def seg0 : Seg := ⟨0, 0, [plainB 4 (zeros 64)]⟩
theorem wit_grinder : (segmented false).grinds = true ∧ (segmented false).foldJob 0 = none ∧ ((segmented false).group 0).foldSeg = some seg0 ∧
    (segmented false).foldable 0 seg0 = true ∧ (segmented false).activeJob = none ∧ (segmented false).jobWaits (.fold 0 0) = false ∧
    ((segmented false).segUnits 0 0).length ≤ (segmented false).freeSlots .grinder ∧ (segmented false).segUnits 0 0 ≠ [] ∧
    (segmented false).scrubRef (.journal 0) 0 0 = .journal 0 0 ∧ (segmented false).refHeld (.journal 0 0) = true ∧ (segmented false).freeSlots .grinder ≠ 0 ∧
    (segmented false).jobWaits (.move (.journal 0 0)) = false ∧ (segmented false).media.queue = [] := by decide +kernel

/-- An image of the system area has been written for the fold of segment 0. -/
def sysOp : MediaOp := { op0 .program true with issuer := .grinder, area := .system }
def sysImg : SysImage := ⟨1, (segmented false).tables⟩
def folded : State :=
  let s := segmented false
  { s with media := { s.media with
      queue := [sysOp], sysOpen := some sysImg
      jobs := [{ mkJob 0 (.fold 0 0) with stage := .system, fold := some (1, 256, zeros 8) }] } }
/-- A scrub read is under way. -/
def scrubOp : MediaOp := { op0 .read true with issuer := .grinder, ref := some (.bulk 4), sent := 1, lun := 1 }
theorem wit_grinder_ends : folded.grinds = true ∧ completes folded sysOp = true ∧ sysOp.susp = 0 ∧ folded.media.sysOpen = some sysImg ∧
    (match folded.sysJob with
      | some j => decide (j.kind = .fold 0 0) && j.fold.isSome
      | none => false) = true ∧ folded.zdp.backlog = [] ∧
    (let s := { bulked with media := { bulked.media with queue := [scrubOp] } }
     s.grinds = true ∧ completes s scrubOp = true ∧ scrubOp.job = none ∧ (s.lun (s.refLun (.bulk 4))).rebuilding = false) ∧ tryStage .hard < 4 := by
  decide +kernel
theorem wit_relocation : FlashRef.bulk 4 ∈ bulked.media.relocate ∧ bulked.refLive (.bulk 4) = true ∧ bulked.moveJob (.bulk 4) = none ∧
    bulked.activeJob = none ∧ bulked.jobWaits (.move (.bulk 4)) = false ∧ bulked.freeSlots .grinder ≠ 0 ∧
    (segmented false).refLive (.journal 0 0) = true ∧ (segmented false).refLive (.bulk 4) = false ∧
    ({ bulked with media := { bulked.media with sysImages := [(0, sysImg)] } } : State).refLive .system = true ∧
    ({ segmented false with media := { (segmented false).media with
        groups := [(0, { (segmented false).group 0 with parity := [(0, [])] })] } } : State).refLive (.parity 0 0) = true := by decide +kernel
theorem wit_grinder_bulk : bulked.grinds = true ∧ bulked.expired 1 0 = true ∧ bulked.expired 0 0 = false ∧
    8 ≤ bulked.freeSlots .grinder ∧ bulked.erasable 0 true 2 = true ∧
    ((bulked.lun 1).uneven = true ∧ (bulked.lun 1).state = 1 ∧ bulked.leastWorn 1 = some 1) ∧
    bulked.upset clusterBase = .none ∧ sramAt clusterBase = true ∧ memOf 64 = 3 ∧ 64 < bulked.dramCap ∧ bulked.upset 64 = .none ∧
    bulked.poison.length < 64 ∧ (segmented false).jobLate 2 = true ∧ bulked.jobLate 2 = false := by decide +kernel
-- whether a word that gathers more wrong symbols than its code corrects is taken for another is the world's (log 11): either way a clause applies
theorem wit_scrub : wrongSymbols ⟨[]⟩ = 0 ∧ wrongSymbols ⟨[(3, 1)]⟩ ≤ symbolLimit clusterBase ∧ symbolLimit clusterBase < wrongSymbols ⟨[(0, 1), (1, 2), (2, 3)]⟩ ∧
    ∀ l : List (Nat × BitVec 8), Config.eccWrong 0 (zeros 32) l = none ∨ ∃ b, Config.eccWrong 0 (zeros 32) l = some b := by
  refine ⟨by decide, by decide, by decide, fun l => ?_⟩
  cases Config.eccWrong 0 (zeros 32) l with
  | none => exact .inl rfl
  | some b => exact .inr ⟨b, rfl⟩

-- ---------------------------------------------------------------- power loss

def staged (st : PfStage) : State := { planned with pf := { planned.pf with stage := st } }
def warned : State := { planned with carafe := { planned.carafe with armed := true, testDue := true } }
theorem wit_power_loss : planned.failing = false ∧ planned.barista.stage = .up ∧ warned.carafe.armed = true ∧ warned.belowWarn 0 = true ∧ dying.failing = true ∧
    (staged .t0).pf.stage = .t0 ∧ (staged .holdtestOff).pf.stage = .holdtestOff ∧ (staged .admissionOff).pf.stage = .admissionOff ∧
    (staged .coresOff).pf.stage = .coresOff ∧ ((staged .flushing).pf.stage = .flushing ∧ (staged .flushing).perc.sets = [] ∧
    (staged .flushing).media.queue = []) ∧ ((staged .flushed).pf.stage = .flushed ∧ (staged .flushed).pf.restart = false) ∧
    ({ planned with pf := { planned.pf with stage := .flushed, restart := true } } : State).pf.restart = true := by decide +kernel
/-- The journal's groups stand, after a start that has not recovered yet or in the flush. -/
def onMedia (fresh : Bool) (f : State → State) : State := f { mediated [] { Group.empty with fresh := fresh } with perc := planned.perc }
theorem wit_flush : (onMedia true id).recovering = true ∧ (onMedia false id).recovering = false ∧
    (let s := onMedia false fun s => { s with pf := { s.pf with stage := .flushing } }
     s.pf.stage = .flushing ∧ s.media.present = true ∧ s.useGroups ≠ [] ∧ s.perc.sets = [] ∧ s.media.posted = [] ∧ s.media.queue = []) := by decide +kernel
theorem wit_capacitance : (⟨1, 20⟩ : Frac).le (planned.codeVolts 1) = false ∧ (⟨1, 20⟩ : Frac).le (planned.codeVolts 60000) = true ∧
    planned.testStated = true := by decide +kernel
theorem wit_tests_and_recovery : (warned.timer.running = true ∧ warned.failing = false ∧ warned.carafe.testDue = true ∧ warned.carafe.testing = false ∧
    warned.carafe.cap = none) ∧ ({ warned with carafe := { warned.carafe with testing := true } } : State).carafe.testing = true ∧
    (segmented false).hasJournal = true ∧
    ({ segmented false with timer := { (segmented false).timer with armed := false } } : State).timer.armed = false ∧
    (segmented false).barista.stage = .up := by decide +kernel
theorem test_power_fail : (match exec .pfailAssert planned with
    | .next t => (t.pf.stage, t.pf.trigger)
    | _ => (.none, 0)) = (.t0, 1) ∧ (match exec .safeAssert (staged .flushed) with
    | .next t => (t.barista.safe, t.mem.length)
    | _ => (false, 1)) = (true, 0) := by decide +kernel

-- ---------------------------------------------------------------- Barista

def boots (pfail good : Bool) : BootFacts := ⟨pfail, (good, good), (good, good), false, [], [], [], [], (⟨0, 0, 0, 0⟩, ⟨0, 0, 0, 0⟩), 5⟩
def sampled : SensorFacts := ⟨[250, 1160], [], 12000, 10, BitVec.ofNat 112 (2 ^ 112 - 1)⟩
def avsing (mv : Nat) : State := { planned with ro := [(okey 0x1301 1, 1)], power := { planned.power with avsMv := mv } }
def logged : State := planned.logEvent 0x0201 2 []
theorem wit_barista : planned.firmwareUp = true ∧ (planned.barista.slot planned.barista.running).state ≠ 3 ∧
    ({ planned with barista := { planned.barista with slotA := { planned.barista.slotA with state := 3 } } } : State).barista.slotA.state = 3 ∧
    planned.barista.running = 0 ∧ (∃ x ∈ sampled.temps, planned.critLimit ≤ x) ∧ (∃ x ∈ sampled.temps, 1150 ≤ x) ∧
    ({ planned with power := { planned.power with dom := [(0, 2), (90, 2)], good := -1 } } : State).domain 0 = 2 ∧
    ({ planned with power := { planned.power with dom := [(0, 2), (90, 2)], good := -1 } } : State).power.good.getLsbD 90 = true ∧
    0 < planned.nl ∧ natBit (planned.objNat (okey 0x1030 1) (2 ^ 64 - 1)) 0 = true ∧ (planned.lcore 0).carrier = some 0 ∧ dying.failing = true ∧
    (let s := { mediated [] Group.empty with log := logged.log }
     s.media.present = true ∧ s.failing = false ∧ s.log.unmirrored s.log.nand ≠ [] ∧ s.freeSlots .barista ≠ 0 ∧ s.media.queue = [] ∧
     s.sysTarget (s.log.nextSeq / 128) = some 0) ∧
    planned.testStated = true ∧ ((planned.codeVolts sampled.bankCode.toNat).mul ⟨1000, 1⟩).floor < 2 ^ 32 ∧ logged.barista.stage ≠ .reset ∧ logged.pf.stage ≠ .safe ∧
    ((logged.log.unmirrored logged.log.nor).find? fun e => decide (logged.objNat (okey 0x1010 7) 2 ≤ leField e.2 14 1)).isSome = true := by decide +kernel
/-- A block of the log is being programmed. -/
def logEntry : List Byte := patch (zeros 32) 8 (leBytes 4 3)
def logOp : MediaOp := { op0 .program true with issuer := .barista, area := .system, data := logEntry }
theorem wit_log_block : completes (mediated [logOp] Group.empty) logOp = true ∧ logOp.susp = 0 ∧ logOp.data = [(3, logEntry)].flatMap Prod.snd ∧
    logEntry.length = 32 ∧ 3 = leField logEntry 8 4 := by decide +kernel
theorem wit_boot : State.reset.barista.stage = .reset ∧ ((State.reset.logKept (boots false false)).chooseSlot (boots false false)).2 = none ∧
    ((State.reset.logKept (boots true true)).chooseSlot (boots true true)).2 = some 0 ∧ ((State.reset.logKept (boots false true)).chooseSlot (boots false true)).2 = some 0 ∧
    (boots false true).deadDomains = [] ∧
    ({ planned with barista := { planned.barista with stage := .waitPfail, bootFacts := some (boots true true) } } : State).barista.bootFacts =
      some (boots true true) := by decide +kernel
theorem wit_avs : (avsing 0).avsOn = true ∧ (avsing 800).avsOn = true ∧ (avsing 800).power.avsFaulted = false ∧ (avsing 800).power.avsMv = max 700 (min 850 800) ∧
    (avsing 800).power.avsMv ≠ 0 := by decide +kernel
theorem test_avs : (match exec (.avsUpdate 900) (avsing 800) with
    | .next t => t.power.avsMv
    | _ => 0) = 805 ∧ (match exec (.boot (boots true true)) State.reset with
    | .next t => t.barista.stage
    | _ => .up) = .waitPfail := by decide +kernel

-- ---------------------------------------------------------------- writes of objects

/-- The plan runs on media, with a program image in 0x2001 and one session of ring 0 on the field port. -/
def client : Client := .udp true 0xFFFF0A000009 5000
def session0 : Session := ⟨5, client, 0, zeros 16, zeros 16, zeros 32, true, 3, false, [], none⟩
def sessioned (l : List Session) : State :=
  let s := mediated [] Group.empty
  { s with zdp := { s.zdp with sessions := l }, domains := [(0x2000, imageDom), (0x2001, imageDom)] }
def withShadow (st : Nat) (d : List Byte) : State := { sessioned [session0] with plans := { planned.plans with shadow := d, shadowState := st } }
def withSlots (a b : Nat) : State := { sessioned [session0] with
  barista := { planned.barista with slotA := { planned.barista.slotA with state := a }, slotB := { planned.barista.slotB with state := b } } }

/-- A plan DOMAIN that the checker admits: one task on one logical core, no class, no media units. -/
def fullPlan (crcv : Nat) : List Byte :=
  let d := leBytes 4 0x5458504C ++ leBytes 2 1 ++ leBytes 2 128 ++ leBytes 4 960 ++ leBytes 4 crcv ++ leBytes 4 7 ++ leBytes 4 250000 ++ leBytes 2 1 ++
    [1#8, 0#8, 0#8, 32#8] ++ leBytes 2 50 ++ leBytes 2 0 ++ [0#8, 1#8] ++ leBytes 4 0 ++ leBytes 4 0 ++ leBytes 4 128 ++ leBytes 4 448 ++ leBytes 4 448 ++
    leBytes 4 0 ++ zeros 68
  let t := leBytes 4 1 ++ leBytes 2 0x2001 ++ [1#8, 0#8] ++ leBytes 4 0 ++ leBytes 4 0 ++ leBytes 4 100000 ++ leBytes 4 1000 ++ leBytes 8 0 ++ zeros 288
  d ++ t ++ (natRange 0 32).flatMap fun n => BitVec.ofNat 8 n :: zeros 15
/-- A program image of eight bytes. -/
def fullImage (crcv : Nat) : List Byte :=
  leBytes 4 0x54585047 ++ leBytes 2 1 ++ leBytes 2 32 ++ leBytes 4 40 ++ leBytes 4 crcv ++ [1#8, 0#8, 0#8, 0#8] ++ leBytes 4 0x4000 ++ leBytes 4 0x10000 ++
    leBytes 4 0x8000 ++ zeros 8

/-- The outcome of the checks that session 5's write of a value meets: 1 accepted, 2 accepted and answered later, 0 anything else (the hypotheses of
`judges`). -/
def judged (s : State) (i sub : Nat) (v : List Byte) : Nat :=
  match s.session 5 with
  | some x =>
    if s.zdp.store.isNone && s.served && !s.failing && !s.inTransfer 5 (okey i sub) then match s.mayWrite x.ring i sub with
      | .inl r => match s.judgeValue i sub (s.winOf i sub) r v with
        | .ok _ => 1
        | .wait _ => 2
        | _ => 0
      | _ => 0
    else 0
  | none => 0
def okWrite (s : State) (i sub : Nat) (v : List Byte) : Bool := judged s i sub v == 1
/-- A user image that the loader admits: `userImage` with its header and parity. -/
def fullUser (crcv : Nat) : List Byte :=
  patch (userImage 5) 0 (leBytes 4 0x54585543 ++ leBytes 2 1 ++ leBytes 2 64 ++ leBytes 4 344 ++ leBytes 4 crcv) |>
    (patch · 328 [1#8, 0#8, 0#8, 16#8, 0#8, 0#8, 0#8, 1#8, 0#8, 3#8, 16#8])

def sPlan : List Byte := fullPlan 2843115658
def partnerConfig : List Byte := patch (zeros 34) 33 [1#8]
-- the whole plan DOMAIN and the whole user image go through their checkers: long evaluations, one theorem each
set_option maxRecDepth 100000 in
theorem wit_shadow_write : okWrite (sessioned [session0]) 0x0411 1 sPlan = true := by decide +kernel
set_option maxRecDepth 100000 in
theorem wit_plan_commit : okWrite (withShadow 1 sPlan) 0x0412 1 [1#8] = true := by decide +kernel
set_option maxRecDepth 100000 in
theorem wit_user_image : judged (sessioned [session0]) 0x1400 2 (fullUser 2298679702) = 2 := by decide +kernel
theorem wit_object_writes : okWrite (withShadow 1 sPlan) 0x0412 1 [2#8] = true ∧ okWrite (sessioned [session0]) 0x0900 3 partnerConfig = true ∧
    ((sessioned [session0]).partner ((sessioned [session0]).winOf 0x0900 3)).en = false ∧ (Partner.ofBytes (partnerConfig ++ zeros 30)).en = true ∧
    okWrite (sessioned [session0]) 0x0900 2 (partnerConfig ++ zeros 30) = true ∧ okWrite (sessioned [session0]) 0x0A00 2 (zeros 32) = true ∧
    okWrite (sessioned [session0]) 0x0A00 4 [1#8] = true ∧ okWrite (sessioned [session0]) 0x0C00 2 [1#8] = true ∧
    okWrite (sessioned [session0]) 0x0210 1 [1#8] = true ∧ okWrite (sessioned [session0]) 0x0213 2 [1#8] = true ∧
    okWrite (sessioned [session0]) 0x0D60 6 [1#8] = true ∧ judged (sessioned [session0]) 0x0E01 4 (zeros 20) = 2 ∧
    okWrite (sessioned [session0]) 0x0E01 5 [1#8] = true ∧ okWrite (sessioned [session0]) 0x2002 1 (fullImage 814431247) = true ∧
    okWrite (sessioned [session0]) 0x2FFF 2 (zeros 208) = true ∧ okWrite (sessioned [session0]) 0x4000 1 [1#8, 2#8] = true := by decide +kernel
theorem wit_more_object_writes : okWrite (sessioned [session0]) 0x1400 6 [4#8, 0#8] = true ∧ okWrite (sessioned [session0]) 0x1020 2 [1#8] = true ∧
    okWrite (withSlots 1 2) 0x1100 8 [1#8] = true ∧ okWrite (withSlots 3 0) 0x1100 8 [2#8] = true ∧ (withSlots 3 0).barista.counter.length < 128 ∧
    okWrite (withSlots 1 3) 0x1100 8 [3#8] = true ∧ okWrite (sessioned [session0]) 0x1200 8 [60#8] = true ∧
    okWrite (sessioned [session0]) 0x1200 11 [1#8, 0#8] = true ∧ ((sessioned [session0]).lun 1).role = 2 ∧ ((sessioned [session0]).lun 1).state ≠ 3 ∧
    okWrite { sessioned [session0] with obj := [(okey 0x1300 1, [101#8]), (okey 0x0210 1, [4#8])] } 0x1300 3 [1#8] = true ∧
    okWrite (sessioned [session0]) 0x1030 2 (leBytes 8 1) = true ∧ okWrite (sessioned [session0]) 0x1030 3 (leBytes 8 1) = true ∧
    okWrite (sessioned [session0]) 0x0208 1 (zeros 32) = true ∧ okWrite (sessioned [session0]) 0x0208 4 (zeros 32) = true := by decide +kernel
/-- The store of an image, or the load of a user image, waits. -/
def waited (i sub : Nat) : State :=
  let s := sessioned [session0]
  { s with
    zdp := { s.zdp with store := some ⟨5, [], i, sub, 0, []⟩ }
    micro := { s.micro with loading := some [], loadStage := 0 }
    egress := { s.egress with images := [{ num := 0, version := 1, length := 20, blocks := [], todo := [], left := [7], current := false }] } }
theorem wit_waited : (waited 0x0E01 4).zdp.store = some ⟨5, [], 0x0E01, 4, 0, []⟩ ∧ (waited 0x0E01 4).winOf 0x0E01 4 = 0 ∧
    (((waited 0x0E01 4).egress.images.find? fun y => y.left.contains 7).map fun x => (x.todo, x.left)) = some ([], [7]) ∧
    (waited 0x1400 2).micro.loading = some [] ∧ (waited 0x1400 2).micro.loadStage = 0 ∧ (waited 0x1400 2).winOf 0x1400 2 = 0 := by decide +kernel
theorem wit_key_partner :
    let s := { sessioned [session0] with adm := { (sessioned [session0]).adm with partners := [(1, { Partner.zero with flags := 2 })] } }
    (s.partner 1).names 0 = true ∧ judged s 0x0A00 2 (zeros 32) = 1 := by decide +kernel
theorem wit_user_image_loaded :
    let m := { planned.micro with loading := some [], loadStage := 1 }
    ({ planned with micro := m } : State).micro.loading.isSome = true ∧ m.loadStage = 1 := by decide +kernel

/-- An update image of version 2 in the right format. -/
def updateImg : List Byte :=
  leBytes 4 0x54584257 ++ leBytes 2 1 ++ leBytes 2 64 ++ leBytes 4 4096 ++ leBytes 4 2 ++ leBytes 8 0 ++ leBytes 4 0 ++ zeros 4068
-- whether the image is signed is a figure of the world (log 17): with a good signature the write is accepted
def updateRow : ORow := (rWO 0x1100 1 (.domain 8388608))
theorem update_rule (h : Config.firmwareSigned updateImg = true) :
    (withSlots 1 0).writeUpdate updateImg = .ok (((withSlots 1 0).roSet (okey 0x1100 9) 0).slotTo 1 ⟨2, 2, 0, 0, updateImg⟩) := by
  have h1 : ((withSlots 1 0).barista.slot (withSlots 1 0).barista.running).state ≠ 3 := by decide +kernel
  have h2 : updateFormat updateImg = true := by decide +kernel
  have h3 : allZero (sliceZ updateImg 28 36) = true := by decide +kernel
  have h5 : leField updateImg 12 4 = 2 ∧ leField updateImg 16 8 = 0 := by decide +kernel
  simp only [State.writeUpdate, h1, h2, h3, h, h5, if_false, not_true_eq_false]
  rfl
theorem judge_update (s : State) (win : Nat) (v : List Byte) (h : typeAbort 0x1100 updateRow.ty v = none) :
    s.judgeValue 0x1100 1 win updateRow v = s.writeUpdate v := by
  rw [State.judgeValue, if_neg (by decide), h]
  rfl
theorem wit_update_image (h : Config.firmwareSigned updateImg = true) : ∃ r u, (withSlots 1 0).accepts 0x1100 1 ⟨5, updateImg⟩ r u := by
  refine ⟨updateRow, ((withSlots 1 0).roSet (okey 0x1100 9) 0).slotTo 1 ⟨2, 2, 0, 0, updateImg⟩, session0, by decide +kernel, by decide +kernel, by decide +kernel, by decide +kernel, by decide +kernel, by decide +kernel, ?_⟩
  exact (judge_update _ _ _ (by decide +kernel)).trans (update_rule h)

-- ---------------------------------------------------------------- the dictionary protocol

/-- The CAN FD channel serves the protocol; `l` are its sessions. -/
def onCan (l : List Session) : State := { sessioned l with
  ro := [(okey 0x0206 1, 9), (okey 0x0206 4, 1), (okey 0x0206 5, 1)] }
def canSession (tr : Option Transfer) : Session := { session0 with client := .can, transfer := tr }
/-- A request of session 5 under its key. -/
def request (cmd index sub off len total : Nat) (data : List Byte) : ZdpMsg :=
  let b := zdpHeader cmd 0 5 4 (256 * index + sub) off len total 0 ++ data
  { src := .can, bytes := b ++ zdpTag (zeros 32) b }
/-- The hypotheses of `inOrder`. -/
def inOrderB (s : State) (m : ZdpMsg) (x : Session) (cmd : Nat) : Bool :=
  decide (mCmd m.bytes = cmd ∧ s.reaches m = true ∧ s.zdp.store = none ∧ s.zdp.backlog = [] ∧ msgGood m.bytes = true ∧ headReserved m.bytes = false ∧
    s.session (mSid m.bytes) = some x ∧ x.client = m.src ∧ tagGood x.key m.bytes = true ∧ x.lastSeq < mSeq m.bytes ∧ x.busy = false)
def idle : Session := canSession none
def moving : Session := canSession (some ⟨okey 0x2002 1, 40, zeros 8⟩)
/-- The row and the outcome of steps 1 to 3, and whether the value then passes. -/
def rowOf? (s : State) (x : Session) (i sub : Nat) (v : List Byte) : Option (Bool × Bool) :=
  match (s.setSession { x with lastSeq := 4 }).canWrite { x with lastSeq := 4 } i sub with
  | .inl r => match (s.setSession { x with lastSeq := 4 }).judgeValue i sub (s.winOf i sub) r v with
    | .ok _ => some (r.pers, true)
    | _ => some (r.pers, false)
  | .inr _ => none
theorem wit_zdp_orders : inOrderB (onCan [idle]) (request 3 0 0 0 0 0 []) idle 3 = true ∧ inOrderB (onCan [idle]) (request 4 0 0 0 0 0 []) idle 4 = true ∧
    inOrderB (onCan [idle]) (request 0x77 0 0 0 0 0 []) idle 0x77 = true ∧ knownCommand 0x77 = false ∧
    inOrderB (onCan [moving]) (request 0x13 0 0 0 0 0 []) moving 0x13 = true ∧ moving.transfer ≠ none := by decide +kernel
theorem wit_zdp_values : inOrderB (onCan [idle]) (request 0x10 0x0200 1 0 4 0 []) idle 0x10 = true ∧ (match (onCan [idle]).findObject 0x0200 1 with
      | .inl r => decide (r.acc ≠ .wo ∧ idle.ring ≤ r.rr ∧ 0 ≤ ((onCan [idle]).readObject 0x0200 1 r).length)
      | _ => false) = true ∧ vendor 0x0200 = false ∧
    inOrderB (onCan [idle]) (request 0x11 0x0A00 1 0 2 2 [7#8, 0#8]) idle 0x11 = true ∧ rowOf? (onCan [idle]) idle 0x0A00 1 [7#8, 0#8] = some (false, true) ∧
    inOrderB (onCan [idle]) (request 0x11 0x4000 1 0 2 2 [7#8, 0#8]) idle 0x11 = true ∧ rowOf? (onCan [idle]) idle 0x4000 1 [7#8, 0#8] = some (true, true) ∧
    (onCan [idle]).failing = false := by decide +kernel
theorem wit_zdp_segments : inOrderB (onCan [idle]) (request 0x12 0x2002 1 0 8 40 (zeros 8)) idle 0x12 = true ∧ idle.transfer = none ∧
    (match (onCan [idle]).canWrite idle 0x2002 1 with
      | .inl r => decide (40 ≤ r.ty.max)
      | _ => false) = true ∧
    inOrderB (onCan [moving]) (request 0x12 0x2002 1 8 8 40 (zeros 8)) moving 0x12 = true ∧
    moving.transfer = some ⟨okey 0x2002 1, 40, zeros 8⟩ ∧ (match (onCan [moving]).findObject 0x2002 1 with | .inl _ => true | _ => false) = true := by decide +kernel

/-- An OPEN of ring 0, and a PROVE of the session that it made, with the right proof or another one. -/
def openMsg : ZdpMsg := { src := .can, bytes := zdpHeader 1 0 0 0 0 0 20 20 0 ++ zeros 20 ++ zeros 16 }
def halfOpen : Session := { canSession none with isOpen := false, key := [], lastSeq := 0 }
def proveMsg (good : Bool) : ZdpMsg :=
  let b := zdpHeader 2 0 5 1 0 0 32 32 0 ++ (if good then proofOf "ZDP-P" (zeros 32) 5 (zeros 16) (zeros 16) else zeros 32)
  { src := .can, bytes := b ++ zdpTag (proofOf "ZDP-K" (zeros 32) 5 (zeros 16) (zeros 16)) b }
theorem wit_zdp_open : mCmd openMsg.bytes = 1 ∧ (onCan []).canReaches = true ∧ msgGood openMsg.bytes = true ∧ headReserved openMsg.bytes = false ∧
    clientSource .can ∉ (onCan []).zdp.locked ∧ (mData openMsg.bytes).length = 20 ∧ allZero (sliceZ (mData openMsg.bytes) 1 3) = true ∧
    beField (mData openMsg.bytes) 0 1 = 0 ∧ (onCan []).barista.stage ≠ .rescue ∧ (onCan []).tableFull .can = false ∧ (onCan []).zdp.store = none := by
  decide +kernel
theorem wit_zdp_prove :
    let s := onCan [halfOpen]
    let b := (proveMsg true).bytes
    mCmd b = 2 ∧ msgGood b = true ∧ headReserved b = false ∧ (s.zdp.sessions.find? fun z => z.sid == mSid b && !z.isOpen && z.client == .can) = some halfOpen ∧
    halfOpen.lastSeq < mSeq b ∧ mData b = proofOf "ZDP-P" (s.credential 0) 5 (zeros 16) (zeros 16) ∧
    tagGood (proofOf "ZDP-K" (s.credential 0) 5 (zeros 16) (zeros 16)) b = true := by decide +kernel
theorem wit_zdp_prove_bad : (mData (proveMsg false).bytes) ≠ proofOf "ZDP-P" ((onCan [halfOpen]).credential 0) 5 (zeros 16) (zeros 16) ∧
    msgGood (proveMsg false).bytes = true ∧ headReserved (proveMsg false).bytes = false ∧ mCmd (proveMsg false).bytes = 2 := by decide +kernel
def storing : State := { onCan [{ idle with busy := true }] with zdp := { (onCan [{ idle with busy := true }]).zdp with
  store := some ⟨5, (request 0x11 0x4000 1 0 2 2 [7#8, 0#8]).bytes.take 32, 0x4000, 1, 0, [7#8, 0#8]⟩ } }
def otherMsg : ZdpMsg := { src := .can, bytes := zdpHeader 0x10 0 9 4 (256 * 0x0200 + 1) 0 4 0 0 }
theorem wit_zdp_waits : storing.reaches otherMsg = true ∧ mSid otherMsg.bytes ≠ 5 ∧ mCmd otherMsg.bytes = 0x10 ∧
    storing.zdp.store.map PendStore.byRule = some false ∧
    ({ storing with pf := { storing.pf with stage := .t0 } } : State).failing = true := by decide +kernel
theorem wit_zdp_events : (onCan [moving]).anySession 5 = some moving ∧ moving.busy = false ∧ storing.zdp.backlog = [] ∧
    storing.zdp.store.isSome = true ∧ storing.failing = false ∧ (match storing.findObject 0x4000 1 with | .inl _ => true | _ => false) = true := by decide +kernel

/-- A CAN FD frame for node 9, and a channel that has reassembled one frame. -/
def frame (h : Byte) : CanFrame := ⟨0x5C9, [h, 1#8, 2#8]⟩
def partly : State := { onCan [] with zdp := { (onCan []).zdp with can := some (1, [9#8]) } }
theorem wit_can : (frame 0x80).ident.toNat = 0x5C0 + (onCan []).canNode ∧ (onCan []).canReaches = true ∧ (0x80#8 : Byte).getLsbD 7 = true ∧
    (0x80#8 : Byte).getLsbD 6 = false ∧ (0xC0#8 : Byte).getLsbD 6 = true ∧ partly.zdp.can = some (1, [9#8]) ∧ (0x01#8 : Byte).toNat % 64 = 1 ∧
    (0x01#8 : Byte).getLsbD 7 = false ∧ (0x41#8 : Byte).getLsbD 6 = true ∧ partly.zdp.can ≠ none ∧ (onCan []).roGet (okey 0x0206 5) = 1 ∧
    ({ onCan [] with ro := [(okey 0x0206 5, 3)] } : State).roGet (okey 0x0206 5) = 3 := by decide +kernel
theorem test_can_frame : (match exec (.canFdFrame (frame 0x01)) partly with
    | .next t => t.zdp.can
    | _ => none) = some (2, [9#8, 1#8, 2#8]) := by decide +kernel

-- ---------------------------------------------------------------- JTAG, frames and invariants

def debugged : State := { planned with jtag := { planned.jtag with debug := true } }
theorem wit_jtag : ({ planned with barista := { planned.barista with safe := true } } : State).barista.safe = true ∧
    ({ planned with barista := { planned.barista with safe := false } } : State).barista.safe = false ∧ debugged.jtag.debug = true ∧
    (debugged.lcore 0).carrier = some 0 ∧ (debugged.lcore 1).carrier = none ∧ planned.jtag.debug = false ∧
    (match exec (.extest [true] []) { planned with barista := { planned.barista with safe := true } } with | .next _ => true | _ => false) = true := by decide +kernel
theorem test_breakpoint : (match exec (.breakpointSet 0 2 true 0x40) debugged with
    | .next t => ((t.core 0).brkSel, (t.core 0).brks, t.jtag.sel)
    | _ => (9, [], 0)) = (2, [(2, ⟨true, 0x40⟩)], 0x40#8) := by decide +kernel
/-- An undefined case: the loop that ends at 0 starts after it, or a branch stands at a loop's end; and a context above ring 0 meets one. -/
def looping (ls : Word) : State := ready [(0x004, ls), (0x008, 0#32), (0x00C, 2#32)] []
theorem wit_undefined : runs (looping 8#32) 0 (.mov 0 0 3 1) 0 false = true ∧
    (looping 8#32).endsWell (((looping 8#32).fetched 0).setCore 0 (((looping 8#32).coreOf 0).setReg 3 (((looping 8#32).coreOf 0).reg 1))) 0 false = false ∧
    runs (looping 0#32) 0 (.br 0 0 4) 0 false = true ∧ ((looping 0#32).coreOf 0).loopEndAt ((looping 0#32).pcOf 0) = true ∧
    (user.core 0).ring ≠ 0 ∧ srReadOnly 0x040 = false ∧ srWriteRing 0x040 < (user.core 0).ring ∧ user.plain 64 = true ∧
    ((user.core 0).openDescs.flatMap (user.openPages 0)).contains 64 = false := by decide +kernel
theorem wit_register_frame : registerCore (.add 0 0 1 2 3) = some 0 ∧ (((ready [] []).due 0).core 0).badLoop ((ready [] []).pcOf 0) = false ∧
    ((ready [] []).core 0).touchHeld = [] ∧ (0xFFFF#17).getLsbD 16 = false ∧ runs (ready [] []) 0 (.add 0 0 1 2 3) 0 false = true ∧
    (match exec (.add 0 0 1 2 3) (ready [] []) with
      | .next _ => true
      | _ => false) = true := by decide +kernel
theorem wit_memory_canonical : Memory.wf mem.mem = true ∧ (match step { mem with pending := [.stw 0 0 3 1 0 0] } with
    | .next t => decide (t.core 0 ≠ mem.core 0)
    | _ => false) = true := by decide +kernel
theorem wit_decode_encode : (Instr.add 0 0 1 2 3).at? = some (0, 0) ∧ (Instr.add 0 0 1 2 3).encodable = true ∧
    (encodeWord (.add 0 0 1 2 3)).isSome = true := by decide +kernel

end Sys2Proof.Tests
end

section
/-!
PROOF. What an undefined case leaves as it is (R7, R8), and the undefined cases of the hardware loops (R297).
-/

namespace Sys2Proof.Machine

-- ---------------------------------------------------------------- the device's own facts (R8)

/-- The part of R8 that no context and no session reaches: the fuses, the OTP, the anti-rollback counter, Barista's stage and the event log of `s`
stand in `t`. -/
def State.Protects (s t : State) : Prop :=
  t.repair.fuses = s.repair.fuses ∧ t.barista.otp = s.barista.otp ∧ t.barista.counter = s.barista.counter ∧ t.barista.stage = s.barista.stage ∧
    t.log = s.log

theorem State.Protects.refl (s : State) : s.Protects s := ⟨rfl, rfl, rfl, rfl, rfl⟩

theorem State.Protects.trans {s t u : State} (h : s.Protects t) (g : t.Protects u) : s.Protects u := by
  obtain ⟨hf, ho, hc, hs, hl⟩ := h
  obtain ⟨gf, go, gc, gs, gl⟩ := g
  exact ⟨gf.trans hf, go.trans ho, gc.trans hc, gs.trans hs, gl.trans hl⟩

/-- A sequence of updates protects what each of them protects. -/
theorem State.Protects.foldl {α : Type} {f : State → α → State} (h : ∀ (t : State) (x : α), t.Protects (f t x)) (l : List α) (s : State) :
    s.Protects (l.foldl f s) :=
  List.foldlRecOn l f (.refl s) fun t ht x _ => ht.trans (h t x)

-- ---------------------------------------------------------------- an undefined case of the dictionary

/-- What a session holds in configuration, partners and keys, persistent copies and program images is no part of what R8 protects. -/
theorem holdings_protects (s : State) (obj nor domains : Tab (List Byte)) (adm : Admission) :
    s.Protects { s with obj := obj, nor := nor, domains := domains, adm := adm } := ⟨rfl, rfl, rfl, rfl, rfl⟩

theorem holdValue_protects (s : State) (key : Nat) (v : List Byte) (pers : Bool) : s.Protects (s.holdValue key v pers) :=
  holdings_protects s _ _ s.domains s.adm

theorem setPartner_protects (s : State) (n : Nat) (p : Partner) : s.Protects (s.setPartner n p) := ⟨rfl, rfl, rfl, rfl, rfl⟩

theorem setDomain_protects (s : State) (d v : Nat) : s.Protects (s.setDomain d v) := by
  unfold State.setDomain
  split
  · exact .refl s
  · exact ⟨rfl, rfl, rfl, rfl, rfl⟩

theorem havocValues_protects (s : State) (ring u : Nat) : s.Protects (s.havocValues ring u) :=
  .foldl (fun _ _ => .foldl (fun _ _ => holdValue_protects ..) _ _) _ s

theorem havocPartners_protects (s : State) (u : Nat) : s.Protects (s.havocPartners u) :=
  .foldl (fun t n => .trans (setPartner_protects t n _) (holdings_protects ..)) _ s

theorem havocKeySlots_protects (s : State) (u : Nat) : s.Protects (s.havocKeySlots u) :=
  .trans (.foldl (fun t _ => holdings_protects t t.obj _ t.domains _) _ s) (.foldl (fun _ _ => holdValue_protects ..) _ _)

theorem havocImages_protects (s : State) (u : Nat) : s.Protects (s.havocImages u) :=
  .foldl (fun t _ => holdings_protects t t.obj t.nor _ t.adm) _ s

/-- The firmware slot that is not running is all of Barista that write-only objects reach. -/
theorem havocCommands_protects (s : State) (u : Nat) : s.Protects (s.havocCommands u) := by
  refine .trans (.trans ?objects (.foldl ?domains _ _)) (.foldl ?interrupts _ _)
  case objects =>
    dsimp only [State.Protects]
    split <;> exact ⟨rfl, rfl, rfl, rfl, rfl⟩
  case domains =>
    intro t p
    dsimp only
    split
    · exact setDomain_protects ..
    · exact .refl t
  case interrupts => exact fun _ _ => ⟨rfl, rfl, rfl, rfl, rfl⟩

theorem havocLun_protects (s : State) (n u : Nat) : s.Protects (s.havocLun n u) := ⟨rfl, rfl, rfl, rfl, rfl⟩

/-- R8 for an undefined case that a session meets, in every ring. -/
theorem havocObjects_protects (s : State) (ring : Nat) : s.Protects (s.havocObjects ring) := by
  have hv := havocValues_protects { s with freeCtr := s.freeCtr + 1 } ring s.freeCtr
  unfold State.havocObjects
  dsimp only
  split
  · exact hv
  · refine .trans hv (.trans (.trans (.trans (.trans (havocPartners_protects ..) (havocKeySlots_protects ..)) (havocImages_protects ..))
      (havocCommands_protects ..)) (.foldl ?_ _ _))
    intro t n
    split
    · exact havocLun_protects ..
    · exact .refl t

-- ---------------------------------------------------------------- the special registers of a core in an undefined case

theorem Core.srGet_congr {k q : Core} (h : q.sr = k.sr) (n : Nat) : q.srGet n = k.srGet n := by
  unfold Core.srGet
  rw [h]

theorem Core.freeBank_sr (k : Core) (u b : Nat) : (k.freeBank u b).sr = k.sr :=
  List.foldlRecOn (motive := fun a : Core => a.sr = k.sr) _ _ rfl fun _ h _ _ => h

theorem Core.spend_sr (k : Core) (n : Nat) : (k.spend n).sr = k.sr := by
  unfold Core.spend
  split <;> rfl

theorem Core.charge_sr (k : Core) (n : Nat) : (k.charge n).sr = k.sr := by
  unfold Core.charge
  dsimp only
  split
  · exact Core.spend_sr ..
  · split
    · exact Core.spend_sr ..
    · rfl

/-- Setting registers leaves every register that is not among them. -/
theorem Core.srGet_foldl_srSet (f : Core → Nat → Word) (l : List Nat) (k : Core) {n : Nat} (h : n ∉ l) :
    (l.foldl (fun a m => a.srSet m (f a m)) k).srGet n = k.srGet n :=
  List.foldlRecOn (motive := fun a : Core => a.srGet n = k.srGet n) _ _ rfl fun a ha _ hm =>
    (Core.srGet_srSet_ne a _ (ne_of_mem_of_not_mem hm h).symm).trans ha

theorem Core.ring_le (k : Core) : k.ring ≤ 3 := by
  have := (k.stat.extractLsb' 28 2).isLt
  unfold Core.ring
  omega

/-- STAT after the undefined case `u`: the fields that the ring may write take any value (R283). -/
def Core.freeStat (k : Core) (u : Nat) : Word :=
  (k.stat &&& ~~~ statWritable k.ring) ||| (undefinedWord u 0x1000 &&& statWritable k.ring)

/-- STAT.RING is no field that a ring above 0 may write. -/
theorem Core.freeStat_ring (k : Core) (u : Nat) (h : k.ring ≠ 0) : (k.freeStat u).extractLsb' 28 2 = k.stat.extractLsb' 28 2 := by
  have fixed : ∀ a b : Word, ((a &&& ~~~ 0x00B00FE0#32) ||| (b &&& 0x00B00FE0#32)).extractLsb' 28 2 = a.extractLsb' 28 2 := by
    intro a b
    ext i hi
    obtain rfl | rfl : i = 0 ∨ i = 1 := by omega
    · simp
    · simp
  unfold Core.freeStat statWritable
  rw [if_neg h]
  exact fixed ..

/-- The special registers of a core above ring 0 after an undefined case: the ones its ring may write, STAT and PRED are set. -/
theorem Core.havoc_sr (k : Core) (u : Nat) (h : k.ring ≠ 0) :
    (k.havoc u).sr = (((((natRange 0 0x140).filter (srFree k.ring)).foldl (fun a n =>
      a.srSet n (undefinedWord u (0x1000 + n) &&& srHeld n &&& ~~~ srReserved n)) (k.freeBank u k.bank)).srSet 0 (k.freeStat u)).srSet 1
        ((undefinedWord u 0x1001 &&& 0xFE#32) ||| 1#32)).sr := by
  simp only [Core.havoc, h, if_false]
  rfl

/-- A context above ring 0 keeps every special register but STAT that its ring may not write. -/
theorem Core.havoc_srGet (k : Core) (u : Nat) {n : Nat} (h0 : n ≠ 0) (hw : srWriteRing n < k.ring) : (k.havoc u).srGet n = k.srGet n := by
  have h1 : n ≠ 1 := by
    rintro rfl
    have h3 : srWriteRing 1 = 3 := rfl
    have := k.ring_le
    omega
  have hf : n ∉ (natRange 0 0x140).filter (srFree k.ring) := by
    simp [srFree, Nat.not_le.mpr hw]
  rw [Core.srGet_congr (k.havoc_sr u (by omega)), Core.srGet_srSet_ne _ _ h1, Core.srGet_srSet_ne _ _ h0,
    Core.srGet_foldl_srSet _ _ _ hf, Core.srGet_congr (k.freeBank_sr ..)]

/-- A context above ring 0 keeps its ring. -/
theorem Core.havoc_ring (k : Core) (u : Nat) (h : k.ring ≠ 0) : (k.havoc u).ring = k.ring := by
  have hs : (k.havoc u).stat = k.freeStat u := by
    unfold Core.stat
    rw [Core.srGet_congr (k.havoc_sr u h), Core.srGet_srSet_ne _ _ (by decide), Core.srGet_srSet]
  unfold Core.ring
  rw [hs, Core.freeStat_ring k u h]

-- ---------------------------------------------------------------- keys and memory in an undefined case

@[simp] theorem undefinedBytes_length (u i n : Nat) : (undefinedBytes u i n).length = n := by
  induction n generalizing i with
  | zero => rfl
  | succ n ih => simp [undefinedBytes, ih]

/-- What the bytes and keys that a context reaches are: memory, its error words and the storage keys, and no other part of the state. -/
def State.Reaches (s t : State) : Prop := ∃ m k u p, t = { s with mem := m, keys := k, upsets := u, poison := p }

theorem State.Reaches.refl (s : State) : s.Reaches s := ⟨_, _, _, _, rfl⟩

theorem State.Reaches.trans {s t u : State} (h : s.Reaches t) (g : t.Reaches u) : s.Reaches u := by
  obtain ⟨_, _, _, _, rfl⟩ := h
  obtain ⟨_, _, _, _, rfl⟩ := g
  exact ⟨_, _, _, _, rfl⟩

theorem State.Reaches.protects {s t : State} (h : s.Reaches t) : s.Protects t := by
  obtain ⟨_, _, _, _, rfl⟩ := h
  exact ⟨rfl, rfl, rfl, rfl, rfl⟩

theorem State.Reaches.cores {s t : State} (h : s.Reaches t) : t.cores = s.cores := by
  obtain ⟨_, _, _, _, rfl⟩ := h
  rfl

theorem poke_reaches (s : State) (pa : Nat) (l : List Byte) : s.Reaches (s.poke pa l) := by
  obtain ⟨u, p, h⟩ := clearWords_eq (wholeCws pa l.length) s
  exact ⟨_, s.keys, u, p, by unfold State.poke; rw [h]⟩

theorem havocMem_reaches (s : State) (c u : Nat) : s.Reaches (s.havocMem c u) :=
  List.foldlRecOn (motive := s.Reaches) _ _ (.refl s) fun _ h _ _ => h.trans (poke_reaches ..)

/-- The storage keys are all that an undefined case changes before memory. -/
theorem havocKeys_eq (s : State) (c u : Nat) : ∃ ks, s.havocKeys c u = { s with keys := ks } := by
  unfold State.havocKeys
  split
  · exact ⟨_, rfl⟩
  · refine List.foldlRecOn (motive := fun t : State => ∃ ks, t = { s with keys := ks }) _ _ ⟨_, rfl⟩ ?_
    rintro _ ⟨ks, rfl⟩ pa -
    exact ⟨_, rfl⟩

theorem havocKeys_reaches (s : State) (c u : Nat) : s.Reaches (s.havocKeys c u) := by
  obtain ⟨ks, h⟩ := havocKeys_eq s c u
  exact ⟨_, ks, _, _, h⟩

/-- New storage keys open no further page: above ring 0 none is set, and ring 0 passes every key check (R414). -/
theorem openPages_havocKeys (s : State) (c u : Nat) (d : Desc) : (s.havocKeys c u).openPages c d = s.openPages c d := by
  by_cases hr : (s.core c).ring = 0
  · obtain ⟨ks, hk⟩ := havocKeys_eq s c u
    have pass : ∀ key page, keyPasses (s.core c).ring key page true = true := by simp [keyPasses, hr]
    have hc : ({ s with keys := ks } : State).core c = s.core c := rfl
    rw [hk]
    simp only [State.openPages, hc, pass]
    rfl
  · rw [State.havocKeys, if_pos hr]

/-- A byte outside every page that is open to the context's stores keeps its value. -/
theorem havocMem_byte (s : State) (c u : Nat) {a : Nat}
    (h : ∀ d ∈ (s.core c).openDescs, ∀ p ∈ s.openPages c d, ¬ (p ≤ a ∧ a < p + 4096)) : (s.havocMem c u).byte a = s.byte a := by
  refine List.foldlRecOn (motive := fun t : State => t.byte a = s.byte a) _ _ rfl ?_
  intro t ht p hp
  obtain ⟨d, hd, hp⟩ := List.mem_flatMap.mp hp
  have hout := h d (List.mem_filter.mp hd).1 p hp
  rw [poke_byte, if_neg (by rw [undefinedBytes_length]; exact fun hin => hout ⟨hin.2.1, hin.2.2.1⟩), ht]

theorem havocKeys_byte (s : State) (c u a : Nat) : (s.havocKeys c u).byte a = s.byte a := by
  obtain ⟨ks, h⟩ := havocKeys_eq s c u
  rw [h]
  rfl

-- ---------------------------------------------------------------- an undefined case that a core meets

/-- The state whose memory and keys the undefined case of core `c` has freed, before the core itself changes. -/
def State.freed (s : State) (c : Nat) : State :=
  ((({ s with freeCtr := s.freeCtr + 1 } : State).havocKeys c s.freeCtr).havocMem c s.freeCtr).unlock c

theorem freed_reaches (s : State) (c : Nat) : ∃ t, ({ s with freeCtr := s.freeCtr + 1 } : State).Reaches t ∧ s.freed c = t.unlock c :=
  ⟨_, .trans (havocKeys_reaches ..) (havocMem_reaches ..), rfl⟩

theorem freed_protects (s : State) (c : Nat) : s.Protects (s.freed c) := by
  obtain ⟨t, ht, h⟩ := freed_reaches s c
  rw [h]
  exact ht.protects

theorem freed_core (s : State) (c d : Nat) : (s.freed c).core d = s.core d := by
  obtain ⟨t, ht, h⟩ := freed_reaches s c
  rw [h]
  unfold State.core
  rw [State.unlock_cores, ht.cores]

theorem freed_byte (s : State) (c : Nat) {a : Nat}
    (h : ∀ d ∈ (s.core c).openDescs, ∀ p ∈ s.openPages c d, ¬ (p ≤ a ∧ a < p + 4096)) : (s.freed c).byte a = s.byte a := by
  let v : State := { s with freeCtr := s.freeCtr + 1 }
  have hr := havocKeys_reaches v c s.freeCtr
  have hc : (v.havocKeys c s.freeCtr).core c = s.core c := congrArg (Tab.get Core.reset · c) hr.cores
  calc (s.freed c).byte a
      = ((v.havocKeys c s.freeCtr).havocMem c s.freeCtr).byte a := rfl
    _ = (v.havocKeys c s.freeCtr).byte a := havocMem_byte _ c _ fun d hd p hp => by
        rw [hc] at hd
        rw [openPages_havocKeys] at hp
        exact h d hd p hp
    _ = s.byte a := havocKeys_byte v c s.freeCtr a

/-- An undefined case frees memory and keys, then replaces its own core by one whose special registers are those of `Core.havoc`. -/
theorem havoc_eq (s : State) (c : Nat) : ∃ k, s.havoc c = (s.freed c).setCore c k ∧ k.sr = ((s.core c).havoc s.freeCtr).sr := by
  refine ⟨_, rfl, (Core.charge_sr ..).trans ?_⟩
  split <;> rfl

/-- R8 for an undefined case that a core meets. -/
theorem havoc_protects (s : State) (c : Nat) : s.Protects (s.havoc c) := by
  obtain ⟨k, h, -⟩ := havoc_eq s c
  rw [h]
  exact freed_protects s c

theorem havoc_core_ne (s : State) {c d : Nat} (hd : d ≠ c) : (s.havoc c).core d = s.core d := by
  obtain ⟨k, h, -⟩ := havoc_eq s c
  rw [h, State.core_setCore_ne _ _ hd, freed_core]

theorem havoc_core_srGet (s : State) (c n : Nat) : ((s.havoc c).core c).srGet n = ((s.core c).havoc s.freeCtr).srGet n := by
  obtain ⟨k, h, hk⟩ := havoc_eq s c
  rw [h, State.core_setCore, Core.srGet_congr hk]

theorem havoc_core_ring (s : State) (c : Nat) (hr : (s.core c).ring ≠ 0) : ((s.havoc c).core c).ring = (s.core c).ring := by
  rw [← Core.havoc_ring (s.core c) s.freeCtr hr]
  unfold Core.ring Core.stat
  rw [havoc_core_srGet]

theorem havoc_byte (s : State) (c : Nat) {a : Nat}
    (h : ∀ d ∈ (s.core c).openDescs, ∀ p ∈ s.openPages c d, ¬ (p ≤ a ∧ a < p + 4096)) : (s.havoc c).byte a = s.byte a := by
  obtain ⟨k, hk, -⟩ := havoc_eq s c
  rw [hk]
  exact freed_byte s c h

-- ---------------------------------------------------------------- undefined cases of the hardware loops (R297)

/-- A transfer that ends a loop is an undefined case. -/
theorem finish_jump_loopEnd {s u : State} {c : Nat} (i : Instr) {rep resumed : Bool} {pc : Word} (target : Word) (x : Cost)
    (h : (u.core c).loopEndAt pc = true) : s.finish c i pc rep resumed (.jump u target x) = .next (s.havoc c) := by
  simp only [State.finish]
  rw [if_pos h]

/-- Completion at the end of a loop that ends before its start is an undefined case. -/
theorem finish_done_badLoop {s u : State} {c : Nat} (i : Instr) {resum : Bool} (x : Cost) (h : s.endsWell u c resum = false) :
    (s.fetched c).finish c i (s.pcOf c) (s.repeats c resum) (s.rsOf c && resum) (.done u x) = .next ((s.fetched c).havoc c) := by
  simp only [State.endsWell, Bool.not_eq_false'] at h
  simp only [State.finish]
  rw [if_pos h]

theorem exec_br_loopEnd {s : State} {c : CoreId} {g : Guard} (off : BitVec 22) (h : s.executes c (.br c g off) g false)
    (he : (s.coreOf c).loopEndAt (s.pcOf c) = true) : exec (.br c g off) s = .next ((s.fetched c).havoc c) :=
  (runInstr_executes true _ _ h).trans (finish_jump_loopEnd _ _ _ he)

theorem exec_mov_badLoop {s : State} {c : CoreId} {g : Guard} {rd rs : Reg} (h : s.executes c (.mov c g rd rs) g false)
    (he : s.endsWell ((s.fetched c).setCore c ((s.coreOf c).setReg rd ((s.coreOf c).reg rs))) c false = false) :
    exec (.mov c g rd rs) s = .next ((s.fetched c).havoc c) :=
  (runInstr_executes false _ _ h).trans (finish_done_badLoop _ _ he)

-- ---------------------------------------------------------------- the statement

/-- Settles O59: each part of R8 by the frame of `State.havoc` or `State.havocObjects`, and R297's two cases by how an executed instruction ends. -/
theorem undefinedCases : Obligations.UndefinedCases := by
  intro s
  refine ⟨fun c => ⟨havoc_protects s c, fun d hd => havoc_core_ne s hd, ?registers, fun _ _ h => havoc_byte s c h⟩,
    havocObjects_protects s, fun c g off h he => exec_br_loopEnd off h he, fun c g rd rs h he => exec_mov_badLoop h he⟩
  case registers =>
    intro hr
    refine ⟨havoc_core_ring s c hr, fun n h0 _ hw => ?_⟩
    rw [havoc_core_srGet, Core.havoc_srGet _ _ h0 hw]

end Sys2Proof.Machine
end

section
/-!
PROOF. The binary unit: the ALU group (R312), the shifts (R315), the compares and the predicate logic (R317, R318).
-/

namespace Sys2Proof.Machine

-- ---------------------------------------------------------------- the shared forms of the binary unit

section
variable {s : State} {c : CoreId} {g : Guard} {i : Instr} {rd rs rt : Reg} {pd ps pt : PredNo}

theorem CoreResult.congr {x : Cost} {f f' : Core → Core} (h : CoreResult s c g i x f) (hf : ∀ k, f k = f' k) : CoreResult s c g i x f' :=
  funext hf ▸ h

/-- An ALU instruction of two registers that sets V under the condition `v`. -/
theorem alu2_result (f : Word → Word → Word) (v : Word → Word → Bool) (h : exec i s = s.alu2 i c g rd rs rt f v) :
    CoreResult s c g i (cc 1) fun k => (k.setReg rd (f (k.reg rs) (k.reg rt))).setV (v (k.reg rs) (k.reg rt)) :=
  core_result h

/-- An ALU instruction of two registers that sets no flag. -/
theorem alu2_noV_result (f : Word → Word → Word) (h : exec i s = s.alu2 i c g rd rs rt f noV2) :
    CoreResult s c g i (cc 1) fun k => k.setReg rd (f (k.reg rs) (k.reg rt)) :=
  alu2_result f noV2 h

/-- An ALU instruction of one register that sets V under the condition `v`. -/
theorem alu1_result (f : Word → Word) (v : Word → Bool) (h : exec i s = s.alu1 i c g rd rs f v) :
    CoreResult s c g i (cc 1) fun k => (k.setReg rd (f (k.reg rs))).setV (v (k.reg rs)) :=
  core_result h

/-- An ALU instruction of one register that sets no flag. -/
theorem alu1_noV_result (f : Word → Word) (h : exec i s = s.alu1 i c g rd rs f noV1) :
    CoreResult s c g i (cc 1) fun k => k.setReg rd (f (k.reg rs)) :=
  alu1_result f noV1 h

theorem plogic_result (f : Bool → Bool → Bool) (h : exec i s = s.plogic i c g pd ps pt f) :
    CoreResult s c g i (cc 1) fun k => k.setPred pd.toNat (f (k.pred ps.toNat) (k.pred pt.toNat)) :=
  core_result h

end

-- ---------------------------------------------------------------- the ALU group (R312)

/-- The negation of a word overflows for the least signed value alone (R316). -/
theorem subV_zero_left (a : Word) : subV 0 a = (a == 0x80000000#32) := by
  have hlo := BitVec.le_toInt a
  have hhi := BitVec.toInt_lt (x := a)
  have hmin : a = 0x80000000#32 ↔ a.toInt = -2147483648 := ⟨fun h => h ▸ rfl, fun h => BitVec.eq_of_toInt_eq h⟩
  have hzero : (0 : Word).toInt = 0 := rfl
  rw [Bool.eq_iff_iff, beq_iff_eq, hmin]
  simp only [subV, fitsS32, hzero, Bool.not_eq_true', Bool.and_eq_false_iff, decide_eq_false_iff_not]
  omega

theorem zero_sub_word (a : Word) : 0 - a = -a := BitVec.zero_sub a

theorem absW_eq (a : Word) : absW a = if a.toInt < 0 then -a else a := by
  rw [absW, zero_sub_word]

/-- A mask of `n` low ones keeps the low `n` bits and fills with zeros. -/
theorem and_lowMask (a : Word) {m : Word} {n : Nat} (h : m.toNat = 2 ^ n - 1) : a &&& m = (a.extractLsb' 0 n).zeroExtend 32 := by
  have hb : a.toNat % 2 ^ n < 4294967296 := Nat.lt_of_le_of_lt (Nat.mod_le ..) a.isLt
  refine BitVec.eq_of_toNat_eq ?_
  rw [BitVec.toNat_and, h, Nat.and_two_pow_sub_one_eq_mod]
  simp [Nat.mod_eq_of_lt hb]

/-- Settles O4: each instruction is one of the two ALU forms, applied to the function and the V condition that R312 gives it. -/
theorem aluGroup : Obligations.AluGroup := by
  intro s c g rd rs rt
  refine ⟨?add, ?sub, ?and, ?or, ?xor, ?andn, ?min, ?max, ?minu, ?maxu, ?neg, ?abs, ?mov, ?sextb, ?sexth, ?zextb, ?zexth, ?clz, ?popc,
    ?bswap, ?bswaph⟩
  case add => exact alu2_result (· + ·) addV rfl
  case sub => exact alu2_result (· - ·) subV rfl
  case and => exact alu2_noV_result (· &&& ·) rfl
  case or => exact alu2_noV_result (· ||| ·) rfl
  case xor => exact alu2_noV_result (· ^^^ ·) rfl
  case andn => exact alu2_noV_result (fun a b => a &&& ~~~ b) rfl
  case min => exact alu2_noV_result minS rfl
  case max => exact alu2_noV_result maxS rfl
  case minu => exact alu2_noV_result minU rfl
  case maxu => exact alu2_noV_result maxU rfl
  case neg => exact (alu1_result (0 - ·) (subV 0) rfl).congr fun k => by rw [subV_zero_left, zero_sub_word]
  case abs => exact (alu1_result absW (· == 0x80000000#32) rfl).congr fun k => by rw [absW_eq]
  case mov => exact alu1_noV_result id rfl
  case sextb => exact alu1_noV_result (fun a => (a.extractLsb' 0 8).signExtend 32) rfl
  case sexth => exact alu1_noV_result (fun a => (a.extractLsb' 0 16).signExtend 32) rfl
  case zextb => exact (alu1_noV_result (· &&& 0xFF#32) rfl).congr fun k => by rw [and_lowMask (n := 8) _ rfl]
  case zexth => exact (alu1_noV_result (· &&& 0xFFFF#32) rfl).congr fun k => by rw [and_lowMask (n := 16) _ rfl]
  case clz => exact alu1_noV_result clzW rfl
  case popc => exact alu1_noV_result popW rfl
  case bswap => exact alu1_noV_result bswapW rfl
  case bswaph => exact alu1_noV_result bswaphW rfl

-- ---------------------------------------------------------------- the shifts (R315)

theorem shamt_eq_mod (w : Word) : shamt w = w.toNat % 64 := by
  simp [shamt]

theorem shamtI_eq_mod (imm : Imm12) : shamtI imm = imm.toNat % 64 := by
  simp [shamtI]

theorem shlW_eq_shiftLeft (a : Word) (n : Nat) : shlW a n = shiftLeft a n := by
  unfold shlW shiftLeft
  split
  case isTrue => rw [← Nat.shiftLeft_eq]; rfl
  case isFalse h => exact BitVec.shiftLeft_eq_zero (by omega)

theorem shrW_eq_shiftRight (a : Word) (n : Nat) : shrW a n = shiftRight a n := by
  unfold shrW shiftRight
  split
  case isTrue => rw [← Nat.shiftRight_eq_div_pow, ← BitVec.toNat_ushiftRight, BitVec.ofNat_toNat, BitVec.setWidth_eq]
  case isFalse h => exact BitVec.ushiftRight_eq_zero (by omega)

/-- From an amount of 32 on, copies of the sign bit are all that is left. -/
theorem sarW_eq_shiftSigned (a : Word) (n : Nat) : sarW a n = shiftSigned a n := by
  unfold sarW shiftSigned
  split
  case isTrue =>
    have hpow : ((2 ^ n : Nat) : Int) = 2 ^ n := Int.natCast_pow 2 n
    exact congrArg (BitVec.ofInt 32) ((Int.shiftRight_eq_div_pow ..).trans (congrArg (a.toInt / ·) hpow))
  case isFalse h =>
    have hout (b : Word) : b >>> n = 0 := BitVec.ushiftRight_eq_zero (by omega)
    have hmsb : a.msb = a.getLsbD 31 := BitVec.msb_eq_getLsbD_last a
    split
    case isTrue hs => rw [BitVec.sshiftRight_eq_of_msb_true (hmsb.trans hs), hout]; rfl
    case isFalse hs => rw [BitVec.sshiftRight_eq_of_msb_false (hmsb.trans (Bool.not_eq_true _ ▸ hs)), hout]

theorem rorW_eq_turnRight (a : Word) (n : Nat) : rorW a n = turnRight a n := by
  simp only [rorW, BitVec.rotateRight, BitVec.rotateRightAux, turnRight, Nat.mod_mod]

theorem rolW_eq_turnLeft (a : Word) (n : Nat) : rolW a n = turnLeft a n := by
  simp only [rolW, BitVec.rotateLeft, BitVec.rotateLeftAux, turnLeft, Nat.mod_mod]

section
variable {s : State} {c : CoreId} {g : Guard} {i : Instr} {rd rs rt : Reg} {imm : Imm12} {f f' : Word → Nat → Word}

/-- A shift by a register takes its amount from bits [5:0] of rt. -/
theorem shift_result (hf : ∀ a n, f a n = f' a n) (h : exec i s = s.alu2 i c g rd rs rt (fun a b => f a (shamt b)) noV2) :
    CoreResult s c g i (cc 1) fun k => k.setReg rd (f' (k.reg rs) ((k.reg rt).toNat % 64)) :=
  (alu2_noV_result _ h).congr fun k => by rw [hf, shamt_eq_mod]

/-- A shift by an immediate takes its amount from bits [5:0] of imm12. -/
theorem shiftImm_result (hf : ∀ a n, f a n = f' a n) (h : exec i s = s.alu1 i c g rd rs (f · (shamtI imm)) noV1) :
    CoreResult s c g i (cc 1) fun k => k.setReg rd (f' (k.reg rs) (imm.toNat % 64)) :=
  (alu1_noV_result _ h).congr fun k => by rw [hf, shamtI_eq_mod]

end

/-- Settles O6: each shift is one of the two ALU forms without V, its amount the operand modulo 64, its function the arithmetic one of R315. -/
theorem shifts : Obligations.Shifts := by
  intro s c g rd rs rt imm
  refine ⟨?shl, ?shr, ?sar, ?ror, ?rol, ?shli, ?shri, ?sari, ?rori⟩
  case shl => exact shift_result shlW_eq_shiftLeft rfl
  case shr => exact shift_result shrW_eq_shiftRight rfl
  case sar => exact shift_result sarW_eq_shiftSigned rfl
  case ror => exact shift_result rorW_eq_turnRight rfl
  case rol => exact shift_result rolW_eq_turnLeft rfl
  case shli => exact shiftImm_result shlW_eq_shiftLeft rfl
  case shri => exact shiftImm_result shrW_eq_shiftRight rfl
  case sari => exact shiftImm_result sarW_eq_shiftSigned rfl
  case rori => exact shiftImm_result rorW_eq_turnRight rfl

-- ---------------------------------------------------------------- predicates (R269, R317)

@[simp] theorem Core.pred_zero (k : Core) : k.pred 0 = true := rfl

@[simp] theorem Core.setPred_zero (k : Core) (b : Bool) : k.setPred 0 b = k := rfl

/-- Every predicate but p0 is its bit of PRED. -/
theorem Core.pred_of_ne_zero (k : Core) {p : Nat} (h : p ≠ 0) : k.pred p = (k.srGet 1).getLsbD p := by
  simp [Core.pred, h]

/-- A write to a predicate but p0 sets its bit of PRED and keeps every other bit. -/
theorem Core.setPred_getLsbD (k : Core) {p q : Nat} (b : Bool) (h : p ≠ 0) (hq : q < 32) :
    ((k.setPred p b).srGet 1).getLsbD q = if q = p then b else (k.srGet 1).getLsbD q := by
  unfold Core.setPred
  rw [if_neg h, Core.srGet_srSet, ← BitVec.twoPow_eq]
  by_cases hqp : q = p
  · subst hqp
    cases b <;> simp [hq]
  · cases b <;> simp [hqp, hq]

theorem Core.pred_setPred (k : Core) {p q : Nat} (b : Bool) (h : p ≠ 0) (hq : q < 32) :
    (k.setPred p b).pred q = if q = p then b else k.pred q := by
  by_cases h0 : q = 0
  · subst h0
    rw [if_neg h.symm, Core.pred_zero, Core.pred_zero]
  · rw [Core.pred_of_ne_zero _ h0, Core.pred_of_ne_zero _ h0, Core.setPred_getLsbD k b h hq]

-- ---------------------------------------------------------------- the compares and the predicate logic (R317, R318)

/-- The combine mode is rd[4:3], one of four. -/
theorem combine_rd (rd : Reg) (old cond : Bool) :
    combine (rd.extractLsb' 3 2) old cond = match rd.toNat / 8 with
      | 0 => cond
      | 1 => !cond
      | 2 => old && cond
      | _ => old || cond := by
  have hmode : rd.extractLsb' 3 2 = BitVec.ofNat 2 (rd.toNat / 8) := BitVec.eq_of_toNat_eq (by simp [Nat.shiftRight_eq_div_pow])
  have hlt := rd.isLt
  obtain h | h | h | h : rd.toNat / 8 = 0 ∨ rd.toNat / 8 = 1 ∨ rd.toNat / 8 = 2 ∨ rd.toNat / 8 = 3 := by omega
  all_goals rw [hmode, h]; rfl

/-- A compare whose row of R317 forms the condition `cond` writes predicate rd[2:0] as rd[4:3] says. -/
theorem compare_result {s : State} {c : CoreId} {g : Guard} {i : Instr} {rd : Reg} (cond : Core → Bool)
    (h : exec i s = s.cmp i c g rd cond) : CompareResult s c g i rd cond := by
  have hpd : (rd.extractLsb' 0 3).toNat = rd.toNat % 8 := by simp
  have hres : CoreResult s c g i (cc 1) fun k => k.setPred (rd.extractLsb' 0 3).toNat
      (combine (rd.extractLsb' 3 2) (k.pred (rd.extractLsb' 0 3).toNat) (cond k)) := core_result h
  rw [hpd] at hres
  exact hres.congr fun k => congrArg (k.setPred (rd.toNat % 8)) (combine_rd rd _ _)

theorem bne_zero_eq_decide (a : Word) : (a != 0) = decide (a ≠ 0) :=
  Bool.eq_iff_iff.mpr (bne_iff_ne.trans decide_eq_true_iff.symm)

/-- Settles O7: the compares through the combine mode, p0 and the other predicates as PRED holds them, the predicate logic by its shared form. -/
theorem comparesAndPredicates : Obligations.ComparesAndPredicates := by
  refine ⟨⟨fun s c g rd rs rt imm => ⟨?eq, ?lt, ?ltu, ?le, ?leu, ?tst, ?eqi, ?lti, ?ltui, ?tsti⟩, fun k b => ⟨k.setPred_zero b, k.pred_zero⟩,
    fun k p q b hp _ hq => k.pred_setPred b (by omega) (by omega)⟩, fun s c g pd ps pt => ⟨?and, ?andn, ?or, ?xor⟩⟩
  case eq => exact compare_result (fun k => decide (k.reg rs = k.reg rt)) rfl
  case lt => exact compare_result (fun k => (k.reg rs).slt (k.reg rt)) rfl
  case ltu => exact compare_result (fun k => (k.reg rs).ult (k.reg rt)) rfl
  case le => exact compare_result (fun k => (k.reg rs).sle (k.reg rt)) rfl
  case leu => exact compare_result (fun k => (k.reg rs).ule (k.reg rt)) rfl
  case tst => simpa only [bne_zero_eq_decide] using compare_result (fun k => k.reg rs &&& k.reg rt != 0) rfl
  case eqi => exact compare_result (fun k => decide (k.reg rs = imm.signExtend 32)) rfl
  case lti => exact compare_result (fun k => (k.reg rs).slt (imm.signExtend 32)) rfl
  case ltui => exact compare_result (fun k => (k.reg rs).ult (imm.signExtend 32)) rfl
  case tsti => simpa only [bne_zero_eq_decide] using compare_result (fun k => k.reg rs &&& imm.zeroExtend 32 != 0) rfl
  case and => exact plogic_result (· && ·) rfl
  case andn => exact plogic_result (· && !·) rfl
  case or => exact plogic_result (· || ·) rfl
  case xor => exact plogic_result (· ^^ ·) rfl

end Sys2Proof.Machine
end

section
/-!
PROOF. Floating-point results at the edges of a format (R345). Every operation rounds one exact value once (R333, R334), so a row of the table
follows from what that value is: one that the format holds, one of at most half the smallest subnormal, one past the largest finite value, or one
that lies little above it.
-/

namespace Sys2Proof.Machine

-- ---------------------------------------------------------------- rounding to a multiple (R334)

/-- A value that is a multiple of the unit is kept in every mode. -/
theorem roundTo_of_multiple {m d : Nat} {e q : Int} (h : m * 2 ^ (e - q).toNat = d * 2 ^ (q - e).toNat) (rm : Nat) (neg : Bool) :
    roundTo rm neg m e q = (d, false) := by
  unfold roundTo
  split
  case isTrue hq =>
    have hz : (q - e).toNat = 0 := by omega
    rw [h, hz, Nat.pow_zero, Nat.mul_one]
  case isFalse hq =>
    have hz : (e - q).toNat = 0 := by omega
    rw [hz, Nat.pow_zero, Nat.mul_one] at h
    simp [h, roundShift, Nat.mul_div_cancel _ (Nat.two_pow_pos (q - e).toNat)]

/-- A positive rest below half the unit, or of half the unit above an even multiple, is cut off in RNE, RZ and RD; RU goes to the next multiple. -/
theorem roundShift_of_rest {d r sh : Nat} (h0 : 0 < r) (hr : 2 * r ≤ 2 ^ sh) (htie : 2 * r = 2 ^ sh → d % 2 = 0) (rm : Nat) :
    roundShift rm false (d * 2 ^ sh + r) sh = (if rm = 2 then d + 1 else d, true) := by
  have hlt : r < 2 ^ sh := by omega
  have hdiv : (d * 2 ^ sh + r) / 2 ^ sh = d := by
    rw [Nat.mul_comm, Nat.mul_add_div (by omega), Nat.div_eq_of_lt hlt, Nat.add_zero]
  have hmod : (d * 2 ^ sh + r) % 2 ^ sh = r := Nat.mul_add_mod_of_lt hlt
  have hnearest : (decide (2 ^ sh < 2 * r) || decide (2 ^ sh = 2 * r) && d % 2 == 1) = false := by
    simp only [Bool.or_eq_false_iff, Bool.and_eq_false_imp, decide_eq_false_iff_not, decide_eq_true_eq, beq_eq_false_iff_ne]
    omega
  by_cases h2 : rm = 2 <;> simp [roundShift, hdiv, hmod, hnearest, h0, h2]

/-- A positive value of at most half the unit goes to zero in RNE, RZ and RD and to the unit in RU. -/
theorem roundTo_of_le_half {m k : Nat} {e q : Int} (h0 : 0 < m) (hm : m ≤ 2 ^ k) (hk : e + k < q) (rm : Nat) :
    roundTo rm false m e q = (if rm = 2 then 1 else 0, true) := by
  have hhalf : 2 * m ≤ 2 ^ (q - e).toNat := calc
    2 * m ≤ 2 ^ (k + 1) := by rw [Nat.pow_succ]; omega
    _ ≤ 2 ^ (q - e).toNat := Nat.pow_le_pow_right (by omega) (by omega)
  have hshift := roundShift_of_rest (d := 0) h0 hhalf (fun _ => rfl) rm
  rw [Nat.zero_mul, Nat.zero_add] at hshift
  rw [roundTo, if_neg (by omega), hshift]

-- ---------------------------------------------------------------- rounding into a format (R334, R343)

theorem log2_mul_two_pow_add {d r j : Nat} (hd : d ≠ 0) (hr : r < 2 ^ j) : Nat.log2 (d * 2 ^ j + r) = Nat.log2 d + j := by
  have hne : d * 2 ^ j + r ≠ 0 := by have := Nat.mul_pos (Nat.pos_of_ne_zero hd) (Nat.two_pow_pos j); omega
  refine (Nat.log2_eq_iff hne).mpr ⟨?_, ?_⟩
  · calc 2 ^ (Nat.log2 d + j) = 2 ^ Nat.log2 d * 2 ^ j := Nat.pow_add ..
      _ ≤ d * 2 ^ j := Nat.mul_le_mul_right _ (Nat.log2_self_le hd)
      _ ≤ d * 2 ^ j + r := Nat.le_add_right ..
  · calc d * 2 ^ j + r < (d + 1) * 2 ^ j := by rw [Nat.succ_mul]; omega
      _ ≤ 2 ^ (Nat.log2 d + 1) * 2 ^ j := Nat.mul_le_mul_right _ Nat.lt_log2_self
      _ = 2 ^ (Nat.log2 d + j + 1) := by rw [← Nat.pow_add]; congr 1; omega

/-- The exponent of the smallest subnormal of a format, the unit of all subnormals. -/
def FpFmt.least (f : FpFmt) : Int := f.emin - (f.p - 1 : Nat)

/-- The unit of the largest finite numbers of a format. -/
def FpFmt.greatest (f : FpFmt) : Int := f.emax - (f.p - 1 : Nat)

/-- The pattern of the normal number of significand `d` and unit 2 ^ q. -/
def FpFmt.normal (f : FpFmt) (neg : Bool) (q : Int) (d : Nat) : Nat := f.pack neg (q - f.least + 1).toNat (d - 2 ^ (f.p - 1))

/-- The exponent of ±m * 2^e once it is rounded to the format's precision: that of its top bit, and one more after a carry. -/
def FpFmt.roundedTop (f : FpFmt) (rm : Nat) (neg : Bool) (m : Nat) (e : Int) : Int :=
  if (roundTo rm neg m e (e + Nat.log2 m - (f.p - 1 : Nat))).1 = 2 ^ f.p then e + Nat.log2 m + 1 else e + Nat.log2 m

theorem FpFmt.roundedTop_bounds (f : FpFmt) (rm : Nat) (neg : Bool) (m : Nat) (e : Int) :
    e + Nat.log2 m ≤ f.roundedTop rm neg m e ∧ f.roundedTop rm neg m e ≤ e + Nat.log2 m + 1 := by
  unfold FpFmt.roundedTop
  split <;> omega

section
variable {f : FpFmt} {rm m d : Nat} {e q : Int} {neg inexact : Bool}

/-- A value below half the smallest normal number is rounded to a multiple of the smallest subnormal; when inexact it underflows. -/
theorem FpFmt.round_of_subnormal (h0 : m ≠ 0) (h : e + Nat.log2 m + 1 < f.emin) (hu : roundTo rm neg m e f.least = (d, inexact)) :
    f.round rm false neg m e = ⟨f.pack neg 0 d, if inexact then fpUF + fpNX else 0⟩ := by
  have htop : f.roundedTop rm neg m e < f.emin := Int.lt_of_le_of_lt (f.roundedTop_bounds rm neg m e).2 h
  unfold FpFmt.roundedTop at htop
  unfold FpFmt.least at hu
  simp only [FpFmt.round, if_neg h0, if_pos htop, hu, Bool.false_eq_true, if_false]

/-- A value among the normal numbers of unit 2 ^ q that rounds without a carry. -/
theorem FpFmt.round_of_normal (h0 : m ≠ 0) (htop : e + Nat.log2 m = q + (f.p - 1 : Nat)) (hmin : f.least ≤ q) (hmax : q ≤ f.greatest)
    (hu : roundTo rm neg m e q = (d, inexact)) (hd : d < 2 ^ f.p) (fz : Bool) :
    f.round rm fz neg m e = ⟨f.normal neg q d, if inexact then fpNX else 0⟩ := by
  have hleast : f.least = f.emin - (f.p - 1 : Nat) := rfl
  have hgreatest : f.greatest = f.emax - (f.p - 1 : Nat) := rfl
  have hunit : q + (f.p - 1 : Nat) - (f.p - 1 : Nat) = q := by omega
  have hexp : q + (f.p - 1 : Nat) - f.emin + 1 = q - f.least + 1 := by omega
  simp only [FpFmt.round, if_neg h0, htop, hunit, hu, if_neg (Nat.ne_of_lt hd), if_neg (show ¬ q + (f.p - 1 : Nat) < f.emin by omega),
    if_neg (show ¬ f.emax < q + (f.p - 1 : Nat) by omega), hexp, FpFmt.normal]

/-- A value past the largest exponent, or that a carry takes past it, overflows. -/
theorem FpFmt.round_of_overflow (h0 : m ≠ 0) (hr : f.emin ≤ f.emax) (h : f.emax < f.roundedTop rm neg m e) (fz : Bool) :
    f.round rm fz neg m e = ⟨f.overflow rm neg, fpOF + fpNX⟩ := by
  unfold FpFmt.roundedTop at h
  simp only [FpFmt.round, if_neg h0, if_neg (Int.not_lt.mpr (Int.le_trans hr (Int.le_of_lt h))), if_pos h]

end

-- ---------------------------------------------------------------- what a value gives in the four modes

section
variable {f : FpFmt} {m k d j r : Nat} {e q : Int}

/-- A positive value of at most half the smallest subnormal. -/
theorem eachMode_round_of_le_half (hp : 2 ≤ f.p) (h0 : m ≠ 0) (hm : m ≤ 2 ^ k) (hk : e + k < f.least) :
    eachMode (fun rm => f.round rm false false m e) 0 0 1 0 (fpUF + fpNX) (fpUF + fpNX) := by
  have hlog : Nat.log2 m < k + 1 := (Nat.log2_lt h0).mpr (by rw [Nat.pow_succ]; have := Nat.two_pow_pos k; omega)
  have hleast : f.least = f.emin - (f.p - 1 : Nat) := rfl
  have hround (rm : Nat) : f.round rm false false m e = ⟨if rm = 2 then 1 else 0, fpUF + fpNX⟩ := by
    rw [FpFmt.round_of_subnormal h0 (by omega) (roundTo_of_le_half (Nat.pos_of_ne_zero h0) hm hk rm)]
    simp [FpFmt.pack]
  exact ⟨hround 0, hround 1, hround 2, hround 3⟩

/-- A normal number of the format: the integer `d` of full precision times its unit. -/
theorem eachMode_round_of_normal (hlo : 2 ^ (f.p - 1) ≤ d) (hhi : d < 2 ^ f.p) (h : m * 2 ^ (e - q).toNat = d * 2 ^ (q - e).toNat)
    (hmin : f.least ≤ q) (hmax : q ≤ f.greatest) :
    eachMode (fun rm => f.round rm false false m e) (f.normal false q d) (f.normal false q d) (f.normal false q d) (f.normal false q d) 0 0 := by
  have hd0 : d ≠ 0 := by have := Nat.two_pow_pos (f.p - 1); omega
  have hm0 : m ≠ 0 := by
    rintro rfl
    have := Nat.mul_pos (Nat.pos_of_ne_zero hd0) (Nat.two_pow_pos (q - e).toNat)
    omega
  have hd : Nat.log2 d = f.p - 1 := (Nat.log2_eq_iff hd0).mpr ⟨hlo, Nat.lt_of_lt_of_le hhi (Nat.pow_le_pow_right (by omega) (by omega))⟩
  have hlog := congrArg Nat.log2 h
  rw [← Nat.add_zero (m * _), ← Nat.add_zero (d * _), log2_mul_two_pow_add hm0 (Nat.two_pow_pos _),
    log2_mul_two_pow_add hd0 (Nat.two_pow_pos _), hd] at hlog
  have hround (rm : Nat) : f.round rm false false m e = ⟨f.normal false q d, 0⟩ := by
    rw [FpFmt.round_of_normal hm0 (by omega) hmin hmax (roundTo_of_multiple h rm false) hhi]
    rfl
  exact ⟨hround 0, hround 1, hround 2, hround 3⟩

/-- A positive value from the power of two past the largest exponent on. -/
theorem eachMode_round_of_overflow (hr : f.emin ≤ f.emax) (hm : 2 ^ k ≤ m) (hk : f.emax < e + k) :
    eachMode (fun rm => f.round rm false false m e) (f.infinity false) (f.largest false) (f.infinity false) (f.largest false)
      (fpOF + fpNX) (fpOF + fpNX) := by
  have h0 : m ≠ 0 := by have := Nat.two_pow_pos k; omega
  have hlog : k ≤ Nat.log2 m := (Nat.le_log2 h0).mpr hm
  have hround (rm : Nat) : f.round rm false false m e = ⟨f.overflow rm false, fpOF + fpNX⟩ :=
    FpFmt.round_of_overflow h0 hr (by have := f.roundedTop_bounds rm false m e; omega) false
  exact ⟨hround 0, hround 1, hround 2, hround 3⟩

/-- A value less than half a unit above the largest finite one: RU alone carries past the largest exponent. -/
theorem eachMode_round_above_largest (hp : 2 ≤ f.p) (hmin : f.least ≤ f.greatest) (hj : e + j = f.greatest) (h0 : 0 < r) (hr : 2 * r < 2 ^ j) :
    eachMode (fun rm => f.round rm false false ((2 ^ f.p - 1) * 2 ^ j + r) e) (f.normal false f.greatest (2 ^ f.p - 1))
      (f.normal false f.greatest (2 ^ f.p - 1)) (f.infinity false) (f.normal false f.greatest (2 ^ f.p - 1)) fpNX (fpOF + fpNX) := by
  have hleast : f.least = f.emin - (f.p - 1 : Nat) := rfl
  have hgreatest : f.greatest = f.emax - (f.p - 1 : Nat) := rfl
  have hpow : 2 ^ f.p = 2 * 2 ^ (f.p - 1) := by rw [← Nat.pow_succ']; congr 1; omega
  have hpos := Nat.two_pow_pos (f.p - 1)
  have hfull : 2 ^ f.p - 1 + 1 = 2 ^ f.p := by omega
  have hd0 : 2 ^ f.p - 1 ≠ 0 := by omega
  have hd : Nat.log2 (2 ^ f.p - 1) = f.p - 1 := (Nat.log2_eq_iff hd0).mpr (by rw [Nat.pow_succ]; omega)
  have htop := log2_mul_two_pow_add hd0 (show r < 2 ^ j by omega)
  have hm0 : (2 ^ f.p - 1) * 2 ^ j + r ≠ 0 := by omega
  have hj0 : j ≠ 0 := by rintro rfl; omega
  have hsh : (f.greatest - e).toNat = j := by omega
  have hu (rm : Nat) : roundTo rm false ((2 ^ f.p - 1) * 2 ^ j + r) e f.greatest = (if rm = 2 then 2 ^ f.p else 2 ^ f.p - 1, true) := by
    rw [roundTo, if_neg (by omega), hsh, roundShift_of_rest h0 (Nat.le_of_lt hr) (by omega), hfull]
  have hcut (rm : Nat) (h2 : rm ≠ 2) : f.round rm false false ((2 ^ f.p - 1) * 2 ^ j + r) e =
      ⟨f.normal false f.greatest (2 ^ f.p - 1), fpNX⟩ := by
    rw [FpFmt.round_of_normal hm0 (by omega) hmin (Int.le_refl _) ((hu rm).trans (by rw [if_neg h2])) (by omega)]
    rfl
  have hcarry : f.round 2 false false ((2 ^ f.p - 1) * 2 ^ j + r) e = ⟨f.infinity false, fpOF + fpNX⟩ := by
    have hunit : e + (Nat.log2 ((2 ^ f.p - 1) * 2 ^ j + r) : Nat) - (f.p - 1 : Nat) = f.greatest := by omega
    refine FpFmt.round_of_overflow hm0 (by omega) ?_ false
    rw [FpFmt.roundedTop, hunit, hu, if_pos (by rw [if_pos rfl])]
    omega
  exact ⟨hcut 0 (by decide), hcut 1 (by decide), hcarry, hcut 3 (by decide)⟩

end

-- ---------------------------------------------------------------- what each operation rounds (R333)

section
variable {f : FpFmt} {rm a b c m m1 m2 m3 : Nat} {e e1 e2 e3 : Int} {fz n1 n2 n3 : Bool}

theorem FpFmt.mul_of_finite (hx : f.read fz a = .fin n1 m1 e1) (hy : f.read fz b = .fin n2 m2 e2) :
    f.mul rm fz a b = f.round rm fz (n1 != n2) (m1 * m2) (e1 + e2) := by
  simp only [FpFmt.mul, hx, hy]
  rfl

theorem FpFmt.div_of_finite (hx : f.read fz a = .fin n1 m1 e1) (hy : f.read fz b = .fin n2 m2 e2) (h1 : m1 ≠ 0) (h2 : m2 ≠ 0) :
    f.div rm fz a b = f.quotient rm fz (n1 != n2) m1 e1 m2 e2 := by
  simp only [FpFmt.div, hx, hy, if_neg h1, if_neg h2]
  rfl

theorem FpFmt.add_of_finite (hx : f.read fz a = .fin n1 m1 e1) (hy : f.read fz b = .fin n2 m2 e2) :
    f.add rm fz false a b = f.sum rm fz n1 m1 e1 n2 m2 e2 := by
  simp [FpFmt.add, hx, hy, FpFmt.nanOf, FpFmt.addVal]

/-- FSUB of positive values: the row of R347 that the model singles out has negative ones. -/
theorem FpFmt.sub_of_finite (hx : f.read fz a = .fin n1 m1 e1) (hy : f.read fz b = .fin n2 m2 e2) (ha : a ≠ f.zero true + 1) :
    f.add rm fz true a b = f.sum rm fz n1 m1 e1 (!n2) m2 e2 := by
  simp [FpFmt.add, hx, hy, FpFmt.nanOf, FpFmt.addVal, FpVal.negate, ha]

theorem FpFmt.fma_of_finite (hx : f.read fz a = .fin n1 m1 e1) (hy : f.read fz b = .fin n2 m2 e2) (hz : f.read fz c = .fin n3 m3 e3) :
    f.fma rm fz false false a b c = f.sum rm fz (n1 != n2) (m1 * m2) (e1 + e2) n3 m3 e3 := by
  simp [FpFmt.fma, hx, hy, hz, FpFmt.nanOf, FpFmt.addVal, FpVal.neg]

theorem FpFmt.convert_of_finite {g : FpFmt} (hx : g.read fz a = .fin n1 m1 e1) : f.convert g rm fz a = f.round rm fz n1 m1 e1 := by
  simp only [FpFmt.convert, hx]

theorem signedMant_false (n : Nat) : signedMant false n = n := rfl

theorem signedMant_true (n : Nat) : signedMant true n = -(n : Int) := rfl

theorem FpFmt.sum_of_pos (h : signedMant n1 (m1 * 2 ^ (e1 - min e1 e2).toNat) + signedMant n2 (m2 * 2 ^ (e2 - min e1 e2).toNat) = (m : Int))
    (h0 : m ≠ 0) : f.sum rm fz n1 m1 e1 n2 m2 e2 = f.round rm fz false m (min e1 e2) := by
  have hneg : ¬ (m : Int) < 0 := by omega
  simp [FpFmt.sum, h, h0, hneg]

theorem FpFmt.sum_of_both_pos (he : e2 ≤ e1) (h0 : m2 ≠ 0) :
    f.sum rm fz false m1 e1 false m2 e2 = f.round rm fz false (m1 * 2 ^ (e1 - e2).toNat + m2) e2 := by
  have hmin : min e1 e2 = e2 := Int.min_eq_right he
  have hsum : signedMant false (m1 * 2 ^ (e1 - min e1 e2).toNat) + signedMant false (m2 * 2 ^ (e2 - min e1 e2).toNat) =
      ((m1 * 2 ^ (e1 - e2).toNat + m2 : Nat) : Int) := by
    rw [hmin, Int.sub_self, Int.toNat_zero, Nat.pow_zero, Nat.mul_one, signedMant_false, signedMant_false, Int.natCast_add]
  rw [FpFmt.sum_of_pos hsum (by omega), hmin]

theorem FpFmt.sum_of_pos_sub (he : e1 ≤ e2) (hlt : m2 * 2 ^ (e2 - e1).toNat < m1) :
    f.sum rm fz false m1 e1 true m2 e2 = f.round rm fz false (m1 - m2 * 2 ^ (e2 - e1).toNat) e1 := by
  have hmin : min e1 e2 = e1 := Int.min_eq_left he
  have hsum : signedMant false (m1 * 2 ^ (e1 - min e1 e2).toNat) + signedMant true (m2 * 2 ^ (e2 - min e1 e2).toNat) =
      ((m1 - m2 * 2 ^ (e2 - e1).toNat : Nat) : Int) := by
    rw [hmin, Int.sub_self, Int.toNat_zero, Nat.pow_zero, Nat.mul_one, signedMant_false, signedMant_true, Int.ofNat_sub (Nat.le_of_lt hlt)]
    exact Int.sub_eq_add_neg.symm
  rw [FpFmt.sum_of_pos hsum (by omega), hmin]

/-- Values that cancel give plus zero, and minus zero in RD. -/
theorem FpFmt.sum_of_opposite (h0 : m ≠ 0) : f.sum rm fz n1 m e (!n1) m e = ⟨f.zero (decide (rm = 3)), 0⟩ := by
  have hcancel (k : Nat) : signedMant n1 k + signedMant (!n1) k = 0 := by
    cases n1
    case false => exact Int.add_right_neg k
    case true => exact Int.add_left_neg k
  simp only [FpFmt.sum, hcancel, if_true, h0, and_false, if_false]

theorem FpFmt.toInt_of_fits {inexact : Bool} (hx : f.read fz a = .fin n1 m e) {x : Nat} (hr : roundTo rm n1 m e 0 = (x, inexact))
    (hfit : fitsS32 (signedMant n1 x) = true) :
    f.toInt rm fz a = ⟨(BitVec.ofInt 32 (signedMant n1 x)).toNat, if inexact then fpNX else 0⟩ := by
  simp only [FpFmt.toInt, hx, hr, hfit, if_true]

theorem FpFmt.toInt_of_large (hx : f.read fz a = .fin false m e) (h0 : m ≠ 0) (he : 31 ≤ e) : f.toInt rm fz a = ⟨0x7FFFFFFF, fpNV⟩ := by
  have hr : roundTo rm false m e 0 = (m * 2 ^ e.toNat, false) := roundTo_of_multiple (by simp [show (-e).toNat = 0 by omega]) rm false
  have hbig : 2 ^ 31 ≤ m * 2 ^ e.toNat := calc
    2 ^ 31 ≤ 2 ^ e.toNat := Nat.pow_le_pow_right (by omega) (by omega)
    _ ≤ m * 2 ^ e.toNat := Nat.le_mul_of_pos_left _ (Nat.pos_of_ne_zero h0)
  have hfit : fitsS32 (signedMant false (m * 2 ^ e.toNat)) = false := by
    simp only [fitsS32, signedMant, Bool.false_eq_true, if_false, Bool.and_eq_false_imp, decide_eq_false_iff_not]
    omega
  simp only [FpFmt.toInt, hx, hr, hfit, Bool.false_eq_true, if_false]

end

-- ---------------------------------------------------------------- the table of R345

section
variable (dbl : Bool)

theorem two_le_fpFmt_p : 2 ≤ (fpFmt dbl).p := by cases dbl <;> decide

theorem fpFmt_emin_le_emax : (fpFmt dbl).emin ≤ (fpFmt dbl).emax := by cases dbl <;> decide

/-- The significand of the largest finite value has the format's precision. -/
theorem largestMant_bounds : 2 ^ ((fpFmt dbl).p - 1) ≤ 2 ^ (fpFmt dbl).p - 1 ∧ 2 ^ (fpFmt dbl).p - 1 < 2 ^ (fpFmt dbl).p := by cases dbl <;> decide

theorem largestMant_ne_zero : 2 ^ (fpFmt dbl).p - 1 ≠ 0 := by cases dbl <;> decide

theorem normal_largestMant : (fpFmt dbl).normal false (fpFmt dbl).greatest (2 ^ (fpFmt dbl).p - 1) = (fpFmt dbl).largest false := by
  cases dbl <;> decide

/-- What the smallest positive subnormal s reads as. -/
theorem read_smallest : (fpFmt dbl).read false 1 = .fin false 1 (fpFmt dbl).least := by cases dbl <;> rfl

/-- What the largest finite value M and its negative read as. -/
theorem read_largest (neg : Bool) : (fpFmt dbl).read false ((fpFmt dbl).largest neg) = .fin neg (2 ^ (fpFmt dbl).p - 1) (fpFmt dbl).greatest := by
  cases dbl <;> cases neg <;> rfl

/-- The pattern of 2 ^ x. -/
def FpFmt.powerOfTwo (f : FpFmt) (x : Int) : Nat := f.normal false (x - (f.p - 1 : Nat)) (2 ^ (f.p - 1))

theorem read_half : (fpFmt dbl).read false ((fpFmt dbl).powerOfTwo (-1)) = .fin false (2 ^ ((fpFmt dbl).p - 1)) (-1 - ((fpFmt dbl).p - 1 : Nat)) := by
  cases dbl <;> rfl

theorem read_two : (fpFmt dbl).read false ((fpFmt dbl).powerOfTwo 1) = .fin false (2 ^ ((fpFmt dbl).p - 1)) (1 - ((fpFmt dbl).p - 1 : Nat)) := by
  cases dbl <;> rfl

theorem mul_smallest_half : eachMode (fun rm => (fpFmt dbl).mul rm false 1 ((fpFmt dbl).powerOfTwo (-1))) 0 0 1 0 (fpUF + fpNX) (fpUF + fpNX) := by
  simp only [FpFmt.mul_of_finite (read_smallest dbl) (read_half dbl)]
  exact eachMode_round_of_le_half (k := (fpFmt dbl).p - 1) (two_le_fpFmt_p dbl) (by simp) (by simp) (by omega)

theorem add_smallest_smallest : eachMode (fun rm => (fpFmt dbl).add rm false false 1 1) 2 2 2 2 0 0 := by
  have hround (rm : Nat) : (fpFmt dbl).add rm false false 1 1 = ⟨2, 0⟩ := by
    rw [FpFmt.add_of_finite (read_smallest dbl) (read_smallest dbl), FpFmt.sum_of_both_pos (Int.le_refl _) Nat.one_ne_zero,
      FpFmt.round_of_subnormal (by simp) (by cases dbl <;> decide) (roundTo_of_multiple rfl rm false)]
    simp [FpFmt.pack]
  exact ⟨hround 0, hround 1, hround 2, hround 3⟩

theorem sub_smallest_smallest : eachMode (fun rm => (fpFmt dbl).add rm false true 1 1) 0 0 0 ((fpFmt dbl).zero true) 0 0 := by
  have hsmall : 1 ≠ (fpFmt dbl).zero true + 1 := by cases dbl <;> decide
  simp only [FpFmt.sub_of_finite (read_smallest dbl) (read_smallest dbl) hsmall, FpFmt.sum_of_opposite Nat.one_ne_zero]
  cases dbl <;> exact ⟨rfl, rfl, rfl, rfl⟩

theorem div_smallest_largest : eachMode (fun rm => (fpFmt dbl).div rm false 1 ((fpFmt dbl).largest false)) 0 0 1 0 (fpUF + fpNX) (fpUF + fpNX) := by
  simp only [FpFmt.div_of_finite (read_smallest dbl) (read_largest dbl false) Nat.one_ne_zero (largestMant_ne_zero dbl)]
  refine eachMode_round_of_le_half (k := 2 * (fpFmt dbl).p + 5) (two_le_fpFmt_p dbl) ?_ ?_ ?_
  all_goals cases dbl <;> decide

/-- The product P of s and M, which has the significand of M. -/
def FpFmt.edgeProduct (f : FpFmt) : Nat := f.normal false (f.least + f.greatest) (2 ^ f.p - 1)

theorem mul_smallest_largest : eachMode (fun rm => (fpFmt dbl).mul rm false 1 ((fpFmt dbl).largest false)) (fpFmt dbl).edgeProduct
    (fpFmt dbl).edgeProduct (fpFmt dbl).edgeProduct (fpFmt dbl).edgeProduct 0 0 := by
  obtain ⟨hlo, hhi⟩ := largestMant_bounds dbl
  simp only [FpFmt.mul_of_finite (read_smallest dbl) (read_largest dbl false), Nat.one_mul]
  refine eachMode_round_of_normal hlo hhi rfl ?_ ?_
  all_goals cases dbl <;> decide

theorem add_largest_smallest : eachMode (fun rm => (fpFmt dbl).add rm false false ((fpFmt dbl).largest false) 1) ((fpFmt dbl).largest false)
    ((fpFmt dbl).largest false) ((fpFmt dbl).infinity false) ((fpFmt dbl).largest false) fpNX (fpOF + fpNX) := by
  have hgap : (fpFmt dbl).least + 2 ≤ (fpFmt dbl).greatest := by cases dbl <;> decide
  have hle : (fpFmt dbl).least ≤ (fpFmt dbl).greatest := by omega
  simp only [FpFmt.add_of_finite (read_largest dbl false) (read_smallest dbl), FpFmt.sum_of_both_pos hle Nat.one_ne_zero]
  rw [← normal_largestMant]
  refine eachMode_round_above_largest (two_le_fpFmt_p dbl) hle (by omega) Nat.one_pos ?_
  calc 2 * 1 < 2 ^ 2 := by decide
    _ ≤ _ := Nat.pow_le_pow_right (by omega) (by omega)

theorem add_largest_largest : eachMode (fun rm => (fpFmt dbl).add rm false false ((fpFmt dbl).largest false) ((fpFmt dbl).largest false))
    ((fpFmt dbl).infinity false) ((fpFmt dbl).largest false) ((fpFmt dbl).infinity false) ((fpFmt dbl).largest false) (fpOF + fpNX) (fpOF + fpNX) := by
  simp only [FpFmt.add_of_finite (read_largest dbl false) (read_largest dbl false), FpFmt.sum_of_both_pos (Int.le_refl _) (largestMant_ne_zero dbl)]
  refine eachMode_round_of_overflow (k := (fpFmt dbl).p) (fpFmt_emin_le_emax dbl) ?_ ?_
  all_goals cases dbl <;> decide

theorem div_largest_smallest : eachMode (fun rm => (fpFmt dbl).div rm false ((fpFmt dbl).largest false) 1)
    ((fpFmt dbl).infinity false) ((fpFmt dbl).largest false) ((fpFmt dbl).infinity false) ((fpFmt dbl).largest false) (fpOF + fpNX) (fpOF + fpNX) := by
  simp only [FpFmt.div_of_finite (read_largest dbl false) (read_smallest dbl) (largestMant_ne_zero dbl) Nat.one_ne_zero]
  refine eachMode_round_of_overflow (k := 3 * (fpFmt dbl).p + 4) (fpFmt_emin_le_emax dbl) ?_ ?_
  all_goals cases dbl <;> decide

theorem fma_largest_two_largest : eachMode (fun rm => (fpFmt dbl).fma rm false false false ((fpFmt dbl).largest false) ((fpFmt dbl).powerOfTwo 1)
    ((fpFmt dbl).largest true)) ((fpFmt dbl).largest false) ((fpFmt dbl).largest false) ((fpFmt dbl).largest false) ((fpFmt dbl).largest false) 0 0 := by
  obtain ⟨hlo, hhi⟩ := largestMant_bounds dbl
  have hp := two_le_fpFmt_p dbl
  have hle : (fpFmt dbl).greatest + (1 - ((fpFmt dbl).p - 1 : Nat)) ≤ (fpFmt dbl).greatest := by omega
  have hlt : (2 ^ (fpFmt dbl).p - 1) * 2 ^ ((fpFmt dbl).greatest - ((fpFmt dbl).greatest + (1 - ((fpFmt dbl).p - 1 : Nat)))).toNat <
      (2 ^ (fpFmt dbl).p - 1) * 2 ^ ((fpFmt dbl).p - 1) := by cases dbl <;> decide
  simp only [FpFmt.fma_of_finite (read_largest dbl false) (read_two dbl) (read_largest dbl true), bne_self_eq_false, FpFmt.sum_of_pos_sub hle hlt]
  rw [← normal_largestMant]
  refine eachMode_round_of_normal hlo hhi ?_ ?_ (Int.le_refl _)
  all_goals cases dbl <;> decide

theorem toInt_smallest : eachMode (fun rm => (fpFmt dbl).toInt rm false 1) 0 0 1 0 fpNX fpNX := by
  have hround (rm : Nat) : (fpFmt dbl).toInt rm false 1 = ⟨if rm = 2 then 1 else 0, fpNX⟩ := by
    rw [FpFmt.toInt_of_fits (read_smallest dbl) (roundTo_of_le_half (k := 0) Nat.one_pos (by simp) (by cases dbl <;> decide) rm) (by split <;> decide)]
    split <;> rfl
  exact ⟨hround 0, hround 1, hround 2, hround 3⟩

theorem toInt_largest : eachMode (fun rm => (fpFmt dbl).toInt rm false ((fpFmt dbl).largest false)) 0x7FFFFFFF 0x7FFFFFFF
    0x7FFFFFFF 0x7FFFFFFF fpNV fpNV := by
  have hround (rm : Nat) : (fpFmt dbl).toInt rm false ((fpFmt dbl).largest false) = ⟨0x7FFFFFFF, fpNV⟩ :=
    FpFmt.toInt_of_large (read_largest dbl false) (largestMant_ne_zero dbl) (by cases dbl <;> decide)
  exact ⟨hround 0, hround 1, hround 2, hround 3⟩

end

theorem convert_smallest_single : eachMode (fun rm => (fpFmt false).convert (fpFmt true) rm false 1) 0 0 1 0 (fpUF + fpNX) (fpUF + fpNX) := by
  simp only [FpFmt.convert_of_finite (read_smallest true)]
  exact eachMode_round_of_le_half (k := 0) (by decide) Nat.one_ne_zero (Nat.le_refl _) (by decide)

theorem convert_largest_single : eachMode (fun rm => (fpFmt false).convert (fpFmt true) rm false ((fpFmt true).largest false))
    ((fpFmt false).infinity false) ((fpFmt false).largest false) ((fpFmt false).infinity false) ((fpFmt false).largest false)
    (fpOF + fpNX) (fpOF + fpNX) := by
  simp only [FpFmt.convert_of_finite (read_largest true false)]
  exact eachMode_round_of_overflow (k := 52) (by decide) (by decide) (by decide)

theorem convert_smallest_double : eachMode (fun rm => (fpFmt true).convert (fpFmt false) rm false 1) ((fpFmt true).powerOfTwo (-149))
    ((fpFmt true).powerOfTwo (-149)) ((fpFmt true).powerOfTwo (-149)) ((fpFmt true).powerOfTwo (-149)) 0 0 := by
  simp only [FpFmt.convert_of_finite (read_smallest false)]
  exact eachMode_round_of_normal (by decide) (by decide) (by decide) (by decide) (by decide)

/-- The pattern in double of M of single: 24 ones. -/
def singleLargestInDouble : Nat := (fpFmt true).normal false 75 ((2 ^ 24 - 1) * 2 ^ 29)

theorem convert_largest_double : eachMode (fun rm => (fpFmt true).convert (fpFmt false) rm false ((fpFmt false).largest false)) singleLargestInDouble
    singleLargestInDouble singleLargestInDouble singleLargestInDouble 0 0 := by
  simp only [FpFmt.convert_of_finite (read_largest false false)]
  exact eachMode_round_of_normal (by decide) (by decide) (by decide) (by decide) (by decide)

/-- Settles O31: each row of R345 by what its exact value is, in both formats. -/
theorem fpEdges : Obligations.FpEdges :=
  ⟨mul_smallest_half false, mul_smallest_half true, add_smallest_smallest false, add_smallest_smallest true,
    sub_smallest_smallest false, sub_smallest_smallest true, div_smallest_largest false, div_smallest_largest true,
    mul_smallest_largest false, mul_smallest_largest true, add_largest_smallest false, add_largest_smallest true,
    add_largest_largest false, add_largest_largest true, div_largest_smallest false, div_largest_smallest true,
    fma_largest_two_largest false, fma_largest_two_largest true, convert_smallest_single, convert_largest_single,
    convert_smallest_double, convert_largest_double, toInt_smallest false, toInt_smallest true, toInt_largest false, toInt_largest true⟩

end Sys2Proof.Machine
end

section
/-!
PROOF. The encoder and the decoder of the ledger core agree (R306 to R308).
-/

namespace Sys2Proof
open Machine

-- ---------------------------------------------------------------- the fields of a word of each format (R306)

section
variable (g : Guard) (major : BitVec 6) (rd rs rt : Reg) (func : BitVec 7) (imm : Imm12) (mode : BitVec 3) (f : BitVec 9) (disp : BitVec 22)

theorem fieldsOf_wordR :
    wbits (wordR g major rd rs rt func) 22 6 = major.toNat ∧ (fieldsOf (wordR g major rd rs rt func)).g = g ∧
      (fieldsOf (wordR g major rd rs rt func)).rd = rd ∧ (fieldsOf (wordR g major rd rs rt func)).rs = rs ∧
      (fieldsOf (wordR g major rd rs rt func)).rt = rt ∧ (fieldsOf (wordR g major rd rs rt func)).func = func.toNat := by
  refine ⟨congrArg BitVec.toNat ?_, ?_, ?_, ?_, ?_, congrArg BitVec.toNat ?_⟩ <;> ext i hi <;> simp [fieldsOf, wordR] <;> grind

theorem fieldsOf_wordI :
    wbits (wordI g major rd rs imm) 22 6 = major.toNat ∧ (fieldsOf (wordI g major rd rs imm)).g = g ∧
      (fieldsOf (wordI g major rd rs imm)).rd = rd ∧ (fieldsOf (wordI g major rd rs imm)).rs = rs ∧
      (fieldsOf (wordI g major rd rs imm)).imm = imm := by
  refine ⟨congrArg BitVec.toNat ?_, ?_, ?_, ?_, ?_⟩ <;> ext i hi <;> simp [fieldsOf, wordI] <;> grind

theorem fieldsOf_wordM :
    wbits (wordM g major rd rs mode f) 22 6 = major.toNat ∧ (fieldsOf (wordM g major rd rs mode f)).g = g ∧
      (fieldsOf (wordM g major rd rs mode f)).rd = rd ∧ (fieldsOf (wordM g major rd rs mode f)).rs = rs ∧
      (fieldsOf (wordM g major rd rs mode f)).mode = mode ∧ (fieldsOf (wordM g major rd rs mode f)).f = f := by
  refine ⟨congrArg BitVec.toNat ?_, ?_, ?_, ?_, ?_, ?_⟩ <;> ext i hi <;> simp [fieldsOf, wordM] <;> grind

theorem fieldsOf_wordB :
    wbits (wordB g major disp) 22 6 = major.toNat ∧ (fieldsOf (wordB g major disp)).g = g ∧ (fieldsOf (wordB g major disp)).disp = disp := by
  refine ⟨congrArg BitVec.toNat ?_, ?_, ?_⟩ <;> ext i hi <;> simp [fieldsOf, wordB] <;> grind

end

-- ---------------------------------------------------------------- fields inside fields

theorem toNat_append_eq_add {n m : Nat} (a : BitVec n) (b : BitVec m) : (a ++ b).toNat = 2 ^ m * a.toNat + b.toNat := by
  rw [BitVec.toNat_append, ← Nat.shiftLeft_add_eq_or_of_lt b.isLt, Nat.shiftLeft_eq, Nat.mul_comm]

/-- func[6] of a floating-point word is the format, the rest the operation (R332). -/
theorem toNat_fpFunc (dbl : Bool) (n : BitVec 6) : ((fpFunc dbl n).toNat / 64 == 1) = dbl ∧ (fpFunc dbl n).toNat % 64 = n.toNat := by
  have hn := n.isLt
  have hf : (fpFunc dbl n).toNat = 64 * dbl.toNat + n.toNat := by
    rw [fpFunc, toNat_append_eq_add]
    cases dbl <;> rfl
  cases dbl <;> simp [hf] <;> omega

/-- A func that holds an operation above a field of its own is split by them (R310, R359, R367). -/
theorem subFunc_fields {n m : Nat} (a : BitVec n) (b : BitVec m) : (a ++ b).toNat / 2 ^ m = a.toNat ∧ (a ++ b).setWidth m = b := by
  have hb := b.isLt
  constructor
  · rw [toNat_append_eq_add, Nat.mul_add_div (Nat.two_pow_pos m), Nat.div_eq_of_lt hb, Nat.add_zero]
  · ext i hi
    simp [BitVec.getLsbD_append, hi]

theorem decFunc_fields (op : BitVec 4) (pd : PredNo) : (decFunc op pd).toNat / 8 = op.toNat ∧ (decFunc op pd).setWidth 3 = pd :=
  subFunc_fields op pd

theorem custFunc_fields (n : BitVec 4) (sub : BitVec 3) :
    BitVec.ofNat 4 ((n ++ sub : BitVec 7).toNat / 8) = n ∧ (n ++ sub : BitVec 7).setWidth 3 = sub :=
  ⟨(congrArg _ (subFunc_fields n sub).1).trans (by simp), (subFunc_fields n sub).2⟩

/-- The low field of two. -/
theorem extractLsb'_append_low {n m : Nat} (a : BitVec n) (b : BitVec m) : (a ++ b).extractLsb' 0 m = b := by
  ext i hi
  simp [BitVec.getLsbD_append, hi]

theorem predField_low (p : PredNo) : (predField p).extractLsb' 0 3 = p := extractLsb'_append_low 0#2 p

theorem loopLevel_low (a : BitVec 3) (k : BitVec 2) : (a ++ k : BitVec 5).extractLsb' 0 2 = k := extractLsb'_append_low a k

theorem gate_low (gate : BitVec 4) : (0#8 ++ gate : BitVec 12).extractLsb' 0 4 = gate := extractLsb'_append_low 0#8 gate

/-- An operand that is spread over two fields is whole again (R314, R326). -/
theorem imm17_fields (imm : BitVec 17) : imm.extractLsb' 12 5 ++ imm.extractLsb' 0 12 = imm := by
  ext i hi
  simp
  grind

theorem count16_fields (count : BitVec 16) :
    (0#1 ++ count.extractLsb' 12 4 : BitVec 5).extractLsb' 0 4 ++ count.extractLsb' 0 12 = count := by
  ext i hi
  simp
  grind

theorem count8_fields (count : BitVec 8) (k : BitVec 2) :
    (count.extractLsb' 5 3 ++ k : BitVec 5).extractLsb' 2 3 ++ count.extractLsb' 0 5 = count := by
  ext i hi
  simp
  grind

-- ---------------------------------------------------------------- the statement

/-- Major 0x35 gives func[3:2] to the number of postings and func[1:0] to the modulo pair (R385). -/
theorem decodePost_fields (c : CoreId) (g : Guard) (major : BitVec 6) (rd rs rt : Reg) (m : BitVec 2) :
    decodePost c (fieldsOf (wordR g major rd rs rt (0#5 ++ m))) = some (.post c g m rd rs rt) ∧
    decodePost c (fieldsOf (wordR g major rd rs rt (1#5 ++ m))) = some (.post2 c g m rd rs rt) ∧
    decodePost c (fieldsOf (wordR g major rd rs rt (2#5 ++ m))) = some (.post4 c g m rd rs rt) := by
  obtain rfl | rfl | rfl | rfl : m = 0#2 ∨ m = 1#2 ∨ m = 2#2 ∨ m = 3#2 := by decide +revert
  all_goals simp [decodePost, fieldsOf_wordR]

/-- The major and func of an instruction's word name it, and its fields are where the format puts them. -/
theorem decodeMajor_encodeWord {c : CoreId} {g : Guard} {i : Instr} {w : BitVec 32} (hat : i.at? = some (c, g)) (h : encodeWord i = some w) :
    (fieldsOf w).g = g ∧ decodeMajor c (fieldsOf w) (wbits w 22 6) = some i := by
  cases i
  case tchkVerify | tchkForm =>
    cases hat
    cases h
    simp [fieldsOf_wordR, decodeMajor, decodePost]
  all_goals cases hat
  all_goals
    cases h
    simp [fieldsOf_wordR, fieldsOf_wordI, fieldsOf_wordM, fieldsOf_wordB, decodeMajor, decodeAlu, decodeMul, decodeShift, decodeCmp, decodeImm,
      decodeMem, decodeControl, decodeSystem, decodeFp, decodeFma, decodeDecimal, decodeConv, decodeString, decodePost_fields, toNat_fpFunc,
      decFunc_fields, custFunc_fields, predField_low, loopLevel_low, gate_low, imm17_fields, count16_fields, count8_fields]

/-- The reserved loop level aside, decoding is what major and func name. -/
theorem decodeWord_eq_instr {c : CoreId} {i : Instr} {w : BitVec 32} (hg : (fieldsOf w).g ≠ 1#4)
    (hm : decodeMajor c (fieldsOf w) (wbits w 22 6) = some i) (hk : i.encodable = true) : decodeWord c w = .instr i := by
  simp only [decodeWord, hm, if_neg hg]
  split
  · cases ‹_ = none›
  · cases ‹some _ = some _›
    rw [if_neg (by simp [Instr.encodable] at hk; exact hk.2)]
  · cases ‹some _ = some _›
    rw [if_neg (by simp [Instr.encodable] at hk; exact hk.2)]
  · cases ‹some _ = some _›
    rfl

theorem Instr.guard_of_encodable {c : CoreId} {g : Guard} {i : Instr} (hat : i.at? = some (c, g)) (hk : i.encodable = true) : g ≠ 1#4 := by
  unfold Instr.encodable at hk
  split at hk
  · cases hat
    exact bne_iff_ne.mp (Bool.and_eq_true .. ▸ hk).1
  · cases hat
    exact bne_iff_ne.mp (Bool.and_eq_true .. ▸ hk).1
  · rw [hat] at hk
    exact bne_iff_ne.mp hk

end Sys2Proof

namespace Sys2Proof.Machine

/-- Settles O2: major and func of the word name the instruction, and neither its guard nor its loop level is reserved. -/
theorem decodeEncode : Obligations.DecodeEncode := by
  intro c i g w hat hk h
  obtain ⟨hg, hm⟩ := decodeMajor_encodeWord hat h
  exact decodeWord_eq_instr (hg ▸ Instr.guard_of_encodable hat hk) hm hk

end Sys2Proof.Machine
end

section
/-!
PROOF. The queue (log 1), guards and encoding faults (R307, R308, R574).
-/

namespace Sys2Proof.Machine

/-- Settles O1: the front of the queue is what the step matches on. -/
theorem stepTakesFront : Obligations.StepTakesFront := fun _ _ _ => rfl

-- ---------------------------------------------------------------- every core instruction runs the shared path

theorem oddPair_eq (r : Reg) : oddPair r = if [r].any Reg.isOdd then some 0x04 else none := by
  simp [oddPair, oddReg, Reg.isOdd]

theorem firstEnc_oddPair (a b : Reg) : firstEnc (oddPair a) (oddPair b) = if [a, b].any Reg.isOdd then some 0x04 else none := by
  cases ha : oddReg a <;> cases hb : oddReg b <;> simp_all [oddPair, oddReg, Reg.isOdd, firstEnc]

/-- Every instruction but CUSTn runs as `State.runInstr` says, with the encoding fault that its fields alone decide (R574). -/
theorem exec_eq_runInstr {c : CoreId} {i : Instr} {g : Guard} (hat : i.at? = some (c, g))
    (hc : ∀ c g n sub rd rs rt, i ≠ .cust c g n sub rd rs rt) (s : State) :
    ∃ enc fcost body, i.encFault = enc ∧ exec i s = s.runInstr c i g enc (resumable i) (transfers i) fcost body := by
  cases i
  case cust => exact absurd rfl (hc _ _ _ _ _ _ _)
  all_goals cases hat
  case divqr rd _ _ | divqru rd _ _ | ldd rd _ _ _ | std rd _ _ _ | krd rd _ | cvpb _ rd _ _ | cvbp _ _ rd _ | mvs rd _ | scns rd _
    | trs rd _ | trts rd _ _ | crcs rd => exact ⟨oddPair rd, _, _, (oddPair_eq rd).symm, rfl⟩
  case mvsf rd rs _ | cmps rd rs _ | edit rd rs _ =>
    exact ⟨firstEnc (oddPair rd) (oddPair rs), _, _, (firstEnc_oddPair rd rs).symm, rfl⟩
  case fadd dbl _ _ _ | fsub dbl _ _ _ | fmul dbl _ _ _ | fdiv dbl _ _ _ | fneg dbl _ _ | fabs dbl _ _ | fmov dbl _ _ | fcmpeq dbl _ _ _
    | fcmplt dbl _ _ _ | fcmple dbl _ _ _ | fcvtf dbl _ _ | fcvti dbl _ _ | fcvtfi dbl _ _ | fma dbl _ _ _ | fms dbl _ _ _
    | fnma dbl _ _ _ =>
    cases dbl <;> exact ⟨_, _, _, rfl, rfl⟩
  all_goals exact ⟨_, _, _, rfl, rfl⟩

/-- Settles O10: with no encoding fault, a guard that fails leaves only the completion. -/
theorem guardFalse : Obligations.GuardFalse := by
  intro s c i g hat hc henc hm hr hg hx he
  obtain ⟨enc, fcost, body, rfl, hrun⟩ := exec_eq_runInstr hat hc s
  rw [henc] at hrun
  exact ⟨fcost, hrun.trans ((runInstr_guard_false i fcost body hm hr hg hx).trans (finish_done i fcost he))⟩

-- ---------------------------------------------------------------- reserved words (R308)

theorem decodeWord_reserved {c : CoreId} {w : Word} {code : Nat} (h : decodeWord c w = .reserved code) :
    code = if w.extractLsb' 28 4 = 1#4 then 0x02 else 0x01 := by
  simp only [decodeWord] at h
  split at h
  next hg => exact (Decoded.reserved.inj h).symm.trans (if_pos hg).symm
  next hg =>
    refine Eq.trans ?_ (if_neg hg).symm
    split at h
    · exact (Decoded.reserved.inj h).symm
    · split at h
      · exact (Decoded.reserved.inj h).symm
      · cases h
    · split at h
      · exact (Decoded.reserved.inj h).symm
      · cases h
    · cases h

/-- A reserved word raises vector 4 at itself with the code of its encoding. -/
theorem exec_illegalInstruction {s : State} {c : CoreId} {w : Word} {code : Nat} (h : decodeWord c w = .reserved code) (hm : s.meets c false) :
    Enters s (s.fetched c) c (.illegalInstruction c w) (trapAt 4 code (s.pcOf c)) := by
  obtain ⟨hready, hskip, hbrk, hfetch⟩ := hm
  simp only [State.due, State.rsOf, State.fetches, State.pcOf] at hskip hbrk hfetch
  show execIllegalInstruction c w s = _
  unfold execIllegalInstruction
  simp only [h]
  rw [if_neg (by simp [hready]), if_neg (by simpa using hskip), if_neg (by simp [hbrk])]
  split
  · next heq => rw [heq] at hfetch; simp at hfetch
  · next heq => simp only [State.fetched, State.due, State.pcOf, heq, State.rsOf]

/-- Settles O11: the faults that the fields decide by the shared path, reserved words by what the decoder answers for them. -/
theorem encodingFaults : Obligations.EncodingFaults := by
  refine ⟨fun s c i g code hat hc hm => ?faults, fun c w code h => ?codes, fun c => rfl, fun s c w code h hm => exec_illegalInstruction h hm⟩
  case faults =>
    obtain ⟨enc, fcost, body, rfl, hrun⟩ := exec_eq_runInstr hat hc s
    obtain ⟨hreserved, hcode⟩ := runInstr_encoding i (transfers i) fcost body code hm (g := g)
    refine ⟨fun hg => hrun.trans (hreserved hg _), fun hg he => ?_⟩
    rw [he] at hrun
    exact hrun.trans (hcode hg)
  case codes =>
    rw [decodeWord_reserved h]
    split <;> simp_all

end Sys2Proof.Machine
end

section
/-!
PROOF. Exception entry and return (R393 to R397, R407), and what completion does (R297, R300, R303).
-/

namespace Sys2Proof.Machine

-- ---------------------------------------------------------------- the mode shadow in force (R395, R420)

theorem Core.applyOne_regs (k : Core) (num : Nat) (v : Word) : (k.applyOne num v).regs = k.regs := by
  unfold Core.applyOne
  split <;> rfl

@[simp] theorem Core.applyAll_regs (k : Core) : k.applyAll.regs = k.regs :=
  List.foldlRecOn (motive := fun a : Core => a.regs = k.regs) k.shadow _ rfl fun a ha x _ => (a.applyOne_regs x.num x.val).trans ha

@[simp] theorem Core.applyAll_shadow (k : Core) : k.applyAll.shadow = [] := rfl

theorem Core.applyAll_of_empty {k : Core} (h : k.shadow = []) : k.applyAll = k := by
  cases k
  simp only at h
  subst h
  rfl

-- ---------------------------------------------------------------- entry, register by register (R393, R395)

/-- The saved pairs are four, apart from STAT, ECAUSE and EADDR. -/
theorem savedPc_cases (vec : Nat) : savedPc vec = 0x050 ∨ savedPc vec = 0x04C ∨ savedPc vec = 0x048 ∨ savedPc vec = 0x044 := by
  unfold savedPc
  split
  · exact .inl rfl
  · split
    · exact .inr (.inl rfl)
    · split
      · exact .inr (.inr (.inl rfl))
      · exact .inr (.inr (.inr rfl))

section
variable (k : Core) (vec : Nat) (cause : Option Trap) (t : Trap) (pc : Word) (rs : Bool)

@[simp] theorem Core.enter_regs : (k.enter vec cause pc rs).regs = k.regs := by
  cases cause <;> exact k.applyAll_regs

@[simp] theorem Core.enter_shadow : (k.enter vec cause pc rs).shadow = [] := by
  cases cause <;> rfl

@[simp] theorem Core.enter_rs : (k.enter vec cause pc rs).rs = false := rfl

@[simp] theorem Core.enter_run : (k.enter vec cause pc rs).run = .running := rfl

@[simp] theorem Core.enter_wait : (k.enter vec cause pc rs).wait = none := rfl

/-- The special registers that entry leaves: STAT last, before it ECAUSE and EADDR, before them the saved pair. -/
theorem Core.enter_sr : (k.enter vec cause pc rs).sr =
    ((match cause with
      | some t => ((((k.applyAll.srSet (savedPc vec) (pc &&& 0xFFFFFFFC#32)).srSet (savedPc vec + 1)
          (if rs then k.applyAll.stat ||| statRS else k.applyAll.stat &&& ~~~ statRS)).srSet 0x041 t.ecause).srSet 0x042 t.eaddr)
      | none => (k.applyAll.srSet (savedPc vec) (pc &&& 0xFFFFFFFC#32)).srSet (savedPc vec + 1)
          (if rs then k.applyAll.stat ||| statRS else k.applyAll.stat &&& ~~~ statRS)).srSet 0 (entryStat vec k.applyAll.stat)).sr := by
  cases cause <;> rfl

@[simp] theorem Core.enter_stat : (k.enter vec cause pc rs).stat = entryStat vec k.applyAll.stat := by
  rw [Core.stat, Core.srGet_congr (k.enter_sr ..), Core.srGet_srSet]

theorem Core.enter_savedPc : (k.enter vec cause pc rs).srGet (savedPc vec) = pc &&& 0xFFFFFFFC#32 := by
  rw [Core.srGet_congr (k.enter_sr ..)]
  cases cause <;> obtain h | h | h | h := savedPc_cases vec <;> simp [h, Core.srGet_srSet_ne]

theorem Core.enter_savedStat : (k.enter vec cause pc rs).srGet (savedPc vec + 1) =
    if rs then k.applyAll.stat ||| statRS else k.applyAll.stat &&& ~~~ statRS := by
  rw [Core.srGet_congr (k.enter_sr ..)]
  cases cause <;> obtain h | h | h | h := savedPc_cases vec <;> simp [h, Core.srGet_srSet_ne]

@[simp] theorem Core.enter_ecause : (k.enter vec (some t) pc rs).srGet 0x041 = t.ecause := by
  rw [Core.srGet_congr (k.enter_sr ..)]
  simp [Core.srGet_srSet_ne]

@[simp] theorem Core.enter_eaddr : (k.enter vec (some t) pc rs).srGet 0x042 = t.eaddr := by
  rw [Core.srGet_congr (k.enter_sr ..)]
  simp [Core.srGet_srSet_ne]

/-- No other special register changes; without a cause ECAUSE and EADDR are among them. -/
theorem Core.enter_srGet_ne {n : Nat} (h0 : n ≠ 0) (hc : cause = none ∨ n ≠ 0x041 ∧ n ≠ 0x042) (hp : n ≠ savedPc vec)
    (hs : n ≠ savedPc vec + 1) : (k.enter vec cause pc rs).srGet n = k.applyAll.srGet n := by
  rw [Core.srGet_congr (k.enter_sr ..), Core.srGet_srSet_ne _ _ h0]
  cases cause with
  | none => simp only; rw [Core.srGet_srSet_ne _ _ hs, Core.srGet_srSet_ne _ _ hp]
  | some t =>
    obtain ⟨h1, h2⟩ := hc.resolve_left (by simp)
    simp only
    rw [Core.srGet_srSet_ne _ _ h2, Core.srGet_srSet_ne _ _ h1, Core.srGet_srSet_ne _ _ hs, Core.srGet_srSet_ne _ _ hp]

/-- Execution goes on in the vector's slot (R395). -/
@[simp] theorem Core.enter_pc : (k.enter vec cause pc rs).pc = k.applyAll.srGet 0x040 + BitVec.ofNat 32 (32 * vec) := by
  have h : (k.enter vec cause pc rs).pc = (k.enter vec cause pc rs).srGet 0x040 + BitVec.ofNat 32 (32 * vec) := by
    rw [Core.srGet_congr (k.enter_sr ..)]
    cases cause <;> rfl
  rw [h, Core.enter_srGet_ne]
  · decide
  · exact .inr (by decide)
  all_goals obtain h | h | h | h := savedPc_cases vec <;> simp [h]

end

-- ---------------------------------------------------------------- STAT through entry (R396)

/-- What entry keeps of STAT: DZT, DOT and the sticky bits always, FE and MCE by the vector's class. -/
def entryKept (vec : Nat) : Word :=
  if vec = 0 then 0x003000E0#32 else if vec = 1 ∨ vec = 3 ∨ vec = 16 then 0x003800E0#32 else 0x403800E0#32

theorem entryStat_eq (vec : Nat) (st : Word) :
    entryStat vec st = (st &&& entryKept vec) ||| (if vec = 3 ∨ vec = 16 then 0x8000#32 else 0x9000#32) := by
  unfold entryStat entryKept
  by_cases h0 : vec = 0
  · simp [h0, BitVec.and_assoc]
  · by_cases h1 : vec = 1 ∨ vec = 3 ∨ vec = 16 <;> simp [h0, h1, BitVec.and_assoc]

/-- A field of STAT that entry clears, or that it names, does not depend on what STAT held. -/
theorem extractLsb'_masked (st m b : Word) (lo n : Nat) (h : m.extractLsb' lo n = 0) :
    ((st &&& m) ||| b).extractLsb' lo n = b.extractLsb' lo n := by
  rw [BitVec.extractLsb'_or, BitVec.extractLsb'_and, h]
  simp

/-- A field that it keeps whole is the field of what STAT held. -/
theorem extractLsb'_kept (st m b : Word) (lo n : Nat) (hm : m.extractLsb' lo n = BitVec.allOnes n) (hb : b.extractLsb' lo n = 0) :
    ((st &&& m) ||| b).extractLsb' lo n = st.extractLsb' lo n := by
  rw [BitVec.extractLsb'_or, BitVec.extractLsb'_and, hm, hb]
  simp

section
variable (vec : Nat) (st : Word)

theorem entryKept_cases : entryKept vec = 0x003000E0#32 ∨ entryKept vec = 0x003800E0#32 ∨ entryKept vec = 0x403800E0#32 := by
  unfold entryKept
  split
  · exact .inl rfl
  · split
    · exact .inr (.inl rfl)
    · exact .inr (.inr rfl)

/-- The fields that entry clears: IE and RING, KEY and CT with RS below it, EDS. -/
theorem entryStat_cleared : (entryStat vec st).getLsbD 31 = false ∧ (entryStat vec st).extractLsb' 28 2 = 0 ∧
    (entryStat vec st).extractLsb' 24 4 = 0 ∧ (entryStat vec st).getLsbD 23 = false ∧ (entryStat vec st).extractLsb' 8 4 = 0 := by
  rw [entryStat_eq]
  obtain h | h | h := entryKept_cases vec <;> rw [h] <;> split <;> 
    refine ⟨?_, extractLsb'_masked _ _ _ _ _ rfl, extractLsb'_masked _ _ _ _ _ rfl, ?_, extractLsb'_masked _ _ _ _ _ rfl⟩ <;> simp

/-- The fields that it keeps in every class: DZT, DOT and the sticky bits. -/
theorem entryStat_kept : (entryStat vec st).getLsbD 21 = st.getLsbD 21 ∧ (entryStat vec st).getLsbD 20 = st.getLsbD 20 ∧
    (entryStat vec st).extractLsb' 5 3 = st.extractLsb' 5 3 := by
  rw [entryStat_eq]
  obtain h | h | h := entryKept_cases vec <;> rw [h] <;> split <;>
    refine ⟨?_, ?_, extractLsb'_kept _ _ _ _ _ rfl rfl⟩ <;> simp

theorem entryStat_bank : (entryStat vec st).extractLsb' 12 4 = if vec = 3 ∨ vec = 16 then 8#4 else 9#4 := by
  rw [entryStat_eq]
  obtain h | h | h := entryKept_cases vec <;> rw [h] <;> split <;> exact extractLsb'_masked _ _ _ _ _ rfl

theorem entryStat_fe : (entryStat vec st).getLsbD 30 = (st.getLsbD 30 && decide (¬ (vec = 0 ∨ vec = 1 ∨ vec = 3 ∨ vec = 16))) := by
  rw [entryStat_eq, entryKept]
  by_cases h0 : vec = 0
  · simp [h0]
  · by_cases h1 : vec = 1 ∨ vec = 3 ∨ vec = 16
    · simp [h0, h1]
      split <;> simp
    · simp [h0, h1]
      split <;> simp

theorem entryStat_mce : (entryStat vec st).getLsbD 19 = (st.getLsbD 19 && decide (vec ≠ 0)) := by
  rw [entryStat_eq, entryKept]
  by_cases h0 : vec = 0
  · simp [h0]
  · by_cases h1 : vec = 1 ∨ vec = 3 ∨ vec = 16 <;> simp [h0, h1] <;> split <;> simp

end

/-- A saved status is STAT with RS in its place (R393). -/
theorem savedStat_getLsbD (st : Word) (rs : Bool) {i : Nat} (hi : i < 32) :
    (if rs then st ||| statRS else st &&& ~~~ statRS).getLsbD i = if i = 22 then rs else st.getLsbD i := by
  have h : statRS = BitVec.twoPow 32 22 := rfl
  by_cases h22 : i = 22 <;> cases rs <;> simp [h, h22, hi]

/-- Settles O12: the registers that entry writes, each read back; STAT field by field; every other register by the frame of entry. -/
theorem exceptionEntry : Obligations.ExceptionEntry := by
  refine ⟨fun k t pc rs _ => ?caused, fun k vec pc rs h => ?uncaused⟩
  case caused =>
    obtain ⟨hie, hring, hkey, hct, heds⟩ := entryStat_cleared t.vec k.applyAll.stat
    obtain ⟨hdzt, hdot, hsticky⟩ := entryStat_kept t.vec k.applyAll.stat
    have hbank := entryStat_bank t.vec k.applyAll.stat
    have hstat := k.enter_stat t.vec (some t) pc rs
    have hsaved := k.enter_savedStat t.vec (some t) pc rs
    refine ⟨k.enter_pc .., k.enter_savedPc .., ?rs, ?status, k.enter_ecause .., k.enter_eaddr .., ?ie, ?fe, ?ring, ?key, ?ct, rfl, ?mce,
      ?bank, ?eds, ?dzt, ?dot, ?sticky, k.enter_regs .., k.enter_shadow .., fun n h0 h1 h2 hp hs =>
        k.enter_srGet_ne _ _ _ _ h0 (.inr ⟨h1, h2⟩) hp hs⟩
    case rs => rw [hsaved, savedStat_getLsbD _ _ (by decide), if_pos rfl]
    case status => intro i hi hne; rw [hsaved, savedStat_getLsbD _ _ hi, if_neg hne]
    case ie => rw [Core.ie, hstat]; exact hie
    case fe => rw [Core.fe, hstat]; exact entryStat_fe ..
    case ring => rw [Core.ring, hstat, hring]; rfl
    case key => rw [Core.key, hstat, hkey]; rfl
    case ct => rw [Core.ct, hstat]; exact hct
    case mce => rw [Core.mce, hstat]; exact entryStat_mce ..
    case bank => rw [Core.bank, hstat, hbank]; split <;> rfl
    case eds => exact hstat ▸ heds
    case dzt => rw [Core.dzt, hstat]; exact hdzt
    case dot => rw [Core.dot, hstat]; exact hdot
    case sticky => rw [hstat]; exact hsticky
  case uncaused =>
    have hne : ∀ n, n = 0x041 ∨ n = 0x042 → (k.enter vec none pc rs).srGet n = k.applyAll.srGet n := by
      intro n hn
      refine k.enter_srGet_ne _ _ _ _ (by omega) (.inl rfl) ?_ ?_ <;> obtain hs | hs | hs | hs := savedPc_cases vec <;> omega
    exact ⟨hne _ (.inl rfl), hne _ (.inr rfl), k.enter_pc .., k.enter_savedPc ..⟩

-- ---------------------------------------------------------------- return (R407)

theorem Core.touchBank_regs (k : Core) (b : Nat) : (k.touchBank b).regs = k.regs := by
  unfold Core.touchBank
  split <;> rfl

theorem Core.touchBank_sr (k : Core) (b : Nat) : (k.touchBank b).sr = k.sr := by
  unfold Core.touchBank
  split <;> rfl

@[simp] theorem Core.resume_regs (k : Core) (pc : Word) (rs : Bool) : (k.resume pc rs).regs = k.regs := k.touchBank_regs _

theorem Core.resume_srGet (k : Core) (pc : Word) (rs : Bool) (n : Nat) : (k.resume pc rs).srGet n = k.srGet n :=
  Core.srGet_congr (k.touchBank_sr _) n

@[simp] theorem Core.resume_stat (k : Core) (pc : Word) (rs : Bool) : (k.resume pc rs).stat = k.stat := k.resume_srGet pc rs 0

@[simp] theorem Core.stat_srSet (k : Core) (v : Word) : (k.srSet 0 v).stat = v := k.srGet_srSet 0 v

/-- RS is no field that a return restores into STAT. -/
theorem restoredStat_saved (st : Word) (rs : Bool) :
    restoredStat (if rs then st ||| statRS else st &&& ~~~ statRS) = st &&& (statMask ||| 0xF000#32) := by
  refine BitVec.eq_of_getLsbD_eq fun i hi => ?_
  have h22 : (statMask ||| 0xF000#32).getLsbD 22 = false := rfl
  rw [restoredStat, BitVec.getLsbD_and, BitVec.getLsbD_and, savedStat_getLsbD st rs hi]
  split
  · next h => rw [h, h22, Bool.and_false, Bool.and_false]
  · rfl

/-- Settles O13: the saved pair is read back as entry wrote it. -/
theorem returnRestores : Obligations.ReturnRestores := by
  intro k t pc rs hvec hk
  have hp : savedPc t.vec = 0x044 := by obtain h | h | h | h := hvec <;> rw [h] <;> rfl
  have hpc := k.enter_savedPc t.vec (some t) pc rs
  have hst := k.enter_savedStat t.vec (some t) pc rs
  rw [hp] at hpc hst
  rw [Core.applyAll_of_empty hk] at hst
  refine ⟨?pc, ?rs, ?stat, ?regs⟩
  case pc => simp only [Core.resume, hpc, BitVec.and_assoc, BitVec.and_self]
  case rs => exact (congrArg (BitVec.getLsbD · 22) hst).trans ((savedStat_getLsbD _ _ (by decide)).trans (if_pos rfl))
  case stat => simp only [Core.resume_stat, Core.stat_srSet]; rw [hst, restoredStat_saved]
  case regs => exact (Core.resume_regs ..).trans ((Core.srSet_regs ..).trans (Core.enter_regs ..))

-- ---------------------------------------------------------------- the loop check (R297)

section
variable (k : Core) (pc : Word)

@[simp] theorem Core.lc_srSet (i : Nat) (v : Word) : (k.srSet (0x00C + i) v).lc i = v := k.srGet_srSet _ v

theorem Core.lc_srSet_ne {i n : Nat} (v : Word) (h : 0x00C + i ≠ n) : (k.srSet n v).lc i = k.lc i := k.srGet_srSet_ne v h

theorem Core.ls_srSet_lc {i : Nat} (j : Nat) (v : Word) (h : i < 8) : (k.srSet (0x00C + j) v).ls i = k.ls i := by
  rw [Core.ls, k.srGet_srSet_ne v (by omega), Core.ls]

theorem Core.le_srSet_lc {i : Nat} (j : Nat) (v : Word) (h : i < 4) : (k.srSet (0x00C + j) v).le i = k.le i :=
  k.srGet_srSet_ne v (by omega)

/-- Counting one level down decides nothing of another. -/
theorem Core.loopHit_srSet_lc {i j : Nat} (v : Word) (hi : i < 4) (h : i ≠ j) : (k.srSet (0x00C + j) v).loopHit pc i = k.loopHit pc i := by
  rw [Core.loopHit, k.lc_srSet_ne v (by omega), k.le_srSet_lc j v hi, Core.loopHit]

theorem Core.loopNext_hit {i : Nat} (t : List Nat) (h : k.loopHit pc i = true) (hi : i < 8) : k.loopNext pc (i :: t) =
    if k.lc i ≠ 1 then (k.srSet (0x00C + i) (k.lc i - 1), k.ls i) else (k.srSet (0x00C + i) (k.lc i - 1)).loopNext pc t := by
  have hne : k.lc i - 1 ≠ 0 ↔ k.lc i ≠ 1 := by
    rw [ne_eq, ne_eq, BitVec.sub_eq_iff_eq_add]
    rfl
  simp only [Core.loopNext, h, if_true, hne, k.ls_srSet_lc i _ hi]

theorem Core.loopNext_skip {i : Nat} (t : List Nat) (h : k.loopHit pc i = false) : k.loopNext pc (i :: t) = k.loopNext pc t := by
  simp only [Core.loopNext, h, Bool.false_eq_true, if_false]

theorem Core.loopNext_none {l : List Nat} (h : ∀ j ∈ l, k.loopHit pc j = false) : k.loopNext pc l = (k, pc + 4) := by
  induction l with
  | nil => rfl
  | cons j t ih => rw [k.loopNext_skip pc t (h j List.mem_cons_self), ih fun i hi => h i (List.mem_cons_of_mem _ hi)]

/-- The check sets counts of the levels it walks, and nothing else. -/
theorem Core.loopNext_frame (l : List Nat) (k : Core) :
    (k.loopNext pc l).1.regs = k.regs ∧ ∀ n, (∀ j ∈ l, n ≠ 0x00C + j) → (k.loopNext pc l).1.srGet n = k.srGet n := by
  induction l generalizing k with
  | nil => exact ⟨rfl, fun _ _ => rfl⟩
  | cons j t ih =>
    have hset := fun (v : Word) (n : Nat) (hn : ∀ i ∈ j :: t, n ≠ 0x00C + i) => k.srGet_srSet_ne v (hn j List.mem_cons_self)
    have htail := fun (n : Nat) (hn : ∀ i ∈ j :: t, n ≠ 0x00C + i) i (hi : i ∈ t) => hn i (List.mem_cons_of_mem _ hi)
    simp only [Core.loopNext]
    split
    · split
      · exact ⟨rfl, fun n hn => hset _ n hn⟩
      · obtain ⟨hregs, hsr⟩ := ih (k.srSet (0x00C + j) (k.lc j - 1))
        exact ⟨hregs, fun n hn => (hsr n (htail n hn)).trans (hset _ n hn)⟩
    · obtain ⟨hregs, hsr⟩ := ih k
      exact ⟨hregs, fun n hn => hsr n (htail n hn)⟩

theorem Core.loopNext_lc {l : List Nat} (k : Core) {i : Nat} (h : i ∉ l) : (k.loopNext pc l).1.lc i = k.lc i :=
  (Core.loopNext_frame pc l k).2 _ fun j hj he => h ((by omega : i = j) ▸ hj)

/-- The highest level that ends at the address: its count falls; while it is not the last, execution goes on at its start and no other count
changes; after the last, execution goes on behind it when no lower level ends there. -/
theorem Core.loopNext_level {i : Nat} {t : List Nat} (h : k.loopHit pc i = true) (hi : i < 3) (ht : ∀ j ∈ t, j < i) :
    (k.loopNext pc (i :: t)).1.lc i = k.lc i - 1 ∧
    (k.lc i ≠ 1 → (k.loopNext pc (i :: t)).2 = k.ls i ∧ ∀ j, j ≠ i → (k.loopNext pc (i :: t)).1.lc j = k.lc j) ∧
    (k.lc i = 1 → (∀ j, j < i → k.loopHit pc j = false) → (k.loopNext pc (i :: t)).2 = pc + 4) := by
  rw [k.loopNext_hit pc t h (by omega)]
  have hmem : i ∉ t := fun hm => Nat.lt_irrefl i (ht i hm)
  split
  next hl => exact ⟨k.lc_srSet i _, fun _ => ⟨rfl, fun j hj => k.lc_srSet_ne _ (by omega)⟩, fun h1 => absurd h1 hl⟩
  next hl =>
    refine ⟨(Core.loopNext_lc pc _ hmem).trans (k.lc_srSet i _), fun h1 => absurd h1 hl, fun _ hlow => ?_⟩
    rw [Core.loopNext_none]
    intro j hj
    have hji := ht j hj
    rw [k.loopHit_srSet_lc pc _ (by omega) (by omega)]
    exact hlow j hji

/-- The check begins at the highest level that ends at the address. -/
theorem Core.loopCheck_eq {i : Nat} (hi : i < 3) (hi' : ∀ j, j < 3 → i < j → k.loopHit pc j = false) :
    ∃ t, (∀ j ∈ t, j < i) ∧ k.loopCheck pc = k.loopNext pc (i :: t) := by
  obtain rfl | rfl | rfl : i = 0 ∨ i = 1 ∨ i = 2 := by omega
  · refine ⟨[], by simp, ?_⟩
    rw [Core.loopCheck, k.loopNext_skip _ _ (hi' 2 (by omega) (by omega)), k.loopNext_skip _ _ (hi' 1 (by omega) (by omega))]
  · refine ⟨[0], by simp, ?_⟩
    rw [Core.loopCheck, k.loopNext_skip _ _ (hi' 2 (by omega) (by omega))]
  · exact ⟨[1, 0], by simp, rfl⟩

theorem Core.loopCheck_none (h : k.loopEndAt pc = false) : k.loopCheck pc = (k, pc + 4) := by
  simp only [Core.loopEndAt, Bool.or_eq_false_iff, and_assoc] at h
  obtain ⟨h0, h1, h2⟩ := h
  exact k.loopNext_none pc (by simp [h0, h1, h2])

end

-- ---------------------------------------------------------------- completion (R300, R303)

/-- RC is no register of a loop. -/
theorem Core.rc_frame (k : Core) (pc : Word) (v : Word) (i : Nat) (h : i < 3) :
    (k.srSet 2 v).lc i = k.lc i ∧ (k.srSet 2 v).ls i = k.ls i ∧ (k.srSet 2 v).loopHit pc i = k.loopHit pc i := by
  have hlc : (k.srSet 2 v).lc i = k.lc i := k.lc_srSet_ne v (by omega)
  have hle : (k.srSet 2 v).le i = k.le i := k.srGet_srSet_ne v (by omega)
  refine ⟨hlc, ?_, ?_⟩
  · rw [Core.ls, k.srGet_srSet_ne v (by omega), Core.ls]
  · rw [Core.loopHit, hlc, hle, Core.loopHit]

/-- The core whose loops are checked at completion: the last repetition has cleared RC (R303). -/
def Core.counted (k : Core) (rep : Bool) : Core := if rep then k.srSet 2 0 else k

theorem Core.counted_frame (k : Core) (pc : Word) (rep : Bool) :
    (k.counted rep).regs = k.regs ∧ (rep = true → (k.counted rep).rc = 0) ∧
    ∀ i, i < 3 → (k.counted rep).lc i = k.lc i ∧ (k.counted rep).ls i = k.ls i ∧ (k.counted rep).loopHit pc i = k.loopHit pc i := by
  cases rep
  · exact ⟨rfl, nofun, fun _ _ => ⟨rfl, rfl, rfl⟩⟩
  · refine ⟨rfl, fun _ => ?_, fun i hi => k.rc_frame pc 0 i hi⟩
    simp [Core.counted, Core.rc]

theorem Core.advance_last (k : Core) (pc : Word) {rep : Bool} (h : ¬ (rep = true ∧ k.rc > 1)) : k.advance pc rep =
    { ((k.counted rep).loopCheck pc).1 with pc := ((k.counted rep).loopCheck pc).2, rs := false, micro := none } := by
  unfold Core.advance
  rw [if_neg h]
  rfl

theorem Core.rc_lt (k : Core) : k.rc < 65536 := Nat.mod_lt _ (by decide)

/-- Settles O14: a repetition by its own case, every other completion by the loop check. -/
theorem completionAdvances : Obligations.CompletionAdvances := by
  refine ⟨fun k pc h => ?repeat_, fun k pc rep h => ?last⟩
  case repeat_ =>
    have hrc := k.rc_lt
    have hadv : k.advance pc true = { k.srSet 2 (BitVec.ofNat 32 (k.rc - 1)) with pc := pc, rs := true } := if_pos ⟨rfl, h⟩
    rw [hadv]
    refine ⟨rfl, rfl, ?_, fun i hi => (k.rc_frame pc _ i hi).1, rfl⟩
    show ((k.srSet 2 (BitVec.ofNat 32 (k.rc - 1))).srGet 2).toNat % 65536 = _
    rw [Core.srGet_srSet, BitVec.toNat_ofNat]
    omega
  case last =>
    rw [k.advance_last pc h]
    obtain ⟨hregs, hrc, hlvl⟩ := k.counted_frame pc rep
    have hframe := Core.loopNext_frame pc [2, 1, 0] (k.counted rep)
    refine ⟨rfl, fun hrep => ?rc, hframe.1.trans hregs, fun hend => ?none_, fun i hi hhit hhigh => ?level⟩
    case rc =>
      refine Eq.trans ?_ (hrc hrep)
      exact congrArg (·.toNat % 65536) (hframe.2 2 (by simp))
    case none_ =>
      have hend' : (k.counted rep).loopEndAt pc = false := by
        simpa only [Core.loopEndAt, (hlvl 0 (by omega)).2.2, (hlvl 1 (by omega)).2.2, (hlvl 2 (by omega)).2.2] using hend
      rw [(k.counted rep).loopCheck_none pc hend']
      exact ⟨rfl, fun i hi => (hlvl i hi).1⟩
    case level =>
      obtain ⟨hlc, hls, hhit'⟩ := hlvl i hi
      obtain ⟨t, ht, hcheck⟩ := (k.counted rep).loopCheck_eq pc hi fun j hj hij => (hlvl j hj).2.2.trans (hhigh j hj hij)
      obtain ⟨hcount, hback, hpast⟩ := (k.counted rep).loopNext_level pc (hhit'.trans hhit) hi ht
      rw [hcheck]
      rw [hlc] at hcount hback hpast
      refine ⟨hcount, fun h1 => ⟨(hback h1).1.trans hls, fun j hj hne => ((hback h1).2 j hne).trans (hlvl j hj).1⟩, fun h1 hlow => hpast h1 ?_⟩
      exact fun j hj => (hlvl j (by omega)).2.2.trans (hlow j hj)

end Sys2Proof.Machine
end

section
/-!
PROOF. The binary unit: immediates and constants (R313, R314), the multiplier and the divider (R316, R319 to R321).
-/

namespace Sys2Proof.Machine

-- ---------------------------------------------------------------- immediates and constants (R313, R314)

section
variable {s : State} {c : CoreId} {g : Guard} {i : Instr} {rd : Reg} {imm : BitVec 17} {f : Word → Word → Word}

/-- LIH and LIL with their reserved bit clear replace a half of the register. -/
theorem halfConst_result (hi : imm.getLsbD 16 = false) (h : exec i s = s.halfConst i c g rd imm f) :
    CoreResult s c g i (cc 1) fun k => k.setReg rd (f (k.reg rd) ((imm.extractLsb' 0 16).zeroExtend 32)) := by
  refine core_result (h.trans ?_)
  unfold State.halfConst
  simp only [hi, Bool.false_eq_true, if_false]

/-- With that bit set they are an undefined case (R309). -/
theorem halfConst_undefined (hi : imm.getLsbD 16 = true) (h : exec i s = s.halfConst i c g rd imm f) (hx : s.executes c i g false) :
    exec i s = .next ((s.fetched c).havoc c) := by
  rw [h, State.halfConst, runInstr_executes _ _ _ hx]
  simp only [hi, if_true]
  rfl

end

theorem lih_halves (a : Word) (h : BitVec 16) : (h.zeroExtend 32 <<< 16) ||| (a &&& 0x0000FFFF#32) = h ++ a.extractLsb' 0 16 := by
  have hm (i : Nat) (hi : i < 32) : (0x0000FFFF#32)[i] = decide (i < 16) := by decide +revert
  ext i hi
  simp only [BitVec.getElem_or, BitVec.getElem_and, BitVec.getElem_shiftLeft, hm]
  grind

theorem lil_halves (a : Word) (h : BitVec 16) : (a &&& 0xFFFF0000#32) ||| h.zeroExtend 32 = a.extractLsb' 16 16 ++ h := by
  have hm (i : Nat) (hi : i < 32) : (0xFFFF0000#32)[i] = decide (16 ≤ i) := by decide +revert
  ext i hi
  simp only [BitVec.getElem_or, BitVec.getElem_and, hm]
  grind

/-- Settles O5: each instruction is the ALU form of one register, or a half constant, with the function that R313 and R314 give it. -/
theorem immediates : Obligations.Immediates := by
  intro s c g rd rs imm i17
  refine ⟨?addi, ?andi, ?ori, ?xori, ?li, fun h => ⟨?lih, ?lil⟩, fun h => ⟨?lihUndef, ?lilUndef⟩⟩
  case addi =>
    refine (alu1_result (· + immS imm) (addV · (immS imm)) rfl).congr fun k => ?_
    have himm : (imm.signExtend 32).toInt = imm.toInt := BitVec.toInt_signExtend_of_le (by decide)
    rw [addV, immS, himm]
  case andi => exact alu1_noV_result (· &&& immZ imm) rfl
  case ori => exact alu1_noV_result (· ||| immZ imm) rfl
  case xori => exact alu1_noV_result (· ^^^ immZ imm) rfl
  case li => exact core_result rfl
  case lihUndef => exact halfConst_undefined (i := .lih c g rd i17) (f := fun old i => (i <<< 16) ||| (old &&& 0x0000FFFF#32)) h rfl
  case lilUndef => exact halfConst_undefined (i := .lil c g rd i17) (f := fun old i => (old &&& 0xFFFF0000#32) ||| i) h rfl
  case lih => exact (halfConst_result (f := fun old i => (i <<< 16) ||| (old &&& 0x0000FFFF#32)) h rfl).congr fun k => congrArg (k.setReg rd) (lih_halves ..)
  case lil => exact (halfConst_result (f := fun old i => (old &&& 0xFFFF0000#32) ||| i) h rfl).congr fun k => congrArg (k.setReg rd) (lil_halves ..)

-- ---------------------------------------------------------------- the multiplier (R319)

theorem mul_eq_ofInt (a b : Word) : a * b = BitVec.ofInt 32 (a.toInt * b.toInt) := by
  rw [BitVec.ofInt_mul, BitVec.ofInt_toInt, BitVec.ofInt_toInt]

/-- The high word of a signed product. -/
theorem mulhS_eq (a b : Word) : mulhS a b = (BitVec.ofInt 64 (a.toInt * b.toInt)).extractLsb' 32 32 := by
  refine BitVec.eq_of_toNat_eq ?_
  simp only [mulhS, BitVec.extractLsb'_toNat, BitVec.toNat_ofInt, Nat.shiftRight_eq_div_pow]
  omega

theorem mulhU_eq (a b : Word) : mulhU a b = (BitVec.ofNat 64 (a.toNat * b.toNat)).extractLsb' 32 32 := by
  refine BitVec.eq_of_toNat_eq ?_
  simp only [mulhU, BitVec.extractLsb'_toNat, BitVec.toNat_ofNat, Nat.shiftRight_eq_div_pow]
  omega

-- ---------------------------------------------------------------- the divider (R316, R319 to R321)

theorem divide_eq (signed : Bool) (a b : Word) : divide signed a b =
    (if b = 0 then 0xFFFFFFFF#32 else if signed then BitVec.ofInt 32 (a.toInt.tdiv b.toInt) else a / b,
      if b = 0 then a else if signed then BitVec.ofInt 32 (a.toInt.tmod b.toInt) else a % b) := by
  unfold divide
  split
  · rfl
  · split <;> rfl

/-- A body that completes with a trap takes it at the following boundary (R393). -/
theorem finish_doneTrap {s u : State} {c : Nat} (i : Instr) {resum : Bool} (t : Trap) (x : Cost) (h : s.endsWell u c resum = true) :
    (s.fetched c).finish c i (s.pcOf c) (s.repeats c resum) (s.rsOf c && resum) (.doneTrap u t x) =
      .next ((s.completed u c resum x).enter c t ((s.completed u c resum x).core c).pc ((s.completed u c resum x).core c).rs) := by
  simp only [State.endsWell, Bool.not_eq_true'] at h
  simp only [State.finish, State.completed]
  rw [if_neg (by simpa using h)]

theorem division_result {s : State} {c : CoreId} {g : Guard} {i : Instr} {signed : Bool} {rs rt : Reg} {put : Core → Word → Word → Core}
    (h : exec i s = s.division i c g none signed rs rt put) : DivisionResult s c g i signed rs rt put := by
  intro hx he
  rw [h, State.division, runInstr_executes _ _ _ hx]
  simp only [divide_eq, State.coreOf]
  constructor
  · intro hb
    rw [if_neg (by grind)]
    exact finish_done i _ he
  · intro hb
    rw [if_pos hb]
    exact finish_doneTrap i _ _ he

theorem oddPair_none {r : Reg} (h : oddReg r = false) : oddPair r = none := by
  simp [oddPair, h]

theorem Core.setPair_pairOf (k : Core) (r : Reg) (hi lo : Word) : k.setPair r (pairOf hi lo) = (k.setReg r hi).setReg (r ||| 1) lo := by
  have hhi : hiWord (pairOf hi lo) = hi := by
    ext i h
    simp [hiWord, pairOf]
    grind
  have hlo : loWord (pairOf hi lo) = lo := extractLsb'_append_low hi lo
  rw [Core.setPair, hhi, hlo]

/-- Settles O8: products by the ALU form of two registers, quotients and remainders by the shared division. -/
theorem multiplyDivide : Obligations.MultiplyDivide := by
  refine ⟨fun s c g rd rs rt => ⟨?mul, ?mulh, ?mulhu, division_result rfl, division_result rfl, division_result rfl, division_result rfl,
    fun hodd => ⟨?divqr, ?divqru⟩⟩, rfl, rfl, rfl, rfl, rfl⟩
  case mul => exact (alu2_result (· * ·) mulV rfl).congr fun k => by rw [mul_eq_ofInt, mulV]
  case mulh => exact (alu2_noV_result mulhS rfl).congr fun k => by rw [mulhS_eq]
  case mulhu => exact (alu2_noV_result mulhU rfl).congr fun k => by rw [mulhU_eq]
  case divqr | divqru =>
    simp only [← Core.setPair_pairOf]
    refine division_result ?_
    rw [← oddPair_none hodd]
    rfl

-- ---------------------------------------------------------------- the law of division (R319)

theorem toInt_ofInt_word {x : Int} (hlo : -2147483648 ≤ x) (hhi : x < 2147483648) : (BitVec.ofInt 32 x).toInt = x := by
  rw [BitVec.toInt_ofInt]
  exact Int.bmod_eq_of_le (by omega) (by omega)

/-- Every quotient but that of the least value by -1 is representable. -/
theorem tdiv_word_bounds {a b : Word} (hb : b ≠ 0) (h : ¬ (a = 0x80000000#32 ∧ b = 0xFFFFFFFF#32)) :
    -2147483648 ≤ a.toInt.tdiv b.toInt ∧ a.toInt.tdiv b.toInt < 2147483648 := by
  have hlo := BitVec.le_toInt a
  have hhi := BitVec.toInt_lt (x := a)
  have hb0 : b.toInt ≠ 0 := fun e => hb (BitVec.eq_of_toInt_eq e)
  have hab : (a.toInt.tdiv b.toInt).natAbs = a.toInt.natAbs / b.toInt.natAbs := Int.natAbs_tdiv ..
  obtain h1 | h1 | h2 : b.toInt = 1 ∨ b.toInt = -1 ∨ 2 ≤ b.toInt.natAbs := by omega
  · rw [h1, Int.tdiv_one]
    omega
  · have ha : a.toInt ≠ -2147483648 := fun e => h ⟨BitVec.eq_of_toInt_eq e, BitVec.eq_of_toInt_eq h1⟩
    rw [h1, Int.tdiv_neg, Int.tdiv_one]
    omega
  · have hhalf : a.toInt.natAbs / b.toInt.natAbs ≤ a.toInt.natAbs / 2 := Nat.div_le_div_left h2 (by decide)
    rw [← hab] at hhalf
    omega

/-- A remainder has the sign of its dividend, and is no larger. -/
theorem tmod_bounds (a b : Int) : (0 ≤ a → 0 ≤ a.tmod b) ∧ (a ≤ 0 → a.tmod b ≤ 0) ∧ (a.tmod b).natAbs ≤ a.natAbs := by
  refine ⟨Int.tmod_nonneg _, fun ha => ?_, Int.natAbs_tmod .. ▸ Nat.mod_le ..⟩
  have := Int.tmod_nonneg b (a := -a) (by omega)
  rw [Int.neg_tmod] at this
  omega

theorem divide_signed_law {a b : Word} (hb : b ≠ 0) (h : ¬ (a = 0x80000000#32 ∧ b = 0xFFFFFFFF#32)) :
    (divide true a b).1.toInt = a.toInt.tdiv b.toInt ∧ (divide true a b).2.toInt = a.toInt.tmod b.toInt := by
  obtain ⟨hlo, hhi⟩ := tdiv_word_bounds hb h
  obtain ⟨hpos, hneg, habs⟩ := tmod_bounds a.toInt b.toInt
  have halo := BitVec.le_toInt a
  have hahi := BitVec.toInt_lt (x := a)
  simp only [divide_eq, if_neg hb, if_true]
  exact ⟨toInt_ofInt_word hlo hhi, toInt_ofInt_word (by omega) (by omega)⟩

/-- Settles O9: division truncates as `Int.tdiv` and `Int.tmod` do, and the words hold their results. -/
theorem divisionLaw : Obligations.DivisionLaw := by
  intro a b hb h
  constructor
  · obtain ⟨hq, hr⟩ := divide_signed_law hb h
    have hb0 : b.toInt ≠ 0 := fun e => hb (BitVec.eq_of_toInt_eq e)
    simp only [hq, hr]
    obtain ⟨hpos, hneg, -⟩ := tmod_bounds a.toInt b.toInt
    refine ⟨(Int.tdiv_mul_add_tmod ..).symm, ?_, hpos, hneg⟩
    rw [Int.natAbs_tmod]
    exact Nat.mod_lt _ (by omega)
  · have hpos : 0 < b.toNat := Nat.pos_of_ne_zero fun e => hb (BitVec.eq_of_toNat_eq e)
    simp only [divide_eq, if_neg hb, Bool.false_eq_true, if_false, BitVec.toNat_udiv, BitVec.toNat_umod]
    exact ⟨(Nat.div_add_mod' ..).symm, Nat.mod_lt _ hpos⟩

end Sys2Proof.Machine
end

section
/-!
PROOF. Memory: what a load reads and a store changes (R257, R258, R262, R430, R431).
-/

namespace Sys2Proof.Machine

-- ---------------------------------------------------------------- memory that reads alike and refuses alike

/-- Two states whose cells, DRAM capacity and uncorrectable code words are the same: a store changes the memory of both in the same way. -/
structure Alike (s t : State) : Prop where
  mem : t.mem = s.mem
  cap : t.dramCap = s.dramCap
  bad : ∀ cw, Tab.get .none t.upsets cw = .uncorrectable ↔ Tab.get .none s.upsets cw = .uncorrectable

theorem Alike.refl (s : State) : Alike s s := ⟨rfl, rfl, fun _ => .rfl⟩

theorem Alike.trans {s t u : State} (h : Alike s t) (g : Alike t u) : Alike s u :=
  ⟨g.mem.trans h.mem, g.cap.trans h.cap, fun cw => (g.bad cw).trans (h.bad cw)⟩

theorem Alike.symm {s t : State} (h : Alike s t) : Alike t s := ⟨h.mem.symm, h.cap.symm, fun cw => (h.bad cw).symm⟩

/-- An update of neither memory, the objects nor the code words. -/
theorem Alike.of_eq {s t : State} (hm : t.mem = s.mem) (hr : t.ro = s.ro) (hu : t.upsets = s.upsets) : Alike s t :=
  ⟨hm, by simp only [State.dramCap, State.roGet, hr], fun _ => by rw [hu]⟩

theorem plain_congr {s t : State} (h : t.dramCap = s.dramCap) (a : Nat) : t.plain a = s.plain a := by
  unfold State.plain State.keyArea
  rw [h]

theorem Alike.plain {s t : State} (h : Alike s t) (a : Nat) : t.plain a = s.plain a := plain_congr h.cap a

theorem byte_of_plain {s : State} {a : Nat} (h : s.plain a = true) : s.byte a = Tab.get 0 s.mem a := by
  rw [State.byte, if_pos h]

theorem Alike.byte {s t : State} (h : Alike s t) {a : Nat} (ha : s.plain a = true) : t.byte a = s.byte a := by
  rw [byte_of_plain ha, byte_of_plain ((h.plain a).trans ha), h.mem]

/-- A byte depends on the cells, the partner table, the key area and the capacity of DRAM. -/
theorem byte_congr {s t : State} (h : Alike s t) (hp : t.adm.partners = s.adm.partners) (hk : t.keyMem = s.keyMem) (a : Nat) : t.byte a = s.byte a := by
  have harea : t.keyArea = s.keyArea := by simp only [State.keyArea, h.cap]
  simp only [State.byte, h.plain a, h.mem, State.partner, hp, hk, harea]

theorem bytes_congr {s t : State} (h : ∀ a, t.byte a = s.byte a) (pa n : Nat) : t.bytes pa n = s.bytes pa n := by
  induction n generalizing pa with
  | zero => rfl
  | succ n ih => rw [State.bytes, State.bytes, h, ih]

-- ---------------------------------------------------------------- meeting code words (R256, R257)

theorem dramChan_le (s : State) (pa : Nat) : s.dramChan pa ≤ 1 := by
  unfold State.dramChan
  simp only
  split
  · omega
  · split <;> decide

/-- No counter of memory errors is the capacity of a channel. -/
theorem roSet_dramCap (s : State) (key v : Nat) (h0 : okey 0x0A30 3 ≠ key) (h1 : okey 0x0A31 3 ≠ key) : (s.roSet key v).dramCap = s.dramCap := by
  simp only [State.dramCap, State.roGet_roSet_ne _ _ h0, State.roGet_roSet_ne _ _ h1]

theorem count_dramCap (s : State) (key n b : Nat) (h0 : okey 0x0A30 3 ≠ key) (h1 : okey 0x0A31 3 ≠ key) : (s.count key n b).dramCap = s.dramCap :=
  roSet_dramCap s key _ h0 h1

theorem okey_ne {i j a b : Nat} (ha : a < 256) (hb : b < 256) (h : a ≠ b) : okey i a ≠ okey j b := by
  unfold okey
  omega

theorem countCorrected_dramCap (s : State) (cw : Nat) : (s.countCorrected cw).dramCap = s.dramCap := by
  unfold State.countCorrected
  split
  · exact (roSet_dramCap _ _ _ (okey_ne (by decide) (by decide) (by decide)) (okey_ne (by decide) (by decide) (by decide))).trans
      (count_dramCap _ _ _ _ (okey_ne (by decide) (by decide) (by decide)) (okey_ne (by decide) (by decide) (by decide)))
  · exact count_dramCap _ _ _ _ (by decide) (by decide)
  · exact (roSet_dramCap _ _ _ (by decide) (by decide)).trans (count_dramCap _ _ _ _ (by decide) (by decide))

theorem poisonWord_dramCap (s : State) (cw : Nat) : (s.poisonWord cw).dramCap = s.dramCap := by
  have hlist (t : State) (m : Nat) : (if (t.poison.filter fun x => x.1 == m).length < 64 then { t with poison := t.poison ++ [(m, cw)] }
      else t.logEvent 0x0502 2 [BitVec.ofNat 8 (min m 4)]).dramCap = t.dramCap := by
    split <;> rfl
  unfold State.poisonWord
  simp only
  split
  · rfl
  · rw [hlist]
    split
    · exact (roSet_dramCap _ _ _ (okey_ne (by decide) (by decide) (by decide)) (okey_ne (by decide) (by decide) (by decide))).trans
        (count_dramCap _ _ _ _ (okey_ne (by decide) (by decide) (by decide)) (okey_ne (by decide) (by decide) (by decide)))
    · exact count_dramCap _ _ _ _ (by decide) (by decide)
    · exact (roSet_dramCap _ _ _ (by decide) (by decide)).trans (count_dramCap _ _ _ _ (by decide) (by decide))

theorem countCorrected_upsets (s : State) (cw : Nat) : (s.countCorrected cw).upsets = s.upsets := by
  unfold State.countCorrected
  split <;> rfl

theorem poisonWord_upsets (s : State) (cw : Nat) : (s.poisonWord cw).upsets = s.upsets := by
  unfold State.poisonWord
  simp only
  split
  · rfl
  · split <;> split <;> rfl

/-- Meeting a code word corrects it, or finds it as it is. -/
theorem meetWord_upsets (s : State) (cw : Nat) :
    (s.meetWord cw).1.upsets = s.upsets ∨ Tab.get .none s.upsets cw = .correctable ∧ (s.meetWord cw).1.upsets = Tab.put .none cw .none s.upsets := by
  unfold State.meetWord
  split
  · exact .inl rfl
  case h_2 h => exact .inr ⟨h, countCorrected_upsets _ _⟩
  · exact .inl (poisonWord_upsets _ _)

theorem meetWord_alike (s : State) (cw : Nat) : Alike s (s.meetWord cw).1 := by
  refine ⟨meetWord_mem s cw, ?_, fun x => ?_⟩
  · unfold State.meetWord
    split
    · rfl
    · exact (countCorrected_dramCap _ cw).trans rfl
    · exact poisonWord_dramCap s cw
  · obtain h | ⟨hc, h⟩ := meetWord_upsets s cw
    · rw [h]
    · rw [h]
      obtain rfl | hx := Decidable.em (x = cw)
      · simp [hc]
      · rw [Tab.get_put_ne _ _ _ hx]

theorem meetWords_alike (l : List Nat) (s : State) : Alike s (s.meetWords l).1 := by
  induction l generalizing s with
  | nil => exact .refl s
  | cons cw t ih =>
    unfold State.meetWords
    simp only
    split
    · exact meetWord_alike s cw
    · exact (meetWord_alike s cw).trans (ih _)

theorem meetWord_snd (s : State) (cw : Nat) : (s.meetWord cw).2 = decide (Tab.get .none s.upsets cw = .uncorrectable) := by
  unfold State.meetWord
  split <;> simp_all

/-- Code words none of which is uncorrectable stop no access. -/
theorem meetWords_none {l : List Nat} {s : State} (h : ∀ cw ∈ l, Tab.get .none s.upsets cw ≠ .uncorrectable) : (s.meetWords l).2 = none := by
  induction l generalizing s with
  | nil => rfl
  | cons cw t ih =>
    have hcw : (s.meetWord cw).2 = false := by simpa [meetWord_snd] using h cw (List.mem_cons_self ..)
    simp only [State.meetWords, hcw, Bool.false_eq_true, if_false]
    exact ih fun x hx hb => h x (List.mem_cons_of_mem _ hx) (((meetWord_alike s cw).bad x).mp hb)

-- ---------------------------------------------------------------- bytes that reach memory (R257, R262)

/-- Clearing the code words that a store covers whole leaves the others as they are. -/
theorem clearWords_upsets {l : List Nat} {s : State} {x : Nat} (h : x ∉ l) : Tab.get .none (l.foldl State.clearWord s).upsets x = Tab.get .none s.upsets x := by
  induction l generalizing s with
  | nil => rfl
  | cons a t ih =>
    rw [List.foldl_cons, ih fun hx => h (List.mem_cons_of_mem _ hx)]
    exact Tab.get_put_ne _ Upset.none s.upsets fun e => h (List.mem_cons.mpr (.inl e))

/-- A code word refuses the bytes of a store when the store writes it in part and it is uncorrectable (R257). -/
theorem mem_refuses {s : State} {pa n x : Nat} : x ∈ s.refuses pa n ↔ x ∈ partCws pa n ∧ Tab.get .none s.upsets x = .uncorrectable := by
  rw [State.refuses, State.refusedCws, List.mem_filter, decide_eq_true_iff]
  refine and_congr_right fun hp => ?_
  have hw : x ∉ wholeCws pa n := fun hw => by
    have h1 := (List.mem_filter.mp hp).2
    have h2 := (List.mem_filter.mp hw).2
    rw [h2] at h1
    exact absurd h1 (by decide)
  rw [clearWords_upsets hw]

/-- Settles O17: a load of bytes that no buffered store overlaps meets its code words and reads, and a poke is a read after a write. -/
theorem memoryReadsBack : Obligations.MemoryReadsBack := by
  constructor
  · intro s c pa n hy h5
    have hl : s.loadPiece c pa n = ((s.meetWords (cwsOf pa n)).1, (s.meetWords (cwsOf pa n)).2, (s.meetWords (cwsOf pa n)).1.bytes pa n) := by
      rw [State.loadPiece, if_neg h5, hy]
    obtain ⟨u, p, ro, log, hs⟩ := meetWords_scrubs (cwsOf pa n) s
    have hb : ∀ a, (s.meetWords (cwsOf pa n)).1.byte a = s.byte a := byte_congr (meetWords_alike _ s) (by rw [hs]) (by rw [hs])
    simp only [hl]
    refine ⟨hb, by rw [hs], bytes_congr hb pa n, fun hu hcw => meetWords_none fun cw hm => ?_⟩
    have := hu cw hm
    rwa [State.upset, hcw cw hm] at this
  · intro s pa a l hp
    rw [poke_byte]
    refine ite_congr (propext ?_) (fun _ => rfl) fun _ => rfl
    rw [List.contains_eq_mem, decide_eq_false_iff_not, mem_refuses, State.upset]
    simp only [hp, true_and]

-- ---------------------------------------------------------------- the store buffer (R430)

theorem poke_ro (s : State) (pa : Nat) (l : List Byte) : (s.poke pa l).ro = s.ro ∧ (s.poke pa l).cores = s.cores := by
  obtain ⟨u, p, h⟩ := clearWords_eq (wholeCws pa l.length) s
  simp [State.poke, h]

theorem poke_upsets (s : State) (pa : Nat) (l : List Byte) (x : Nat) :
    Tab.get .none (s.poke pa l).upsets x = if x ∈ wholeCws pa l.length then .none else Tab.get .none s.upsets x := by
  have hfold : ∀ (ws : List Nat) (s : State), Tab.get .none (ws.foldl State.clearWord s).upsets x = if x ∈ ws then .none else Tab.get .none s.upsets x := by
    intro ws
    induction ws with
    | nil => intro s; rfl
    | cons a t ih =>
      intro s
      obtain rfl | hx := Decidable.em (x = a)
      · rw [List.foldl_cons, ih]
        simp [State.clearWord]
      · rw [List.foldl_cons, ih]
        simp [State.clearWord, Tab.get_put_ne _ _ _ hx, hx]
  exact hfold _ s

theorem Alike.poke {s t : State} (h : Alike s t) (pa : Nat) (l : List Byte) : Alike (s.poke pa l) (t.poke pa l) := by
  refine ⟨?_, ?_, fun cw => ?_⟩
  · have hr : t.refuses pa l.length = s.refuses pa l.length := by
      unfold State.refuses State.refusedCws
      refine List.filter_congr fun x hx => ?_
      have hw : x ∉ wholeCws pa l.length := fun hw => by
        have h1 := (List.mem_filter.mp hx).2
        rw [(List.mem_filter.mp hw).2] at h1
        exact absurd h1 (by decide)
      rw [clearWords_upsets hw, clearWords_upsets hw]
      exact decide_eq_decide.mpr (h.bad x)
    rw [poke_mem, poke_mem, hr, h.mem]
  · have hcap := h.cap
    simp only [State.dramCap, State.roGet] at hcap ⊢
    rw [(poke_ro t pa l).1, (poke_ro s pa l).1, hcap]
  · rw [poke_upsets, poke_upsets]
    split
    · rfl
    · exact h.bad cw

/-- Bytes that reach memory elsewhere. -/
theorem poke_byte_outside {s : State} {pa a : Nat} {l : List Byte} (h : ¬ (pa ≤ a ∧ a < pa + l.length)) : (s.poke pa l).byte a = s.byte a := by
  rw [poke_byte, if_neg fun hc => h ⟨hc.2.1, hc.2.2.1⟩]

/-- Memory reads alike, and every core has the same stores buffered. -/
def Poised (s t : State) : Prop := Alike s t ∧ ∀ d, (t.core d).storeBuf = (s.core d).storeBuf

theorem Poised.refl (s : State) : Poised s s := ⟨.refl s, fun _ => rfl⟩

theorem Poised.trans {s t u : State} (h : Poised s t) (g : Poised t u) : Poised s u := ⟨h.1.trans g.1, fun d => (g.2 d).trans (h.2 d)⟩

theorem Poised.of_eq {s t : State} (hm : t.mem = s.mem) (hr : t.ro = s.ro) (hu : t.upsets = s.upsets) (hc : t.cores = s.cores) : Poised s t :=
  ⟨.of_eq hm hr hu, fun d => by rw [State.core, State.core, hc]⟩

theorem setCore_poised (s : State) (c : Nat) {k : Core} (h : k.storeBuf = (s.core c).storeBuf) : Poised s (s.setCore c k) := by
  refine ⟨.of_eq rfl rfl rfl, fun d => ?_⟩
  obtain rfl | hd := Decidable.em (d = c)
  · rw [State.core_setCore, h]
  · rw [State.core_setCore_ne _ _ hd]

theorem Poised.setCore {s t : State} (h : Poised s t) (c : Nat) {k : Core} (hk : k.storeBuf = (t.core c).storeBuf) : Poised s (t.setCore c k) :=
  h.trans (setCore_poised t c hk)

theorem keepFetched_poised (c : Nat) (n pa : Nat) (s : State) : Poised s (s.keepFetched c pa n) := by
  induction n generalizing pa s with
  | zero => exact .refl s
  | succ n ih =>
    refine Poised.trans ?_ (ih (pa + 1) _)
    refine Poised.setCore ?_ c ?_
    · exact .of_eq rfl rfl rfl rfl
    · rfl

/-- A core's store changes memory as bytes that reach it do, and no store buffer. -/
theorem corePoke_poised (s : State) (c pa : Nat) (l : List Byte) : Poised (s.poke pa l) (s.corePoke c pa l) := by
  obtain ⟨ha, hb⟩ := keepFetched_poised c l.length pa s
  have hcores (t : State) (d : Nat) : (t.poke pa l).core d = t.core d := by
    rw [State.core, State.core, (poke_ro t pa l).2]
  unfold State.corePoke
  split
  · exact ⟨ha.poke pa l, fun d => by rw [hcores, hcores, hb]⟩
  · exact .refl _

/-- Stores reach memory in order. -/
def State.pour (s : State) (es : List SbEntry) : State := es.foldl (fun a e => a.poke e.pa e.bytes) s

theorem Alike.pour {s t : State} (h : Alike s t) (es : List SbEntry) : Alike (s.pour es) (t.pour es) := by
  induction es generalizing s t with
  | nil => exact h
  | cons e es ih => exact ih (h.poke e.pa e.bytes)

theorem pour_append (s : State) (es fs : List SbEntry) : s.pour (es ++ fs) = (s.pour es).pour fs := List.foldl_append ..

theorem pour_plain (es : List SbEntry) (s : State) (a : Nat) : (s.pour es).plain a = s.plain a := by
  induction es generalizing s with
  | nil => rfl
  | cons e es ih =>
    refine (ih _).trans (plain_congr ?_ a)
    simp only [State.dramCap, State.roGet, (poke_ro s e.pa e.bytes).1]

/-- Stores elsewhere leave a byte. -/
theorem pour_byte_outside {a : Nat} {es : List SbEntry} {s : State} (h : ∀ e ∈ es, ¬ (e.pa ≤ a ∧ a < e.pa + e.bytes.length)) : (s.pour es).byte a = s.byte a := by
  induction es generalizing s with
  | nil => rfl
  | cons e es ih =>
    exact (ih fun x hx => h x (List.mem_cons_of_mem _ hx)).trans (poke_byte_outside (h e (List.mem_cons_self ..)))

/-- The oldest buffered stores of a core that drain reach memory in order, and leave the others in the buffer. -/
theorem drain_alike (n : Nat) (s : State) (c : Nat) :
    Alike (s.pour ((s.core c).storeBuf.take n)) (s.drain c n) ∧ ((s.drain c n).core c).storeBuf = (s.core c).storeBuf.drop n := by
  induction n generalizing s with
  | zero => exact ⟨.refl s, rfl⟩
  | succ n ih =>
    rw [State.drain]
    obtain ⟨ha, hb⟩ := ih (s.drainOne c)
    rcases hbuf : (s.core c).storeBuf with _ | ⟨e, t⟩
    · have hone : s.drainOne c = s := by rw [State.drainOne, hbuf]
      rw [hone, hbuf] at ha hb
      simp only [List.take_nil, List.drop_nil, hone] at ha hb ⊢
      exact ⟨ha, hb⟩
    · have hone : s.drainOne c = (s.setCore c { s.core c with storeBuf := t }).corePoke c e.pa e.bytes := by rw [State.drainOne, hbuf]
      obtain ⟨hpoke, hkept⟩ := corePoke_poised (s.setCore c { s.core c with storeBuf := t }) c e.pa e.bytes
      have hsame : Alike s (s.setCore c { s.core c with storeBuf := t }) := .of_eq rfl rfl rfl
      have ht : ((s.drainOne c).core c).storeBuf = t := by rw [hone, hkept, State.core, (poke_ro _ _ _).2, ← State.core, State.core_setCore]
      rw [ht] at ha hb
      have hstep : Alike (s.poke e.pa e.bytes) (s.drainOne c) := hone ▸ (hsame.poke e.pa e.bytes).trans hpoke
      exact ⟨(hstep.pour (t.take n)).trans ha, hb⟩

theorem drainAll_alike (s : State) (c : Nat) : Alike (s.pour (s.core c).storeBuf) (s.drainAll c) := by
  have h := (drain_alike (s.core c).storeBuf.length s c).1
  rwa [List.take_length] at h

/-- A store that enters the buffer reaches memory after those before it. -/
theorem pushStore_alike (s : State) (c : Nat) (e : SbEntry) (room : Nat) :
    Alike (s.pour ((s.core c).storeBuf ++ [e])) ((s.pushStore c e room).pour ((s.pushStore c e room).core c).storeBuf) := by
  obtain ⟨ha, hb⟩ := drain_alike ((s.core c).storeBuf.length + room - 8) s c
  have hbuf : ((s.pushStore c e room).core c).storeBuf = (s.core c).storeBuf.drop ((s.core c).storeBuf.length + room - 8) ++ [e] := by
    rw [State.pushStore, State.core_setCore, hb]
  have hall := (ha.trans (u := s.pushStore c e room) (.of_eq rfl rfl rfl)).pour
    ((s.core c).storeBuf.drop ((s.core c).storeBuf.length + room - 8) ++ [e])
  rwa [← pour_append, ← List.append_assoc, List.take_append_drop, ← hbuf] at hall

/-- So do the pieces of a store, each at its address and of its length at most. -/
theorem pushPieces_alike (ms : List Mapped) (s : State) (c : Nat) (l : List Byte) :
    ∃ es : List SbEntry, (∀ e ∈ es, ∃ m ∈ ms, e.pa = m.pa ∧ e.bytes.length ≤ m.n) ∧
      Alike (s.pour ((s.core c).storeBuf ++ es)) ((s.pushPieces c ms l).pour ((s.pushPieces c ms l).core c).storeBuf) := by
  induction ms generalizing s l with
  | nil => exact ⟨[], by simp, by rw [List.append_nil]; exact .refl _⟩
  | cons m t ih =>
    obtain ⟨es, hes, ha⟩ := ih (s.pushStore c ⟨m.pa, l.take m.n⟩ 1) (l.drop m.n)
    refine ⟨⟨m.pa, l.take m.n⟩ :: es, ?_, ?_⟩
    · intro e he
      obtain rfl | he := List.mem_cons.mp he
      · exact ⟨m, List.mem_cons_self .., rfl, List.length_take_le ..⟩
      · obtain ⟨x, hx, h⟩ := hes e he
        exact ⟨x, List.mem_cons_of_mem _ hx, h⟩
    · refine Alike.trans ?_ ha
      have hp := (pushStore_alike s c ⟨m.pa, l.take m.n⟩ 1).pour es
      rwa [← pour_append, ← pour_append, List.append_assoc, List.singleton_append] at hp

-- ---------------------------------------------------------------- what a store does before its bytes are buffered

theorem Poised.of_scrubs {s t : State} (ha : Alike s t) (h : Scrubbed s t) : Poised s t := by
  obtain ⟨u, p, ro, log, rfl⟩ := h
  exact ⟨ha, fun _ => rfl⟩

theorem meetWords_poised (l : List Nat) (s : State) : Poised s (s.meetWords l).1 := .of_scrubs (meetWords_alike l s) (meetWords_scrubs l s)

theorem meetStore_poised (ms : List Mapped) (s : State) : Poised s (s.meetStore ms).1 := by
  induction ms generalizing s with
  | nil => exact .refl s
  | cons m t ih =>
    unfold State.meetStore
    simp only
    split
    · exact meetWords_poised _ s
    · exact (meetWords_poised _ s).trans (ih _)

theorem engineRead_poised (s : State) (pa n : Nat) : Poised s (s.engineRead pa n).1 := by
  unfold State.engineRead
  split
  · exact .of_eq rfl rfl rfl rfl
  · simp only
    split
    · exact meetWords_poised _ s
    · exact (meetWords_poised _ s).trans (.of_eq rfl rfl rfl rfl)

theorem dropHeld_poised (s : State) (c line : Nat) : Poised s (s.dropHeld c line) := by
  refine setCore_poised s c ?_
  rfl

theorem giveBack_poised (s : State) (c line : Nat) : Poised s (s.giveBack c line) :=
  (dropHeld_poised s c line).trans (.of_eq rfl rfl rfl rfl)

theorem reserveTouch_poised (s : State) (c line : Nat) : Poised s (s.reserveTouch c line) := by
  refine Poised.setCore ?_ c ?_
  · exact .of_eq rfl rfl rfl rfl
  · rfl

theorem touchLine_poised (s : State) (c line : Nat) : Poised s (s.touchLine c line).1 := by
  have hread (u : State) (b : Bool) : Poised u (if b then u.engineRead (256 * line) 256 else (u, [])).1 := by
    split
    · exact engineRead_poised u _ _
    · exact .refl u
  have hheld : Poised s (if (s.core c).touchHeld.contains line then s else s.reserveTouch c line) := by
    split
    · exact .refl s
    · exact reserveTouch_poised s c line
  unfold State.touchLine
  simp only
  split
  · show Poised s (if _ then _ else _)
    split
    · exact giveBack_poised s c line
    · exact .refl s
  · split
    · exact .refl s
    · generalize (if (s.core c).touchHeld.contains line = true then s else s.reserveTouch c line) = t at hheld ⊢
      split
      · exact hheld
      · exact ((hheld.trans (hread _ _)).trans (dropHeld_poised _ c line)).trans (.of_eq rfl rfl rfl rfl)

theorem touchLines_poised (c : Nat) (l : List Nat) (s : State) : Poised s (s.touchLines c l).1 := by
  induction l generalizing s with
  | nil => exact .refl s
  | cons n t ih =>
    unfold State.touchLines
    simp only
    split
    · exact touchLine_poised s c n
    · exact (touchLine_poised s c n).trans (ih _)

theorem touch_poised (s : State) (c : Nat) (ms : List Mapped) : Poised s (s.touch c ms).1 := by
  unfold State.touch
  simp only
  split
  · exact .refl s
  · exact touchLines_poised c _ s

theorem mark_poised (b : Bool) (ms : List Mapped) (s : State) : Poised s (s.mark b ms) := by
  obtain ⟨k, kc, km, h⟩ := mark_keys b ms s
  rw [h]
  exact .of_eq rfl rfl rfl rfl

/-- A store that is performed: its code words are met, its lines touched, its pages marked, and its pieces enter the buffer. -/
theorem performStore_ok {s u : State} {c : Nat} {ms : List Mapped} {l : List Byte} (h : s.performStore c ms l = .ok u) :
    ∃ v, Poised s v ∧ u = v.pushPieces c ms l := by
  unfold State.performStore at h
  simp only at h
  split at h
  · cases h
  · split at h
    · cases h
    · split at h
      · cases h
      · cases h
        exact ⟨_, ((meetStore_poised ms s).trans (touch_poised _ c ms)).trans (mark_poised true ms _), rfl⟩

/-- Settles O18: what drains in the end is what was buffered before, and then the pieces of the store. -/
theorem storeFrame : Obligations.StoreFrame := by
  intro s u c ms l a hp hu _ hout _
  obtain ⟨v, ⟨hv, hbuf⟩, rfl⟩ := performStore_ok hu
  obtain ⟨es, hes, ha⟩ := pushPieces_alike ms v c l
  have hes : ∀ e ∈ es, ¬ (e.pa ≤ a ∧ a < e.pa + e.bytes.length) := by
    intro e he hc
    obtain ⟨m, hm, hpa, hn⟩ := hes e he
    exact hout m hm ⟨by omega, by omega⟩
  rw [hbuf, pour_append] at ha
  have hplain (es : List SbEntry) : (s.pour es).plain a = true := (pour_plain es s a).trans hp
  have hnew := ha.trans (drainAll_alike (v.pushPieces c ms l) c)
  have hold := hv.pour (s.core c).storeBuf
  have hv' : (v.pour (s.core c).storeBuf).plain a = true := (hold.plain a).trans (hplain _)
  calc ((v.pushPieces c ms l).drainAll c).byte a
      = ((v.pour (s.core c).storeBuf).pour es).byte a := hnew.byte ((pour_plain es _ a).trans hv')
    _ = (v.pour (s.core c).storeBuf).byte a := pour_byte_outside hes
    _ = (s.pour (s.core c).storeBuf).byte a := hold.byte (hplain _)
    _ = (s.drainAll c).byte a := ((drainAll_alike s c).byte (hplain _)).symm

end Sys2Proof.Machine
end

section
/-!
PROOF. Packed decimal fields (R348, R349), the order of refusal of a posting (R387), boundary scan and the debug unit (R569 to R571), and reset.
-/

namespace Sys2Proof.Machine

-- ---------------------------------------------------------------- packed fields (R348, R349)

theorem leBytes_length (n v : Nat) : (leBytes n v).length = n := by
  induction n generalizing v with
  | zero => rfl
  | succ n ih => simp [leBytes, ih]

theorem beBytes_length (n v : Nat) : (beBytes n v).length = n := by
  rw [beBytes, List.length_reverse, leBytes_length]

/-- A big-endian number of one more byte ends in its low byte. -/
theorem beBytes_succ (n v : Nat) : beBytes (n + 1) v = beBytes n (v / 256) ++ [BitVec.ofNat 8 v] := by
  rw [beBytes, leBytes, List.reverse_cons]
  rfl

/-- The `k` low digits of a number to the base `b`, most significant first. -/
def lowDigits (b : Nat) : Nat → Nat → List Nat
  | 0, _ => []
  | k + 1, v => lowDigits b k (v / b) ++ [v % b]

theorem nibbles_append (l r : List Byte) : nibbles (l ++ r) = nibbles l ++ nibbles r := List.flatMap_append ..

theorem nibbles_beBytes (n v : Nat) : nibbles (beBytes n v) = lowDigits 16 (2 * n) v := by
  induction n generalizing v with
  | zero => rfl
  | succ n ih =>
    have hlow : nibbles [BitVec.ofNat 8 v] = [v / 16 % 16, v % 16] := by
      simp only [nibbles, List.flatMap_cons, List.flatMap_nil, List.append_nil, BitVec.toNat_ofNat]
      rw [show v % 2 ^ 8 / 16 = v / 16 % 16 by omega, show v % 2 ^ 8 % 16 = v % 16 by omega]
    rw [beBytes_succ, nibbles_append, ih, hlow, show 2 * (n + 1) = 2 * n + 1 + 1 from rfl, lowDigits, lowDigits, Nat.div_div_eq_div_mul, List.append_assoc]
    rfl

/-- The nibbles of a number in BCD are its decimal digits. -/
theorem lowDigits_bcd (k m : Nat) : lowDigits 16 k (bcd k m) = lowDigits 10 k m := by
  induction k generalizing m with
  | zero => rfl
  | succ k ih =>
    have hd : bcd (k + 1) m / 16 = bcd k (m / 10) := by rw [bcd]; omega
    have hm : bcd (k + 1) m % 16 = m % 10 := by rw [bcd]; omega
    rw [lowDigits, lowDigits, hd, hm, ih]

theorem digitsVal_append (l : List Nat) (d : Nat) : digitsVal (l ++ [d]) = 10 * digitsVal l + d := by
  rw [digitsVal, List.foldl_append]
  rfl

theorem digitsVal_lowDigits (k m : Nat) : digitsVal (lowDigits 10 k m) = m % 10 ^ k := by
  induction k generalizing m with
  | zero => exact (Nat.mod_one m).symm
  | succ k ih => rw [lowDigits, digitsVal_append, ih, Nat.pow_succ', Nat.mod_mul, Nat.add_comm]

theorem firstBad_append (p : Nat → Byte → Bool) (i : Nat) (l : List Byte) (b : Byte) (hl : firstBad p i l = none) (hb : p (i + l.length) b = false) :
    firstBad p i (l ++ [b]) = none := by
  induction l generalizing i with
  | nil => simpa [firstBad] using hb
  | cons a t ih =>
    rw [firstBad] at hl
    split at hl
    · cases hl
    case isFalse h =>
      rw [List.cons_append, firstBad, if_neg h]
      exact ih (i + 1) hl (by rw [← hb, List.length_cons]; congr 1; omega)

/-- Bytes of BCD digits before the last of a field are valid. -/
theorem firstBad_bcd {n i : Nat} (k m : Nat) (h : i + k < n) : firstBad (packedByteBad n) i (beBytes k (bcd (2 * k) m)) = none := by
  induction k generalizing m with
  | zero => rfl
  | succ k ih =>
    have hv : bcd (2 * (k + 1)) m = m % 10 + 16 * (m / 10 % 10 + 16 * bcd (2 * k) (m / 10 / 10)) := rfl
    have hd : bcd (2 * (k + 1)) m / 256 = bcd (2 * k) (m / 10 / 10) := by omega
    rw [beBytes_succ, hd]
    refine firstBad_append _ _ _ _ (ih _ (by omega)) ?_
    have h9 : ¬ 9 < bcd (2 * (k + 1)) m % 256 / 16 ∧ ¬ 9 < bcd (2 * (k + 1)) m % 256 % 16 := by omega
    rw [packedByteBad, if_neg (by rw [beBytes_length]; omega)]
    simpa using h9

/-- The sign nibble that packing an integer gives it. -/
theorem packed_sign (v : Int) {m : Nat} (hm : m = v.natAbs) :
    (if (decide (v < 0) && m != 0) = true then 0xD else 0xC) = if v < 0 then 13 else 12 := by
  subst hm
  by_cases h : v < 0
  · have : v.natAbs ≠ 0 := by omega
    simp [h, this]
  · simp [h]

/-- Settles O33: the nibbles of a packed field are the decimal digits of its magnitude, then its sign. -/
theorem packedRoundTrip : Obligations.PackedRoundTrip := by
  intro n v hn hv
  obtain ⟨n, rfl⟩ : ∃ k, n = k + 1 := ⟨n - 1, by omega⟩
  have hfit : v.natAbs < 10 ^ (2 * (n + 1) - 1) := by simpa [packedOver] using hv
  have hk : 2 * (n + 1) - 1 = 2 * n + 1 := by omega
  obtain ⟨sg, hsg⟩ : ∃ sg, sg = if v < 0 then 13 else 12 := ⟨_, rfl⟩
  have hpack : packInt (n + 1) v = beBytes (n + 1) (16 * bcd (2 * n + 1) v.natAbs + sg) := by
    rw [packInt, packedOf, Nat.mod_eq_of_lt hfit, packed_sign v rfl, hk, hsg]
  have hs : sg = 13 ∧ v < 0 ∨ sg = 12 ∧ ¬ v < 0 := by
    by_cases h : v < 0 <;> simp [hsg, h]
  obtain ⟨x, hx⟩ : ∃ x, x = 16 * bcd (2 * n + 1) v.natAbs + sg := ⟨_, rfl⟩
  rw [← hx] at hpack
  have hdiv : x / 16 = bcd (2 * n + 1) v.natAbs := by omega
  have hmod : x % 16 = sg := by omega
  have hnib : nibbles (packInt (n + 1) v) = lowDigits 10 (2 * n + 1) v.natAbs ++ [sg] := by
    rw [hpack, nibbles_beBytes, show 2 * (n + 1) = 2 * n + 1 + 1 from rfl, lowDigits, hdiv, hmod, lowDigits_bcd]
  refine ⟨by rw [hpack, beBytes_length], ?_, ?_⟩
  · have hhigh : x / 256 = bcd (2 * n) (v.natAbs / 10) := by
      rw [bcd] at hdiv
      omega
    rw [packedBad, hpack, beBytes_length, beBytes_succ, hhigh]
    refine firstBad_append _ _ _ _ (firstBad_bcd n _ (by omega)) ?_
    have h9 : x % 256 / 16 ≤ 9 ∧ 10 ≤ x % 256 % 16 := by
      rw [bcd] at hdiv
      omega
    rw [packedByteBad, if_pos (by rw [beBytes_length]; omega)]
    simpa using h9
  · have hval : digitsVal (packedDigits (packInt (n + 1) v)) = v.natAbs := by
      rw [packedDigits, hnib, List.dropLast_concat, digitsVal_lowDigits, Nat.mod_eq_of_lt (hk ▸ hfit)]
    have hsign : packedSign (packInt (n + 1) v) = sg := by
      rw [packedSign, hnib, List.getLastD_concat]
    rw [packedVal, hval, hsign]
    obtain ⟨h, hv⟩ | ⟨h, hv⟩ := hs
    · rw [h, if_pos (by decide)]
      omega
    · rw [h, if_neg (by decide)]
      omega

-- ---------------------------------------------------------------- the order of refusal (R387)

theorem firstLeg_none {p : Leg → Bool} {i : Nat} {l : List Leg} : firstLeg p i l = none ↔ ∀ g ∈ l, p g = false := by
  induction l generalizing i with
  | nil => simp [firstLeg]
  | cons g t ih =>
    rw [firstLeg]
    by_cases h : p g = true
    · simp [h]
    · simp [h, ih]

/-- The first leg of which a condition holds. -/
theorem firstLeg_some {p : Leg → Bool} {i j : Nat} {l : List Leg} {g : Leg} (hj : l[j]? = some g) (hg : p g = true)
    (hb : ∀ n h, n < j → l[n]? = some h → p h = false) : firstLeg p i l = some (i + j) := by
  induction l generalizing i j with
  | nil => simp at hj
  | cons x t ih =>
    rw [firstLeg]
    cases j with
    | zero =>
      obtain rfl : x = g := by simpa using hj
      rw [if_pos hg]
      rfl
    | succ j =>
      have hx : p x = false := hb 0 x (by omega) rfl
      rw [hx, if_neg (by decide), ih (j := j) (by simpa using hj) fun n h hn hl => hb (n + 1) h (by omega) (by simpa using hl)]
      congr 1
      omega

theorem foldl_amounts (legs : List Leg) : (legs.map Leg.amount).foldl (· + ·) 0 = (legs.map Leg.amount).sum := by
  rw [List.sum_eq_foldl]

/-- Settles O41: each condition is asked of the legs in order, once those before it hold of none. -/
theorem postingOrder : Obligations.PostingOrder := by
  intro legs _
  refine ⟨fun i g hi hg hb => ?_, fun hopen => ?_⟩
  · rw [postOutcome, firstLeg_some hi hg hb]
    simp
  · have hclosed : firstLeg Leg.closed 0 legs = none := firstLeg_none.mpr hopen
    have hover : firstLeg (fun g => packedOver 16 g.new) 0 legs = none ↔ ∀ g ∈ legs, packedOver 16 g.new = false := firstLeg_none
    have hlimit : firstLeg (fun g => decide (g.amount < 0) && decide (g.new < g.limit)) 0 legs = none ↔ ∀ g ∈ legs, g.amount < 0 → g.limit ≤ g.new := by
      simp [firstLeg_none]
    rw [postOutcome, hclosed, foldl_amounts]
    simp only
    refine ⟨fun h1 h0 => if_pos ⟨h1, h0⟩, fun h => ?_, fun hbal ho hl => ?_⟩
    · split at h
      · cases h
      case isFalse hbal =>
        split at h
        · omega
        case h_2 ho =>
          split at h
          · omega
          case h_2 hl => exact ⟨fun h1 => Decidable.byContradiction fun h0 => hbal ⟨h1, h0⟩, hover.mp ho, hlimit.mp hl⟩
    · rw [if_neg hbal, hover.mpr ho, hlimit.mpr hl]

-- ---------------------------------------------------------------- boundary scan and the debug unit (R569 to R571)

/-- EXTEST takes new cells while SAFE is asserted. -/
theorem exec_extest (cells pins : List Bool) (s : State) :
    exec (.extest cells pins) s = .next (if s.barista.safe then (s.setIr 0x00#8).scan cells pins else s.setIr 0x00#8) := rfl

/-- A scan of the debug unit while debug is enabled acts on the carrier of its logical core. -/
theorem debugScan_carrier {s : State} {fn : Nat} {l : LogId} {c : Nat} (capture : Core → Nat) (update : Core → Core) (hd : s.jtag.debug = true)
    (hc : (s.lcore l).carrier = some c) : s.debugScan fn l capture update =
      (({ s with jtag := { s.jtag with ir := 0x21#8, sel := BitVec.ofNat 8 (64 * fn + l.val), captured := dataBits (capture (s.core c)) } } : State).setCore c
        (update (s.core c))) := by
  unfold State.debugScan
  rw [if_neg (by simp [State.setIr, hd])]
  simp only
  split
  case h_1 h => cases hc.symm.trans h
  case h_2 d h =>
    cases hc.symm.trans h
    rfl

theorem debugScan_disabled {s : State} {fn : Nat} {l : LogId} (capture : Core → Nat) (update : Core → Core) (hd : s.jtag.debug = false) :
    s.debugScan fn l capture update = s.setIr 0x21#8 := by
  unfold State.debugScan
  rw [if_pos (by simp [State.setIr, hd])]

theorem debugScan_uncarried {s : State} {fn : Nat} {l : LogId} (capture : Core → Nat) (update : Core → Core) (hd : s.jtag.debug = true)
    (hc : (s.lcore l).carrier = none) :
    (s.debugScan fn l capture update).cores = s.cores ∧ (s.debugScan fn l capture update).jtag.captured = dataBits 0 := by
  unfold State.debugScan
  rw [if_neg (by simp [State.setIr, hd])]
  simp only
  split
  · exact ⟨rfl, rfl⟩
  case h_2 d h => cases hc.symm.trans h

/-- Settles O56: each instruction is its scan, in the three cases of the debug unit. -/
theorem jtagDebug : Obligations.JtagDebug := by
  intro s cells pins l n en full ea word
  refine ⟨fun hs => ?asserted, fun hs => ?deasserted, rfl, rfl, rfl, rfl, rfl, fun e he => ?_, fun c hd hc => ?carrier⟩
  case asserted =>
    have hext : exec (.extest cells pins) s = .next ((s.setIr 0x00#8).scan cells pins) := by rw [exec_extest, if_pos hs]
    refine ⟨hext, fun t h => ?_, fun t h => ?_, fun t h => ?_⟩
    · cases hext.symm.trans h
      exact if_pos ⟨hs, .inl rfl⟩
    · cases h
      exact if_pos ⟨hs, .inr rfl⟩
    · cases h
      show (s.barista.safe && true) = true
      rw [hs, Bool.and_true]
  case deasserted =>
    have hext : exec (.extest cells pins) s = .next (s.setIr 0x00#8) := by rw [exec_extest, if_neg (by simp [hs])]
    refine ⟨hext, fun e t he h => ?_⟩
    have hsafe : t.barista.safe = false := by
      obtain rfl | rfl | rfl := he
      · cases hext.symm.trans h
        exact hs
      · cases h
        exact hs
      · cases h
        exact hs
    simp [State.pinsDriven, State.pinsReleased, hsafe]
  case carrier =>
    exact ⟨congrArg _ (debugScan_carrier _ _ hd hc), congrArg _ (debugScan_carrier _ _ hd hc), congrArg _ (debugScan_carrier _ _ hd hc),
      congrArg _ (debugScan_carrier _ _ hd hc)⟩
  obtain ⟨fn, capture, update, hscan⟩ : ∃ fn capture update, exec e s = .next (s.debugScan fn l capture update) := by
    obtain rfl | rfl | rfl | rfl := he <;> exact ⟨_, _, _, rfl⟩
  exact ⟨fun hd => hscan.trans (congrArg _ (debugScan_disabled capture update hd)),
    fun hd hc => ⟨_, hscan, debugScan_uncarried capture update hd hc⟩⟩

-- ---------------------------------------------------------------- reset

/-- Settles O57: reset state is a closed term, whose fields are read off. -/
theorem resetValues : Obligations.ResetValues := by
  have hevents : ∀ n, n < 16 → Core.reset.srGet (0x080 + n) = 3#32 := by decide
  have hring : Core.reset.ring = 0 := by decide
  have hie : Core.reset.ie = false := by decide
  exact ⟨fun _ => ⟨rfl, rfl, rfl, hevents, hring, hie, rfl, rfl, rfl, rfl⟩, fun _ => rfl, rfl, rfl, rfl, rfl, rfl, fun _ => rfl, rfl, rfl, rfl, rfl, rfl, rfl,
    rfl, rfl⟩

/-- Settles O58: reset memory lists no cell. -/
theorem resetInvariant : Obligations.ResetInvariant := reset_mem_wf

end Sys2Proof.Machine
end

section
/-!
PROOF. The frame of the instructions on registers and predicates alone (R262, R273, R313).
-/

namespace Sys2Proof.Machine

-- ---------------------------------------------------------------- changes of a core that leave its loops

/-- A change of a core that leaves its loop registers and its reservations for first touches. -/
def Mild (k q : Core) : Prop := q.touchHeld = k.touchHeld ∧ ∀ n, 4 ≤ n → n < 16 → q.srGet n = k.srGet n

theorem Mild.refl (k : Core) : Mild k k := ⟨rfl, fun _ _ _ => rfl⟩

theorem Mild.trans {k q r : Core} (h : Mild k q) (g : Mild q r) : Mild k r :=
  ⟨g.1.trans h.1, fun n h4 h16 => (g.2 n h4 h16).trans (h.2 n h4 h16)⟩

theorem Mild.srSet {k q : Core} (h : Mild k q) {n : Nat} (v : Word) (hn : n < 4 ∨ 16 ≤ n) : Mild k (q.srSet n v) :=
  h.trans ⟨rfl, fun _ _ _ => Core.srGet_srSet_ne _ _ (by omega)⟩

theorem Mild.setReg {k q : Core} (h : Mild k q) (r : Reg) (v : Word) : Mild k (q.setReg r v) := h.trans ⟨rfl, fun _ _ _ => rfl⟩

theorem Mild.setPair {k q : Core} (h : Mild k q) (r : Reg) (v : BitVec 64) : Mild k (q.setPair r v) := (h.setReg ..).setReg ..

theorem Mild.setPred {k q : Core} (h : Mild k q) (p : Nat) (b : Bool) : Mild k (q.setPred p b) := by
  unfold Core.setPred
  split
  · exact h
  · exact h.srSet _ (by decide)

theorem Mild.stick {k q : Core} (h : Mild k q) (b : Nat) : Mild k (q.stick b) := h.srSet _ (by decide)

theorem Mild.setV {k q : Core} (h : Mild k q) (v : Bool) : Mild k (q.setV v) := by
  unfold Core.setV
  split
  · exact h.stick _
  · exact h

theorem Mild.setDZ {k q : Core} (h : Mild k q) (v : Bool) : Mild k (q.setDZ v) := by
  unfold Core.setDZ
  split
  · exact h.stick _
  · exact h

theorem Mild.setFp {k q : Core} (h : Mild k q) (dbl : Bool) (r : Reg) (v : Nat) : Mild k (q.setFp dbl r v) := by
  unfold Core.setFp
  split
  · exact h.setPair ..
  · exact h.setReg ..

theorem Mild.badLoop {k q : Core} (h : Mild k q) (pc : Word) : q.badLoop pc = k.badLoop pc := by
  have hlevel : ∀ i < 3, q.loopHit pc i = k.loopHit pc i ∧ q.le i = k.le i ∧ q.ls i = k.ls i := by
    intro i hi
    simp only [Core.loopHit, Core.le, Core.lc, Core.ls, h.2 (0x004 + i) (by omega) (by omega), h.2 (0x008 + i) (by omega) (by omega),
      h.2 (0x00C + i) (by omega) (by omega)]
    exact ⟨trivial, trivial, trivial⟩
  obtain ⟨h0, e0, s0⟩ := hlevel 0 (by decide)
  obtain ⟨h1, e1, s1⟩ := hlevel 1 (by decide)
  obtain ⟨h2, e2, s2⟩ := hlevel 2 (by decide)
  simp only [Core.badLoop, List.any_cons, List.any_nil, h0, e0, s0, h1, e1, s1, h2, e2, s2]

-- ---------------------------------------------------------------- bodies on registers alone

/-- What a body on registers alone does: nothing when its guard fails, and otherwise it completes, perhaps with a trap, or traps, with a mild change
of its core. -/
inductive Res.Local (u : State) (c : Nat) : Res → Prop
  | skip (x : Cost) : Res.Local u c (.done u x)
  | done {k : Core} (x : Cost) (h : Mild (u.core c) k) : Res.Local u c (.done (u.setCore c k) x)
  | doneTrap {k : Core} (t : Trap) (x : Cost) (h : Mild (u.core c) k) : Res.Local u c (.doneTrap (u.setCore c k) t x)
  | trap {k : Core} (t : Trap) (h : Mild (u.core c) k) : Res.Local u c (.trap (u.setCore c k) t)

/-- An instruction that runs a body on registers alone on core `c`. -/
def RunsLocal (i : Instr) (c : Nat) : Prop := ∃ (d : CoreId) (g : Guard) (enc : Option Nat) (fcost : Cost) (body : State → Res),
  d.val = c ∧ (∀ s, exec i s = s.runInstr d i g enc false false fcost body) ∧ ∀ u, (body u).Local u c

section
variable {i : Instr} {d : CoreId} {g : Guard} {c : Nat}

theorem runCore_local {enc : Option Nat} {x : Cost} {f : Core → Core} (h : some d.val = some c) (hf : ∀ k, Mild k (f k))
    (hi : ∀ s, exec i s = s.runCore d i g enc x f) : RunsLocal i c := by
  cases h
  exact ⟨d, g, enc, cc 1, _, rfl, hi, fun u => .done x (hf (u.core d))⟩

theorem alu2_local {rd rs rt : Reg} {f : Word → Word → Word} {v : Word → Word → Bool} (h : some d.val = some c)
    (hi : ∀ s, exec i s = s.alu2 i d g rd rs rt f v) : RunsLocal i c :=
  runCore_local h (fun k => ((Mild.refl k).setReg ..).setV _) hi

theorem alu1_local {rd rs : Reg} {f : Word → Word} {v : Word → Bool} (h : some d.val = some c)
    (hi : ∀ s, exec i s = s.alu1 i d g rd rs f v) : RunsLocal i c :=
  runCore_local h (fun k => ((Mild.refl k).setReg ..).setV _) hi

theorem cmp_local {rd : Reg} {cond : Core → Bool} (h : some d.val = some c) (hi : ∀ s, exec i s = s.cmp i d g rd cond) : RunsLocal i c :=
  runCore_local h (fun k => (Mild.refl k).setPred ..) hi

theorem plogic_local {pd ps pt : PredNo} {f : Bool → Bool → Bool} (h : some d.val = some c)
    (hi : ∀ s, exec i s = s.plogic i d g pd ps pt f) : RunsLocal i c :=
  runCore_local h (fun k => (Mild.refl k).setPred ..) hi

theorem halfConst_local {rd : Reg} {imm : BitVec 17} {f : Word → Word → Word} (h : some d.val = some c) (h16 : imm.getLsbD 16 = false)
    (hi : ∀ s, exec i s = s.halfConst i d g rd imm f) : RunsLocal i c := by
  cases h
  refine ⟨d, g, none, cc 1, _, rfl, hi, fun u => ?_⟩
  rw [if_neg (Bool.eq_false_iff.mp h16)]
  exact .done _ ((Mild.refl _).setReg ..)

theorem division_local {enc : Option Nat} {signed : Bool} {rs rt : Reg} {put : Core → Word → Word → Core} (h : some d.val = some c)
    (hput : ∀ k q r, Mild k (put k q r)) (hi : ∀ s, exec i s = s.division i d g enc signed rs rt put) : RunsLocal i c := by
  cases h
  refine ⟨d, g, enc, cc 1, _, rfl, hi, fun u => ?_⟩
  have hm (q r : Word) (z v : Bool) : Mild (u.core d) (((put (u.core d) q r).setDZ z).setV v) := ((hput ..).setDZ _).setV _
  simp only
  split
  · exact .doneTrap _ _ (hm ..)
  · exact .done _ (hm ..)

theorem runFp_local {pairs : List Reg} {lat : Nat} {f : Core → FpEffect} (h : some d.val = some c) (hf : ∀ k q, Mild q ((f k).put q))
    (hi : ∀ s, exec i s = s.runFp i d g pairs lat f) : RunsLocal i c := by
  cases h
  refine ⟨d, g, _, cc 1, _, rfl, hi, fun u => ?_⟩
  simp only [State.fpDone]
  split
  · exact .trap _ ((Mild.refl _).srSet _ (by decide))
  · exact .done _ ((hf _ _).srSet _ (by decide))

theorem fp2_local {dbl : Bool} {rd rs rt : Reg} {lat : Nat} {op : FpFmt → Nat → Bool → Nat → Nat → FpRes} (h : some d.val = some c)
    (hi : ∀ s, exec i s = s.fp2 i d g dbl rd rs rt lat op) : RunsLocal i c :=
  runFp_local h (fun _ q => (Mild.refl q).setFp ..) hi

theorem fpMove_local {dbl : Bool} {rd rs : Reg} {op : FpFmt → Nat → Nat} (h : some d.val = some c)
    (hi : ∀ s, exec i s = s.fpMove i d g dbl rd rs op) : RunsLocal i c :=
  runFp_local h (fun _ q => (Mild.refl q).setFp ..) hi

theorem fpCompare_local {dbl : Bool} {rd rs rt : Reg} {op : FpCmp} (h : some d.val = some c)
    (hi : ∀ s, exec i s = s.fpCompare i d g dbl rd rs rt op) : RunsLocal i c :=
  runFp_local h (fun _ q => (Mild.refl q).setPred ..) hi

theorem fpFused_local {dbl : Bool} {rd rs rt : Reg} {negProd negC : Bool} (h : some d.val = some c)
    (hi : ∀ s, exec i s = s.fpFused i d g dbl rd rs rt negProd negC) : RunsLocal i c :=
  runFp_local h (fun _ q => (Mild.refl q).setFp ..) hi

end

/-- Every instruction on registers and predicates alone runs such a body. -/
theorem registerCore_local {i : Instr} {c : Nat} (h : registerCore i = some c)
    (hr : ∀ c g rd imm, i = .lih c g rd imm ∨ i = .lil c g rd imm → imm.getLsbD 16 = false) : RunsLocal i c := by
  cases i with
  | add => exact alu2_local h fun _ => (rfl : _ = execAdd _ _ _ _ _ _)
  | sub => exact alu2_local h fun _ => (rfl : _ = execSub _ _ _ _ _ _)
  | and => exact alu2_local h fun _ => (rfl : _ = execAnd _ _ _ _ _ _)
  | or => exact alu2_local h fun _ => (rfl : _ = execOr _ _ _ _ _ _)
  | xor => exact alu2_local h fun _ => (rfl : _ = execXor _ _ _ _ _ _)
  | andn => exact alu2_local h fun _ => (rfl : _ = execAndn _ _ _ _ _ _)
  | min => exact alu2_local h fun _ => (rfl : _ = execMin _ _ _ _ _ _)
  | max => exact alu2_local h fun _ => (rfl : _ = execMax _ _ _ _ _ _)
  | minu => exact alu2_local h fun _ => (rfl : _ = execMinu _ _ _ _ _ _)
  | maxu => exact alu2_local h fun _ => (rfl : _ = execMaxu _ _ _ _ _ _)
  | neg => exact alu1_local h fun _ => (rfl : _ = execNeg _ _ _ _ _)
  | abs => exact alu1_local h fun _ => (rfl : _ = execAbs _ _ _ _ _)
  | mov => exact alu1_local h fun _ => (rfl : _ = execMov _ _ _ _ _)
  | sextb => exact alu1_local h fun _ => (rfl : _ = execSextb _ _ _ _ _)
  | sexth => exact alu1_local h fun _ => (rfl : _ = execSexth _ _ _ _ _)
  | zextb => exact alu1_local h fun _ => (rfl : _ = execZextb _ _ _ _ _)
  | zexth => exact alu1_local h fun _ => (rfl : _ = execZexth _ _ _ _ _)
  | clz => exact alu1_local h fun _ => (rfl : _ = execClz _ _ _ _ _)
  | popc => exact alu1_local h fun _ => (rfl : _ = execPopc _ _ _ _ _)
  | bswap => exact alu1_local h fun _ => (rfl : _ = execBswap _ _ _ _ _)
  | bswaph => exact alu1_local h fun _ => (rfl : _ = execBswaph _ _ _ _ _)
  | addi => exact alu1_local h fun _ => (rfl : _ = execAddi _ _ _ _ _ _)
  | andi => exact alu1_local h fun _ => (rfl : _ = execAndi _ _ _ _ _ _)
  | ori => exact alu1_local h fun _ => (rfl : _ = execOri _ _ _ _ _ _)
  | xori => exact alu1_local h fun _ => (rfl : _ = execXori _ _ _ _ _ _)
  | li => exact runCore_local h (fun k => (Mild.refl k).setReg ..) fun _ => (rfl : _ = execLi _ _ _ _ _)
  | lih c g rd imm => exact halfConst_local h (hr _ _ _ _ (.inl rfl)) fun _ => (rfl : _ = execLih _ _ _ _ _)
  | lil c g rd imm => exact halfConst_local h (hr _ _ _ _ (.inr rfl)) fun _ => (rfl : _ = execLil _ _ _ _ _)
  | shl => exact alu2_local h fun _ => (rfl : _ = execShl _ _ _ _ _ _)
  | shr => exact alu2_local h fun _ => (rfl : _ = execShr _ _ _ _ _ _)
  | sar => exact alu2_local h fun _ => (rfl : _ = execSar _ _ _ _ _ _)
  | ror => exact alu2_local h fun _ => (rfl : _ = execRor _ _ _ _ _ _)
  | rol => exact alu2_local h fun _ => (rfl : _ = execRol _ _ _ _ _ _)
  | shli => exact alu1_local h fun _ => (rfl : _ = execShli _ _ _ _ _ _)
  | shri => exact alu1_local h fun _ => (rfl : _ = execShri _ _ _ _ _ _)
  | sari => exact alu1_local h fun _ => (rfl : _ = execSari _ _ _ _ _ _)
  | rori => exact alu1_local h fun _ => (rfl : _ = execRori _ _ _ _ _ _)
  | cmpeq => exact cmp_local h fun _ => (rfl : _ = execCmpeq _ _ _ _ _ _)
  | cmplt => exact cmp_local h fun _ => (rfl : _ = execCmplt _ _ _ _ _ _)
  | cmpltu => exact cmp_local h fun _ => (rfl : _ = execCmpltu _ _ _ _ _ _)
  | cmple => exact cmp_local h fun _ => (rfl : _ = execCmple _ _ _ _ _ _)
  | cmpleu => exact cmp_local h fun _ => (rfl : _ = execCmpleu _ _ _ _ _ _)
  | tst => exact cmp_local h fun _ => (rfl : _ = execTst _ _ _ _ _ _)
  | cmpeqi => exact cmp_local h fun _ => (rfl : _ = execCmpeqi _ _ _ _ _ _)
  | cmplti => exact cmp_local h fun _ => (rfl : _ = execCmplti _ _ _ _ _ _)
  | cmpltui => exact cmp_local h fun _ => (rfl : _ = execCmpltui _ _ _ _ _ _)
  | tsti => exact cmp_local h fun _ => (rfl : _ = execTsti _ _ _ _ _ _)
  | pand => exact plogic_local h fun _ => (rfl : _ = execPand _ _ _ _ _ _)
  | pandn => exact plogic_local h fun _ => (rfl : _ = execPandn _ _ _ _ _ _)
  | por => exact plogic_local h fun _ => (rfl : _ = execPor _ _ _ _ _ _)
  | pxor => exact plogic_local h fun _ => (rfl : _ = execPxor _ _ _ _ _ _)
  | mul => exact alu2_local h fun _ => (rfl : _ = execMul _ _ _ _ _ _)
  | mulh => exact alu2_local h fun _ => (rfl : _ = execMulh _ _ _ _ _ _)
  | mulhu => exact alu2_local h fun _ => (rfl : _ = execMulhu _ _ _ _ _ _)
  | div => exact division_local h (fun k _ _ => (Mild.refl k).setReg ..) fun _ => (rfl : _ = execDiv _ _ _ _ _ _)
  | divu => exact division_local h (fun k _ _ => (Mild.refl k).setReg ..) fun _ => (rfl : _ = execDivu _ _ _ _ _ _)
  | rem => exact division_local h (fun k _ _ => (Mild.refl k).setReg ..) fun _ => (rfl : _ = execRem _ _ _ _ _ _)
  | remu => exact division_local h (fun k _ _ => (Mild.refl k).setReg ..) fun _ => (rfl : _ = execRemu _ _ _ _ _ _)
  | divqr => exact division_local h (fun k _ _ => (Mild.refl k).setPair ..) fun _ => (rfl : _ = execDivqr _ _ _ _ _ _)
  | divqru => exact division_local h (fun k _ _ => (Mild.refl k).setPair ..) fun _ => (rfl : _ = execDivqru _ _ _ _ _ _)
  | fadd => exact fp2_local h fun _ => (rfl : _ = execFadd _ _ _ _ _ _ _)
  | fsub => exact fp2_local h fun _ => (rfl : _ = execFsub _ _ _ _ _ _ _)
  | fmul => exact fp2_local h fun _ => (rfl : _ = execFmul _ _ _ _ _ _ _)
  | fdiv => exact fp2_local h fun _ => (rfl : _ = execFdiv _ _ _ _ _ _ _)
  | fneg => exact fpMove_local h fun _ => (rfl : _ = execFneg _ _ _ _ _ _)
  | fabs => exact fpMove_local h fun _ => (rfl : _ = execFabs _ _ _ _ _ _)
  | fmov => exact fpMove_local h fun _ => (rfl : _ = execFmov _ _ _ _ _ _)
  | fcmpeq => exact fpCompare_local h fun _ => (rfl : _ = execFcmpeq _ _ _ _ _ _ _)
  | fcmplt => exact fpCompare_local h fun _ => (rfl : _ = execFcmplt _ _ _ _ _ _ _)
  | fcmple => exact fpCompare_local h fun _ => (rfl : _ = execFcmple _ _ _ _ _ _ _)
  | fcvtf => exact runFp_local h (fun _ q => (Mild.refl q).setFp ..) fun _ => (rfl : _ = execFcvtf _ _ _ _ _ _)
  | fcvti => exact runFp_local h (fun _ q => (Mild.refl q).setReg ..) fun _ => (rfl : _ = execFcvti _ _ _ _ _ _)
  | fcvtfi => exact runFp_local h (fun _ q => (Mild.refl q).setFp ..) fun _ => (rfl : _ = execFcvtfi _ _ _ _ _ _)
  | fma => exact fpFused_local h fun _ => (rfl : _ = execFma _ _ _ _ _ _ _)
  | fms => exact fpFused_local h fun _ => (rfl : _ = execFms _ _ _ _ _ _ _)
  | fnma => exact fpFused_local h fun _ => (rfl : _ = execFnma _ _ _ _ _ _ _)
  | _ => cases h

-- ---------------------------------------------------------------- what such an instruction leaves

/-- What an instruction on registers alone leaves, but for the first touches that its core has reserved. -/
structure Framed (c : Nat) (s t : State) : Prop where
  mem : t.mem = s.mem
  cap : t.dramCap = s.dramCap
  cores : ∀ d, d ≠ c → t.core d = s.core d
  locks : ∀ x ∈ s.locks, x.2 ≠ c → x ∈ t.locks
  rest : t.lcores = s.lcores ∧ t.timer = s.timer ∧ t.plans = s.plans ∧ t.adm = s.adm ∧ t.media = s.media ∧ t.egress = s.egress ∧
    t.zdp = s.zdp ∧ t.barista = s.barista ∧ t.micro = s.micro ∧ t.power = s.power ∧ t.jtag = s.jtag ∧ t.obj = s.obj ∧ t.nor = s.nor ∧
    t.domains = s.domains ∧ t.out = s.out ∧ t.pending = s.pending

theorem Framed.refl (c : Nat) (s : State) : Framed c s s := ⟨rfl, rfl, fun _ _ => rfl, fun _ h _ => h, by simp⟩

theorem Framed.trans {c : Nat} {s t u : State} (h : Framed c s t) (g : Framed c t u) : Framed c s u where
  mem := g.mem.trans h.mem
  cap := g.cap.trans h.cap
  cores d hd := (g.cores d hd).trans (h.cores d hd)
  locks x hx hc := g.locks x (h.locks x hx hc) hc
  rest := by
    have hg := g.rest
    simp only [h.rest] at hg
    exact hg

theorem Framed.setCore (c : Nat) (s : State) (k : Core) : Framed c s (s.setCore c k) :=
  ⟨rfl, rfl, fun _ hd => State.core_setCore_ne _ _ hd, fun _ h _ => h, by simp⟩

theorem Framed.setKeys (c : Nat) (s : State) (keys : Tab PageKey) : Framed c s { s with keys := keys } :=
  ⟨rfl, rfl, fun _ _ => rfl, fun _ h _ => h, by simp⟩

/-- A byte outside the key area stays. -/
theorem Framed.byte {c : Nat} {s t : State} (h : Framed c s t) {a : Nat} (ha : ¬ (s.keyArea ≤ a ∧ a < s.dramCap)) : t.byte a = s.byte a := by
  have hp : t.adm = s.adm := h.rest.2.2.2.1
  have hplain : t.plain a = s.plain a := plain_congr h.cap a
  by_cases hpa : s.plain a = true
  · rw [byte_of_plain hpa, byte_of_plain (hplain.trans hpa), h.mem]
  · simp only [State.byte, hplain, if_neg hpa, State.partner, hp]
    split
    · rfl
    · split
      case isTrue hn hr =>
        have : ¬ (romBase ≤ a ∧ a < romBase + romSize) := by
          simp only [recordBase, romBase] at hr ⊢
          omega
        simp only [State.plain, Bool.and_eq_true, Bool.not_eq_true', Bool.and_eq_false_iff, decide_eq_false_iff_not] at hpa
        omega
      · rfl

theorem Framed.setPerc (c : Nat) (s : State) (perc : Percolator) : Framed c s { s with perc := perc } :=
  ⟨rfl, rfl, fun _ _ => rfl, fun _ h _ => h, by simp⟩

theorem giveBack_framed (s : State) (c line : Nat) : Framed c s (s.giveBack c line) :=
  (Framed.setCore c s _).trans (Framed.setPerc c _ _)

theorem giveUp_framed (s : State) (c : Nat) : Framed c s (s.giveUp c) := by
  have hfold (l : List Nat) (s : State) : Framed c s (l.foldl (fun a x => a.giveBack c x) s) := by
    induction l generalizing s with
    | nil => exact .refl c s
    | cons x t ih => exact (giveBack_framed s c x).trans (ih _)
  exact hfold _ s

theorem giveUp_of_nil {s : State} {c : Nat} (h : (s.core c).touchHeld = []) : s.giveUp c = s := by
  rw [State.giveUp, h]
  rfl

theorem charge_ro (s : State) (c : Nat) (x : Cost) : (s.charge c x).ro = s.ro := by
  obtain ⟨n, -, h⟩ := charge_eq s c x
  rw [h]

theorem enter_cap (s : State) (c : Nat) (t : Trap) (pc : Word) (rs : Bool) : (s.enter c t pc rs).dramCap = s.dramCap := by
  unfold State.enter
  simp only
  split
  · obtain ⟨l, h⟩ := reportFault_eq ((s.unlock c).logEvent 0x0601 3 (leBytes 4 pc.toNat ++ [BitVec.ofNat 8 c] ++ leBytes 2 (t.ecause.toNat % 65536))) c 2
    rw [State.checkstop, h]
    rfl
  · have hcount : (if t.vec = 20 then (s.unlock c).count (okey 0x1310 2) 1 32 else s.unlock c).dramCap = s.dramCap := by
      split
      · exact count_dramCap _ _ _ _ (by decide) (by decide)
      · rfl
    simp only [State.dramCap, State.roGet, charge_ro] at hcount ⊢
    exact hcount

theorem Framed.of_enter (s : State) (c : Nat) (t : Trap) (pc : Word) (rs : Bool) :
    Framed c s (s.enter c t pc rs) ∧ (s.enter c t pc rs).perc = s.perc := by
  have hcap := enter_cap s c t pc rs
  obtain ⟨k, n, ro, log, l, h⟩ := enter_eq s c t pc rs
  rw [h] at hcap ⊢
  refine ⟨⟨rfl, hcap, fun d hd => Tab.get_insert_ne _ _ _ hd, fun x hx hc => ?_, by simp⟩, rfl⟩
  exact List.mem_filter.mpr ⟨hx, by simpa using hc⟩

theorem checkstop_framed (s : State) (c : Nat) (t : Trap) (pc : Word) :
    Framed c s ((s.unlock c).checkstop c t pc) ∧ ((s.unlock c).checkstop c t pc).perc = s.perc := by
  unfold State.checkstop
  simp only
  obtain ⟨l, h⟩ := reportFault_eq ((s.unlock c).logEvent 0x0601 3 (leBytes 4 pc.toNat ++ [BitVec.ofNat 8 c] ++ leBytes 2 (t.ecause.toNat % 65536))) c 2
  rw [h]
  refine ⟨⟨rfl, rfl, fun d hd => Tab.get_insert_ne _ _ _ hd, fun x hx hc => ?_, by simp [State.unlock, State.logEvent]⟩, rfl⟩
  exact List.mem_filter.mpr ⟨List.mem_filter.mpr ⟨hx, by simpa using hc⟩, by simpa using hc⟩

theorem fetchFault_framed (s : State) (c : Nat) (t : Trap) : Framed c s (s.fetchFault c t) ∧ (s.fetchFault c t).perc = s.perc := by
  unfold State.fetchFault
  simp only
  split
  · exact checkstop_framed ..
  · split
    · exact Framed.of_enter ..
    · exact Framed.of_enter ..

theorem retire_framed (s : State) (c : Nat) (pc : Word) (rep : Bool) (x : Cost) :
    Framed c s (s.retire c pc rep x) ∧ (s.retire c pc rep x).perc = s.perc := by
  obtain ⟨k, n, h⟩ := retire_eq s c pc rep x
  rw [h]
  exact ⟨⟨rfl, rfl, fun d hd => Tab.get_insert_ne _ _ _ hd, fun _ h _ => h, by simp⟩, rfl⟩

theorem fetch_framed (s : State) (c : Nat) (pc : Word) :
    Framed c s (s.fetch c pc).1 ∧ (s.fetch c pc).1.perc = s.perc ∧ (s.fetch c pc).1.cores = s.cores := by
  have hcap : (s.fetch c pc).1.dramCap = s.dramCap := by
    unfold State.fetch
    rcases s.judge c accFetch [⟨pc.toNat, 4⟩] none with t | ms
    · rfl
    · simp only
      split
      · exact (meetWords_alike _ s).cap
      · exact (mark_poised false ms _).1.cap.trans (meetWords_alike _ s).cap
  obtain ⟨t, ⟨u, p, ro, log, rfl⟩, k, kc, km, h⟩ := fetch_eq s c pc
  rw [h] at hcap ⊢
  exact ⟨⟨rfl, hcap, fun _ _ => rfl, fun _ h _ => h, by simp⟩, rfl, rfl⟩

/-- However a body on registers alone ends. -/
theorem finish_framed {u t : State} {c : Nat} {i : Instr} {pc : Word} {rep resumed : Bool} {r : Res} (hr : r.Local u c)
    (hl : (u.core c).badLoop pc = false) (h : u.finish c i pc rep resumed r = .next t) :
    Framed c u t ∧ ((u.core c).touchHeld = [] → t.perc = u.perc) := by
  have hkeys (k : Core) : Framed c u { (u.setCore c k) with keys := u.keys } := (Framed.setCore c u k).trans (Framed.setKeys c _ _)
  cases hr with
  | skip x =>
    obtain ⟨hf, hp⟩ := retire_framed u c pc rep x
    simp only [State.finish, hl, Bool.false_and, Bool.false_eq_true, if_false] at h
    cases h
    exact ⟨hf, fun _ => hp⟩
  | @done k x hk =>
    obtain ⟨hf, hp⟩ := retire_framed (u.setCore c k) c pc rep x
    simp only [State.finish, State.core_setCore, hk.badLoop, hl, Bool.false_and, Bool.false_eq_true, if_false] at h
    cases h
    exact ⟨(Framed.setCore c u k).trans hf, fun _ => hp⟩
  | @doneTrap k tr x hk =>
    obtain ⟨hf, hp⟩ := retire_framed (u.setCore c k) c pc rep x
    simp only [State.finish, State.core_setCore, hk.badLoop, hl, Bool.false_and, Bool.false_eq_true, if_false] at h
    cases h
    obtain ⟨he, hq⟩ := Framed.of_enter ((u.setCore c k).retire c pc rep x) c tr (((u.setCore c k).retire c pc rep x).core c).pc
      (((u.setCore c k).retire c pc rep x).core c).rs
    exact ⟨((Framed.setCore c u k).trans hf).trans he, fun _ => hq.trans hp⟩
  | @trap k tr hk =>
    cases h
    obtain ⟨he, hq⟩ := Framed.of_enter (({ (u.setCore c k) with keys := u.keys } : State).giveUp c) c tr pc (rep || resumed)
    refine ⟨((hkeys k).trans (giveUp_framed _ c)).trans he, fun hh => hq.trans ?_⟩
    have hnil : (({ (u.setCore c k) with keys := u.keys } : State).core c).touchHeld = [] :=
      (congrArg Core.touchHeld (State.core_setCore u c k)).trans (hk.1.trans hh)
    rw [giveUp_of_nil hnil]
    rfl

theorem applyDue_touchHeld (k : Core) : k.applyDue.touchHeld = k.touchHeld := by
  have hone (k : Core) (n : Nat) (v : Word) : (k.applyOne n v).touchHeld = k.touchHeld := by
    unfold Core.applyOne
    split <;> rfl
  have hfold (l : List Shadow) (k : Core) : (l.foldl (fun a x => a.applyOne x.num x.val) k).touchHeld = k.touchHeld := by
    induction l generalizing k with
    | nil => rfl
    | cons x t ih => exact (ih _).trans (hone ..)
  exact hfold _ k

/-- Running such a body leaves the frame, in each way that an instruction can end. -/
theorem runInstr_framed {s t : State} {d : CoreId} {i : Instr} {g : Guard} {enc : Option Nat} {fcost : Cost} {body : State → Res}
    (hb : ∀ u, (body u).Local u d) (hs : storeRoutine i = none) (hl : ((s.due d).core d).badLoop (s.pcOf d) = false)
    (h : s.runInstr d i g enc false false fcost body = .next t) :
    Framed d s t ∧ ((s.core d).touchHeld = [] → t.perc = s.perc) := by
  have hdue : Framed d s (s.due d) := Framed.setCore ..
  have hheld : ((s.due d).core d).touchHeld = (s.core d).touchHeld := (congrArg Core.touchHeld (State.core_setCore ..)).trans (applyDue_touchHeld _)
  unfold State.runInstr at h
  split at h
  · cases h
    exact ⟨.refl _ s, fun _ => rfl⟩
  simp only at h
  split at h
  · cases h
    exact ⟨hdue.trans (Framed.setCore ..), fun _ => rfl⟩
  split at h
  · cases h
    obtain ⟨he, hp⟩ := Framed.of_enter (s.due d) d (trapAt 20 0x02 ((s.due d).core d).pc) ((s.due d).core d).pc ((s.due d).core d).rs
    exact ⟨hdue.trans he, fun _ => hp⟩
  obtain ⟨hf, hfp, hfc⟩ := fetch_framed (s.due d) d (s.pcOf d)
  split at h
  case h_1 u tr hfetch =>
    rw [show (s.due d).fetch d (s.pcOf d) = (u, .error tr) from hfetch] at hf hfp
    cases h
    obtain ⟨he, hp⟩ := fetchFault_framed u d tr
    exact ⟨(hdue.trans hf).trans he, fun _ => hp.trans hfp⟩
  case h_2 u w hfetch =>
    rw [show (s.due d).fetch d (s.pcOf d) = (u, .ok w) from hfetch] at hf hfp hfc
    have hcore : u.core d = (s.due d).core d := by rw [State.core, hfc]; rfl
    have hu : Framed d s u := hdue.trans hf
    split at h
    · cases h
      obtain ⟨he, hp⟩ := Framed.of_enter u d (trapAt 4 0x02 (s.pcOf d)) (s.pcOf d) (s.rsOf d)
      exact ⟨hu.trans he, fun _ => hp.trans hfp⟩
    split at h
    case h_1 code =>
      cases h
      obtain ⟨he, hp⟩ := Framed.of_enter u d (trapAt 4 code (s.pcOf d)) (s.pcOf d) (s.rsOf d)
      exact ⟨hu.trans he, fun _ => hp.trans hfp⟩
    have hbody {r : Res} {rep resumed : Bool} (hr : r.Local u d) (h : u.finish d i (s.pcOf d) rep resumed r = .next t) :
        Framed d s t ∧ ((s.core d).touchHeld = [] → t.perc = s.perc) := by
      obtain ⟨he, hp⟩ := finish_framed hr (hcore ▸ hl) h
      exact ⟨hu.trans he, fun hh => (hp (by rw [hcore, hheld, hh])).trans hfp⟩
    split at h
    · rw [if_neg (by simp)] at h
      exact hbody (.skip fcost) h
    · rw [State.badBuiltin, hs] at h
      exact hbody (hb u) h

theorem registerCore_storeRoutine {i : Instr} {c : Nat} (h : registerCore i = some c) : storeRoutine i = none := by
  rcases hn : storeRoutine i with _ | n
  · rfl
  · unfold storeRoutine at hn
    split at hn
    case h_26 => cases hn
    all_goals cases h

/-- Settles O60: such an instruction runs a body on registers alone, and every way that it can end leaves the frame. -/
theorem registerOnlyFrame : Obligations.RegisterOnlyFrame := by
  intro i c s t hi hl hr h
  obtain ⟨d, g, enc, fcost, body, rfl, hrun, hb⟩ := registerCore_local hi hr
  rw [hrun] at h
  obtain ⟨hf, hp⟩ := runInstr_framed hb (registerCore_storeRoutine hi) hl h
  exact ⟨fun a ha => hf.byte ha, hp, hf.cores, hf.locks, hf.rest⟩

end Sys2Proof.Machine
end

section
/-!
PROOF. NaN operands and invalid operations (R339, R340).
-/

namespace Sys2Proof.Machine

section
variable (f : FpFmt) (fz : Bool)

/-- A pattern that is a NaN, and one that is signalling. -/
def FpFmt.isNan (v : Nat) : Prop := f.expo v = 2 ^ f.w - 1 ∧ f.frac v ≠ 0
def FpFmt.isSignalling (v : Nat) : Prop := f.isNan v ∧ f.frac v < 2 ^ (f.p - 2)

variable {f fz}

theorem read_of_nan {v : Nat} (h : f.isNan v) : f.read fz v = .nan (decide (f.frac v < 2 ^ (f.p - 2))) v := by
  rw [FpFmt.read, if_pos h.1, if_neg h.2]

theorem read_ne_nan {v : Nat} (h : ¬ f.isNan v) (sg : Bool) (b : Nat) : f.read fz v ≠ .nan sg b := by
  unfold FpFmt.read
  simp only
  split
  case isTrue he =>
    rw [if_pos (Decidable.byContradiction fun hm => h ⟨he, hm⟩)]
    simp
  case isFalse =>
    split <;> simp

/-- Whether a read value is a signalling NaN. -/
def FpVal.signalling : FpVal → Bool
  | .nan true _ => true
  | _ => false

theorem read_signalling {v : Nat} : (f.read fz v).signalling = true ↔ f.isSignalling v := by
  by_cases h : f.isNan v
  · rw [read_of_nan h, FpFmt.isSignalling]
    by_cases hf : f.frac v < 2 ^ (f.p - 2) <;> simp [FpVal.signalling, hf, h]
  · refine ⟨fun hs => ?_, fun hs => absurd hs.1 h⟩
    unfold FpVal.signalling at hs
    split at hs
    case h_1 b hr => exact absurd hr (read_ne_nan h _ _)
    case h_2 => cases hs

/-- The flags of an operation on two operands of which one is a NaN. -/
def nanFlags (f : FpFmt) (fz : Bool) (a b : Nat) : Nat := if (f.read fz a).signalling || (f.read fz b).signalling then fpNV else 0

theorem nanFlags_eq {a b : Nat} : nanFlags f fz a b = fpNV ↔ f.isSignalling a ∨ f.isSignalling b := by
  rw [nanFlags, ← read_signalling (fz := fz), ← read_signalling (fz := fz), ← Bool.or_eq_true]
  split
  case isTrue h => simp [h]
  case isFalse h => simp [h, fpNV]

theorem nanOf_pair (x y : FpVal) : f.nanOf [x, y] = match x, y with
    | .nan _ a, v => some ⟨f.quiet a, if x.signalling || v.signalling then fpNV else 0⟩
    | v, .nan _ b => some ⟨f.quiet b, if v.signalling || y.signalling then fpNV else 0⟩
    | _, _ => none := by
  rcases x with ⟨_ | _, a⟩ | n | ⟨n, m, e⟩ <;> rcases y with ⟨_ | _, b⟩ | n' | ⟨n', m', e'⟩ <;> rfl

/-- A NaN as first operand, and as second after a number, is the result, quieted (R339). -/
theorem nanOf_first {a b : Nat} (h : f.isNan a) : f.nanOf [f.read fz a, f.read fz b] = some ⟨f.quiet a, nanFlags f fz a b⟩ := by
  rw [nanOf_pair, nanFlags, read_of_nan h]

theorem nanOf_second {a b : Nat} (ha : ¬ f.isNan a) (h : f.isNan b) :
    f.nanOf [f.read fz a, f.read fz b] = some ⟨f.quiet b, nanFlags f fz a b⟩ := by
  rw [nanOf_pair, nanFlags, read_of_nan h]
  rcases hr : f.read fz a with ⟨sg, c⟩ | n | ⟨n, m, e⟩
  · exact absurd hr (read_ne_nan ha _ _)
  · rfl
  · rfl

/-- An operation whose operands hold a NaN. -/
theorem ops_of_nanOf {a b : Nat} {r : FpRes} (h : f.nanOf [f.read fz a, f.read fz b] = some r) (rm : Nat) :
    f.add rm fz false a b = r ∧ f.mul rm fz a b = r ∧ f.div rm fz a b = r ∧
      ∀ op, f.compare fz op a b = (false, if op = .eq then r.flags else fpNV) := by
  refine ⟨?_, ?_, ?_, fun op => ?_⟩
  · simp only [FpFmt.add, h]
  · simp only [FpFmt.mul, h]
  · simp only [FpFmt.div, h]
  · simp only [FpFmt.compare, h]

end

theorem read_zero (dbl fz : Bool) : (fpFmt dbl).read fz 0 = .fin false 0 ((fpFmt dbl).emin - ((fpFmt dbl).p - 1 : Nat)) := by
  cases dbl <;> cases fz <;> rfl

theorem read_infinity (dbl fz n : Bool) : (fpFmt dbl).read fz ((fpFmt dbl).infinity n) = .inf n := by
  cases dbl <;> cases n <;> rfl

/-- Settles O32: an operation whose operands hold a NaN answers it before anything else. -/
theorem fpNans : Obligations.FpNans := by
  intro dbl rm a b fz f nan sig
  have hsome : nan a ∨ nan b → ∃ bits, f.nanOf [f.read fz a, f.read fz b] = some ⟨bits, nanFlags f fz a b⟩ := by
    intro h
    by_cases ha : f.isNan a
    · exact ⟨_, nanOf_first ha⟩
    · exact ⟨_, nanOf_second ha (h.resolve_left ha)⟩
  refine ⟨fun ha => ?_, fun ha hb => ?_, fun h => ?_, ?_, ?_, ?_, ?_⟩
  · obtain ⟨h1, h2, h3, -⟩ := ops_of_nanOf (nanOf_first (fz := fz) (b := b) ha) rm
    exact ⟨congrArg FpRes.bits h1, congrArg FpRes.bits h2, congrArg FpRes.bits h3⟩
  · obtain ⟨h1, h2, h3, -⟩ := ops_of_nanOf (nanOf_second (fz := fz) ha hb) rm
    exact ⟨congrArg FpRes.bits h1, congrArg FpRes.bits h2, congrArg FpRes.bits h3⟩
  · obtain ⟨bits, hn⟩ := hsome h
    obtain ⟨hadd, -, -, hcmp⟩ := ops_of_nanOf hn rm
    rw [hadd, hcmp, hcmp, hcmp]
    exact ⟨nanFlags_eq, rfl, rfl, rfl, nanFlags_eq⟩
  · simp only [FpFmt.mul, f, read_zero, read_infinity, nanOf_pair]
    rfl
  · simp only [FpFmt.div, f, read_zero, nanOf_pair]
    rfl
  · simp only [FpFmt.div, f, read_infinity, nanOf_pair]
    rfl
  · have hne : ¬ (fpFmt dbl).infinity false = (fpFmt dbl).zero true + 1 := by cases dbl <;> decide
    simp only [FpFmt.add, f, read_infinity, nanOf_pair, hne, and_false, if_false]
    rfl

end Sys2Proof.Machine
end

section
/-!
PROOF. How an executed instruction ends, by its body's outcome (R393, R397).
-/

namespace Sys2Proof.Machine

/-- The instruction `i`, met in `s`, ends as the outcome `r` of its body says. -/
def BodyEnds (s : State) (c : CoreId) (i : Instr) (resum : Bool) (r : Res) : Prop :=
  exec i s = (s.fetched c).finish c i (s.pcOf c) (s.repeats c resum) (s.rsOf c && resum) r

section
variable {s u : State} {c : CoreId} {i : Instr} {g : Guard} {resum : Bool}

/-- An executed instruction without an encoding fault ends as its body does in the state that its fetch leaves. -/
theorem State.executes.body {xfer : Bool} {fcost : Cost} {body : State → Res} (hx : s.executes c i g resum)
    (h : exec i s = s.runInstr c i g none resum xfer fcost body) : BodyEnds s c i resum (body (s.fetched c)) :=
  h.trans (runInstr_executes _ _ _ hx)

theorem BodyEnds.congr {r q : Res} (h : BodyEnds s c i resum r) (e : r = q) : BodyEnds s c i resum q := e ▸ h

theorem BodyEnds.completes {x : Cost} (h : BodyEnds s c i resum (.done u x)) (he : s.endsWell u c resum = true) : Completes s u c i resum :=
  ⟨x, h.trans (finish_done i x he)⟩

theorem BodyEnds.traps {t : Trap} (h : BodyEnds s c i resum (.trap u t)) : Traps s u c i t := h.trans (finish_trap i t)

theorem BodyEnds.trapsLate {t : Trap} {x : Cost} (h : BodyEnds s c i resum (.trapLate u t x)) : TrapsLate s u c i t := ⟨x, h.trans (finish_trapLate i t x)⟩

theorem BodyEnds.jumps {target : Word} {x : Cost} (h : BodyEnds s c i resum (.jump u target x)) (hl : (u.core c).loopEndAt (s.pcOf c) = false) :
    Jumps s u c i target := ⟨x, h.trans (finish_jump i target x hl)⟩

theorem BodyEnds.leaves {x : Cost} (h : BodyEnds s c i resum (.leave u x)) : Leaves s u c i := ⟨x, h⟩

end

end Sys2Proof.Machine
end

section
/-!
PROOF. Loads, stores and the data stack (R290 to R293, R322).
-/

namespace Sys2Proof.Machine

section
variable {s : State} {c : CoreId} {g : Guard} {rd base : Reg} {mode : BitVec 3} {f : BitVec 9} {i : Instr} {n : Nat} {pair : Bool}

/-- The pair field of an access of a pair has no encoding fault. -/
theorem pairEnc_none (h : pair = true → oddReg rd = false) : (if pair then oddPair rd else none) = none := by
  split
  case isTrue hp => exact oddPair_none (h hp)
  case isFalse => rfl

/-- A load ends as its checks and its access do. -/
theorem load_result {put : Core → Nat → Core} (h : exec i s = s.load i c g rd base mode f n pair put)
    (hp : pair = true → oddReg rd = false) :
    LoadResult s c g rd base mode f i n pair put := by
  rw [State.load, pairEnc_none hp] at h
  intro hx hidx
  have hb := hx.body h
  simp only [hidx, Bool.false_eq_true, if_false] at hb
  simp only [State.coreOf]
  refine ⟨fun ms u v hj hl he => ?_, fun t hj => ?_, fun ms u t hj hl => ?_⟩
  · simp only [hj, hl, Bool.or_eq_true, Bool.and_eq_true, beq_iff_eq] at hb
    exact hb.completes he
  · simp only [hj] at hb
    exact hb.traps
  · simp only [hj, hl] at hb
    exact hb.traps

theorem LoadResult.congr {put put' : Core → Nat → Core} (h : LoadResult s c g rd base mode f i n pair put) (e : ∀ k v, put k v = put' k v) :
    LoadResult s c g rd base mode f i n pair put' := by
  obtain rfl : put = put' := funext fun k => funext fun v => e k v
  exact h

/-- A store ends as its checks and its access do. -/
theorem store_result {val : Core → Nat} (h : exec i s = s.store i c g rd base mode f n pair val)
    (hp : pair = true → oddReg rd = false) :
    StoreResult s c g base mode f i n val := by
  rw [State.store, pairEnc_none hp] at h
  intro hx hidx
  have hb := hx.body h
  simp only [hidx, Bool.false_eq_true, if_false] at hb
  simp only [State.coreOf]
  refine ⟨fun ms u hj hl he => ?_, fun t hj => ?_, fun ms u t hj hl => ?_⟩
  · simp only [hj, hl] at hb
    exact hb.completes he
  · simp only [hj] at hb
    exact hb.traps
  · simp only [hj, hl] at hb
    exact hb.traps

end

/-- The low byte or halfword of a loaded value, sign-extended. -/
theorem sextNat_mod {n : Nat} (v : Nat) (hn : 0 < n) : sextNat n (v % 2 ^ (8 * n)) = (BitVec.ofNat (8 * n) v).signExtend 32 := by
  have hh : 2 ^ (8 * n) = 2 * 2 ^ (8 * n - 1) := by rw [← Nat.pow_succ']; congr 1; omega
  rw [sextNat, BitVec.signExtend, BitVec.toInt_eq_toNat_cond, BitVec.toNat_ofNat]
  congr 1
  generalize v % 2 ^ (8 * n) = x
  by_cases hx : x < 2 ^ (8 * n - 1)
  · rw [if_pos hx, if_pos (by omega)]
  · rw [if_neg hx, if_neg (by omega)]
    push_cast
    rfl

/-- A pair takes the high and the low word of a loaded value. -/
theorem Core.setPair_ofNat (k : Core) (r : Reg) (v : Nat) :
    k.setPair r (BitVec.ofNat 64 v) = (k.setReg r (BitVec.ofNat 32 (v / 2 ^ 32))).setReg (r ||| 1) (BitVec.ofNat 32 v) := by
  have hhi : hiWord (BitVec.ofNat 64 v) = BitVec.ofNat 32 (v / 2 ^ 32) := by
    refine BitVec.eq_of_toNat_eq ?_
    simp only [hiWord, BitVec.extractLsb'_toNat, BitVec.toNat_ofNat, Nat.shiftRight_eq_div_pow]
    omega
  have hlo : loWord (BitVec.ofNat 64 v) = BitVec.ofNat 32 v := by
    refine BitVec.eq_of_toNat_eq ?_
    simp only [loWord, BitVec.extractLsb'_toNat, BitVec.toNat_ofNat, Nat.shiftRight_zero]
    omega
  rw [Core.setPair, hhi, hlo]

theorem Core.pair_toNat (k : Core) (r : Reg) : (k.pair r).toNat = (k.reg r).toNat * 2 ^ 32 + (k.reg (r ||| 1)).toNat := by
  rw [Core.pair, pairOf, toNat_append_eq_add, Nat.mul_comm]

/-- Settles O15: each load is the load form of its length, with its extension. -/
theorem loads : Obligations.Loads := by
  intro s c g rd base mode f
  refine ⟨?ldb, ?ldbu, ?ldh, ?ldhu, load_result (rfl : _ = execLdw c g rd base mode f s) nofun, fun hodd => ?ldd⟩
  case ldb =>
    exact (load_result (i := .ldb c g rd base mode f) (rfl : _ = execLdb c g rd base mode f s) nofun).congr fun k v => congrArg (k.setReg rd) (sextNat_mod (n := 1) v (by decide))
  case ldbu =>
    refine (load_result (i := .ldbu c g rd base mode f) (rfl : _ = execLdbu c g rd base mode f s) nofun).congr fun k v => congrArg (k.setReg rd) (BitVec.eq_of_toNat_eq ?_)
    simp
  case ldh =>
    exact (load_result (i := .ldh c g rd base mode f) (rfl : _ = execLdh c g rd base mode f s) nofun).congr fun k v => congrArg (k.setReg rd) (sextNat_mod (n := 2) v (by decide))
  case ldhu =>
    refine (load_result (i := .ldhu c g rd base mode f) (rfl : _ = execLdhu c g rd base mode f s) nofun).congr fun k v => congrArg (k.setReg rd) (BitVec.eq_of_toNat_eq ?_)
    simp
  case ldd => exact (load_result (i := .ldd c g rd base mode f) (rfl : _ = execLdd c g rd base mode f s) fun _ => hodd).congr fun k v => k.setPair_ofNat rd v

/-- Settles O16: each store is the store form of its length. -/
theorem stores : Obligations.Stores := by
  intro s c g rd base mode f
  refine ⟨store_result (rfl : _ = execStb c g rd base mode f s) nofun, store_result (rfl : _ = execSth c g rd base mode f s) nofun,
    store_result (rfl : _ = execStw c g rd base mode f s) nofun, fun hodd => ?_⟩
  simp only [← Core.pair_toNat]
  exact store_result (rfl : _ = execStd c g rd base mode f s) fun _ => hodd

/-- Settles O19: PUSH stores below the stack pointer and POP loads at it; each ends as its checks and its access do. -/
theorem dataStack : Obligations.DataStack := by
  intro s c g r
  have hpush (hx : s.executes c (.push c g r) g false) := hx.body (rfl : _ = execPush c g r s)
  have hpop (hx : s.executes c (.pop c g r) g false) := hx.body (rfl : _ = execPop c g r s)
  have hdsp : dsp = 31 := rfl
  simp only [State.coreOf]
  refine ⟨fun ms u hx hj hp he => ?_, fun t hx hj => ?_, fun ms u v hx hj hl he => ?_, fun t hx hj => ?_⟩
  · have hb := hpush hx
    simp only [hdsp, hj, hp] at hb
    exact hb.completes he
  · have hb := hpush hx
    simp only [hdsp, hj] at hb
    exact hb.traps
  · have hb := hpop hx
    simp only [hdsp, hj, hl] at hb
    exact hb.completes he
  · have hb := hpop hx
    simp only [hdsp, hj] at hb
    exact hb.traps

end Sys2Proof.Machine
end

section
/-!
PROOF. Atomics, fences and the storage keys (R264, R323, R324, R409, R416, R417).
-/

namespace Sys2Proof.Machine

section
variable {s : State} {c : CoreId} {g : Guard} {i : Instr} {rs rd : Reg}

/-- An atomic ends as its checks, its code words and its commit do. -/
theorem atomic_result {f : Core → Word → Option Word} (h : exec i s = s.atomic i c g rs f fun k old => k.setReg rd old) :
    AtomicResult s c g rs rd i f := by
  intro hx
  have hb := hx.body h
  simp only [State.coreOf]
  refine ⟨fun ms u hr hal hj hm hp he => ?_, fun t hr hj => ?_, fun ms cw hr hal hj hm => ?_, fun t hr => ?_⟩
  · simp only [hr, hal, if_true, hj, hm] at hb
    split at hp
    next w hw =>
      simp only [hw, hp] at hb
      exact hb.completes he
    next hw =>
      simp only [hw, hp] at hb
      exact hb.completes he
  · by_cases hal : (((s.fetched c).core c).reg rs).toNat % 4 = 0
    · simp only [hal, if_true] at hj
      simp only [hr, hal, if_true, hj] at hb
      exact hb.traps
    · simp only [hal, if_false] at hj
      simp only [hr, hal, if_false, hj] at hb
      exact hb.traps
  · simp only [hr, hal, if_true, hj, hm] at hb
    exact hb.traps
  · simp only [hr] at hb
    exact hb.traps

end

/-- Settles O20: each atomic is the atomic form with its new word. -/
theorem atomics : Obligations.Atomics := fun s c g rd rs rt =>
  ⟨atomic_result (rfl : _ = execSwpw c g rd rs rt s), atomic_result (rfl : _ = execCasw c g rd rs rt s),
    atomic_result (rfl : _ = execFaddw c g rd rs rt s)⟩

-- ---------------------------------------------------------------- fences (R264, R324)

theorem drainAll_storeBuf (s : State) (c : Nat) : ((s.drainAll c).core c).storeBuf = [] := by
  rw [State.drainAll, (drain_alike _ s c).2, List.drop_length]

/-- What a core has not kept of its own stores, and no other core's store hides, it fetches as memory holds it. -/
theorem refetch_fetchByte {s : State} {c a : Nat} (h : ∀ x ∈ s.stale, x.1 = a → x.2.1 = c) : (s.refetch c).fetchByte c a = s.byte a := by
  have hbyte : (s.refetch c).byte a = s.byte a := byte_congr (Alike.of_eq rfl rfl rfl) rfl rfl a
  have hown : ((s.refetch c).core c).staleOwn = [] := congrArg Core.staleOwn (State.core_setCore ..)
  have hstale : (s.refetch c).stale = s.stale := rfl
  rw [State.fetchByte, hown, hstale, List.find?_nil]
  split
  case h_1 hn => cases hn
  case h_2 y _ hf =>
    rw [if_pos (h y (List.mem_of_find?_eq_some hf) (by simpa using List.find?_some hf)), hbyte]
  case h_3 => exact hbyte

/-- Settles O21: a fence drains, and FENCEI then discards what the core kept of its own stores. -/
theorem fences : Obligations.Fences := by
  intro s c g d he
  have he' : s.endsWell (d.refetch c) c false = true := by
    rw [State.endsWell, State.refetch, State.core_setCore]
    exact he
  exact ⟨fun hx => (hx.body (rfl : _ = execFence c g s)).completes he, fun hx => (hx.body (rfl : _ = execFencei c g s)).completes he',
    drainAll_storeBuf _ c, fun a h => refetch_fetchByte h⟩

-- ---------------------------------------------------------------- the storage keys (R409, R416, R417)

section
variable {s : State} {c : CoreId} {g : Guard} {i : Instr} {rs : Reg} {most : Nat} {f : State → Nat → Cost → Res}

theorem privileged_none {k : Core} (h : k.ring ≤ most) : privileged k most = none := if_neg (by omega)
theorem privileged_some {k : Core} (h : most < k.ring) : privileged k most = some (trapAt 5 0x01 k.pc) := if_pos h

/-- A key instruction in a ring that may execute it, on a page that it reaches. -/
theorem keyInstr_body {pa : Nat} (h : exec i s = s.keyInstr i c g none most rs f) (hx : s.executes c i g false) (hk : (s.coreOf c).ring ≤ most)
    (ht : (s.fetched c).keyTarget c ((s.coreOf c).reg rs).toNat = .ok pa) :
    BodyEnds s c i false (f (((s.fetched c).drainAll c).keyFetch (pa / 4096)) pa ((s.fetched c).keyCost c pa)) := by
  have hb := hx.body h
  simp only [State.coreOf] at hk ht
  simp only [privileged_none hk, ht] at hb
  exact hb

/-- A key instruction in a ring that may not. -/
theorem keyInstr_privileged (h : exec i s = s.keyInstr i c g none most rs f) (hx : s.executes c i g false) (hk : most < (s.coreOf c).ring) :
    Traps s (s.fetched c) c i (trapAt 5 0x01 (s.coreOf c).pc) := by
  have hb := hx.body h
  simp only [State.coreOf] at hk
  simp only [privileged_some hk] at hb
  exact hb.traps

end

/-- What the loop check reads of a core decides whether an instruction ends well. -/
theorem endsWell_congr {s u v : State} {c : Nat} (h : v.core c = u.core c) (resum : Bool) : s.endsWell v c resum = s.endsWell u c resum := by
  rw [State.endsWell, State.endsWell, h]

/-- Completion leaves the page keys, the bytes and the percolator as they are. -/
theorem completed_keeps (s u : State) (c : Nat) (resum : Bool) (x : Cost) : (s.completed u c resum x).keys = u.keys ∧
    (∀ a, (s.completed u c resum x).byte a = u.byte a) ∧ (s.completed u c resum x).perc = u.perc := by
  obtain ⟨k, n, h⟩ := retire_eq u c (s.pcOf c) (s.repeats c resum) x
  rw [State.completed, h]
  exact ⟨rfl, byte_congr (Alike.of_eq rfl rfl rfl) rfl rfl, rfl⟩

theorem pageKey_setPageKey (s : State) (pa : Nat) (k : PageKey) : (s.setPageKey (pa / 4096) k).pageKey pa = k := Tab.get_put_self _ _ _ _

/-- KSET that is defined and does not wait, with whether it sets and whether it clears DUR (R417). -/
theorem kset_done {s : State} {c pa : Nat} {v : Word} {x : Cost} {new : Byte} {can sets clears : Bool} (hnew : v.extractLsb' 0 8 = new)
    (hcan : (memOf pa == 1 || memOf pa == 3) = can) (hs : (can && new.getLsbD 7 && !(s.pageKey pa).key.getLsbD 7) = sets)
    (hc : (can && !new.getLsbD 7 && (s.pageKey pa).key.getLsbD 7) = clears) (hset : sets = true → s.reservedPage pa = false ∧ s.headroom 4096 = true)
    (hkey : clears = true ∨ (s.durable pa = true ∧ new.extractLsb' 0 4 ≠ (s.pageKey pa).key.extractLsb' 0 4) →
      (s.pageKey pa).cur = 0 ∧ (s.pageKey pa).pend = 0) :
    ∃ u cf pf, s.kset c pa v x = .done u x ∧ u.core c = s.core c ∧ (∀ a, u.byte a = s.byte a) ∧
      u.pageKey pa = ⟨ksetByte (s.pageKey pa).key new (can && new.getLsbD 7), if sets then 0xFFFF#16 else if clears then 0 else (s.pageKey pa).cur,
        if sets = true ∨ clears = true then 0 else (s.pageKey pa).pend, cf, pf⟩ ∧
      u.perc.dirty = s.perc.dirty + if sets then 4096 else 0 := by
  unfold State.kset
  simp only [hnew, hcan, hs, hc]
  rw [if_neg fun h => by rw [(hset h.1).1] at h; exact Bool.false_ne_true h.2,
    if_neg fun h => h.2.elim (absurd (hkey h.1).1) (absurd (hkey h.1).2), if_neg fun h => h.2 (hset h.1).2]
  have hpage := pageKey_setPageKey s pa
  cases sets <;> simp only [Bool.false_eq_true, if_true, if_false] <;> split
  all_goals exact ⟨_, _, _, rfl, (State.core_setCore ..).trans rfl, byte_congr (.of_eq rfl rfl rfl) rfl rfl, hpage _, rfl⟩

/-- The key byte of a page that is not durable after KSET is the new one. -/
theorem ksetByte_false (old new : Byte) : ksetByte old new false = new := by
  simp only [ksetByte, Bool.false_eq_true, if_false, ← BitVec.and_or_distrib_left]
  exact BitVec.and_allOnes

theorem ksetByte_dur (old new : Byte) (dur : Bool) : (ksetByte old new dur).getLsbD 7 = new.getLsbD 7 := by
  cases dur <;> simp [ksetByte]

/-- Settles O22: each key instruction is the key form; KSET by the three ways that DUR can change. -/
theorem storageKeys : Obligations.StorageKeys := by
  intro s c g rd rs rt f k
  have hkrd (hodd : oddReg rd = false) : exec (.krd c g rd rs) s = s.keyInstr (.krd c g rd rs) c g none 1 rs fun s pa x =>
      .done (s.setCore c ((s.core c).setPair rd (pairOf (if s.durable pa then (s.pageKey pa).pend ++ (s.pageKey pa).cur else 0)
        ((s.pageKey pa).shown.zeroExtend 32)))) x := by
    rw [← oddPair_none hodd]
    rfl
  refine ⟨fun pa ht => ?page, fun i hi hx => ?priv⟩
  case priv =>
    obtain ⟨hodd, rfl, hr⟩ | ⟨rfl, hr⟩ | ⟨rfl, hr⟩ := hi
    · exact keyInstr_privileged (hkrd hodd) hx hr
    · exact keyInstr_privileged (rfl : _ = execKrref c g rd rs s) hx hr
    · exact keyInstr_privileged (rfl : _ = execKset c g rs rt s) hx hr
  case page =>
  intro d p
  refine ⟨fun hodd hx hr => ?krd, fun hx hr => ?krref, fun hx hr he => ?kset⟩
  case krd =>
    intro u he
    have hb := keyInstr_body (hkrd hodd) hx hr ht
    rw [Core.setPair_pairOf] at hb
    exact hb.completes he
  case krref =>
    intro e u he
    exact (keyInstr_body (s := s) (i := .krref c g rd rs) (rfl : _ = execKrref c g rd rs s) hx (Nat.le_of_eq hr) ht).completes he
  case kset =>
    have hb := keyInstr_body (s := s) (i := .kset c g rs rt) (rfl : _ = execKset c g rs rt s) hx (Nat.le_of_eq hr) ht
    have hend {u : State} {x : Cost} (hk : d.kset c pa ((d.core c).reg rt) ((s.fetched c).keyCost c pa) = .done u x) (hu : u.core c = d.core c) :
        exec (.kset c g rs rt) s = .next (s.completed u c false x) :=
      (hb.congr hk).trans (finish_done _ _ ((endsWell_congr hu false).trans he))
    have hfin {u : State} {x : Cost} {P : State → Prop} (hk : d.kset c pa ((d.core c).reg rt) ((s.fetched c).keyCost c pa) = .done u x)
        (hu : u.core c = d.core c) (hP : ∀ t : State, t.keys = u.keys → (∀ a, t.byte a = u.byte a) → t.perc = u.perc → P t) :
        ∃ t, exec (.kset c g rs rt) s = .next t ∧ P t :=
      have ⟨h1, h2, h3⟩ := completed_keeps s u c false x
      ⟨_, hend hk hu, hP _ h1 h2 h3⟩
    intro new can
    refine ⟨fun hdur hkey => ?keep, fun hcan hold hnew hres hroom => ?set, fun hcan hold hnew hcur hpend => ?clear⟩
    case keep =>
      have hsets : (can && new.getLsbD 7 && !p.key.getLsbD 7) = false := by
        obtain h | h := hdur
        · rw [h, Bool.and_assoc, Bool.and_not_self, Bool.and_false]
        · rw [h, Bool.false_and, Bool.false_and]
      have hclears : (can && !new.getLsbD 7 && p.key.getLsbD 7) = false := by
        obtain h | h := hdur
        · rw [h, Bool.and_assoc, Bool.not_and_self, Bool.and_false]
        · rw [h, Bool.false_and, Bool.false_and]
      obtain ⟨u, cf, pf, hk, hu, hbyte, hpage, -⟩ := kset_done (x := (s.fetched c).keyCost c pa) rfl rfl hsets hclears (by simp) (by grind)
      refine hfin hk hu fun t h1 h2 _ => ?_
      rw [show t.pageKey pa = u.pageKey pa by simp only [State.pageKey, h1], hpage]
      exact ⟨rfl, rfl, rfl, fun a => (h2 a).trans (hbyte a)⟩
    case set =>
      have hsets : (can && new.getLsbD 7 && !p.key.getLsbD 7) = true := by rw [hcan, hold, hnew]; rfl
      have hclears : (can && !new.getLsbD 7 && p.key.getLsbD 7) = false := by rw [hold, Bool.and_false]
      have hdur : d.durable pa = false := by
        rw [State.durable, show (d.pageKey pa).key.getLsbD 7 = false from hold, Bool.and_false, Bool.false_and]
      obtain ⟨u, cf, pf, hk, hu, -, hpage, hdirty⟩ := kset_done (x := (s.fetched c).keyCost c pa) rfl rfl hsets hclears (fun _ => ⟨hres, hroom⟩)
        (by simp [hdur])
      refine hfin hk hu fun t h1 _ h3 => ?_
      rw [show t.pageKey pa = u.pageKey pa by simp only [State.pageKey, h1], hpage, h3, hdirty]
      exact ⟨rfl, rfl, (ksetByte_dur ..).trans hnew, rfl⟩
    case clear =>
      have hsets : (can && new.getLsbD 7 && !p.key.getLsbD 7) = false := by rw [hnew, Bool.and_false, Bool.false_and]
      have hclears : (can && !new.getLsbD 7 && p.key.getLsbD 7) = true := by rw [hcan, hold, hnew]; rfl
      obtain ⟨u, cf, pf, hk, hu, -, hpage, -⟩ := kset_done (x := (s.fetched c).keyCost c pa) rfl rfl hsets hclears (by simp) (fun _ => ⟨hcur, hpend⟩)
      refine hfin hk hu fun t h1 _ _ => ?_
      rw [show t.pageKey pa = u.pageKey pa by simp only [State.pageKey, h1], hpage]
      refine ⟨rfl, rfl, ?_⟩
      rw [show (((d.core c).reg rt).extractLsb' 0 8).getLsbD 7 = false from hnew, Bool.and_false]
      exact ksetByte_false _ _

end Sys2Proof.Machine
end

section
/-!
PROOF. Control transfer, loops and repeats (R294, R296, R300, R301, R325, R326).
-/

namespace Sys2Proof.Machine

-- ---------------------------------------------------------------- the core that a transfer meets

/-- A fetch changes no core. -/
theorem coreOf_eq (s : State) (c : Nat) : s.coreOf c = (s.due c).core c := by
  rw [State.coreOf, State.fetched, State.core, (fetch_framed (s.due c) c (s.pcOf c)).2.2]
  rfl

theorem coreOf_pc (s : State) (c : Nat) : (s.coreOf c).pc = s.pcOf c := congrArg Core.pc (coreOf_eq s c)

theorem coreOf_rs (s : State) (c : Nat) : (s.coreOf c).rs = s.rsOf c := congrArg Core.rs (coreOf_eq s c)

theorem Mild.loopEndAt {k q : Core} (h : Mild k q) (pc : Word) : q.loopEndAt pc = k.loopEndAt pc := by
  have hhit : ∀ i < 3, q.loopHit pc i = k.loopHit pc i := fun i hi => by
    simp only [Core.loopHit, Core.le, Core.lc, h.2 (0x008 + i) (by omega) (by omega), h.2 (0x00C + i) (by omega) (by omega)]
  simp only [Core.loopEndAt, hhit 0 (by decide), hhit 1 (by decide), hhit 2 (by decide)]

theorem notLast_eq {k : Core} {pc : Word} (h : k.loopEndAt pc = false) (r : Res) : r.notLast k pc = r := if_neg (by simp [h])

/-- The body of a transfer at which no loop ends. -/
theorem State.notLoopEnd.body {s : State} {c : CoreId} {i : Instr} {resum : Bool} {r : Res} (hl : s.notLoopEnd c)
    (h : BodyEnds s c i resum (r.notLast (s.coreOf c) (s.coreOf c).pc)) : BodyEnds s c i resum r :=
  h.congr (notLast_eq (by rw [coreOf_pc]; exact hl) r)

-- ---------------------------------------------------------------- the return stack (R294, R325)

section
variable {s u : State} {c : Nat} (g : Guard) (pc target : Word) (n : Nat)

/-- A call with room in the return-stack buffer. -/
theorem callTo_room (h : (s.core c).rstack.length < 16) :
    ∃ x, s.callTo c g pc target n = .jump (s.setCore c { s.core c with rstack := (pc + 4) :: (s.core c).rstack }) target x := by
  rw [State.callTo, State.pushReturn]
  simp only [if_pos h]
  exact ⟨_, rfl⟩

/-- A call whose full buffer spills its oldest entry. -/
theorem callTo_spilled (h : (s.core c).rstack.length = 16) (hs : s.spillOldest c = .ok u) :
    ∃ x, s.callTo c g pc target n = .jump (u.setCore c { u.core c with rstack := (pc + 4) :: (u.core c).rstack }) target x := by
  rw [State.callTo, State.pushReturn]
  simp only [h, Nat.lt_irrefl, if_false, hs]
  exact ⟨_, rfl⟩

/-- A call whose full buffer has no room in memory. -/
theorem callTo_overflow (h : (s.core c).rstack.length = 16) (hs : (s.core c).onReturnStack ((s.core c).srGet 0x018 - 4).toNat = false) :
    s.callTo c g pc target n = .trap s (trapAt 14 0x01 ((s.core c).srGet 0x018 - 4)) := by
  have hspill : s.spillOldest c = .trap s (trapAt 14 0x01 ((s.core c).srGet 0x018 - 4)) := by
    rw [State.spillOldest]
    simp only [hs, Bool.false_eq_true, not_false_iff, if_true]
  rw [State.callTo, State.pushReturn]
  simp only [h, Nat.lt_irrefl, if_false, hspill]

end

theorem targetBad_eq {t : Word} : targetBad t = false ↔ t.extractLsb' 0 2 = 0#2 := by
  simp [targetBad]

theorem targetBad_ne {t : Word} : targetBad t = true ↔ t.extractLsb' 0 2 ≠ 0#2 := by
  simp [targetBad]

/-- RET from memory, when the return-stack buffer is empty. -/
theorem popReturn_load {s u : State} {c : Nat} (g : Guard) {ms : List Mapped} {v : Nat} (he : (s.core c).rstack = [])
    (hn : (s.core c).srGet 0x018 ≠ (s.core c).srGet 0x019) (hj : s.judge c accLoad (halves ((s.core c).srGet 0x018).toNat 4) none = .ok ms)
    (hl : s.performLoad c ms = .ok u v) :
    ∃ x, s.popReturn c g = if targetBad (BitVec.ofNat 32 v) then .trap u (trapAt 8 0x03 (BitVec.ofNat 32 v))
      else .jump (u.setCore c ((u.core c).srSet 0x018 ((s.core c).srGet 0x018 + 4))) (BitVec.ofNat 32 v) x := by
  rw [State.popReturn]
  simp only [he, if_neg hn, hj, hl]
  exact ⟨_, rfl⟩

/-- Settles O23: a transfer ends as its target's alignment and the return stack allow. -/
theorem transfers_hold : Obligations.Transfers := by
  intro s c g disp rs f k target pushed hl
  have hk : k.loopEndAt (s.pcOf c) = false := hl
  have hpushed : (pushed.core c).loopEndAt (s.pcOf c) = false := by
    rw [State.core_setCore]
    exact hk
  have hbr (hx : s.executes c (.br c g disp) g false) := hx.body (rfl : _ = execBr c g disp s)
  have hcall (hx : s.executes c (.call c g disp) g false) := hl.body (hx.body (rfl : _ = execCall c g disp s))
  have hjr (hx : s.executes c (.jr c g rs) g false) := hx.body (rfl : _ = execJr c g rs s)
  have hcallr (hx : s.executes c (.callr c g rs) g false) (ht : (k.reg rs).extractLsb' 0 2 = 0#2) :
      BodyEnds s c (.callr c g rs) false (f.callTo c g k.pc (k.reg rs) 3) :=
    hl.body ((hx.body (rfl : _ = execCallr c g rs s)).congr (if_neg (Bool.eq_false_iff.mp (targetBad_eq.mpr ht))))
  have hret (hx : s.executes c (.ret c g) g false) := hl.body (hx.body (rfl : _ = execRet c g s))
  refine ⟨fun hx => (hbr hx).jumps hk, fun hx hlen => ?call, fun hx ht => ?jr, fun hx ht => ?jrBad, fun hx ht hlen => ?callr, fun hx ht => ?callrBad,
    fun t r hx hr => ?ret, fun hx hr he => ?retEmpty, fun ms u v hx hr hn hj hload => ?retLoad, fun u i tgt hi hx hlen hs hu => ?spill,
    fun i hi hx hlen hs => ?overflow⟩
  case call =>
    obtain ⟨x, h⟩ := callTo_room (s := f) g k.pc target (brTaken disp) hlen
    exact ((hcall hx).congr h).jumps hpushed
  case jr => exact ((hjr hx).congr (if_neg (Bool.eq_false_iff.mp (targetBad_eq.mpr ht)))).jumps hk
  case jrBad => exact ((hjr hx).congr (if_pos (targetBad_ne.mpr ht))).traps
  case callr =>
    obtain ⟨x, h⟩ := callTo_room (s := f) g k.pc (k.reg rs) 3 hlen
    exact ((hcallr hx ht).congr h).jumps hpushed
  case callrBad => exact ((hx.body (rfl : _ = execCallr c g rs s)).congr (if_pos (targetBad_ne.mpr ht))).traps
  case ret =>
    have h : f.popReturn c g = .jump (f.setCore c { k with rstack := r }) t (f.xferCost c g 1 t) := by
      rw [State.popReturn]
      simp only [show (f.core c).rstack = t :: r from hr]
      rfl
    refine ((hret hx).congr h).jumps ?_
    rw [State.core_setCore]
    exact hk
  case retEmpty =>
    have h : f.popReturn c g = .trap f (trapAt 14 0x02 (k.srGet 0x018)) := by
      rw [State.popReturn]
      simp only [show (f.core c).rstack = [] from hr]
      exact if_pos he
    exact ((hret hx).congr h).traps
  case retLoad =>
    obtain ⟨x, h⟩ := popReturn_load (s := f) g hr hn hj hload
    refine ⟨fun ht hu => ?_, fun ht => ?_⟩
    · refine ((hret hx).congr (h.trans (if_neg (Bool.eq_false_iff.mp (targetBad_eq.mpr ht))))).jumps ?_
      rw [State.core_setCore, ((Mild.refl (u.core c)).srSet _ (by decide)).loopEndAt]
      exact hu
    · exact ((hret hx).congr (h.trans (if_pos (targetBad_ne.mpr ht)))).traps
  case spill =>
    have hu' : ((u.setCore c { u.core c with rstack := (k.pc + 4) :: (u.core c).rstack }).core c).loopEndAt (s.pcOf c) = false := by
      rw [State.core_setCore]
      exact hu
    obtain ⟨rfl, rfl⟩ | ⟨rfl, rfl, ht⟩ := hi
    · obtain ⟨x, h⟩ := callTo_spilled (s := f) g k.pc target (brTaken disp) hlen hs
      exact ((hcall hx).congr h).jumps hu'
    · obtain ⟨x, h⟩ := callTo_spilled (s := f) g k.pc (k.reg rs) 3 hlen hs
      exact ((hcallr hx ht).congr h).jumps hu'
  case overflow =>
    obtain rfl | ⟨rfl, ht⟩ := hi
    · exact ((hcall hx).congr (callTo_overflow (s := f) g k.pc target (brTaken disp) hlen hs)).traps
    · exact ((hcallr hx ht).congr (callTo_overflow (s := f) g k.pc (k.reg rs) 3 hlen hs)).traps

end Sys2Proof.Machine
end

section
/-!
PROOF. Hardware loops and repeat (R296, R300, R301, R326).
-/

namespace Sys2Proof.Machine

theorem loopEnc_none {lvl : BitVec 2} {imm : Imm12} (hl : lvl ≠ 3#2) (hi : imm ≠ 0#12) : loopEnc lvl imm = none := by
  rw [loopEnc, if_neg hl, if_neg hi]

/-- A loop's end lies after the LOOP. -/
theorem loopEnd_ne (pc : Word) {imm : Imm12} (h : imm ≠ 0#12) : pc + (imm.zeroExtend 32) * 4 ≠ pc := by
  intro he
  have hz : (imm.zeroExtend 32) * 4 = 0#32 := by simpa using he
  have ht := congrArg BitVec.toNat hz
  have hlt := imm.isLt
  have hne : imm.toNat ≠ 0 := fun h0 => h (BitVec.eq_of_toNat_eq h0)
  simp only [BitVec.toNat_mul, BitVec.truncate_eq_setWidth, BitVec.toNat_setWidth, BitVec.toNat_ofNat, show (4 : Word).toNat = 4 from rfl] at ht
  omega

/-- The core once a loop level is set up. -/
def Core.looped (k : Core) (lvl : Nat) (start fin count : Word) : Core :=
  ((k.srSet (0x004 + lvl) start).srSet (0x008 + lvl) fin).srSet (0x00C + lvl) count

theorem looped_srGet (k : Core) (lvl : Nat) (start fin count : Word) {n : Nat} (h4 : n ≠ 0x004 + lvl) (h8 : n ≠ 0x008 + lvl) (hc : n ≠ 0x00C + lvl) :
    (k.looped lvl start fin count).srGet n = k.srGet n := by
  rw [Core.looped, Core.srGet_srSet_ne _ _ hc, Core.srGet_srSet_ne _ _ h8, Core.srGet_srSet_ne _ _ h4]

theorem looped_le (k : Core) (lvl : Nat) (start fin count : Word) : (k.looped lvl start fin count).srGet (0x008 + lvl) = fin := by
  rw [Core.looped, Core.srGet_srSet_ne _ _ (by omega), Core.srGet_srSet]

/-- A level that ends elsewhere makes no loop end here. -/
theorem looped_loopEndAt {k : Core} {lvl : Nat} {pc start fin count : Word} (hl : lvl < 3) (hf : fin ≠ pc) (hk : k.loopEndAt pc = false) :
    (k.looped lvl start fin count).loopEndAt pc = false := by
  have hhit : ∀ i < 3, k.loopHit pc i = false → (k.looped lvl start fin count).loopHit pc i = false := by
    intro i hi hki
    obtain rfl | hne := Decidable.em (i = lvl)
    · simp only [Core.loopHit, Core.le, looped_le]
      simp [hf]
    · simp only [Core.loopHit, Core.le, Core.lc] at hki ⊢
      rwa [looped_srGet _ _ _ _ _ (by omega) (by omega) (by omega), looped_srGet _ _ _ _ _ (by omega) (by omega) (by omega)]
  simp only [Core.loopEndAt, Bool.or_eq_false_iff] at hk ⊢
  exact ⟨⟨hhit 0 (by decide) hk.1.1, hhit 1 (by decide) hk.1.2⟩, hhit 2 (by decide) hk.2⟩

theorem startLoop_eq (s : State) (c : Nat) (lvl : BitVec 2) (count : Word) (imm : Imm12) :
    ∃ x, s.startLoop c lvl count imm = .jump (s.setCore c ((s.core c).looped lvl.toNat ((s.core c).pc + 4) ((s.core c).pc + (imm.zeroExtend 32) * 4) count))
      (if count = 0 then (s.core c).pc + (imm.zeroExtend 32) * 4 + 4 else (s.core c).pc + 4) x := by
  rw [State.startLoop]
  split <;> exact ⟨_, rfl⟩

/-- LOOP and LOOPI end as their body does. -/
theorem loop_jumps {s : State} {c : CoreId} {i : Instr} {lvl : BitVec 2} {count : Word} {imm : Imm12} (hlvl : lvl ≠ 3#2) (himm : imm ≠ 0#12)
    (hl : s.notLoopEnd c)
    (hb : BodyEnds s c i false (((s.fetched c).startLoop c lvl count imm).notLast (s.coreOf c) (s.coreOf c).pc)) :
    Jumps s ((s.fetched c).setCore c ((s.coreOf c).looped lvl.toNat ((s.coreOf c).pc + 4) ((s.coreOf c).pc + (imm.zeroExtend 32) * 4) count)) c i
      (if count = 0 then (s.coreOf c).pc + (imm.zeroExtend 32) * 4 + 4 else (s.coreOf c).pc + 4) := by
  obtain ⟨x, hx⟩ := startLoop_eq (s.fetched c) c lvl count imm
  refine ((hl.body hb).congr hx).jumps ?_
  have h3 : lvl.toNat < 3 := by
    have := lvl.isLt
    have : lvl.toNat ≠ 3 := fun h => hlvl (BitVec.eq_of_toNat_eq h)
    omega
  rw [State.core_setCore]
  refine looped_loopEndAt h3 ?_ hl
  rw [← coreOf_pc]
  exact loopEnd_ne _ himm

/-- What RPT does once its target has been fetched. -/
theorem startRpt_eq {s : State} {c : CoreId} {n w : Nat} (hq : (s.fetch c ((s.core c).pc + 4)).2 = .ok w) :
    ∃ x, s.startRpt c n =
      if rptRefused (s.fetch c ((s.core c).pc + 4)).1.custResumable (decodeWord c (BitVec.ofNat 32 w)) then
        .trap (s.fetch c ((s.core c).pc + 4)).1 (trapAt 4 0x03 (s.core c).pc)
      else .leave ((s.fetch c ((s.core c).pc + 4)).1.setCore c
        { (((s.fetch c ((s.core c).pc + 4)).1.core c).countShadow.srSet 2 (BitVec.ofNat 32 n)) with
          pc := if n = 0 then (s.core c).pc + 8 else (s.core c).pc + 4, rs := decide (n ≠ 0) }) x := by
  have h8 : (s.core c).pc + 4 + 4 = (s.core c).pc + 8 := by rw [BitVec.add_assoc]; rfl
  refine ⟨upTo 1, ?_⟩
  rw [State.startRpt]
  generalize s.fetch c ((s.core c).pc + 4) = q at hq ⊢
  obtain ⟨q, r⟩ := q
  simp only at hq
  subst hq
  simp only [h8]
  by_cases hn : n = 0
  · simp only [hn, if_true, decide_false, not_true, ne_eq]
  · simp only [hn, if_false, decide_true, not_false_iff, ne_eq]

/-- Settles O24: a loop's body sets its level and jumps; RPT's judges its target and loads RC. -/
theorem loopsAndRepeats : Obligations.LoopsAndRepeats := by
  refine ⟨fun s c g lvl rs count imm hlvl himm hl => ?loops, fun s c g rs count w n i => ?repeats⟩
  case loops =>
    have henc := loopEnc_none hlvl himm
    refine ⟨fun hx => ?_, fun hx => ?_⟩
    · have h : exec (.loop c g lvl rs imm) s = s.runInstr c (.loop c g lvl rs imm) g none false true (cc 1) fun s =>
          (s.startLoop c lvl ((s.core c).reg rs) imm).notLast (s.core c) (s.core c).pc := henc ▸ (rfl : _ = execLoop c g lvl rs imm s)
      exact loop_jumps hlvl himm hl (hx.body h)
    · have h : exec (.loopi c g lvl count imm) s = s.runInstr c (.loopi c g lvl count imm) g none false true (cc 1) fun s =>
          (s.startLoop c lvl (count.zeroExtend 32) imm).notLast (s.core c) (s.core c).pc := henc ▸ (rfl : _ = execLoopi c g lvl count imm s)
      have hz : count.zeroExtend 32 = 0 ↔ count = 0 := by
        constructor
        · intro he
          have ht := congrArg BitVec.toNat he
          have hlt := count.isLt
          refine BitVec.eq_of_toNat_eq ?_
          simp at ht ⊢
          omega
        · rintro rfl
          rfl
      have hj := loop_jumps hlvl himm hl (hx.body h)
      simp only [hz] at hj
      exact hj
  case repeats =>
    intro k q hl hq hi hx kk
    have hb : BodyEnds s c i false ((s.fetched c).startRpt c n) := by
      obtain ⟨rfl, rfl⟩ | ⟨rfl, rfl⟩ := hi
      · exact hl.body (hx.body (rfl : _ = execRpt c g rs s))
      · exact hl.body (hx.body (rfl : _ = execRpti c g count s))
    obtain ⟨x, h⟩ := startRpt_eq (n := n) hq
    exact ⟨fun hr => (hb.congr (h.trans (if_neg (Bool.eq_false_iff.mp hr)))).leaves, fun hr => (hb.congr (h.trans (if_pos hr))).traps⟩

end Sys2Proof.Machine
end

section
/-!
PROOF. System calls and returns (R58, R407, R408, R411).
-/

namespace Sys2Proof.Machine

-- ---------------------------------------------------------------- what a charge leaves

/-- A core whose cycles and budget alone have changed. -/
def Charged (k q : Core) : Prop := ∃ cycle since budget pend ires,
  q = { k with cycle := cycle, sinceTick := since, budget := budget, budgetPend := pend, iresLeft := ires }

section
variable {k q : Core} (h : Charged k q)
include h

theorem Charged.regs : q.regs = k.regs := by obtain ⟨_, _, _, _, _, rfl⟩ := h; rfl
theorem Charged.pc : q.pc = k.pc := by obtain ⟨_, _, _, _, _, rfl⟩ := h; rfl
theorem Charged.rs : q.rs = k.rs := by obtain ⟨_, _, _, _, _, rfl⟩ := h; rfl
theorem Charged.run : q.run = k.run := by obtain ⟨_, _, _, _, _, rfl⟩ := h; rfl
theorem Charged.task : q.task = k.task := by obtain ⟨_, _, _, _, _, rfl⟩ := h; rfl
theorem Charged.inNmi : q.inNmi = k.inNmi := by obtain ⟨_, _, _, _, _, rfl⟩ := h; rfl
theorem Charged.inMc : q.inMc = k.inMc := by obtain ⟨_, _, _, _, _, rfl⟩ := h; rfl
theorem Charged.srGet (n : Nat) : q.srGet n = k.srGet n := by obtain ⟨_, _, _, _, _, rfl⟩ := h; rfl
theorem Charged.stat : q.stat = k.stat := h.srGet 0

end

theorem Core.charge_charged (k : Core) (n : Nat) : Charged k (k.charge n) := by
  have hspend (k : Core) (n : Nat) : ∃ budget pend, k.spend n = { k with budget := budget, budgetPend := pend } := by
    unfold Core.spend
    split <;> exact ⟨_, _, rfl⟩
  unfold Core.charge
  simp only
  split
  · obtain ⟨b, p, h⟩ := hspend { k with cycle := (k.cycle + n) % 2 ^ 64, sinceTick := k.sinceTick + n, iresLeft := k.iresLeft - min n k.iresLeft } (n - min n k.iresLeft)
    exact ⟨_, _, b, p, _, h⟩
  · split
    · obtain ⟨b, p, h⟩ := hspend { k with cycle := (k.cycle + n) % 2 ^ 64, sinceTick := k.sinceTick + n } n
      exact ⟨_, _, b, p, _, h⟩
    · exact ⟨_, _, _, _, _, rfl⟩

theorem charge_charged (s : State) (c : Nat) (x : Cost) : Charged (s.core c) ((s.charge c x).core c) ∧ (s.charge c x).mem = s.mem := by
  obtain ⟨n, -, h⟩ := charge_eq s c x
  rw [h]
  refine ⟨?_, rfl⟩
  rw [show State.core { s with cores := Tab.insert c ((s.core c).charge n) s.cores, freeCtr := if x.hi ≤ x.lo then s.freeCtr else s.freeCtr + 1 } c =
    (s.core c).charge n from Tab.get_insert_self ..]
  exact Core.charge_charged ..

/-- An instruction that leaves its core in `k`: the core it ends with differs from `k` by a charge. -/
theorem BodyEnds.leaves_core {s u : State} {c : CoreId} {i : Instr} {k : Core} {x : Cost} (h : BodyEnds s c i false (.leave (u.setCore c k) x)) :
    ∃ t, exec i s = .next t ∧ Charged k (t.core c) ∧ t.mem = u.mem := by
  obtain ⟨hk, hm⟩ := charge_charged (u.setCore c k) c x
  rw [State.core_setCore] at hk
  exact ⟨_, h, hk, hm⟩

-- ---------------------------------------------------------------- system calls (R411)

/-- The STAT that a gate's entry into ring `t` leaves. -/
def gateStat (st : Word) (t : Nat) : Word :=
  if t = 0 then ((st &&& 0xCFFFFFFF#32) ||| (BitVec.ofNat 32 t <<< 28)) &&& 0xF0FFFFFF#32 else (st &&& 0xCFFFFFFF#32) ||| (BitVec.ofNat 32 t <<< 28)

theorem gateStat_fields (st : Word) {t : Nat} (ht : t < 4) : (gateStat st t).extractLsb' 28 2 = BitVec.ofNat 2 t ∧
    (gateStat st t).extractLsb' 12 4 = st.extractLsb' 12 4 ∧ (gateStat st t).extractLsb' 24 4 = if t = 0 then 0#4 else st.extractLsb' 24 4 := by
  have hones (x : BitVec 4) : x &&& 15#4 = x := BitVec.and_allOnes
  obtain rfl | rfl | rfl | rfl : t = 0 ∨ t = 1 ∨ t = 2 ∨ t = 3 := by omega
  all_goals simp [gateStat, BitVec.extractLsb'_and, BitVec.extractLsb'_or, hones]

theorem callMax_eq (k : Core) (n : BitVec 4) : k.callMax n.toNat = ((k.srGet 0x070).extractLsb' (2 * n.toNat) 2).toNat := by
  rw [Core.callMax, BitVec.extractLsb'_toNat, Nat.shiftRight_eq_div_pow, Nat.pow_mul]

theorem loopCheck_regs (k : Core) (pc : Word) : (k.loopCheck pc).1.regs = k.regs := (Core.loopNext_frame pc _ k).1

theorem loopCheck_stat (k : Core) (pc : Word) : (k.loopCheck pc).1.stat = k.stat := (Core.loopNext_frame pc _ k).2 0 (by simp)

/-- The core that a gate's entry leaves. -/
def Core.gated (k : Core) (t : Nat) (gate : Word) : Core :=
  { ((((k.loopCheck k.pc).1.srSet (0x054 + 2 * t) (k.loopCheck k.pc).2).srSet (0x055 + 2 * t) k.stat).srSet 0 (gateStat k.stat t)) with
    pc := gate &&& 0xFFFFFFFC#32, rs := false }

theorem gated_stat (k : Core) (t : Nat) (gate : Word) : (k.gated t gate).stat = gateStat k.stat t := Core.stat_srSet ..

theorem gated_regs (k : Core) (t : Nat) (gate : Word) : (k.gated t gate).regs = k.regs := loopCheck_regs k k.pc

theorem gated_srGet (k : Core) (t : Nat) (gate : Word) {n : Nat} (h : n ≠ 0) : (k.gated t gate).srGet n =
    (((k.loopCheck k.pc).1.srSet (0x054 + 2 * t) (k.loopCheck k.pc).2).srSet (0x055 + 2 * t) k.stat).srGet n := Core.srGet_srSet_ne _ _ h

/-- SYSC, once pending writes are in force. -/
theorem sysc_eq (s : State) (c : Nat) (n : BitVec 4) {k : Core} (hk : k = (s.core c).applyAll) {gate : Word} (hg : gate = k.srGet (0x080 + n.toNat)) {t : Nat}
    (ht : t = (gate.extractLsb' 0 2).toNat) :
    ∃ x, s.sysc c n.toNat = if t = 3 ∨ ((k.srGet 0x070).extractLsb' (2 * n.toNat) 2).toNat < k.ring ∨ k.ring < t then
        .trap (s.setCore c k) (trapAt 5 0x05 (BitVec.ofNat 32 n.toNat))
      else .leave ((s.setCore c k).setCore c (k.gated t gate)) x := by
  subst hk hg ht
  rw [State.sysc, ← callMax_eq]
  simp only [loopCheck_stat]
  exact ⟨_, rfl⟩

/-- Settles O25: SYSC is refused, or leaves the gated core. -/
theorem systemCall : Obligations.SystemCall := by
  intro s c g n k gate ring refused hx hl
  have hb : BodyEnds s c (.sysc c g n) false ((s.fetched c).sysc c n.toNat) :=
    (hx.body (rfl : _ = execSysc c g n s)).congr (if_neg (Bool.eq_false_iff.mp hl))
  obtain ⟨x, h⟩ := sysc_eq (s.fetched c) c n (k := k) rfl (gate := gate) rfl (t := ring) rfl
  refine ⟨fun hr => (hb.congr (h.trans (if_pos hr))).traps, fun hr => ?_⟩
  obtain ⟨t, ht, hcore, hmem⟩ := (hb.congr (h.trans (if_neg hr))).leaves_core
  have hring : ring < 4 := (gate.extractLsb' 0 2).isLt
  obtain ⟨h28, h12, h24⟩ := gateStat_fields k.stat hring
  have hstat : (t.core c).stat = gateStat k.stat ring := hcore.stat.trans (gated_stat k ring gate)
  refine ⟨t, ht, hcore.pc, ?_, ?_, ?_, ?_, ?_, ?_, ?_, hcore.rs, hmem⟩
  · rw [Core.ring, hstat, h28, BitVec.toNat_ofNat]
    exact Nat.mod_eq_of_lt hring
  · rw [Core.bank, hstat, h12]
    rfl
  · intro h0
    rw [Core.key, hstat, h24, if_pos h0]
  · intro h0
    rw [Core.key, hstat, h24, if_neg h0]
    rfl
  · rw [hcore.srGet, gated_srGet _ _ _ (by omega), Core.srGet_srSet_ne _ _ (by omega), Core.srGet_srSet]
  · rw [hcore.srGet, gated_srGet _ _ _ (by omega), Core.srGet_srSet]
  · exact hcore.regs.trans (gated_regs ..)

-- ---------------------------------------------------------------- returns (R407, R408)

theorem resume_handlers (k : Core) (pc : Word) (rs : Bool) : (k.resume pc rs).inNmi = k.inNmi ∧ (k.resume pc rs).inMc = k.inMc := by
  have h : (k.touchBank k.bank).inNmi = k.inNmi ∧ (k.touchBank k.bank).inMc = k.inMc := by
    unfold Core.touchBank
    split <;> exact ⟨rfl, rfl⟩
  exact h

/-- A return in ring 0, once pending writes are in force, whose end of the handler leaves the special registers. -/
theorem return_eq {s : State} {c : Nat} {num : Nat} {ends : Core → Core} {k : Core} (hk : k = (s.core c).applyAll) (hr : k.ring = 0)
    (hends : (ends k).sr = k.sr) (hbad : (ends k).badRestore ((k.srGet (num + 1)).extractLsb' 12 4).toNat = false) :
    ∃ x, s.return_ c num ends = .leave ((s.setCore c k).setCore c
      (((ends k).srSet 0 (restoredStat (k.srGet (num + 1)))).resume (k.srGet num) ((k.srGet (num + 1)).getLsbD 22))) x := by
  subst hk
  rw [State.return_]
  simp only [privileged_none (Nat.le_of_eq hr), hbad, Bool.false_eq_true, if_false, Core.srGet_congr hends]
  exact ⟨_, rfl⟩

theorem return_privileged {s : State} {c : Nat} {num : Nat} {ends : Core → Core} {k : Core} (hk : k = (s.core c).applyAll) (hr : 0 < k.ring) :
    s.return_ c num ends = .trap (s.setCore c k) (trapAt 5 0x01 k.pc) := by
  subst hk
  rw [State.return_]
  simp only [privileged_some hr]

/-- A return from a saved pair, whose end of the handler leaves registers. -/
theorem return_result {s : State} {c : CoreId} {g : Guard} {i : Instr} {num : Nat} {ends : Core → Core} (hl : s.notLoopEnd c)
    (h : exec i s = s.runReturn i c g num ends) (hends : ∀ k, (ends k).regs = k.regs ∧ (ends k).sr = k.sr) : ReturnResult s c g i num ends := by
  intro hx
  have hb := hl.body (hx.body h)
  refine ⟨fun hr => (hb.congr (return_privileged rfl hr)).traps, fun hr hbad => ?_⟩
  obtain ⟨x, hret⟩ := return_eq (s := s.fetched c) rfl hr (hends _).2 hbad
  obtain ⟨t, ht, hcore, hmem⟩ := (hb.congr hret).leaves_core
  obtain ⟨hnmi, hmc⟩ := resume_handlers ((ends (s.coreOf c).applyAll).srSet 0 (restoredStat ((s.coreOf c).applyAll.srGet (num + 1))))
    ((s.coreOf c).applyAll.srGet num) (((s.coreOf c).applyAll.srGet (num + 1)).getLsbD 22)
  exact ⟨t, ht, hcore.pc, hcore.stat.trans ((Core.resume_stat ..).trans (Core.stat_srSet ..)), hcore.rs,
    hcore.regs.trans ((Core.resume_regs ..).trans (hends _).1), hcore.inNmi.trans hnmi, hcore.inMc.trans hmc, hmem⟩

/-- SRET in a ring below 3, once pending writes are in force. -/
theorem sret_eq {s : State} {c : Nat} {k : Core} (hk : k = (s.core c).applyAll) (hr : k.ring ≠ 3) :
    ∃ x, s.sret c = .leave ((s.setCore c k).setCore c
      { k.srSet 0 ((k.srGet (0x055 + 2 * k.ring) &&& statMask) ||| (k.stat &&& 0xF000#32)) with
        pc := k.srGet (0x054 + 2 * k.ring) &&& 0xFFFFFFFC#32, rs := (k.srGet (0x055 + 2 * k.ring)).getLsbD 22 }) x := by
  subst hk
  rw [State.sret]
  simp only [if_neg hr]
  exact ⟨_, rfl⟩

theorem sret_bank (sv st : Word) : ((sv &&& statMask) ||| (st &&& 0xF000#32)).extractLsb' 12 4 = st.extractLsb' 12 4 := by
  have hones (x : BitVec 4) : x &&& 15#4 = x := BitVec.and_allOnes
  simp [statMask, BitVec.extractLsb'_and, BitVec.extractLsb'_or, hones]

/-- What TEND leaves of its core. -/
theorem tend_core (s : State) (c : Nat) (k : Core) : ((s.setCore c k).tend c).core c =
      { k with task := none, run := .idle, rs := false, bsDepth := 0, fastDepth := 0, fbInt := [], bsInt := [], inDebug := false } ∧
    ((s.setCore c k).tend c).mem = s.mem := by
  refine ⟨?_, rfl⟩
  rw [State.tend, State.core_setCore, State.core_setCore]

theorem advance_frame (k : Core) (pc : Word) : (k.advance pc false).regs = k.regs ∧ (k.advance pc false).stat = k.stat := by
  rw [Core.advance, if_neg (by simp)]
  exact ⟨loopCheck_regs .., loopCheck_stat ..⟩

/-- Settles O26: a return leaves the core of its saved pair, and TEND an idle one. -/
theorem returns : Obligations.Returns := by
  refine ⟨fun s c g hl => ?returns, fun s c g hx hok hbad => ?tend⟩
  case returns =>
    intro a f
    have hsret (hx : s.executes c (.sret c g) g false) := hl.body (hx.body (rfl : _ = execSret c g s))
    refine ⟨return_result hl (rfl : _ = execEret c g s) fun _ => ⟨rfl, rfl⟩, return_result hl (rfl : _ = execFret c g s) fun _ => ⟨rfl, rfl⟩,
      return_result hl (rfl : _ = execNret c g s) fun _ => ⟨rfl, rfl⟩, return_result hl (rfl : _ = execMret c g s) fun _ => ⟨rfl, rfl⟩,
      fun hx hr => ?_, fun hx hr => ?_⟩
    · have h : (s.fetched c).sret c = .trap f (trapAt 5 0x05 0xFFFFFFFF#32) := by
        rw [State.sret]
        exact if_pos hr
      exact ((hsret hx).congr h).traps
    · obtain ⟨x, h⟩ := sret_eq (s := s.fetched c) (k := a) rfl (by omega)
      obtain ⟨t, ht, hcore, -⟩ := ((hsret hx).congr h).leaves_core
      have hstat := hcore.stat.trans (Core.stat_srSet ..)
      refine ⟨t, ht, hcore.pc, hstat, hcore.rs, ?_, hcore.regs⟩
      rw [Core.bank, hstat, sret_bank]
      rfl
  case tend =>
    have hb := hx.body (rfl : _ = execTend c g s)
    rw [if_neg (by simpa [State.coreOf] using hok), if_neg (Bool.eq_false_iff.mp (show ((s.fetched c).core c).badLoop ((s.fetched c).core c).pc = false from hbad))] at hb
    obtain ⟨hone, hmem⟩ := charge_charged (s.fetched c) c (cc 1)
    obtain ⟨htend, htmem⟩ := tend_core ((s.fetched c).charge c (cc 1)) c ((((s.fetched c).charge c (cc 1)).core c).countShadow.advance (s.coreOf c).pc false)
    obtain ⟨hregs, hstat⟩ := advance_frame (((s.fetched c).charge c (cc 1)).core c).countShadow (s.coreOf c).pc
    obtain ⟨hlast, hlmem⟩ := charge_charged ((((s.fetched c).charge c (cc 1)).setCore c
      ((((s.fetched c).charge c (cc 1)).core c).countShadow.advance (s.coreOf c).pc false)).tend c) c (cc 0)
    rw [htend] at hlast
    refine ⟨_, hb, hlast.task, hlast.run, ?_, hlast.regs.trans (hregs.trans hone.regs), hlmem.trans (htmem.trans hmem)⟩
    exact congrArg (fun st => (BitVec.extractLsb' 12 4 st).toNat) (hlast.stat.trans (hstat.trans hone.stat))

end Sys2Proof.Machine
end

section
/-!
PROOF. Contexts, banks and special registers (R275, R278, R279, R283, R295, R304, R420, R422).
-/

namespace Sys2Proof.Machine

-- ---------------------------------------------------------------- contexts and banks

section
variable {s : State} {c : Nat} {n b pa : Nat} (hr : (s.core c).ring ≤ 1)
include hr

theorem ctxsw_resident (hb : (s.core c).residentIn n = some b) : s.ctxsw c n = .done (s.setCore c ((s.core c).makeCurrent b)) (upTo 2) := by
  rw [State.ctxsw]
  simp only [privileged_none hr, hb]

theorem ctxsw_fill (hb : (s.core c).residentIn n = none) (hf : (s.core c).fillBank = some b) (hp : s.slotPa c n = some pa)
    (hm : ((s.drainAll c).meetWords (cwsOf pa 128)).2 = none) : s.ctxsw c n =
      .done (((s.drainAll c).meetWords (cwsOf pa 128)).1.setCore c ((((((s.drainAll c).meetWords (cwsOf pa 128)).1.core c).fillFrom b
        (((s.drainAll c).meetWords (cwsOf pa 128)).1.bytes pa 128) 32).bind b n).makeCurrent b)) (upTo 34) := by
  rw [State.ctxsw]
  simp only [privileged_none hr, hb, hf, hp, hm]

theorem ctxsw_overflow (hb : (s.core c).residentIn n = none) (hf : (s.core c).fillBank = none) : s.ctxsw c n = .trap s ((s.core c).overflow n) := by
  rw [State.ctxsw]
  simp only [privileged_none hr, hb, hf]

end

theorem ctxsw_privileged {s : State} {c n : Nat} (hr : 1 < (s.core c).ring) : s.ctxsw c n = .trap s (trapAt 5 0x01 (s.core c).pc) := by
  rw [State.ctxsw]
  simp only [privileged_some hr]

/-- The core that a fetch leaves, written back. -/
theorem fetched_setCore_coreOf (s : State) (c : Nat) : (s.fetched c).setCore c (s.coreOf c) = s.fetched c := by
  have hcores : (s.fetched c).cores = Tab.insert c (s.core c).applyDue s.cores := (fetch_framed (s.due c) c (s.pcOf c)).2.2
  have hcore : s.coreOf c = (s.core c).applyDue := (coreOf_eq s c).trans (State.core_setCore ..)
  have hins : Tab.insert c (s.coreOf c) (s.fetched c).cores = (s.fetched c).cores := by rw [hcore, hcores, Tab.insert_insert]
  rw [State.setCore, hins]

/-- Settles O27: each bank instruction's body, by the ring, the context's bank and BWIN. -/
theorem banks : Obligations.Banks := by
  intro s c g rd rs f k n
  refine ⟨fun hx hr => ?ctxsw, fun hx hr => ?mfb, fun hx hr hw => ?mtb, fun i hi hx => ?ring⟩
  case ctxsw =>
    have hb := hx.body (rfl : _ = execCtxsw c g rs s)
    refine ⟨fun b h he => (hb.congr (ctxsw_resident hr h)).completes he, fun b pa h hf hp hm => ?_,
      fun h hf => (hb.congr (ctxsw_overflow hr h hf)).traps⟩
    intro r u he
    exact (hb.congr (ctxsw_fill hr h hf hp hm)).completes he
  case mfb =>
    intro u he
    have hb := hx.body (rfl : _ = execMfb c g rd rs s)
    simp only [show privileged ((s.fetched c).core c) 0 = none from privileged_none (Nat.le_of_eq hr)] at hb
    exact hb.completes he
  case mtb =>
    intro u he
    have hb := hx.body (rfl : _ = execMtb c g rd rs s)
    simp only [show privileged ((s.fetched c).core c) 0 = none from privileged_none (Nat.le_of_eq hr)] at hb
    by_cases h : k.bwin ≤ 9
    · rw [if_neg (show ¬ 9 < ((s.fetched c).core c).bwin from by simpa [k, State.coreOf] using h),
        if_neg (Bool.eq_false_iff.mp (show ((s.fetched c).core c).heldBank ((s.fetched c).core c).bwin = false from hw h))] at hb
      simp only [u, if_pos h] at he ⊢
      exact hb.completes he
    · rw [if_pos (show 9 < ((s.fetched c).core c).bwin from by simpa [k, State.coreOf] using h)] at hb
      simp only [u, if_neg h] at he ⊢
      rw [fetched_setCore_coreOf] at he ⊢
      exact hb.completes he
  case ring =>
    rcases hi with ⟨rfl, hr⟩ | ⟨rfl, hr⟩ | ⟨rfl, hr⟩
    · exact ((hx.body (rfl : _ = execCtxsw c g rs s)).congr (ctxsw_privileged hr)).traps
    · have hb := hx.body (rfl : _ = execMfb c g rd rs s)
      simp only [show privileged ((s.fetched c).core c) 0 = some _ from privileged_some hr] at hb
      exact hb.traps
    · have hb := hx.body (rfl : _ = execMtb c g rd rs s)
      simp only [show privileged ((s.fetched c).core c) 0 = some _ from privileged_some hr] at hb
      exact hb.traps

-- ---------------------------------------------------------------- special registers

section
variable {s : State} {c n : Nat} {r : Reg} {v : Word}

theorem mfs_unlisted (h : srListed n = false) : s.mfs c n r = .trap s (trapAt 4 0x05 (s.core c).pc) := by
  rw [State.mfs, if_pos (by simp [h])]

theorem mfs_ring (h : srListed n = true) (hr : srReadRing n < (s.core c).ring) : s.mfs c n r = .trap s (trapAt 5 0x02 (s.core c).pc) := by
  rw [State.mfs, if_neg (by simp [h]), if_pos hr]

theorem mfs_rsp (h : srListed n = true) (hr : (s.core c).ring ≤ srReadRing n) (hn : n = 0x018) : s.mfs c n r = s.mfsRsp c r := by
  rw [State.mfs, if_neg (by simp [h]), if_neg (by omega), if_pos hn]

theorem mfs_value (h : srListed n = true) (hr : (s.core c).ring ≤ srReadRing n) (hn : n ≠ 0x018) : s.mfs c n r =
    .done ((s.mfsValue c n).1.setCore c (((s.mfsValue c n).1.core c).setReg r (s.mfsValue c n).2)) (upTo 1) := by
  rw [State.mfs, if_neg (by simp [h]), if_neg (by omega), if_neg hn]

theorem mfsRsp_ok {u : State} (hb : (s.core c).badSlot ((s.core c).srGet 0x018) (s.core c).rstack.length = none)
    (hs : s.spillAll c (s.core c).rstack.length = .ok u) : s.mfsRsp c r = .done (u.setCore c ((u.core c).setReg r ((u.core c).srGet 0x018)))
      (upTo (1 + 2 * (s.core c).rstack.length + drainTime (s.displaced c) (s.core c).storeBuf (s.core c).storeBuf.length)) := by
  rw [State.mfsRsp]
  simp only [hb, hs]

theorem mts_unlisted (h : srListed n = false ∨ srReadOnly n = true) : s.mts c n v = .trap s (trapAt 4 0x05 (s.core c).pc) := by
  rw [State.mts, if_pos (by simpa using h)]

theorem mts_ring (h : srListed n = true) (ho : srReadOnly n = false) (hr : srWriteRing n < (s.core c).ring) :
    s.mts c n v = .trap s (trapAt 5 0x02 (s.core c).pc) := by
  rw [State.mts, if_neg (by simp [h, ho]), if_pos hr]

theorem mts_statField (h : srListed n = true) (ho : srReadOnly n = false) (hr : (s.core c).ring ≤ srWriteRing n)
    (hb : n = 0 ∧ 0 < (s.core c).ring ∧ (s.core c).statFieldBad v = true) : s.mts c n v = .trap s (trapAt 5 0x03 (s.core c).pc) := by
  rw [State.mts, if_neg (by simp [h, ho]), if_neg (by omega), if_pos hb]

theorem mts_write (h : srListed n = true) (ho : srReadOnly n = false) (hr : (s.core c).ring ≤ srWriteRing n)
    (hb : ¬ (n = 0 ∧ 0 < (s.core c).ring ∧ (s.core c).statFieldBad v = true)) : s.mts c n v = s.mtsWrite c n v := by
  rw [State.mts, if_neg (by simp [h, ho]), if_neg (by omega), if_neg hb]

end

section
variable {s : State} {c n : Nat} {v : Word} (hz : v &&& srReserved n = 0) (hm : ¬ (n = 0x021 ∧ scratchSize < v.toNat + 8192))
include hz hm

theorem mtsWrite_shadowed (h : srShadowed n = true) :
    s.mtsWrite c n v = .done (s.setCore c ((s.core c).shadowPut n (v &&& srHeld n))) (upTo 1) := by
  rw [State.mtsWrite, if_neg (by simpa using hz), if_neg hm, if_pos h]

theorem mtsWrite_plain (h : srShadowed n = false) (h1 : n ≠ 1) (h18 : n ≠ 0x018) (h1a : n ≠ 0x01A) (h1b : n ≠ 0x01B) (h1c : n ≠ 0x01C)
    (h23 : n ≠ 0x023) (h24 : n ≠ 0x024) : s.mtsWrite c n v = .done (s.setCore c ((s.core c).srSet n (v &&& srHeld n))) (upTo 1) := by
  rw [State.mtsWrite, if_neg (by simpa using hz), if_neg hm, if_neg (by simp [h]), if_neg h1, if_neg h18, if_neg h1a, if_neg h1b, if_neg h1c,
    if_neg (by simp [h23, h24])]

theorem mtsWrite_map {b : Nat} (h : n = 0x023 ∧ b = 0 ∨ n = 0x024 ∧ b = 4) (hbad : (s.core c).badMap b v = false) :
    s.mtsWrite c n v = .done (s.setCore c ((s.core c).clearMap b v 4)) (upTo 1) := by
  rw [State.mtsWrite, if_neg (by simpa using hz), if_neg hm]
  rcases h with ⟨rfl, rfl⟩ | ⟨rfl, rfl⟩
  · exact if_neg (Bool.eq_false_iff.mp hbad)
  · exact if_neg (Bool.eq_false_iff.mp hbad)

end

/-- Settles O28: MFS and MTS by the register's row and ring, and the shadow's writes. -/
theorem specialRegisters : Obligations.SpecialRegisters := by
  intro s c g r num f k n
  refine ⟨fun hx => ?mfs, fun hx => ?mts, rfl⟩
  case mfs =>
    have hb : BodyEnds s c (.mfs c g r num) false (f.mfs c n r) := hx.body (rfl : _ = execMfs c g r num s)
    refine ⟨fun h => (hb.congr (mfs_unlisted h)).traps, fun h hr => (hb.congr (mfs_ring h hr)).traps, fun h hr hn => ?_, fun h hr hn => ?_, ?_⟩
    · intro v u he
      exact (hb.congr (mfs_value h hr hn)).completes he
    · have hrsp := hb.congr (mfs_rsp h hr hn)
      refine ⟨fun a ha => ?_, fun v hslot hs => ?_⟩
      · exact BodyEnds.traps (hrsp.congr (by rw [State.mfsRsp]; simp only [show f.core c = k from rfl, ha]))
      · intro u he
        exact (hrsp.congr (mfsRsp_ok hslot hs)).completes he
    · intro _ h1 h1b h1c h20 h23 h24 h30 h32 h33 h35
      rw [State.mfsValue, if_neg h1, if_neg h20, if_neg h1b, if_neg h1c, if_neg h23, if_neg h24, if_neg h30, if_neg h32, if_neg h33, if_neg h35]
      rfl
  case mts =>
    have hb : BodyEnds s c (.mts c g r num) false (f.mts c n (k.reg r)) := hx.body (rfl : _ = execMts c g r num s)
    refine ⟨fun h => (hb.congr (mts_unlisted h)).traps, fun h ho hr => (hb.congr (mts_ring h ho hr)).traps,
      fun h ho hr h0 hk hbad => (hb.congr (mts_statField h ho hr ⟨h0, hk, hbad⟩)).traps, fun h ho hr hbad hz hm => ?_⟩
    have hw := hb.congr (mts_write h ho hr hbad)
    refine ⟨?shadowed, ?plain, ?ct, ?rsp, ?crcp, ?crcLow, ?crcHigh, ?map⟩
    case shadowed =>
      intro h u he
      exact (hw.congr (mtsWrite_shadowed hz hm h)).completes he
    case plain =>
      intro h h1 h18 h1a h1b h1c h23 h24 u he
      exact (hw.congr (mtsWrite_plain hz hm h h1 h18 h1a h1b h1c h23 h24)).completes he
    case map =>
      intro b h hbad u he
      exact (hw.congr (mtsWrite_map hz hm h hbad)).completes he
    case crcp =>
      intro hn p u he
      rw [State.mtsWrite, if_neg (by simpa using hz), if_neg hm, hn] at hw
      exact hw.completes he
    all_goals
      intro hn u he
      rw [State.mtsWrite, if_neg (by simpa using hz), if_neg hm, hn] at hw
      exact hw.completes he

end Sys2Proof.Machine
end

section
/-!
PROOF. The floating-point instructions (R332, R333, R336, R338, R341, R342).
-/

namespace Sys2Proof.Machine

section
variable {s : State} {c : CoreId} {g : Guard} {i : Instr} {dbl : Bool} {rd rs rt : Reg}

/-- A floating-point instruction whose pair fields are even raises the flags of its effect and writes by it. -/
theorem runFp_result {pairs : List Reg} {lat : Nat} {f : Core → FpEffect} (h : exec i s = s.runFp i c g pairs lat f)
    (hp : pairs.any oddReg = false) : FpResult s c g i (f (s.coreOf c)).flags (f (s.coreOf c)).put := by
  intro hx
  rw [State.runFp, if_neg (Bool.eq_false_iff.mp hp)] at h
  have hb := hx.body h
  refine ⟨fun ht he => ?_, fun ht => ?_⟩
  · exact (hb.congr (if_neg (Bool.eq_false_iff.mp ht))).completes he
  · exact (hb.congr (if_pos ht)).traps

theorem fpPairs_even {l : List Reg} (h : dbl = true → l.any oddReg = false) : (fpPairs dbl l).any oddReg = false := by
  cases dbl
  · rfl
  · exact h rfl

theorem fp2_writes {lat : Nat} {op : FpFmt → Nat → Bool → Nat → Nat → FpRes} (h : exec i s = s.fp2 i c g dbl rd rs rt lat op)
    (hp : dbl = true → [rd, rs, rt].any oddReg = false) :
    FpWrites s c g i dbl rd (op (fpFmt dbl) (s.coreOf c).rm (s.coreOf c).fz ((s.coreOf c).fp dbl rs) ((s.coreOf c).fp dbl rt)) :=
  runFp_result h (fpPairs_even hp)

theorem fpFused_writes {negProd negC : Bool} (h : exec i s = s.fpFused i c g dbl rd rs rt negProd negC)
    (hp : dbl = true → [rd, rs, rt].any oddReg = false) :
    FpWrites s c g i dbl rd ((fpFmt dbl).fma (s.coreOf c).rm (s.coreOf c).fz negProd negC ((s.coreOf c).fp dbl rs) ((s.coreOf c).fp dbl rt)
      ((s.coreOf c).fp dbl rd)) :=
  runFp_result h (fpPairs_even hp)

theorem fpMove_writes {op : FpFmt → Nat → Nat} (h : exec i s = s.fpMove i c g dbl rd rs op) (hp : dbl = true → [rd, rs].any oddReg = false) :
    FpWrites s c g i dbl rd ⟨op (fpFmt dbl) ((s.coreOf c).fp dbl rs), 0⟩ :=
  runFp_result h (fpPairs_even hp)

theorem fpCompare_compares {op : FpCmp} (h : exec i s = s.fpCompare i c g dbl rd rs rt op) (hp : dbl = true → [rs, rt].any oddReg = false) :
    FpCompares s c g i rd ((fpFmt dbl).compare (s.coreOf c).fz op ((s.coreOf c).fp dbl rs) ((s.coreOf c).fp dbl rt)) :=
  runFp_result h (fpPairs_even hp)

end

theorem fp_lt (k : Core) (dbl : Bool) (r : Reg) : k.fp dbl r < 2 ^ ((if dbl then 63 else 31) + 1) := by
  cases dbl
  · exact (k.reg r).isLt
  · exact (k.pair r).isLt

/-- The sign of a format stands at its highest bit. -/
theorem fpFmt_sign (dbl : Bool) (v : Nat) : (fpFmt dbl).sign v = natBit v (if dbl then 63 else 31) := by
  cases dbl <;> rfl

theorem fpFmt_signBit (dbl : Bool) : (fpFmt dbl).signBit = 2 ^ (if dbl then 63 else 31) := by
  cases dbl <;> rfl

/-- Taking the highest bit away leaves the rest. -/
theorem clear_top {v top : Nat} (hv : v < 2 ^ (top + 1)) : (if natBit v top then v - 2 ^ top else v) = v % 2 ^ top := by
  rw [Nat.pow_succ] at hv
  obtain hlow | hhigh := Nat.lt_or_ge v (2 ^ top)
  · rw [natBit, Nat.div_eq_of_lt hlow, Nat.mod_eq_of_lt hlow]
    simp
  · have hdiv : v / 2 ^ top = 1 := Nat.div_eq_of_lt_le (by omega) (by omega)
    rw [natBit, hdiv, Nat.mod_eq_sub_mod hhigh, Nat.mod_eq_of_lt (show v - 2 ^ top < 2 ^ top by omega)]
    exact if_pos rfl

/-- Settles O29: each instruction is an operation of its format on the operands' values. -/
theorem fpArithmetic : Obligations.FpArithmetic := by
  intro s c g dbl rd rs rt k f a b d top hp
  have hmove : dbl = true → [rd, rs].any oddReg = false := fun h => by
    obtain ⟨hd, hs⟩ := hp h
    simp [hd, hs]
  refine ⟨fun ht => ?_, ?neg, ?abs, ?mov⟩
  · have hall : dbl = true → [rd, rs, rt].any oddReg = false := fun h => by
      obtain ⟨hd, hs⟩ := hp h
      simp [hd, hs, ht h]
    refine ⟨?_, ?_, ?_, ?_, ?_, ?_, ?_⟩
    · have h := fp2_writes (i := .fadd c g dbl rd rs rt) (s := s) (rfl : _ = execFadd c g dbl rd rs rt s) hall
      exact h
    · have h := fp2_writes (i := .fsub c g dbl rd rs rt) (s := s) (rfl : _ = execFsub c g dbl rd rs rt s) hall
      exact h
    · have h := fp2_writes (i := .fmul c g dbl rd rs rt) (s := s) (rfl : _ = execFmul c g dbl rd rs rt s) hall
      exact h
    · have h := fp2_writes (i := .fdiv c g dbl rd rs rt) (s := s) (rfl : _ = execFdiv c g dbl rd rs rt s) hall
      exact h
    · have h := fpFused_writes (i := .fma c g dbl rd rs rt) (s := s) (rfl : _ = execFma c g dbl rd rs rt s) hall
      exact h
    · have h := fpFused_writes (i := .fms c g dbl rd rs rt) (s := s) (rfl : _ = execFms c g dbl rd rs rt s) hall
      exact h
    · have h := fpFused_writes (i := .fnma c g dbl rd rs rt) (s := s) (rfl : _ = execFnma c g dbl rd rs rt s) hall
      exact h
  case mov =>
    have h := fpMove_writes (s := s) (i := .fmov c g dbl rd rs) (rfl : _ = execFmov c g dbl rd rs s) hmove
    exact h
  case neg =>
    have h := fpMove_writes (s := s) (i := .fneg c g dbl rd rs) (rfl : _ = execFneg c g dbl rd rs s) hmove
    rwa [fpFmt_sign, fpFmt_signBit] at h
  case abs =>
    have h := fpMove_writes (s := s) (i := .fabs c g dbl rd rs) (rfl : _ = execFabs c g dbl rd rs s) hmove
    rwa [fpFmt_sign, fpFmt_signBit, clear_top (fp_lt ..)] at h

/-- Settles O30: each compare and conversion is an operation of its formats. -/
theorem fpCompareConvert : Obligations.FpCompareConvert := by
  intro s c g dbl rd rs rt k f
  refine ⟨fun hp => ?compare, fun hd hs => ?cvtf, fun hs => ?cvti, fun hd => ?cvtfi⟩
  case compare =>
    have hall : dbl = true → [rs, rt].any oddReg = false := fun h => by
      obtain ⟨hs, ht⟩ := hp h
      simp [hs, ht]
    exact ⟨fpCompare_compares (s := s) (i := .fcmpeq c g dbl rd rs rt) (rfl : _ = execFcmpeq c g dbl rd rs rt s) hall, fpCompare_compares (s := s) (i := .fcmplt c g dbl rd rs rt) (rfl : _ = execFcmplt c g dbl rd rs rt s) hall,
      fpCompare_compares (s := s) (i := .fcmple c g dbl rd rs rt) (rfl : _ = execFcmple c g dbl rd rs rt s) hall⟩
  case cvtf =>
    refine runFp_result (s := s) (i := .fcvtf c g dbl rd rs) (rfl : _ = execFcvtf c g dbl rd rs s) ?_
    cases dbl
    · simpa using hs rfl
    · simpa using hd rfl
  case cvti =>
    have h := runFp_result (s := s) (i := .fcvti c g dbl rd rs) (rfl : _ = execFcvti c g dbl rd rs s) (fpPairs_even fun h => by simpa using hs h)
    exact h
  case cvtfi =>
    have h := runFp_result (s := s) (i := .fcvtfi c g dbl rd rs) (rfl : _ = execFcvtfi c g dbl rd rs s) (fpPairs_even fun h => by simpa using hd h)
    exact h

end Sys2Proof.Machine
end

section
/-!
PROOF. The decimal instructions (R351, R354, R355, R359 to R369).
-/

namespace Sys2Proof.Machine

-- ---------------------------------------------------------------- the shared run (R365)

section
variable {s u : State} {c : CoreId} {g : Guard} {i : Instr} {pd : PredNo} {rd rt : Reg} {lw op1 : Word} {p : DecPlan}

/-- A decimal body that is done, or traps late, ends so. -/
theorem BodyEnds.late_done {r : Res} {x y : Cost} (hb : BodyEnds s c i false (r.late y)) (h : r = .done u x) (he : s.endsWell u c false = true) :
    Completes s u c i false :=
  BodyEnds.completes (x := x) (hb.congr (by rw [h]; rfl)) he

theorem BodyEnds.late_trap {r : Res} {t : Trap} {y : Cost} (hb : BodyEnds s c i false (r.late y)) (h : r = .trap u t) : TrapsLate s u c i t :=
  BodyEnds.trapsLate (x := y) (hb.congr (by rw [h]; rfl))

/-- The state in which a decimal result is committed: the operands that were read are marked. -/
def State.marked (u : State) (l : List (List Mapped × Bool)) : State := l.foldl (fun a m => if m.2 then a.mark false m.1 else a) u

/-- A result that no operand takes. -/
theorem decCommit_none {ms : List (List Mapped)} {a cls : Nat} {l : List Byte} (hd : p.dest = none) :
    ∃ x, u.decCommit c pd lw p ms a l cls = .done (u.setCore c ((u.core c).setClass pd lw cls)) x := by
  rw [State.decCommit]
  simp only [hd, Option.bind_none]
  exact ⟨_, rfl⟩

/-- A result that the operand `m` takes. -/
theorem decCommit_some {t : State} {ms : List (List Mapped)} {d a cls : Nat} {m : List Mapped} {l : List Byte} (hd : p.dest = some d)
    (hm : ms[d]? = some m) (ht : u.performCommit c [(m, l)] = .ok t) :
    ∃ x, u.decCommit c pd lw p ms a l cls = .done (t.setCore c ((if cls = 3 then (t.core c).stick statDV else t.core c).setClass pd lw cls)) x := by
  rw [State.decCommit]
  simp only [hd, Option.bind_some, hm, ht]
  exact ⟨_, rfl⟩

theorem BodyEnds.decimalWrites {ms : List (List Mapped)} {d a cls : Nat} {m : List Mapped} {l : List Byte} {r : Res} {y : Cost}
    (hb : BodyEnds s c i false (r.late y)) (h : r = u.decCommit c pd lw p ms a l cls) (hd : p.dest = some d) (hm : ms[d]? = some m) :
    DecimalWrites s u c i pd lw m l cls := by
  intro t ht v he
  obtain ⟨x, hx⟩ := decCommit_some (pd := pd) (lw := lw) (a := a) (cls := cls) hd hm ht
  exact hb.late_done (h.trans hx) he

/-- The evaluation of operands that can be read. -/
theorem evalDecimal_read {r : State} {ms : List (List Mapped)} {ls : List (List Byte)} {a : Nat} (h : u.readAll c (ms.zip p.reads) = (r, .ok ls)) :
    u.evalDecimal c pd lw op1 p ms a = match firstInvalid p.ops p.bad ls with
      | some ea => .trap r (trapAt 11 0x01 ea)
      | none => match p.eval ls with
        | .trap v code ea => .trap r (trapAt v code ea)
        | .ovf l => if ((r.marked (ms.zip p.reads)).core c).dot then .trap r (trapAt 12 0x01 op1)
            else (r.marked (ms.zip p.reads)).decCommit c pd lw p ms a l 3
        | .done l cls => (r.marked (ms.zip p.reads)).decCommit c pd lw p ms a l cls := by
  rw [State.evalDecimal, h]
  rfl

/-- A body that runs a plan without an early fault ends as the plan says. -/
theorem runDecimal_result (hp : p.early = none)
    (hb : s.executes c i g false → BodyEnds s c i false ((s.fetched c).runDecimal c pd lw op1 p)) :
    DecimalResult s c g i pd lw op1 p.ops p.reads p.apart p.bad p.dest p.eval := by
  intro hx
  have hb := hb hx
  refine ⟨fun t ht => ?_, fun ms ls r hms hreg hover hread => ?_⟩
  · rw [State.runDecimal] at hb
    simp only [show (s.fetched c).judgeAll c p.ops = .error t from ht] at hb
    exact hb.trapsLate
  · intro u
    rw [State.runDecimal] at hb
    simp only [show (s.fetched c).judgeAll c p.ops = .ok ms from hms, hreg, hover, hp, Bool.false_eq_true, if_false] at hb
    rw [evalDecimal_read hread] at hb
    refine ⟨fun ea hinv => ?_, fun hinv => ⟨fun v code ea hout => ?_, fun l hout hdot => ?_, fun l d m hout hdot hd hm => ?_,
      fun l cls d m hout hd hm => ?_, fun l cls hout hd => ?_⟩⟩
    · exact hb.late_trap (by rw [hinv])
    all_goals simp only [hinv, hout] at hb
    · exact hb.late_trap rfl
    · exact hb.late_trap (if_pos hdot)
    · exact hb.decimalWrites (if_neg (Bool.eq_false_iff.mp hdot)) hd hm
    · exact hb.decimalWrites rfl hd hm
    · intro v he
      obtain ⟨x, h⟩ := decCommit_none (u := u) (c := c) (pd := pd) (lw := lw) (ms := ms) (cls := cls) (l := l) (a := readOf ((s.fetched c).displaced c) (ms.zip p.reads)) hd
      exact hb.late_done h he

/-- A plan with a fault of step 3, on operands that pass their checks. -/
theorem runDecimal_early {ms : List (List Mapped)} {v code : Nat} {ea : Word} (hp : p.early = some (v, code, ea))
    (hms : u.judgeAll c p.ops = .ok ms) (hreg : ms.any meetsRegister = false) (hover : badOverlap p.apart ms = false) :
    ∃ x, u.runDecimal c pd lw op1 p = .trapLate u (trapAt v code ea) x := by
  rw [State.runDecimal]
  simp only [hms, hreg, hover, hp, Bool.false_eq_true, if_false]
  exact ⟨_, rfl⟩

variable {badLen : Word → Bool} {plan : Core → Word → DecPlan}

/-- A decimal instruction whose lengths are good. -/
theorem decimal_result (h : exec i s = s.decimal i c g none pd rd rt badLen plan) (hl : badLen ((s.coreOf c).reg rt) = false)
    (hp : (plan (s.coreOf c) ((s.coreOf c).reg rt)).early = none) :
    DecimalResult s c g i pd ((s.coreOf c).reg rt) ((s.coreOf c).reg rd) (plan (s.coreOf c) ((s.coreOf c).reg rt)).ops
      (plan (s.coreOf c) ((s.coreOf c).reg rt)).reads (plan (s.coreOf c) ((s.coreOf c).reg rt)).apart
      (plan (s.coreOf c) ((s.coreOf c).reg rt)).bad (plan (s.coreOf c) ((s.coreOf c).reg rt)).dest
      (plan (s.coreOf c) ((s.coreOf c).reg rt)).eval :=
  runDecimal_result hp fun hx => (hx.body h).congr (if_neg (Bool.eq_false_iff.mp hl))

/-- A decimal instruction whose lengths are refused (R360). -/
theorem decimal_badLen (h : exec i s = s.decimal i c g none pd rd rt badLen plan) (hl : badLen ((s.coreOf c).reg rt) = true)
    (hx : s.executes c i g false) : TrapsLate s (s.fetched c) c i (trapAt 4 0x08 (s.coreOf c).pc) :=
  ((hx.body h).congr (if_pos hl)).trapsLate

end

theorem judgeAll_one {s : State} {c : Nat} {o : Opnd} {ms : List (List Mapped)} (h : s.judgeAll c [o] = .ok ms) : ∃ m, ms = [m] := by
  simp only [State.judgeAll] at h
  split at h
  · exact nomatch h
  · next m _ => exact ⟨m, (Except.ok.inj h).symm⟩

-- ---------------------------------------------------------------- shifts (R364)

section
variable {l1 rnd : Nat} {shift a : Int}

theorem shiftRound_left (h : 0 ≤ shift) : shiftRound l1 shift rnd a = intoPacked l1 (a * 10 ^ shift.toNat) := by
  rw [shiftRound]
  exact if_pos h

/-- The value that a right shift by the power `d` of ten leaves. -/
def shiftedRight (rnd d : Nat) (a : Int) : Int :=
  let r : Int := ((if roundsUp rnd (decide (a < 0)) (a.natAbs / d) (a.natAbs % d) d then a.natAbs / d + 1 else a.natAbs / d : Nat) : Int)
  if a < 0 then -r else r

theorem shiftRound_right (h : shift < 0) : shiftRound l1 shift rnd a = intoPacked l1 (shiftedRight rnd (10 ^ (-shift).toNat) a) := by
  rw [shiftRound]
  exact if_neg (by omega)

/-- A quotient toward zero and its remainder, by magnitudes. -/
theorem tdiv_natAbs (a : Int) (d : Nat) : a.tdiv d = (if a < 0 then -((a.natAbs / d : Nat) : Int) else (a.natAbs / d : Nat)) ∧
    a.tmod d = (if a < 0 then -((a.natAbs % d : Nat) : Int) else (a.natAbs % d : Nat)) := by
  obtain ⟨n, rfl | rfl⟩ := a.eq_nat_or_neg
  · have hnot : ¬ (n : Int) < 0 := by omega
    simp only [if_neg hnot, Int.natAbs_natCast]
    exact ⟨rfl, rfl⟩
  · obtain rfl | hn := Nat.eq_zero_or_pos n
    · simp
    · have hneg : -(n : Int) < 0 := by omega
      simp only [Int.neg_tdiv, Int.neg_tmod, if_pos hneg, Int.natAbs_neg, Int.natAbs_natCast]
      exact ⟨rfl, rfl⟩

/-- Whether the magnitude is rounded up. -/
def shiftsUp (rnd d : Nat) (a : Int) : Bool := roundsUp rnd (decide (a < 0)) (a.natAbs / d) (a.natAbs % d) d

theorem shiftedRight_eq (rnd d : Nat) (a : Int) :
    shiftedRight rnd d a = a.tdiv d + (if shiftsUp rnd d a then if a < 0 then -1 else 1 else 0) := by
  rw [(tdiv_natAbs a d).1, shiftedRight, shiftsUp]
  split <;> split <;> push_cast <;> omega

theorem shiftsUp_exact {d : Nat} (hd : 0 < d) (hr : a.tmod d = 0) : shiftsUp rnd d a = false := by
  have hmod : a.natAbs % d = 0 := by
    rw [(tdiv_natAbs a d).2] at hr
    split at hr <;> omega
  have hpos : d ≠ 0 := by omega
  simp [shiftsUp, roundsUp, hmod, hpos]

/-- Rounding up never leaves less than the value. -/
theorem le_shiftedRight_four {d : Nat} (hd : 0 < d) (a : Int) : a ≤ shiftedRight 4 d a * d := by
  have hdiv := Int.tdiv_mul_add_tmod a d
  obtain ⟨-, hmod⟩ := tdiv_natAbs a d
  have hlt := Nat.mod_lt a.natAbs hd
  rw [shiftedRight_eq, Int.add_mul, show shiftsUp 4 d a = (decide (0 < a.natAbs % d) && !decide (a < 0)) from rfl]
  by_cases ha : a < 0
  · simp only [ha, if_true] at hmod
    simp [ha]
    omega
  · simp only [ha, if_false] at hmod
    by_cases hz : 0 < a.natAbs % d
    · simp [ha, hz]
      omega
    · simp [ha, hz]
      omega

/-- Rounding down never leaves more than the value. -/
theorem shiftedRight_five_le {d : Nat} (hd : 0 < d) (a : Int) : shiftedRight 5 d a * d ≤ a := by
  have hdiv := Int.tdiv_mul_add_tmod a d
  obtain ⟨-, hmod⟩ := tdiv_natAbs a d
  have hlt := Nat.mod_lt a.natAbs hd
  rw [shiftedRight_eq, Int.add_mul, show shiftsUp 5 d a = (decide (0 < a.natAbs % d) && decide (a < 0)) from rfl]
  by_cases ha : a < 0
  · simp only [ha, if_true] at hmod
    by_cases hz : 0 < a.natAbs % d
    · simp [ha, hz]
      omega
    · simp [ha, hz]
      omega
  · simp only [ha, if_false] at hmod
    simp [ha]
    omega

end

/-- The lengths of DMUL and DDIV that are refused. -/
theorem lengthsBad_eq (lw : Word) : lengthsBad lw = decide (16 < (lw.extractLsb' 8 5).toNat + 1 ∨
    (lw.extractLsb' 0 5).toNat + 1 ≤ (lw.extractLsb' 8 5).toNat + 1) := by
  rw [Bool.decide_or]
  rfl

/-- DTST gives an invalid operand class 3. -/
theorem decTst_eval (k : Core) (rd : Reg) (lw : Word) : (decTst k rd lw).eval = fun ls => match ls with
    | [a] => .done [] (if packedBad a = none then classOf (packedVal a) else 3)
    | _ => .trap 11 0x01 0 := by
  funext ls
  match ls with
  | [] => rfl
  | [a] => cases h : packedBad a <;> simp [decTst, h]
  | _ :: _ :: _ => rfl

/-- Settles O34: each decimal instruction runs its plan, and a shift rounds as its mode says. -/
theorem decimalArithmetic : Obligations.DecimalArithmetic := by
  refine ⟨fun s c g pd rd rs rt => ?instr, fun l1 shift a rnd _ => ⟨shiftRound_left, fun hs => ?shift⟩⟩
  case instr =>
    intro k lw l1 l2 o1 o2 two badLen
    refine ⟨?_, ?_, ?_, ?_, ?_, fun hl => ?_, fun hl i hi hx => ?_, fun hr => ?_, fun hr hx ms hms hreg => ?_⟩
    · exact decimal_result (s := s) (i := .dadd c g pd rd rs rt) (rfl : _ = execDadd c g pd rd rs rt s) rfl rfl
    · exact decimal_result (s := s) (i := .dsub c g pd rd rs rt) (rfl : _ = execDsub c g pd rd rs rt s) rfl rfl
    · exact decimal_result (s := s) (i := .dzad c g pd rd rs rt) (rfl : _ = execDzad c g pd rd rs rt s) rfl rfl
    · exact decimal_result (s := s) (i := .dcmp c g pd rd rs rt) (rfl : _ = execDcmp c g pd rd rs rt s) rfl rfl
    · have h := decimal_result (s := s) (i := .dtst c g pd rd rt) (rfl : _ = execDtst c g pd rd rt s) rfl rfl
      rw [decTst_eval] at h
      exact h
    · have hgood : lengthsBad lw = false := (lengthsBad_eq lw).trans (decide_eq_false hl)
      constructor
      · exact decimal_result (s := s) (i := .dmul c g pd rd rs rt) (rfl : _ = execDmul c g pd rd rs rt s) hgood rfl
      · exact decimal_result (s := s) (i := .ddiv c g pd rd rs rt) (rfl : _ = execDdiv c g pd rd rs rt s) hgood rfl
    · have hbad : lengthsBad lw = true := (lengthsBad_eq lw).trans (decide_eq_true hl)
      rcases hi with rfl | rfl
      · exact decimal_badLen (rfl : _ = execDmul c g pd rd rs rt s) hbad hx
      · exact decimal_badLen (rfl : _ = execDdiv c g pd rd rs rt s) hbad hx
    · exact decimal_result (s := s) (i := .dsrp c g pd rd rt) (rfl : _ = execDsrp c g pd rd rt s) rfl (if_neg (show ¬ 5 < lwRnd lw by omega))
    · obtain ⟨m, rfl⟩ := judgeAll_one hms
      have hb := hx.body (rfl : _ = execDsrp c g pd rd rt s)
      obtain ⟨x, h⟩ := runDecimal_early (c := c) (pd := pd) (lw := lw) (op1 := k.reg rd) (p := decSrp k rd lw) (if_pos hr) hms hreg rfl
      exact BodyEnds.trapsLate (hb.congr h)
  case shift =>
    have hd : 0 < 10 ^ (-shift).toNat := Nat.pow_pos (by decide)
    have hcast : (10 : Int) ^ (-shift).toNat = ((10 ^ (-shift).toNat : Nat) : Int) := (Int.natCast_pow 10 _).symm
    rw [hcast]
    refine ⟨_, shiftRound_right hs, ?_, ?_, ?_, ?_, ?_⟩
    · rw [shiftedRight_eq]
      split
      · exact .inr rfl
      · exact .inl (Int.add_zero _)
    · rintro rfl
      rw [shiftedRight_eq]
      exact Int.add_zero _
    · intro hmod
      rw [shiftedRight_eq, shiftsUp_exact hd hmod]
      have hdiv := Int.tdiv_mul_add_tmod a (10 ^ (-shift).toNat : Nat)
      rw [hmod, Int.add_zero] at hdiv
      simpa using hdiv
    · rintro rfl
      exact le_shiftedRight_four hd a
    · rintro rfl
      exact shiftedRight_five_le hd a

-- ---------------------------------------------------------------- conversions (R367 to R369)

/-- Whether a value needs more than 64 bits. -/
def over64 (v : Int) : Bool := decide (v < -(2 ^ 63)) || decide (2 ^ 63 ≤ v)

section
variable {s r : State} {c : Nat} {rs : Reg} {lw : Word} {m : List Mapped} {l : List Byte}
  (hm : s.judgeAll c [⟨(s.core c).reg rs, lwL1 lw, accLoad⟩] = .ok [m]) (hreg : meetsRegister m = false)
  (hr : s.readAll c [(m, true)] = (r, .ok [l]))
include hm hreg hr

theorem toBinary_invalid (pd : PredNo) (rd : Reg) {n : Nat} (h : packedBad l = some n) :
    ∃ x, s.toBinary c pd rd rs lw = .trapLate r (trapAt 11 0x01 ((s.core c).reg rs + BitVec.ofNat 32 n)) x := by
  rw [State.toBinary]
  simp only [hm, hreg, hr, List.any_cons, List.any_nil, Bool.or_false, Bool.false_eq_true, if_false, List.map_cons, List.map_nil, firstInvalid, h]
  exact ⟨_, rfl⟩

/-- CVPB of a valid field traps on an overflow with DOT = 1, and otherwise writes the pair. -/
theorem toBinary_valid (pd : PredNo) (rd : Reg) (h : packedBad l = none) :
    ∃ x, s.toBinary c pd rd rs lw =
      if over64 (packedVal l) ∧ ((r.mark false m).core c).dot then .trapLate r.drawn (trapAt 12 0x01 (BitVec.ofNat 32 r.freeVal)) x
      else .done ((r.mark false m).setCore c
        ((if over64 (packedVal l) then (((r.mark false m).core c).setPair rd (BitVec.ofInt 64 (packedVal l))).stick statDV
          else ((r.mark false m).core c).setPair rd (BitVec.ofInt 64 (packedVal l))).setClass pd lw
          (if over64 (packedVal l) then 3 else classOf (packedVal l)))) x := by
  rw [State.toBinary]
  simp only [hm, hreg, hr, List.any_cons, List.any_nil, Bool.or_false, Bool.false_eq_true, if_false, List.map_cons, List.map_nil, firstInvalid, h]
  exact ⟨_, rfl⟩

end

/-- Settles O35: the conversions through memory run their plans; CVPB writes a pair. -/
theorem decimalConversions : Obligations.DecimalConversions := by
  intro s c g pd rd rs rt f k lw l1 lz
  refine ⟨fun hz => ⟨?_, ?_⟩, fun hz i hi hx => ?_, fun ho => ?_, fun ho hx m l r hm hreg hr => ?cvpb⟩
  · exact decimal_result (s := s) (i := .cvpz c g pd rd rs rt) (rfl : _ = execCvpz c g pd rd rs rt s) (beq_false_of_ne hz) rfl
  · exact decimal_result (s := s) (i := .cvzp c g pd rd rs rt) (rfl : _ = execCvzp c g pd rd rs rt s) (beq_false_of_ne hz) rfl
  · rcases hi with rfl | rfl
    · exact decimal_badLen (rfl : _ = execCvpz c g pd rd rs rt s) (beq_iff_eq.mpr hz) hx
    · exact decimal_badLen (rfl : _ = execCvzp c g pd rd rs rt s) (beq_iff_eq.mpr hz) hx
  · have h : exec (.cvbp c g pd rd rs rt) s = execCvbp c g pd rd rs rt s := rfl
    rw [execCvbp, oddPair_none ho] at h
    exact decimal_result h rfl rfl
  case cvpb =>
    have h : exec (.cvpb c g pd rd rs rt) s = execCvpb c g pd rd rs rt s := rfl
    rw [execCvpb, oddPair_none ho] at h
    have hb := hx.body h
    refine ⟨fun n hbad => ?_, fun hgood => ?_⟩
    · obtain ⟨x, e⟩ := toBinary_invalid hm hreg hr pd rd hbad
      exact (hb.congr e).trapsLate
    intro u ovf put
    have hover : over64 (packedVal l) = decide ovf := (Bool.decide_or ..).symm
    obtain ⟨x, e⟩ := toBinary_valid hm hreg hr pd rd hgood
    rw [hover] at e
    refine ⟨fun hfit => ?_, fun ho hdot => ?_, fun ho hdot => ?_⟩
    · intro v he
      rw [decide_eq_false hfit] at e
      exact (hb.congr e).completes he
    · intro v he
      rw [decide_eq_true ho, if_neg (by simp [show ((r.mark false m).core c).dot = false from hdot])] at e
      exact (hb.congr e).completes he
    · rw [decide_eq_true ho, if_pos ⟨rfl, hdot⟩] at e
      exact ⟨_, (hb.congr e).trapsLate⟩

end Sys2Proof.Machine
end

section
/-!
PROOF. The resumable instructions (R357, R358, R370 to R378).
-/

namespace Sys2Proof.Machine

-- ---------------------------------------------------------------- how a chunk ends (R357)

section
variable {s u : State} {c : CoreId} {i : Instr} {more : Bool} {x y : Cost}

theorem BodyEnds.chunkEnds (hb : BodyEnds s c i true ((chunkEnd u more x).late y)) : ChunkEnds s u c i more := by
  refine ⟨fun hm => ⟨x, ?_⟩, fun hm he => BodyEnds.completes (x := x) (hb.congr ?_) he⟩
  · subst hm
    exact hb
  · subst hm
    rfl

theorem BodyEnds.chunkStores {r : Res} {dst : List Mapped} {l : List Byte} {put : Core → Core} (hb : BodyEnds s c i true (r.late y))
    (h : r = u.chunkCommit c dst l x more put) : ChunkStores s u c i dst l more put := by
  intro t ht
  refine BodyEnds.chunkEnds (x := x.plus (cc (40 * u.commitTouches dst))) (y := y) (hb.congr (congrArg (Res.late y) ?_))
  rw [h, State.chunkCommit]
  simp only [ht]

theorem BodyEnds.late_completes {r : Res} (hb : BodyEnds s c i true (r.late y)) (h : r = .done u x) (he : s.endsWell u c true = true) :
    Completes s u c i true :=
  BodyEnds.completes (x := x) (hb.congr (by rw [h]; rfl)) he

end

theorem chunkLen_zero {w : Word} : chunkLen w = 0 ↔ w.toNat = 0 := by
  rw [chunkLen]
  omega

theorem firstEnc_none {rd rs : Reg} (hd : oddReg rd = false) (hs : oddReg rs = false) : firstEnc (oddPair rd) (oddPair rs) = none := by
  rw [oddPair_none hd, oddPair_none hs]
  rfl

-- ---------------------------------------------------------------- moves (R370, R372)

section
variable {s u : State} {c : Nat} {rd rs rt : Reg}

theorem mvs_zero (h : ((s.core c).reg (rd ||| 1)).toNat = 0) : s.mvs c rd rs = .done s (upTo 8) := if_pos (chunkLen_zero.mpr h)

theorem mvsf_zero (h : ((s.core c).reg (rd ||| 1)).toNat = 0) : s.mvsf c rd rs rt = .done s (upTo 8) := if_pos (chunkLen_zero.mpr h)

theorem trs_zero (h : ((s.core c).reg (rd ||| 1)).toNat = 0) : s.trs c rd rs = .done s (upTo 8) := if_pos (chunkLen_zero.mpr h)

theorem mvs_chunk {n : Nat} {a b : List Mapped} {l : List Byte} {ls : List (List Byte)} (h : ((s.core c).reg (rd ||| 1)).toNat ≠ 0)
    (hn : n = chunkLen ((s.core c).reg (rd ||| 1)))
    (hr : s.readChunk c [⟨(s.core c).reg rs, n, accLoad⟩, ⟨(s.core c).reg rd, n, accStore⟩] = .ok (u, [a, b], l :: ls)) :
    ∃ x, s.mvs c rd rs = u.chunkCommit c b (seqCopy id ((pasOf a).zip (l.zip (pasOf b))) []) x (decide (n < ((s.core c).reg (rd ||| 1)).toNat))
      (fun k => (k.setReg rs (k.reg rs + BitVec.ofNat 32 n)).advanceFrom k rd n) := by
  subst hn
  rw [State.mvs]
  simp only [Core.pairHi, Core.pairLo, if_neg (mt chunkLen_zero.mp h), hr]
  exact ⟨_, rfl⟩

/-- MVSF of a source that gives bytes. -/
theorem mvsf_chunk {n m : Nat} {a b : List Mapped} {l : List Byte} {ls : List (List Byte)} (h : ((s.core c).reg (rd ||| 1)).toNat ≠ 0)
    (hn : n = chunkLen ((s.core c).reg (rd ||| 1))) (hm : m = min n ((s.core c).reg (rs ||| 1)).toNat)
    (hr : s.readChunk c [⟨(s.core c).reg rs, m, accLoad⟩, ⟨(s.core c).reg rd, n, accStore⟩] = .ok (u, [a, b], l :: ls)) :
    ∃ x, s.mvsf c rd rs rt = u.chunkCommit c b
      (seqCopy id ((pasOf a).zip (l.zip (pasOf b))) [] ++ List.replicate (n - m) (((s.core c).reg rt).extractLsb' 0 8)) x
      (decide (n < ((s.core c).reg (rd ||| 1)).toNat)) (fun k => k.advanceTwo rs rd m n) := by
  subst hn hm
  rw [State.mvsf]
  simp only [Core.pairHi, Core.pairLo, if_neg (mt chunkLen_zero.mp h), hr]
  exact ⟨_, rfl⟩

/-- MVSF past the end of its source. -/
theorem mvsf_fill {n : Nat} {b : List Mapped} {ls : List (List Byte)} (h : ((s.core c).reg (rd ||| 1)).toNat ≠ 0)
    (hn : n = chunkLen ((s.core c).reg (rd ||| 1))) (hz : (s.core c).reg (rs ||| 1) = 0)
    (hr : s.readChunk c [⟨(s.core c).reg rs, 0, accLoad⟩, ⟨(s.core c).reg rd, n, accStore⟩] = .ok (u, [b], ls)) :
    ∃ x, s.mvsf c rd rs rt = u.chunkCommit c b (List.replicate n (((s.core c).reg rt).extractLsb' 0 8)) x
      (decide (n < ((s.core c).reg (rd ||| 1)).toNat)) (fun k => k.advanceTwo rs rd 0 n) := by
  subst hn
  have hm : min (chunkLen ((s.core c).reg (rd ||| 1))) ((s.core c).reg (rs ||| 1)).toNat = 0 := by
    rw [hz]
    exact Nat.min_zero _
  rw [State.mvsf]
  simp only [Core.pairHi, Core.pairLo, if_neg (mt chunkLen_zero.mp h), hm, hr]
  exact ⟨_, rfl⟩

theorem trs_chunk {n : Nat} {table str : List Mapped} {l x : List Byte} (h : ((s.core c).reg (rd ||| 1)).toNat ≠ 0)
    (hn : n = chunkLen ((s.core c).reg (rd ||| 1))) (hr : s.tableChunk c rd rs accStore n = .ok (u, table, str, l, x)) :
    ∃ y, s.trs c rd rs = u.chunkCommit c str x y (decide (n < ((s.core c).reg (rd ||| 1)).toNat)) (fun k => k.advancePair rd n) := by
  subst hn
  rw [State.trs]
  simp only [Core.pairHi, if_neg (mt chunkLen_zero.mp h), hr]
  exact ⟨_, rfl⟩

end

section
variable {s : State} {c : CoreId} {g : Guard} {rd rs rt : Reg}

theorem mvs_body (hd : oddReg rd = false) (hx : s.executes c (.mvs c g rd rs) g true) :
    BodyEnds s c (.mvs c g rd rs) true (((s.fetched c).mvs c rd rs).late (chunkBound (s.coreOf c) 8 4)) := by
  have h : exec (.mvs c g rd rs) s = execMvs c g rd rs s := rfl
  rw [execMvs, oddPair_none hd] at h
  exact hx.body h

theorem mvsf_body (hd : oddReg rd = false) (hs : oddReg rs = false) (hx : s.executes c (.mvsf c g rd rs rt) g true) :
    BodyEnds s c (.mvsf c g rd rs rt) true (((s.fetched c).mvsf c rd rs rt).late (chunkBound (s.coreOf c) 8 4)) := by
  have h : exec (.mvsf c g rd rs rt) s = execMvsf c g rd rs rt s := rfl
  rw [execMvsf, firstEnc_none hd hs] at h
  exact hx.body h

theorem trs_body (hd : oddReg rd = false) (hx : s.executes c (.trs c g rd rs) g true) :
    BodyEnds s c (.trs c g rd rs) true (((s.fetched c).trs c rd rs).late (chunkBound (s.coreOf c) 8 64)) := by
  have h : exec (.trs c g rd rs) s = execTrs c g rd rs s := rfl
  rw [execTrs, oddPair_none hd] at h
  exact hx.body h

end

/-- Settles O36: each move commits one chunk, or nothing when none is left. -/
theorem stringMoves : Obligations.StringMoves := by
  intro s c g rd rs rt hd f k count n more
  refine ⟨fun h0 he => ⟨fun hx => ?_, fun hx => ?_, fun hs hx => ?_⟩, fun h0 => ⟨fun u a b l ls hx hr => ?_, fun u a b l ls hs hx => ?_,
    fun u b ls hs hx hz hr => ?_, fun u table str l x hx hr => ?_⟩⟩
  · exact (mvs_body hd hx).late_completes (mvs_zero h0) he
  · exact (trs_body hd hx).late_completes (trs_zero h0) he
  · exact (mvsf_body hd hs hx).late_completes (mvsf_zero h0) he
  · obtain ⟨y, h⟩ := mvs_chunk h0 rfl hr
    exact (mvs_body hd hx).chunkStores h
  · intro m hr
    obtain ⟨y, h⟩ := mvsf_chunk (rt := rt) h0 rfl rfl hr
    exact (mvsf_body hd hs hx).chunkStores h
  · obtain ⟨y, h⟩ := mvsf_fill (rt := rt) h0 rfl hz hr
    exact (mvsf_body hd hs hx).chunkStores h
  · obtain ⟨y, h⟩ := trs_chunk h0 rfl hr
    exact (trs_body hd hx).chunkStores h

-- ---------------------------------------------------------------- comparison and scans (R370, R371)

section
variable {s u : State} {c : Nat} {rd rs rt : Reg} {n : Nat}

theorem scns_zero (h : ((s.core c).reg (rd ||| 1)).toNat = 0) : s.scns c rd rt = .done s (upTo 6) := if_pos (chunkLen_zero.mpr h)

theorem crcs_zero (h : ((s.core c).reg (rd ||| 1)).toNat = 0) : s.crcs c rd = .done s (upTo 8) := if_pos (chunkLen_zero.mpr h)

theorem trts_zero (h : ((s.core c).reg (rd ||| 1)).toNat = 0) : s.trts c rd rs rt = .done (s.setCore c ((s.core c).setReg rt 0)) (upTo 8) :=
  if_pos (chunkLen_zero.mpr h)

theorem cmps_zero (h : ((s.core c).reg (rd ||| 1)).toNat = 0) (hs : (s.core c).reg (rs ||| 1) = 0) :
    s.cmps c rd rs rt = .done (s.setCore c ((s.core c).setReg rt 0)) (upTo 8) := by
  have hn : min 64 (max ((s.core c).reg (rd ||| 1)).toNat ((s.core c).reg (rs ||| 1)).toNat) = 0 := by
    rw [h, hs]
    rfl
  exact if_pos hn

section
variable (h : ((s.core c).reg (rd ||| 1)).toNat ≠ 0) (hn : n = chunkLen ((s.core c).reg (rd ||| 1)))
include h hn

theorem scns_chunk {ms : List (List Mapped)} {l : List Byte} {ls : List (List Byte)} {i : Nat}
    (hr : s.readChunk c [⟨(s.core c).reg rd, n, accLoad⟩] = .ok (u, ms, l :: ls))
    (hi : i = (l.takeWhile fun b => b != ((s.core c).reg rt).extractLsb' 0 8).length) :
    ∃ x, s.scns c rd rt = chunkEnd (u.setCore c ((u.core c).advancePair rd i)) (i == n && decide (n < ((s.core c).reg (rd ||| 1)).toNat)) x := by
  subst hn hi
  rw [State.scns]
  simp only [Core.pairHi, Core.pairLo, if_neg (mt chunkLen_zero.mp h), hr]
  exact ⟨_, rfl⟩

theorem crcs_chunk {ms : List (List Mapped)} {l : List Byte} {ls : List (List Byte)}
    (hr : s.readChunk c [⟨(s.core c).reg rd, n, accLoad⟩] = .ok (u, ms, l :: ls)) :
    ∃ x, s.crcs c rd = chunkEnd (u.setCore c (((u.core c).setCrcv (crcMore (u.core c).crcId (u.core c).crcv l)).advancePair rd n))
      (decide (n < ((s.core c).reg (rd ||| 1)).toNat)) x := by
  subst hn
  rw [State.crcs]
  simp only [Core.pairHi, Core.pairLo, if_neg (mt chunkLen_zero.mp h), hr]
  exact ⟨_, rfl⟩

theorem trts_chunk {table str : List Mapped} {l x : List Byte} {i : Nat} {q : Core}
    (hr : s.tableChunk c rd rs accLoad n = .ok (u, table, str, l, x)) (hi : i = (x.takeWhile fun b => b == 0#8).length)
    (hq : q = (u.core c).advancePair rd i) :
    ∃ y, s.trts c rd rs rt = if i < n then .done (u.setCore c (q.setReg rt ((x.getD i 0).zeroExtend 32))) y
      else if n < ((s.core c).reg (rd ||| 1)).toNat then .again (u.setCore c q) y else .done (u.setCore c (q.setReg rt 0)) y := by
  have hb : before (· != 0#8) x = i := by
    rw [hi, before]
    congr 2
    funext b
    exact Bool.not_not ..
  subst hn hq
  rw [State.trts]
  simp only [Core.pairHi, if_neg (mt chunkLen_zero.mp h), hr, hb]
  exact ⟨_, rfl⟩

end

/-- CMPS of strings of which one is left: the first difference decides. -/
theorem cmps_chunk {ms : List (List Mapped)} {ls : List (List Byte)} {la lb : Nat} {pad : Byte} (hla : la = ((s.core c).reg (rd ||| 1)).toNat)
    (hlb : lb = ((s.core c).reg (rs ||| 1)).toNat) (hpad : pad = ((s.core c).reg rt).extractLsb' 0 8) (h : 0 < max la lb) (hn : n = min 64 (max la lb))
    (hr : s.readChunk c [⟨(s.core c).reg rs, min n lb, accLoad⟩, ⟨(s.core c).reg rd, min n la, accLoad⟩] = .ok (u, ms, ls)) :
    ∃ x, s.cmps c rd rs rt =
      match firstDiff pad n 0 (if la = 0 then [] else ls.getLastD []) (if lb = 0 then [] else ls.headD []) with
      | some (i, p, q) => .done (u.setCore c (((u.core c).advanceTwo rs rd (min i (min n lb)) (min i (min n la))).setReg rt
          (if q.toNat < p.toNat then 1 else 0xFFFFFFFF#32))) x
      | none => if n < max la lb then .again (u.setCore c ((u.core c).advanceTwo rs rd (min n (min n lb)) (min n (min n la)))) x
          else .done (u.setCore c (((u.core c).advanceTwo rs rd (min n (min n lb)) (min n (min n la))).setReg rt 0)) x := by
  have hne : ¬ n = 0 := by omega
  have ha : min n la = 0 ↔ la = 0 := by omega
  have hb : min n lb = 0 ↔ lb = 0 := by omega
  simp only [← ha, ← hb]
  subst hn hla hlb hpad
  rw [State.cmps]
  simp only [Core.pairHi, Core.pairLo, if_neg hne, hr]
  exact ⟨_, rfl⟩

end

section
variable {s : State} {c : CoreId} {g : Guard} {rd rs rt : Reg}

theorem scns_body (hd : oddReg rd = false) (hx : s.executes c (.scns c g rd rt) g true) :
    BodyEnds s c (.scns c g rd rt) true (((s.fetched c).scns c rd rt).late (chunkBound (s.coreOf c) 6 4)) := by
  have h : exec (.scns c g rd rt) s = execScns c g rd rt s := rfl
  rw [execScns, oddPair_none hd] at h
  exact hx.body h

theorem crcs_body (hd : oddReg rd = false) (hx : s.executes c (.crcs c g rd) g true) :
    BodyEnds s c (.crcs c g rd) true (((s.fetched c).crcs c rd).late (chunkBound (s.coreOf c) 8 16)) := by
  have h : exec (.crcs c g rd) s = execCrcs c g rd s := rfl
  rw [execCrcs, oddPair_none hd] at h
  exact hx.body h

theorem trts_body (hd : oddReg rd = false) (hx : s.executes c (.trts c g rd rs rt) g true) :
    BodyEnds s c (.trts c g rd rs rt) true (((s.fetched c).trts c rd rs rt).late (chunkBound (s.coreOf c) 8 64)) := by
  have h : exec (.trts c g rd rs rt) s = execTrts c g rd rs rt s := rfl
  rw [execTrts, oddPair_none hd] at h
  exact hx.body h

theorem cmps_body (hd : oddReg rd = false) (hs : oddReg rs = false) (hx : s.executes c (.cmps c g rd rs rt) g true) :
    BodyEnds s c (.cmps c g rd rs rt) true (((s.fetched c).cmps c rd rs rt).late (chunkBound (s.coreOf c) 8 4)) := by
  have h : exec (.cmps c g rd rs rt) s = execCmps c g rd rs rt s := rfl
  rw [execCmps, firstEnc_none hd hs] at h
  exact hx.body h

theorem edit_body (hd : oddReg rd = false) (hs : oddReg rs = false) (hx : s.executes c (.edit c g rd rs rt) g true) :
    BodyEnds s c (.edit c g rd rs rt) true (((s.fetched c).edit c rd rs rt).late (chunkBound (s.coreOf c) 12 32)) := by
  have h : exec (.edit c g rd rs rt) s = execEdit c g rd rs rt s := rfl
  rw [execEdit, firstEnc_none hd hs] at h
  exact hx.body h

end

section
variable {s u : State} {c : CoreId} {i : Instr} {x y : Cost} {r : Res}

/-- A chunk after which more remains, and one that is the last. -/
theorem BodyEnds.chunk_again (hb : BodyEnds s c i true (r.late y)) (h : r = .again u x) : ChunkEnds s u c i true :=
  BodyEnds.chunkEnds (x := x) (y := y) (hb.congr (by rw [h]; rfl))

theorem BodyEnds.chunk_last (hb : BodyEnds s c i true (r.late y)) (h : r = .done u x) : ChunkEnds s u c i false :=
  BodyEnds.chunkEnds (x := x) (y := y) (hb.congr (by rw [h]; rfl))

theorem BodyEnds.chunk {more : Bool} (hb : BodyEnds s c i true (r.late y)) (h : r = chunkEnd u more x) : ChunkEnds s u c i more :=
  BodyEnds.chunkEnds (x := x) (y := y) (hb.congr (by rw [h]))

end

/-- A general register is nothing to the loop check. -/
theorem endsWell_setReg (s u : State) (c : Nat) (resum : Bool) (r : Reg) (v : Word) :
    s.endsWell (u.setCore c ((u.core c).setReg r v)) c resum = s.endsWell u c resum := by
  simp only [State.endsWell, State.core_setCore]
  rfl

/-- Settles O37: each scan ends one chunk where its condition says. -/
theorem stringScans : Obligations.StringScans := by
  intro s c g rd rs rt hd f k count n
  refine ⟨fun h0 he => ⟨fun hx => ?_, fun hx => ?_, fun hx => ?_, fun hs hz hx => ?_⟩, fun h0 => ⟨fun u ms l ls hx hr => ?_,
    fun u ms l ls hx hr => ?_, fun u table str l x hx hr => ?trts⟩, fun u ms ls hs hx => ?cmps⟩
  · exact (scns_body hd hx).late_completes (scns_zero h0) he
  · exact (crcs_body hd hx).late_completes (crcs_zero h0) he
  · exact (trts_body hd hx).late_completes (trts_zero h0) ((endsWell_setReg ..).trans he)
  · exact (cmps_body hd hs hx).late_completes (cmps_zero h0 hz) ((endsWell_setReg ..).trans he)
  · obtain ⟨x, h⟩ := scns_chunk (rt := rt) h0 rfl hr rfl
    exact (scns_body hd hx).chunk h
  · obtain ⟨x, h⟩ := crcs_chunk h0 rfl hr
    exact (crcs_body hd hx).chunk h
  case trts =>
    intro i kk
    obtain ⟨y, h⟩ := trts_chunk (rt := rt) (i := i) (q := kk) h0 rfl hr rfl rfl
    refine ⟨fun hi => ?_, fun hi hm => ?_, fun hi hm => ?_⟩
    · exact (trts_body hd hx).chunk_last (h.trans (if_pos hi))
    · exact (trts_body hd hx).chunk_again (h.trans ((if_neg hi).trans (if_pos hm)))
    · exact (trts_body hd hx).chunk_last (h.trans ((if_neg hi).trans (if_neg hm)))
  case cmps =>
    intro lb hpos top n move b a hr
    obtain ⟨x, h⟩ := cmps_chunk (rt := rt) (la := count) (lb := lb) (pad := (k.reg rt).extractLsb' 0 8) rfl rfl rfl hpos rfl hr
    refine ⟨fun i p q hf => ?_, fun hf => ⟨fun hm => ?_, fun hm => ?_⟩⟩
    all_goals
      rw [show firstDiff ((k.reg rt).extractLsb' 0 8) n 0 (if count = 0 then [] else ls.getLastD []) (if lb = 0 then [] else ls.headD []) = _ from hf] at h
    · exact (cmps_body hd hs hx).chunk_last h
    · exact (cmps_body hd hs hx).chunk_again (h.trans (if_pos hm))
    · exact (cmps_body hd hs hx).chunk_last (h.trans (if_neg hm))

-- ---------------------------------------------------------------- EDIT (R374 to R378)

section
variable {s r v : State} {c : Nat} {rd rs rt : Reg} {n : Nat}

theorem edit_zero (h : ((s.core c).reg (rd ||| 1)).toNat = 0) : s.edit c rd rs rt = .done s (upTo 12) :=
  if_pos (show min 16 ((s.core c).reg (rd ||| 1)).toNat = 0 by omega)

theorem edit_chunk {pat dst : List Mapped} {l out : List Byte} {st : EditSt} {srcs : List Nat} (h : ((s.core c).reg (rd ||| 1)).toNat ≠ 0)
    (hn : n = min 16 ((s.core c).reg (rd ||| 1)).toNat) (hp : s.judgeAll c [⟨(s.core c).reg rs, n, accLoad⟩] = .ok [pat])
    (hpr : meetsRegister pat = false) (hl : s.loadPieces c pat = (r, .ok l))
    (hd : (r.mark false pat).judge c accStore (operand ((s.core c).reg rd).toNat n) none = .ok dst) (hdr : meetsRegister dst = false)
    (hw : (r.mark false pat).editWalk c none (editStart (s.core c) rs rt) [] []
      (((natRange 0 n).map fun i => (s.core c).reg rs + BitVec.ofNat 32 i).zip ((pasOf pat).zip (l.zip (pasOf dst)))) = .ok v st out srcs)
    (hs : (srcs.any fun p => (pasOf dst).contains p) = false) :
    ∃ x, s.edit c rd rs rt = v.chunkCommit c dst out x (decide (n < ((s.core c).reg (rd ||| 1)).toNat))
      (editPut st rd rs rt n (decide (n < ((s.core c).reg (rd ||| 1)).toNat))) := by
  have hne : ¬ n = 0 := by omega
  subst hn
  rw [State.edit]
  simp only [Core.pairHi, Core.pairLo, if_neg hne, hp, List.headD_cons, hpr, hl, hd, hdr, hw, hs, Bool.false_eq_true, if_false]
  exact ⟨_, rfl⟩

end

theorem digit_sig (st : EditSt) (d : Nat) (start : Bool) : (st.digit d start).2 =
    { st with sig := st.sig || d != 0 || start, nz := st.nz || d != 0 } := rfl

theorem digit_prints (st : EditSt) (d : Nat) (start : Bool) :
    (st.digit d start).1 = if st.sig = true ∨ d ≠ 0 then BitVec.ofNat 8 (0x30 + d) else st.fill := by
  simp [EditSt.digit]

section
variable {st : EditSt} {b : Byte}

theorem take_high (hl : st.low = false) (hb : b.toNat / 16 ≤ 9) : st.take b =
    if b.toNat % 16 < 10 then some (b.toNat / 16, { st with low := true })
    else some (b.toNat / 16, { st with src := st.src + 1, sgn := true, neg := b.toNat % 16 % 2 == 1 }) := by
  rw [EditSt.take, hl]
  simp only [Bool.false_eq_true, if_false, if_neg (Nat.not_lt.mpr hb)]

theorem take_high_none (hl : st.low = false) (hb : 9 < b.toNat / 16) : st.take b = none := by
  rw [EditSt.take, hl]
  simp only [Bool.false_eq_true, if_false, if_pos hb]

theorem take_low (hl : st.low = true) (hb : b.toNat % 16 ≤ 9) : st.take b = some (b.toNat % 16, { st with low := false, src := st.src + 1 }) := by
  rw [EditSt.take, hl]
  simp only [if_true, if_neg (Nat.not_lt.mpr hb)]

end

/-- Settles O38: EDIT commits what its walk prints, and how a digit prints. -/
theorem edit : Obligations.Edit := by
  refine ⟨fun s c g rd rs rt hd hs => ?_, fun st d start _ => ?_, fun st b hl hb => ?_, fun st b hl hb => take_low hl hb,
    fun st b hl hb => take_high_none hl hb⟩
  · intro f k count n hx
    refine ⟨fun h0 he => (edit_body hd hs hx).late_completes (edit_zero h0) he, fun pat dst r v l out st srcs h0 hp hpr hl => ?_⟩
    intro u eas hj hdr hw hsrc
    obtain ⟨x, h⟩ := edit_chunk h0 rfl hp hpr hl hj hdr hw hsrc
    exact (edit_body hd hs hx).chunkStores h
  · rw [digit_sig]
    exact ⟨digit_prints st d start, rfl, rfl, rfl, rfl⟩
  · rw [take_high hl hb]
    exact ⟨fun h => if_pos h, fun h => if_neg (by omega)⟩

end Sys2Proof.Machine
end

section
/-!
PROOF. TCHK (R379 to R381).
-/

namespace Sys2Proof.Machine

-- ---------------------------------------------------------------- what the pieces of an operand hold

theorem oneDesc_isSome {l : List (Piece × Option Desc)} (h : oneDesc l = true) : ∀ x ∈ l, x.2.isSome = true := by
  match l with
  | [] => simp
  | [(_, d)] => simpa [oneDesc] using h
  | (_, d) :: (q, e) :: t =>
    simp only [oneDesc, Bool.and_eq_true] at h
    obtain ⟨⟨hd, -⟩, ht⟩ := h
    exact List.forall_mem_cons.mpr ⟨hd, oneDesc_isSome ht⟩

/-- Mapping pieces that a descriptor matches keeps their lengths. -/
theorem mapped_sizes {f : Piece → Option Desc} (pa : Piece → Desc → Nat) {l : List Piece} (hl : ∀ p ∈ l, (f p).isSome = true) :
    ((l.map fun p => (p, f p)).filterMap fun x => x.2.map fun d => (⟨x.1.ea, x.1.n, d.type, d.num, pa x.1 d⟩ : Mapped)).map Mapped.n =
      l.map Piece.n := by
  induction l with
  | nil => rfl
  | cons p l ih =>
    obtain ⟨hp, hl⟩ := List.forall_mem_cons.mp hl
    obtain ⟨d, hd⟩ := Option.isSome_iff_exists.mp hp
    rw [List.map_cons, List.filterMap_cons, hd, List.map_cons, ← ih hl]
    rfl

/-- Mapped pieces are as long as the pieces that were judged. -/
theorem judge_sizes {s : State} {c : Nat} {a : Access} {ps : List Piece} {al : Option Trap} {ms : List Mapped} (h : s.judge c a ps al = .ok ms) :
    ms.map Mapped.n = ps.map Piece.n := by
  simp only [State.judge] at h
  split at h
  · exact nomatch h
  split at h
  · exact nomatch h
  split at h
  · exact nomatch h
  split at h
  · exact nomatch h
  split at h
  · exact nomatch h
  next hone =>
  split at h
  · exact nomatch h
  split at h
  · exact nomatch h
  cases h
  refine mapped_sizes (fun p d => s.physOf c d p.ea) fun p hp => ?_
  exact oneDesc_isSome (Decidable.not_not.mp hone) _ (List.mem_map_of_mem hp)

/-- The pieces of an operand that its fuel covers hold all of it. -/
theorem operandPieces_sum (f : Nat) : ∀ ea n, n ≤ 4096 * f + (4096 - ea % 4096) → ((operandPieces (f + 1) ea n).map Piece.n).sum = n := by
  induction f with
  | zero =>
    intro ea n h
    rw [operandPieces, if_pos (by omega)]
    simp
  | succ f ih =>
    intro ea n h
    rw [operandPieces]
    split
    · simp
    · next hlong =>
      rw [List.map_cons, List.sum_cons, ih _ _ (by omega)]
      exact Nat.add_sub_cancel' (Nat.le_of_not_le hlong)

theorem bytes_length (s : State) (pa n : Nat) : (s.bytes pa n).length = n := by
  induction n generalizing pa with
  | zero => rfl
  | succ n ih => simp [State.bytes, ih]

theorem sliceZ_length (l : List Byte) (off n : Nat) : (sliceZ l off n).length = n := by
  simp only [sliceZ, List.length_append, List.length_replicate]
  have := List.length_take_le n (l.drop off)
  omega

theorem loadPiece_length (s : State) (c pa n : Nat) : (s.loadPiece c pa n).2.2.length = n := by
  unfold State.loadPiece
  split
  · exact List.length_replicate
  split
  · split
    · exact sliceZ_length ..
    · exact bytes_length ..
  · exact bytes_length ..

theorem loadPieces_length {s r : State} {c : Nat} {ms : List Mapped} {l : List Byte} (h : s.loadPieces c ms = (r, .ok l)) :
    l.length = (ms.map Mapped.n).sum := by
  induction ms generalizing s l r with
  | nil =>
    cases h
    rfl
  | cons m ms ih =>
    rw [State.loadPieces] at h
    split at h
    · exact nomatch (Prod.mk.inj h).2
    simp only at h
    split at h
    · exact nomatch (Prod.mk.inj h).2
    next q hq =>
    cases (Prod.mk.inj h).2
    rw [List.length_append, loadPiece_length, ih (Prod.ext rfl hq)]
    simp

-- ---------------------------------------------------------------- the record that is read (R379)

theorem judgeRecord_sum {s : State} {c ea n : Nat} {ms : List Mapped} (hn : n ≤ 28672) (h : s.judgeRecord c ea n = .ok ms) :
    (ms.map Mapped.n).sum = n := by
  simp only [State.judgeRecord] at h
  split at h
  · exact nomatch h
  rw [judge_sizes h]
  exact operandPieces_sum 7 ea n (by omega)

/-- A record that is read holds at least its header. -/
theorem tchkRead_length {s u : State} {c ea : Nat} {ms : List Mapped} {l : List Byte} (h : s.tchkRead c ea = .ok u ms l) : 32 ≤ l.length := by
  simp only [State.tchkRead] at h
  split at h
  · exact nomatch h
  split at h
  · exact nomatch h
  split at h
  · exact nomatch h
  next hlen =>
  split at h
  · exact nomatch h
  next hms =>
  split at h
  · exact nomatch h
  next hl =>
  cases h
  rw [loadPieces_length (Prod.ext rfl hl), judgeRecord_sum (by omega) hms]
  omega

theorem tchkRead_long {s r : State} {c ea : Nat} {hm : List Mapped} {h : List Byte} (hj : s.judgeRecord c ea 32 = .ok hm)
    (hl : s.loadPieces c hm = (r, .ok h)) (hlen : 9000 < leField h 14 2) :
    s.tchkRead c ea = .trap r (trapAt 11 0x03 (BitVec.ofNat 32 ea)) := by
  rw [State.tchkRead]
  simp only [hj, hl, if_pos hlen]

theorem patch_slice {l b t : List Byte} (hl : 16 ≤ l.length) (hb : b.length = 8) (ht : t.length = 8) : sliceZ (patch (patch l 16 b) 0 t) 16 8 = b := by
  have htake : (l.take 16).length = 16 := List.length_take_of_le hl
  have hdrop : (patch (patch l 16 b) 0 t).drop 16 = b ++ l.drop 24 := by
    simp only [patch, List.take_zero, List.nil_append, hb, ht]
    rw [List.drop_append, List.drop_eq_nil_of_le (by omega), ht, List.drop_drop, List.append_assoc, List.drop_append, List.drop_eq_nil_of_le (by omega), htake]
    simp
  rw [sliceZ, hdrop, List.take_append_of_le_length (by omega), List.take_of_length_le (by omega), hb]
  exact List.append_nil b

/-- The form form stamps the frame number. -/
theorem formed_frame (u : State) (c : Nat) {l : List Byte} (hl : 32 ≤ l.length) : sliceZ (u.formed c l) 16 8 = leBytes 8 u.timer.frame :=
  patch_slice (by omega) (leBytes_length ..) (leBytes_length ..)

-- ---------------------------------------------------------------- form (R381)

section
variable {s u v : State} {c : Nat} {rd rs : Reg}

theorem tchkForm_done {m : Mapped} {ms : List Mapped} {l : List Byte} (hr : s.tchkRead c ((s.core c).reg rs).toNat = .ok u (m :: ms) l)
    (he : u.emittedAt m.pa = false)
    (hp : u.performAll c [(partOf (m :: ms) 16 8, sliceZ (u.formed c l) 16 8), (partOf (m :: ms) 0 8, (u.formed c l).take 8)] = .ok v) :
    ∃ x, s.tchkForm c rd rs = .done (v.setCore c ((v.core c).setReg rd 0)) x := by
  rw [State.tchkForm]
  simp only [hr, he, Bool.false_eq_true, if_false, hp]
  exact ⟨_, rfl⟩

theorem tchkForm_trap {t : Trap} (hr : s.tchkRead c ((s.core c).reg rs).toNat = .trap u t) : s.tchkForm c rd rs = .trap u t := by
  rw [State.tchkForm]
  simp only [hr]

-- ---------------------------------------------------------------- verify (R380)

/-- How TCHK verify ends once its outcome `j` stands. -/
def verified (s : State) (c : Nat) (rd : Reg) (j : Nat) (t : Trap) (x : Cost) : Res :=
  if j = 2 then .doneTrap (s.setCore c ((s.core c).setReg rd (BitVec.ofNat 32 j))) t x
  else .done (s.setCore c ((s.core c).setReg rd (BitVec.ofNat 32 j))) x

theorem tchkVerify_kept {ms : List Mapped} {l : List Byte} (hr : s.tchkRead c ((s.core c).reg rs).toNat = .ok u ms l) (hj : (u.tagJudge l).2.2 = none) :
    ∃ x, s.tchkVerify c rd rs =
      verified u c rd (u.tagJudge l).1 (trapAt 18 0x01 (BitVec.ofNat 32 ((s.core c).reg rs).toNat)) x := by
  rw [State.tchkVerify]
  simp only [hr, hj]
  exact ⟨_, rfl⟩

theorem tchkVerify_written {w : State} {ms : List Mapped} {l : List Byte} {p : List Mapped × List Byte}
    (hr : s.tchkRead c ((s.core c).reg rs).toNat = .ok u ms l) (hj : (u.tagJudge l).2.2 ≠ none)
    (hp : p = if (u.tagJudge l).1 = 1 then (partOf ms 0 8, (u.tagJudge l).2.1.take 8) else (partOf ms 13 1, [(u.tagJudge l).2.1.getD 13 0]))
    (hw : u.performAll c [p] = .ok w) (hv : (u.verifyAt 1 l).1.performAll c [p] = .ok v) :
    ∃ x, s.tchkVerify c rd rs =
      verified v c rd (u.tagJudge l).1 (trapAt 18 0x01 (BitVec.ofNat 32 ((s.core c).reg rs).toNat)) x := by
  obtain ⟨q, hq⟩ := Option.ne_none_iff_exists'.mp hj
  rw [State.tchkVerify]
  simp only [hr, hq, ← hp, hw, hv]
  exact ⟨_, rfl⟩

end

/-- A verification ends with its outcome in rd, and outcome 2 enters vector 18. -/
theorem BodyEnds.verifies {s u : State} {c : CoreId} {i : Instr} {rd : Reg} {j : Nat} {t : Trap} {x y : Cost} {r : Res}
    (hb : BodyEnds s c i false (r.late y)) (h : r = verified u c rd j t x)
    (he : s.endsWell (u.setCore c ((u.core c).setReg rd (BitVec.ofNat 32 j))) c false = true) :
    (j ≠ 2 → Completes s (u.setCore c ((u.core c).setReg rd (BitVec.ofNat 32 j))) c i false) ∧
    (j = 2 → ∃ x, exec i s = .next ((s.completed (u.setCore c ((u.core c).setReg rd (BitVec.ofNat 32 j))) c false x).enter c t
      ((s.completed (u.setCore c ((u.core c).setReg rd (BitVec.ofNat 32 j))) c false x).core c).pc
      ((s.completed (u.setCore c ((u.core c).setReg rd (BitVec.ofNat 32 j))) c false x).core c).rs)) := by
  refine ⟨fun hj => ?_, fun hj => ⟨x, ?_⟩⟩
  · exact hb.late_done (h.trans (if_neg hj)) he
  · rw [h, verified, if_pos hj] at hb
    exact hb.trans (finish_doneTrap i t x he)

/-- Settles O39: what each form of TCHK writes, and how it ends. -/
theorem tags : Obligations.Tags := by
  refine ⟨fun s c g rd rs hx => ?form, fun s c g rd rs hx => ?verify⟩
  case form =>
    intro f ea
    have hb := hx.body (rfl : _ = execTchkForm c g rd rs s)
    refine ⟨fun u v m ms l hr he => ?_, fun hm r h hj hl hlen => ?_⟩
    · intro w hp hend
      obtain ⟨x, h⟩ := tchkForm_done (rd := rd) hr he hp
      exact ⟨formed_frame u c (tchkRead_length hr), hb.late_done h hend⟩
    · exact hb.late_trap (tchkForm_trap (tchkRead_long hj hl hlen))
  case verify =>
    intro f ea u ms l hr j put ends piece
    have hb := hx.body (rfl : _ = execTchkVerify c g rd rs s)
    refine ⟨fun hj he => ?_, fun hj v w hw hv he => ?_⟩
    · obtain ⟨x, h⟩ := tchkVerify_kept (rd := rd) hr hj
      exact hb.verifies h he
    · obtain ⟨x, h⟩ := tchkVerify_written (rd := rd) hr hj rfl hw hv
      exact hb.verifies h he

end Sys2Proof.Machine
end

section
/-!
PROOF. The POST family (R382 to R387) and the custom instructions (R311, R450).
-/

namespace Sys2Proof.Machine

-- ---------------------------------------------------------------- posting (R386, R387)

theorem readLegs_length {s r : State} {c : Nat} {legs gs : List Leg} (h : s.readLegs c legs = (r, .ok gs)) : gs.length = legs.length := by
  induction legs generalizing s r gs with
  | nil =>
    cases h
    rfl
  | cons g t ih =>
    rw [State.readLegs] at h
    split at h
    · exact nomatch (Prod.mk.inj h).2
    split at h
    · exact nomatch (Prod.mk.inj h).2
    simp only at h
    split at h
    · exact nomatch (Prod.mk.inj h).2
    next q hq =>
    cases (Prod.mk.inj h).2
    simp [ih (Prod.ext rfl hq)]

section
variable {s r q w t : State} {c n m : Nat} {rd rs rt : Reg} {l : List Byte} {lm lines : List Mapped} {jl : Mapped} {legs gs : List Leg}

/-- Postings that a condition refuses. -/
theorem postLocked_refused {partner : Nat} (hr : q.readLegs c legs = (w, .ok gs)) (ha : (gs.any fun x => accountReserved x.bytes) = false)
    (ho : postOutcome gs ≠ 0) : ∃ x, q.postLocked c m rd rt partner legs jl =
      .done ((w.unlock c).setCore c (((w.unlock c).core c).setReg rd (BitVec.ofNat 32 (postOutcome gs)))) x := by
  rw [State.postLocked]
  simp only [hr, ha, Bool.false_eq_true, if_false, if_pos ho]
  exact ⟨_, rfl⟩

/-- The journal's entry of `n` postings: that of leg 0. -/
def entryOf (frame partner n : Nat) (gs : List Leg) : List Byte := match gs with
  | g :: _ => journalEntry frame partner n g
  | [] => []

/-- Postings that none refuses. -/
theorem postLocked_posts {partner : Nat} (hr : q.readLegs c legs = (w, .ok gs)) (ha : (gs.any fun x => accountReserved x.bytes) = false)
    (ho : postOutcome gs = 0)
    (ht : w.performCommit c ((gs.map fun x => ([x.line], x.posted w.timer.frame)) ++ [([jl], entryOf w.timer.frame partner gs.length gs)]) = .ok t) :
    ∃ x, q.postLocked c m rd rt partner legs jl = .done ((t.unlock c).setCore c
      ((((t.unlock c).core c).setReg rt (((t.unlock c).core c).modWalk m (((t.unlock c).core c).reg rt + 64))).setReg rd 0)) x := by
  rw [readLegs_length hr] at ht
  rw [State.postLocked]
  obtain _ | ⟨g, gs⟩ := gs
  all_goals
    simp only [entryOf] at ht
    simp only [hr, ha, ho, ht, Bool.false_eq_true, if_false, ne_eq, not_true_eq_false]
    exact ⟨_, rfl⟩

/-- A posting whose list, lines, fields and locks are good. -/
theorem post_locked (hl : s.judgeList c ((s.core c).reg rs).toNat (32 + 32 * n) = .ok lm) (hr : s.loadPieces c lm = (r, .ok l))
    (hj : (r.mark false lm).judgeLines c (((natRange 0 n).map fun j => BitVec.ofNat 32 (leField l (32 + 32 * j) 4)) ++ [(s.core c).reg rt]) = .ok lines)
    (hlast : lines.getLast? = some jl) (hd : (lines.map Mapped.pa).eraseDups.length = (lines.map Mapped.pa).length)
    (hb : firstBadField ((natRange 0 n).map fun j => ((s.core c).reg rs + BitVec.ofNat 32 (48 + 32 * j), sliceZ l (48 + 32 * j) 16)) = none)
    (hz : listReserved n l = false)
    (hk : (r.mark false lm).takeLocks c ((lines.map fun x => (x.pa, BitVec.ofNat 32 x.ea)).foldr insertLine []) = (q, none)) :
    s.post c n m rd rs rt = q.postLocked c m rd rt (leField l 0 4)
      ((((natRange 0 n).map fun j => BitVec.ofNat 32 (leField l (32 + 32 * j) 4)).zip (lines.zip ((natRange 0 n).map fun j =>
        ((s.core c).reg rs + BitVec.ofNat 32 (48 + 32 * j), sliceZ l (48 + 32 * j) 16)))).map fun x => (⟨x.1, x.2.1, packedVal x.2.2.2, []⟩ : Leg)) jl := by
  rw [State.post]
  simp only [hl, hr, hj, hd, hb, hz, hk, hlast, ne_eq, not_true_eq_false, Bool.false_eq_true, if_false]

end

/-- A POST-family instruction whose body runs its postings. -/
theorem post_result {s : State} {c : CoreId} {g : Guard} {i : Instr} {n : Nat} {m : BitVec 2} {rd rs rt : Reg} {y : Cost}
    (h : s.executes c i g false → BodyEnds s c i false (((s.fetched c).post c n m.toNat rd rs rt).late y)) : PostResult s c g i n m rd rs rt := by
  intro hx lm lines jl r q w l legs hl hr u eas hj hlast hd amts hb hz hk hlegs ha
  have hlock := post_locked (m := m.toNat) (rd := rd) hl hr hj hlast hd hb hz hk
  refine ⟨fun ho => ?_, fun ho t ht => ?_⟩
  · intro v he
    obtain ⟨x, hx'⟩ := postLocked_refused (m := m.toNat) (rd := rd) (rt := rt) (jl := jl) (partner := leField l 0 4) hlegs ha ho
    exact (h hx).late_done (hlock.trans hx') he
  · intro a v he
    obtain ⟨x, hx'⟩ := postLocked_posts (m := m.toNat) (rd := rd) (rt := rt) (jl := jl) (partner := leField l 0 4) hlegs ha ho ht
    exact (h hx).late_done (hlock.trans hx') he

/-- Settles O40: the POST family runs its postings, POST in rings 0 and 1 alone. -/
theorem posting : Obligations.Posting := by
  intro s c g m rd rs rt
  refine ⟨post_result fun hx => hx.body (rfl : _ = execPost2 c g m rd rs rt s), post_result fun hx => hx.body (rfl : _ = execPost4 c g m rd rs rt s),
    fun hr => post_result (y := upTo 110) fun hx => ?_, fun hr hx => ?_⟩
  · have hb := hx.body (rfl : _ = execPost c g m rd rs rt s)
    simp only [show privileged ((s.fetched c).core c) 1 = none from privileged_none hr] at hb
    exact hb
  · have hb := hx.body (rfl : _ = execPost c g m rd rs rt s)
    simp only [show privileged ((s.fetched c).core c) 1 = some _ from privileged_some hr] at hb
    exact hb.traps

-- ---------------------------------------------------------------- custom instructions (R311, R450)

/-- Settles O42: a custom instruction that is not loaded faults in its encoding; one that is loaded ends as its routine does. -/
theorem customInstructions : Obligations.CustomInstructions := by
  intro s c g n sub rd rs rt i resum
  have h : exec i s = execCust c g n sub rd rs rt s := rfl
  refine ⟨fun hm hg hl => ?_, fun u x hx henc hrun he => ?_, fun u t hx henc hrun => ?_⟩
  · have henc : s.custEnc n.toNat rd rs rt = some 0x07 := if_pos (by simp [hl])
    rw [execCust, henc] at h
    exact h.trans ((runInstr_encoding _ _ _ _ _ hm).2 hg)
  all_goals
    rw [execCust, henc] at h
    have hb := (hx.body h).congr hrun
  · exact hb.trans (finish_done i x he)
  · exact hb.traps

end Sys2Proof.Machine
end

section
/-!
PROOF. The asynchronous events of a core (R401 to R403, R406, R570).
-/

namespace Sys2Proof.Machine

-- ---------------------------------------------------------------- what a charge and an entry leave

section
variable {k q : Core} (h : Charged k q)
include h

theorem Charged.wait : q.wait = k.wait := by obtain ⟨_, _, _, _, _, rfl⟩ := h; rfl
theorem Charged.inDebug : q.inDebug = k.inDebug := by obtain ⟨_, _, _, _, _, rfl⟩ := h; rfl
theorem Charged.nmiPend : q.nmiPend = k.nmiPend := by obtain ⟨_, _, _, _, _, rfl⟩ := h; rfl
theorem Charged.haltPend : q.haltPend = k.haltPend := by obtain ⟨_, _, _, _, _, rfl⟩ := h; rfl
theorem Charged.budgetFired : q.budgetFired = k.budgetFired := by obtain ⟨_, _, _, _, _, rfl⟩ := h; rfl

end

theorem applyOne_frame (k : Core) (num : Nat) (v : Word) : k.applyOne num v = { k with sr := (k.applyOne num v).sr } := by
  unfold Core.applyOne
  split <;> rfl

theorem applyOne_sr {k q : Core} (h : q.sr = k.sr) (num : Nat) (v : Word) : (q.applyOne num v).sr = (k.applyOne num v).sr := by
  unfold Core.applyOne
  split <;> simp only [Core.srSet, Core.stat, Core.srGet_congr h, h]

/-- Pending writes change special registers alone. -/
theorem applyAll_frame (k : Core) : ∃ sr, k.applyAll = { k with sr := sr, shadow := [] } := by
  have hfold (l : List Shadow) (k : Core) : ∃ sr, l.foldl (fun a x => a.applyOne x.num x.val) k = { k with sr := sr } := by
    induction l generalizing k with
    | nil => exact ⟨k.sr, rfl⟩
    | cons x l ih =>
      obtain ⟨sr, h⟩ := ih (k.applyOne x.num x.val)
      rw [applyOne_frame] at h
      exact ⟨sr, by rw [List.foldl_cons, applyOne_frame, h]⟩
  obtain ⟨sr, h⟩ := hfold k.shadow k
  exact ⟨sr, by rw [Core.applyAll, h]⟩

/-- What pending writes leave depends on the special registers and the shadow alone. -/
theorem applyAll_sr {k q : Core} (hsr : q.sr = k.sr) (hsh : q.shadow = k.shadow) : q.applyAll.sr = k.applyAll.sr := by
  have hfold (l : List Shadow) (k q : Core) (h : q.sr = k.sr) : (l.foldl (fun a x => a.applyOne x.num x.val) q).sr =
      (l.foldl (fun a x => a.applyOne x.num x.val) k).sr := by
    induction l generalizing k q with
    | nil => exact h
    | cons x l ih => exact ih _ _ (applyOne_sr h ..)
  rw [Core.applyAll, Core.applyAll, hsh]
  exact hfold _ _ _ hsr

/-- What entry leaves outside the special registers (R395). -/
theorem Core.enter_frame (k : Core) (vec : Nat) (cause : Option Trap) (pc : Word) (rs : Bool) : ∃ sr pc' fast bs fb bi,
    k.enter vec cause pc rs = { k with
      sr := sr, shadow := [], pc := pc', rs := false, run := .running, wait := none, micro := none, inMc := k.inMc || vec == 0,
      inNmi := k.inNmi || vec == 1, fastDepth := fast, bsDepth := bs, fbInt := fb, bsInt := bi, inDebug := k.inDebug || vec == 20 } := by
  obtain ⟨sr, h⟩ := applyAll_frame k
  cases cause
  all_goals
    simp only [Core.enter, h]
    exact ⟨_, _, _, _, _, _, rfl⟩

section
variable (k : Core) (vec : Nat) (cause : Option Trap) (pc : Word) (rs : Bool)

theorem Core.enter_inNmi : (k.enter vec cause pc rs).inNmi = (k.inNmi || vec == 1) := by
  obtain ⟨_, _, _, _, _, _, h⟩ := k.enter_frame vec cause pc rs
  rw [h]

theorem Core.enter_nmiPend : (k.enter vec cause pc rs).nmiPend = k.nmiPend := by
  obtain ⟨_, _, _, _, _, _, h⟩ := k.enter_frame vec cause pc rs
  rw [h]

theorem Core.enter_haltPend : (k.enter vec cause pc rs).haltPend = k.haltPend := by
  obtain ⟨_, _, _, _, _, _, h⟩ := k.enter_frame vec cause pc rs
  rw [h]

theorem Core.enter_inDebug : (k.enter vec cause pc rs).inDebug = (k.inDebug || vec == 20) := by
  obtain ⟨_, _, _, _, _, _, h⟩ := k.enter_frame vec cause pc rs
  rw [h]

theorem Core.enter_budgetFired : (k.enter vec cause pc rs).budgetFired = k.budgetFired := by
  obtain ⟨_, _, _, _, _, _, h⟩ := k.enter_frame vec cause pc rs
  rw [h]

end

/-- A core that enters a handler at a boundary from a core with the same registers has entered it from there. -/
theorem Entered.of_enter {k q r : Core} {vec : Nat} {cause : Option Trap} {pc : Word} {rs : Bool} (h : Charged (q.enter vec cause pc rs) r)
    (hpc : pc = k.pc) (hrs : rs = k.rs) (hsr : q.sr = k.sr) (hsh : q.shadow = k.shadow) (hregs : q.regs = k.regs) : Entered k r vec := by
  subst hpc hrs
  have hstat : r.stat = entryStat vec q.applyAll.stat := h.stat.trans (Core.enter_stat ..)
  obtain ⟨hie, hring, -, -, -⟩ := entryStat_cleared vec q.applyAll.stat
  refine ⟨?_, (h.srGet _).trans (Core.enter_savedPc ..), ?_, ?_, ?_, h.rs, h.run, h.wait, h.regs.trans ((Core.enter_regs ..).trans hregs)⟩
  · rw [h.pc, Core.enter_pc, Core.srGet_congr (applyAll_sr hsr hsh)]
  · rw [h.srGet, Core.enter_savedStat, savedStat_getLsbD _ _ (by decide), if_pos rfl]
  · rw [Core.ring, hstat, hring]
    rfl
  · rw [Core.ie, hstat, hie]

-- ---------------------------------------------------------------- the entries (R395, R401)

theorem enterAsync_core {s : State} {c : Nat} {k : Core} (hk : s.core c = k) (vec : Nat) :
    Charged (k.enter vec none k.pc k.rs) ((s.enterAsync c vec).core c) := by
  subst hk
  have h := (charge_charged (s.setCore c ((s.core c).enter vec none (s.core c).pc (s.core c).rs)) c (s.entryCost c vec)).1
  rwa [State.core_setCore] at h

/-- A trap other than a machine check enters its vector. -/
theorem enter_core {s : State} {c : Nat} {k : Core} (hk : s.core c = k) {t : Trap} (ht : t.vec ≠ 0) (pc : Word) (rs : Bool) :
    Charged (k.enter t.vec (some t) pc rs) ((s.enter c t pc rs).core c) ∧ (s.enter c t pc rs).lcores = s.lcores := by
  subst hk
  have hlcores (u : State) (x : Cost) : (u.charge c x).lcores = u.lcores := by
    obtain ⟨n, -, h⟩ := charge_eq u c x
    rw [h]
  rw [State.enter]
  simp only [ht, false_and, if_false]
  obtain ⟨h, -⟩ := charge_charged ((if t.vec = 20 then (s.unlock c).count (okey 0x1310 2) 1 32 else s.unlock c).setCore c
    (((s.unlock c).core c).enter t.vec (some t) pc rs)) c
    ((if t.vec = 20 then (s.unlock c).count (okey 0x1310 2) 1 32 else s.unlock c).entryCost c t.vec)
  rw [State.core_setCore] at h
  refine ⟨h, (hlcores _ _).trans ?_⟩
  split <;> rfl

theorem trapAt_ecause (vec code : Nat) (ea : Word) : (trapAt vec code ea).ecause = BitVec.ofNat 32 (vec % 256 * 256 + code % 256) := by
  simp [Trap.ecause, trapAt]

theorem bank_of_entered {k : Core} {vec : Nat} {st : Word} (h : k.stat = entryStat vec st) : k.bank = if vec = 3 ∨ vec = 16 then 8 else 9 := by
  rw [Core.bank, h, entryStat_bank]
  split <;> rfl

-- ---------------------------------------------------------------- the events

/-- Settles O43: each event that is the first ready enters its vector. -/
theorem coreEvents : Obligations.CoreEvents := by
  intro s c k
  refine ⟨fun hb hn => ?nmi, fun hb hn hh => ?halt, fun hb hn hh hf => ?fast, fun hb hn hh hf hg => ?budget, fun hb hn hh hf hg hi => ?int,
    fun hr hp => ?bp⟩
  case nmi =>
    have h := enterAsync_core (State.core_setCore s c { k with nmiPend := false }) 1
    refine ⟨_, if_pos ⟨hb, hn⟩, .of_enter h rfl rfl rfl rfl rfl, ?_, ?_, ?_⟩
    · rw [h.inNmi, Core.enter_inNmi, beq_self_eq_true, Bool.or_true]
    · rw [h.nmiPend, Core.enter_nmiPend]
    · rw [h.srGet, Core.enter_srGet_ne _ _ _ _ _ (by decide) (.inl rfl) (by decide) (by decide)]
      exact Core.srGet_congr (applyAll_sr (k := k) (q := { k with nmiPend := false }) rfl rfl) _
  case halt =>
    obtain ⟨h, -⟩ := enter_core (State.core_setCore s c { k with haltPend := false }) (t := trapAt 20 0x01 0) (by decide) k.pc k.rs
    refine ⟨_, if_pos ⟨hb, hh, by simp [k, hn]⟩, .of_enter h rfl rfl rfl rfl rfl, ?_, ?_, ?_⟩
    · rw [h.srGet, Core.enter_ecause, trapAt_ecause]
    · rw [h.inDebug, Core.enter_inDebug]
      exact Bool.or_true _
    · rw [h.haltPend, Core.enter_haltPend]
  case fast =>
    have h := enterAsync_core (s := s) (c := c) (k := k) rfl 16
    have hstat := h.stat.trans (Core.enter_stat ..)
    refine ⟨_, if_pos ⟨hb, hf, by simp [k, hn], by simp [k, hh]⟩, .of_enter h rfl rfl rfl rfl rfl, bank_of_entered hstat, ?_⟩
    rw [Core.fe, hstat, entryStat_fe]
    exact Bool.and_false _
  case budget =>
    have hlc : (s.setCore c { k with budgetPend := false, budgetFired := true }).lcoreOf c = s.lcoreOf c := by
      rw [State.lcoreOf, State.core_setCore]
      rfl
    obtain ⟨h, hl⟩ := enter_core (s := (s.setCore c { k with budgetPend := false, budgetFired := true }).modLcore (s.lcoreOf c) fun x =>
      { x with overrun := x.overrun + 1, ovrNow := true }) (State.core_setCore s c { k with budgetPend := false, budgetFired := true })
      (t := trapAt 15 0x01 0) (by decide) k.pc k.rs
    refine ⟨_, (if_pos ⟨hb, hg, by simp [k, hn], by simp [k, hh], by simp [k, hf]⟩ : _ = _).trans ?_, .of_enter h rfl rfl rfl rfl rfl, ?_, ?_, ?_⟩
    · rw [hlc]
    · rw [h.srGet, Core.enter_ecause, trapAt_ecause]
    · rw [h.budgetFired, Core.enter_budgetFired]
    · rw [State.lcore, hl]
      exact congrArg LCore.overrun (Tab.get_insert_self ..)
  case int =>
    have h := enterAsync_core (s := s) (c := c) (k := k) rfl 17
    exact ⟨_, if_pos ⟨hb, hi, by simp [k, hn], by simp [k, hh], by simp [k, hf], by simp [k, hg]⟩, .of_enter h rfl rfl rfl rfl rfl,
      bank_of_entered (h.stat.trans (Core.enter_stat ..))⟩
  case bp =>
    obtain ⟨h, -⟩ := enter_core (s := s) (c := c) (k := k) rfl (t := trapAt 20 0x02 k.pc) (by simp [trapAt]) k.pc k.rs
    refine ⟨s.enter c (trapAt 20 0x02 k.pc) k.pc k.rs, if_pos ⟨hr, hp⟩, .of_enter h rfl rfl rfl rfl rfl, ?_, ?_⟩
    · rw [h.srGet, Core.enter_ecause, trapAt_ecause]
    · rw [h.srGet, Core.enter_eaddr]
      rfl

end Sys2Proof.Machine
end

section
/-!
PROOF. The ends of a core's waits, and what its engines do beside it (R148 to R150, R237, R260, R277, R430, R461).
-/

namespace Sys2Proof.Machine

-- ---------------------------------------------------------------- lists of words in memory

theorem bytes_eq {s : State} {pa n : Nat} {l : List Byte} (hl : l.length = n) (h : ∀ i < n, s.byte (pa + i) = l.getD i 0) : s.bytes pa n = l := by
  induction n generalizing pa l with
  | zero =>
    rw [List.length_eq_zero_iff.mp hl]
    rfl
  | succ n ih =>
    obtain ⟨b, l, rfl⟩ := List.exists_cons_of_length_eq_add_one hl
    rw [State.bytes, ih (l := l) (by simpa using hl) fun i hi => ?_]
    · rw [show s.byte pa = b from h 0 (by omega)]
    · rw [show pa + 1 + i = pa + (i + 1) by omega]
      exact h (i + 1) (by omega)

/-- A byte of the words of a range, each of four bytes. -/
theorem getD_append_of_lt {α : Type} {l : List α} (t : List α) (d : α) {i : Nat} (h : i < l.length) : (l ++ t).getD i d = l.getD i d := by
  rw [List.getD_eq_getElem?_getD, List.getElem?_append_left h, List.getD_eq_getElem?_getD]

theorem getD_append_of_le {α : Type} {l : List α} (t : List α) (d : α) {i : Nat} (h : l.length ≤ i) :
    (l ++ t).getD i d = t.getD (i - l.length) d := by
  rw [List.getD_eq_getElem?_getD, List.getElem?_append_right h, List.getD_eq_getElem?_getD]

theorem flatMap_words {f : Nat → List Byte} (hf : ∀ i, (f i).length = 4) {m : Nat} : ∀ {start n i : Nat}, n < m → i < 4 →
    ((natRange start m).flatMap f).getD (4 * n + i) 0 = (f (start + n)).getD i 0 := by
  induction m with
  | zero => intro _ _ _ h; exact absurd h (by omega)
  | succ m ih =>
    intro start n i hn hi
    rw [natRange, List.flatMap_cons]
    obtain _ | n := n
    · rw [getD_append_of_lt _ _ (by rw [hf]; omega)]
      simp
    · rw [getD_append_of_le _ _ (by rw [hf]; omega), hf, show 4 * (n + 1) + i - 4 = 4 * n + i by omega, ih (by omega) hi,
        show start + 1 + n = start + (n + 1) by omega]

-- ---------------------------------------------------------------- the store buffer (R430)

/-- The oldest buffered store of a core reaches memory. -/
theorem drainOne_eq {s : State} {c : Nat} {e : SbEntry} {r : List SbEntry} (h : (s.core c).storeBuf = e :: r) :
    ((s.drainOne c).core c).storeBuf = r ∧ ∀ a, s.plain a = true → (s.drainOne c).byte a =
      if e.pa ≤ a ∧ a < e.pa + e.bytes.length ∧ ¬ (cwOf a ∈ partCws e.pa e.bytes.length ∧ s.upset a = .uncorrectable) then e.bytes.getD (a - e.pa) 0
      else s.byte a := by
  have hd : s.drainOne c = (s.setCore c { s.core c with storeBuf := r }).corePoke c e.pa e.bytes := by
    rw [State.drainOne]
    simp only [h]
  obtain ⟨halike, hbuf⟩ := corePoke_poised (s.setCore c { s.core c with storeBuf := r }) c e.pa e.bytes
  rw [hd]
  refine ⟨(hbuf c).trans ?_, fun a ha => ?_⟩
  · rw [State.core, (poke_ro _ e.pa e.bytes).2]
    exact congrArg Core.storeBuf (State.core_setCore s c _)
  · have hp : (s.setCore c { s.core c with storeBuf := r }).plain a = true := ha
    rw [halike.byte ((pour_plain [e] _ a).trans hp)]
    exact memoryReadsBack.2 _ _ _ _ hp

-- ---------------------------------------------------------------- the spill engine (R277)

theorem leastRecent_holds {p : Nat → Bool} {l : List Nat} {b : Nat} (h : leastRecent p l = some b) : p b = true :=
  (List.mem_filter.mp (List.mem_of_getLast? h)).2

/-- Marking a bank clean. -/
theorem clearBit_getLsbD (v : BitVec 8) {b : Nat} (hb : v.getLsbD b = true) : (v &&& ~~~ (1#8 <<< b)).getLsbD b = false := by
  have hlt : b < 8 := BitVec.lt_of_getLsbD hb
  simp [hlt]

theorem spillBack_eq {s : State} {c b pa : Nat} (hall : ∀ b < 8, (s.core c).heldBank b = false → (s.core c).vOf b = true ∧ (s.core c).dOf b = true)
    (hb : leastRecent (fun b => !(s.core c).heldBank b && (s.core c).vOf b && (s.core c).dOf b) (s.core c).recency = some b)
    (hp : s.slotPa c ((s.core c).ctxOf b) = some pa) : s.spillBack c =
      .next ((s.setCore c { s.core c with bankD := (s.core c).bankD &&& ~~~ (1#8 <<< b) }).poke pa
        ((natRange 0 32).flatMap fun n => leBytes 4 ((s.core c).bankReg b n).toNat)) := by
  have hnone : ((natRange 0 8).any fun b => !(s.core c).heldBank b && (!(s.core c).vOf b || !(s.core c).dOf b)) = false := by
    refine List.any_eq_false.mpr fun b hm => ?_
    have hlt : b < 8 := by
      revert b
      decide
    cases hh : (s.core c).heldBank b
    · obtain ⟨hv, hd⟩ := hall b hlt hh
      simp [hv, hd]
    · simp
  rw [State.spillBack]
  simp only [hnone, hb, hp, Bool.false_eq_true, if_false]

/-- A plain poke of bytes in code words without uncorrectable errors is read back whole. -/
theorem poke_bytes {s : State} {pa n off : Nat} {l l' : List Byte} (ha : ∀ a, pa ≤ a → a < pa + l.length → s.plain a = true ∧ s.upset a ≠ .uncorrectable)
    (hoff : off + n ≤ l.length) (hl : l'.length = n) (h : ∀ i < n, l.getD (off + i) 0 = l'.getD i 0) : (s.poke pa l).bytes (pa + off) n = l' := by
  refine bytes_eq hl fun i hi => ?_
  obtain ⟨hp, hu⟩ := ha (pa + off + i) (by omega) (by omega)
  rw [memoryReadsBack.2 s pa (pa + off + i) l hp, if_pos ⟨by omega, by omega, fun h => hu h.2⟩, ← h i hi, show pa + off + i - pa = off + i by omega]

-- ---------------------------------------------------------------- waits that end (R148 to R150, R260)

/-- A wait whose condition has come ends in its instruction. -/
theorem endWait_eq {s : State} {c : Nat} {now : WaitWhy → Bool} {w : WaitWhy} {i : Instr} (hw : (s.core c).wait = some ⟨w, some i⟩) (h : now w = true) :
    s.endWait c now = runHeld i (s.unwaited c w) := by
  rw [State.endWait]
  simp only [hw, h, if_true]
  rfl

/-- A state whose cores, first touches, locks and free values alone differ holds the same bytes. -/
theorem byte_of_frame (s : State) (cores : Tab Core) (perc : Percolator) (locks queue : List (Nat × Nat)) (n a : Nat) :
    State.byte { s with cores := cores, perc := perc, locks := locks, lockQueue := queue, freeCtr := n } a = s.byte a := rfl

theorem giveBack_core (s : State) (c line : Nat) :
    (s.giveBack c line).core c = { s.core c with touchHeld := (s.core c).touchHeld.filter (· != line) } := by
  have hcores : (s.giveBack c line).cores = (s.dropHeld c line).cores := rfl
  rw [State.core, hcores]
  exact State.core_setCore ..

/-- What giving an instruction up leaves: its core without reservations, and the headroom. -/
theorem giveUp_eq (s : State) (c : Nat) : ∃ cores perc held, s.giveUp c = { s with cores := cores, perc := perc } ∧
    (s.giveUp c).core c = { s.core c with touchHeld := held } := by
  have hfold (l : List Nat) (s : State) : ∃ cores perc held, l.foldl (fun a x => a.giveBack c x) s = { s with cores := cores, perc := perc } ∧
      (l.foldl (fun a x => a.giveBack c x) s).core c = { s.core c with touchHeld := held } := by
    induction l generalizing s with
    | nil => exact ⟨_, _, _, rfl, rfl⟩
    | cons x l ih =>
      obtain ⟨cores, perc, held, h, hc⟩ := ih (s.giveBack c x)
      refine ⟨cores, perc, held, h, hc.trans ?_⟩
      rw [giveBack_core]
  exact hfold _ s

/-- A vector other than 0 and 20 is entered with the locks released and nothing else but the core changed. -/
theorem enter_plain (s : State) (c : Nat) {t : Trap} (h0 : t.vec ≠ 0) (h20 : t.vec ≠ 20) (pc : Word) (rs : Bool) :
    ∃ cores n, s.enter c t pc rs = { s.unlock c with cores := cores, freeCtr := n } := by
  rw [State.enter]
  simp only [h0, h20, false_and, if_false]
  obtain ⟨n, -, h⟩ := charge_eq ((s.unlock c).setCore c (((s.unlock c).core c).enter t.vec (some t) pc rs)) c ((s.unlock c).entryCost c t.vec)
  exact ⟨_, _, h⟩

/-- A lock wait that lasts too long. -/
theorem lockTimeout_ends {s : State} {c : CoreId} {l : Nat} {ea : Word} {i : Option Instr} (hw : (s.core c).wait = some ⟨.lock l ea, i⟩) :
    ∃ t, execLineLockTimeout c s = .next t ∧ Entered (s.core c) (t.core c) 19 ∧ (t.core c).srGet 0x041 = 0x1301#32 ∧ (t.core c).srGet 0x042 = ea ∧
      (∀ x ∈ t.locks, x.2 ≠ c.val) ∧ ∀ a, t.byte a = s.byte a := by
  obtain ⟨cores, perc, held, hg, hgc⟩ := giveUp_eq s c
  obtain ⟨hone, -⟩ := charge_charged (s.giveUp c) c (cc 2048)
  obtain ⟨n, -, hch⟩ := charge_eq (s.giveUp c) c (cc 2048)
  rw [hgc] at hone
  obtain ⟨cyc, since, budget, pend, ires, hq⟩ := hone
  obtain ⟨h, -⟩ := enter_core (State.core_setCore ((s.giveUp c).charge c (cc 2048)) c { ((s.giveUp c).charge c (cc 2048)).core c with wait := none })
    (t := trapAt 19 0x01 ea) (by simp [trapAt]) (s.core c).pc (s.core c).rs
  obtain ⟨cores', n', he⟩ := enter_plain (((s.giveUp c).charge c (cc 2048)).setCore c { ((s.giveUp c).charge c (cc 2048)).core c with wait := none }) c
    (t := trapAt 19 0x01 ea) (by simp [trapAt]) (by simp [trapAt]) (s.core c).pc (s.core c).rs
  refine ⟨(((s.giveUp c).charge c (cc 2048)).setCore c { ((s.giveUp c).charge c (cc 2048)).core c with wait := none }).enter c (trapAt 19 0x01 ea)
    (s.core c).pc (s.core c).rs, ?_, ?_, ?_, ?_, ?_, ?_⟩
  · rw [execLineLockTimeout]
    simp only [hw]
  · exact .of_enter h rfl rfl (by rw [hq]) (by rw [hq]) (by rw [hq])
  · rw [h.srGet, Core.enter_ecause, trapAt_ecause]
  · rw [h.srGet, Core.enter_eaddr]
    rfl
  · intro x hx
    rw [he] at hx
    exact bne_iff_ne.mp (((List.mem_filter (p := fun x : Nat × Nat => x.2 != c.val)).mp hx).2)
  · intro a
    rw [he, hch, hg]
    exact byte_of_frame ..

-- ---------------------------------------------------------------- the reload (R461, R463)

theorem roGet_setCore (s : State) (c : Nat) (k : Core) (key : Nat) : (s.setCore c k).roGet key = s.roGet key := rfl

theorem reloadDone_ends {s : State} {c : CoreId} {w : BadWord} {ahead : Nat} {rest : List (Nat × Nat)} (hp : (s.core c).parityHold = some w)
    (hq : s.reloadQueue = (c.val, ahead) :: rest) (hg : s.micro.goldenBad = []) :
    ∃ q x, s.reloadDone c = (q : State).charge c x ∧
      q.core c = { s.core c with
        parityHold := none, ucodeBad := (s.core c).ucodeBad.filter fun x => x.store != w.store
        reloaded := (w, s.timer.frame) :: (s.core c).reloaded.filter fun p => decide (s.timer.frame ≤ p.2 + 1000) } ∧
      q.roGet (okey 0x1402 1) = (s.roGet (okey 0x1402 1) + 1) % 2 ^ 32 := by
  rw [State.reloadDone]
  simp only [hp, hq, ne_eq, not_true_eq_false, if_false]
  split
  · next h => exact nomatch hg.symm.trans h
  · refine ⟨_, _, rfl, State.core_setCore .., ?_⟩
    rw [roGet_setCore, State.roGet_logEvent, State.roGet_roSet_ne _ _ (by decide), State.roGet_roSet_ne _ _ (by decide), State.roGet_roSet_ne _ _ (by decide), State.roGet_count]
    rfl

-- ---------------------------------------------------------------- submissions (R237)

theorem egsb_submits {s : State} {c : Nat} {v : DWord} (h : s.unsent c < 256) :
    s.egsb c v = { s with egress := { s.egress with subs := s.egress.subs ++ [mkSubmission c (s.core c).egsa v] } } := if_pos h

theorem Charged.egsa {k q : Core} (h : Charged k q) : q.egsa = k.egsa := by obtain ⟨_, _, _, _, _, rfl⟩ := h; rfl

theorem Charged.parityHold {k q : Core} (h : Charged k q) : q.parityHold = k.parityHold := by obtain ⟨_, _, _, _, _, rfl⟩ := h; rfl

theorem Charged.ucodeBad {k q : Core} (h : Charged k q) : q.ucodeBad = k.ucodeBad := by obtain ⟨_, _, _, _, _, rfl⟩ := h; rfl

theorem Charged.reloaded {k q : Core} (h : Charged k q) : q.reloaded = k.reloaded := by obtain ⟨_, _, _, _, _, rfl⟩ := h; rfl

theorem egsbWaitEnd_ends {s : State} {c : CoreId} {v : DWord} {i : Option Instr} (hw : (s.core c).wait = some ⟨.egsb v, i⟩) (h : s.unsent c < 256) :
    ∃ t, execEgsbWaitEnd c s = .next t ∧ (t.core c).wait = none ∧ t.egress.subs = s.egress.subs ++ [mkSubmission c (s.core c).egsa v] := by
  obtain ⟨hq, -⟩ := charge_charged (s.setCore c { s.core c with wait := none }) c (waitCost (.egsb v))
  obtain ⟨n, -, hc⟩ := charge_eq (s.setCore c { s.core c with wait := none }) c (waitCost (.egsb v))
  rw [State.core_setCore] at hq
  have he : (s.unwaited c (.egsb v)).egress = s.egress := by rw [State.unwaited, hc]; rfl
  have hs := egsb_submits (s := s.unwaited c (.egsb v)) (c := c) (v := v) (by rw [State.unsent, he]; exact h)
  refine ⟨(s.unwaited c (.egsb v)).egsb c v, ?_, ?_, ?_⟩
  · rw [execEgsbWaitEnd]
    simp only [hw]
    exact if_pos h
  · rw [hs]
    exact hq.wait
  · rw [hs]
    simp only [he]
    rw [show ((s.unwaited c (.egsb v)).core c).egsa = (s.core c).egsa from hq.egsa]

/-- Settles O44: what ends each wait, and what the engines do beside the core. -/
theorem coreWaits : Obligations.CoreWaits := by
  intro s c g rd rs rt m mode f k stw post
  refine ⟨fun e r h => ?drain, fun b pa hh hs hall hb hp ha => ?spill, fun n hw hn => ?carafe, fun hw hn => ?capture, fun p hw hn => ?deferred,
    fun l ea hw hl => ?grant, fun l ea i hw => lockTimeout_ends hw, fun w ahead rest hp hq hg => ?reload, fun v i hw h => egsbWaitEnd_ends hw h⟩
  case drain => exact ⟨_, rfl, drainOne_eq h⟩
  case spill =>
    obtain ⟨⟨-, hv⟩, hd⟩ : ((!k.heldBank b) = true ∧ k.vOf b = true) ∧ k.dOf b = true := by simpa using leastRecent_holds hb
    have hlen : ((natRange 0 32).flatMap fun n => leBytes 4 (k.bankReg b n).toNat).length = 128 := by
      simp [leBytes_length, natRange]
    have hcore (l : List Byte) : ((s.setCore c { k with bankD := k.bankD &&& ~~~ (1#8 <<< b) }).poke pa l).core c =
        { k with bankD := k.bankD &&& ~~~ (1#8 <<< b) } := by
      rw [State.core, (poke_ro _ pa l).2]
      exact State.core_setCore s c _
    refine ⟨_, (if_neg (by simp [k, hh, hs])).trans (spillBack_eq hall hb hp), ?_, ?_, ?_, fun n hn => ?_⟩
    · rw [hcore]
      exact clearBit_getLsbD _ hd
    · rw [hcore]
      exact hv
    · rw [hcore]
    · refine poke_bytes (fun a h1 h2 => ha a h1 (hlen ▸ h2)) (by rw [hlen]; omega) (leBytes_length ..) fun i hi => ?_
      rw [flatMap_words (fun _ => leBytes_length ..) hn hi, Nat.zero_add]
  case carafe =>
    have hr : StoreEnds (exec stw (s.unwaited c (.carafe n))) _ _ _ _ _ _ _ _ _ := (stores (s.unwaited c (.carafe n)) c g rd rs mode f).2.2.1
    have he : execCarafeWaitEnd c s = exec stw (s.unwaited c (.carafe n)) := endWait_eq hw hn
    rw [← he] at hr
    exact hr
  case capture =>
    have hr : StoreEnds (exec stw (s.unwaited c .capture)) _ _ _ _ _ _ _ _ _ := (stores (s.unwaited c .capture) c g rd rs mode f).2.2.1
    have he : execCaptureSlotWaitEnd c s = exec stw (s.unwaited c .capture) := endWait_eq hw (decide_eq_true hn)
    rw [← he] at hr
    exact hr
  case deferred =>
    have hr : StoreEnds (exec stw (s.unwaited c (.deferred p))) _ _ _ _ _ _ _ _ _ := (stores (s.unwaited c (.deferred p)) c g rd rs mode f).2.2.1
    have he : execDeferredSwapWaitEnd c s = exec stw (s.unwaited c (.deferred p)) := endWait_eq hw (by simpa using hn)
    rw [← he] at hr
    exact hr
  case grant =>
    have hr : PostEnds (exec post (s.unwaited c (.lock l ea))) _ _ _ _ _ _ _ _ _ := (posting (s.unwaited c (.lock l ea)) c g m rd rs rt).1
    have he : execLineLockGrant c s = exec post (s.unwaited c (.lock l ea)) := endWait_eq hw hl
    rw [← he] at hr
    exact hr
  case reload =>
    obtain ⟨q, x, h, hc, hro⟩ := reloadDone_ends hp hq hg
    obtain ⟨hk, -⟩ := charge_charged q c x
    rw [hc] at hk
    refine ⟨s.reloadDone c, rfl, ?_⟩
    rw [h]
    refine ⟨hk.parityHold, fun y hy => ?_, ?_, hk.pc, hk.regs, ?_⟩
    · rw [hk.ucodeBad] at hy
      exact bne_iff_ne.mp (((List.mem_filter (p := fun x : BadWord => x.store != w.store)).mp hy).2)
    · rw [hk.reloaded]
      exact List.mem_cons_self
    · rw [State.roGet, charge_ro]
      exact hro

end Sys2Proof.Machine
end

section
/-!
PROOF. The device registers of a core (R117, R118, R237, R245, R405, R406, R570).
-/

namespace Sys2Proof.Machine

-- ---------------------------------------------------------------- what a drained buffer and an engine's read leave

/-- Bytes that have reached memory from a core change memory, its errors, and what cores fetch. -/
def Poured (s t : State) : Prop := ∃ cores mem stale u p, t = { s with cores := cores, mem := mem, stale := stale, upsets := u, poison := p }

theorem Poured.refl (s : State) : Poured s s := ⟨_, _, _, _, _, rfl⟩

theorem Poured.trans {s t u : State} (h : Poured s t) (g : Poured t u) : Poured s u := by
  obtain ⟨_, _, _, _, _, rfl⟩ := h
  obtain ⟨_, _, _, _, _, rfl⟩ := g
  exact ⟨_, _, _, _, _, rfl⟩

theorem setCore_poured (s : State) (c : Nat) (k : Core) : Poured s (s.setCore c k) := ⟨_, _, _, _, _, rfl⟩

theorem poke_poured (s : State) (pa : Nat) (l : List Byte) : Poured s (s.poke pa l) := by
  have hclear (ws : List Nat) (s : State) : Poured s (ws.foldl State.clearWord s) := by
    induction ws generalizing s with
    | nil => exact .refl s
    | cons w ws ih => exact Poured.trans ⟨_, _, _, _, _, rfl⟩ (ih _)
  exact (hclear _ s).trans ⟨_, _, _, _, _, rfl⟩

theorem keepFetched_poured (c n pa : Nat) (s : State) : Poured s (s.keepFetched c pa n) := by
  induction n generalizing s pa with
  | zero => exact .refl s
  | succ n ih => exact Poured.trans ⟨_, _, _, _, _, rfl⟩ (ih ..)

theorem corePoke_poured (s : State) (c pa : Nat) (l : List Byte) : Poured s (s.corePoke c pa l) := by
  unfold State.corePoke
  split
  · exact (keepFetched_poured ..).trans (poke_poured ..)
  · exact poke_poured ..

theorem drainOne_poured (s : State) (c : Nat) : Poured s (s.drainOne c) := by
  unfold State.drainOne
  split
  · exact .refl s
  · exact (setCore_poured s c _).trans (corePoke_poured ..)

theorem drain_poured (n : Nat) (s : State) (c : Nat) : Poured s (s.drain c n) := by
  induction n generalizing s with
  | zero => exact .refl s
  | succ n ih => exact (drainOne_poured s c).trans (ih _)

theorem drainAll_timer (s : State) (c : Nat) : (s.drainAll c).timer = s.timer := by
  obtain ⟨_, _, _, _, _, h⟩ := drain_poured (s.core c).storeBuf.length s c
  rw [State.drainAll, h]

/-- An engine's read changes errors, counters, the log and the free values. -/
theorem engineRead_frame (s : State) (pa n : Nat) : ∃ u p ro log fc,
    (s.engineRead pa n).1 = { s with upsets := u, poison := p, ro := ro, log := log, freeCtr := fc } := by
  unfold State.engineRead
  split
  · exact ⟨_, _, _, _, _, rfl⟩
  · obtain ⟨u, p, ro, log, h⟩ := meetWords_scrubs (cwsOf pa n) s
    simp only
    split
    · exact ⟨u, p, ro, log, s.freeCtr, h⟩
    · rw [h]
      exact ⟨_, _, _, _, _, rfl⟩

-- ---------------------------------------------------------------- emission (R117)

section
variable {s : State} {c addr : Nat}

theorem drst_ends (s : State) (c res : Nat) : ((s.drst c res).core c).drstResult = res ∧ (s.drst c res).adm = s.adm :=
  ⟨congrArg Core.drstResult (State.core_setCore ..), rfl⟩

theorem emit_range (h : addr % 8 ≠ 0 ∨ s.emitRange addr 32 = false) : s.emit c addr = s.drst c 3 := if_pos (by simpa using h)

theorem emit_long (ha : addr % 8 = 0) (hr : s.emitRange addr 32 = true) (hl : 9000 < leField (s.engineRead addr 32).2 14 2) :
    s.emit c addr = (s.engineRead addr 32).1.drst c 2 := by
  rw [State.emit, if_neg (by simp [ha, hr])]
  exact if_pos hl

theorem emit_poor {q : State × List Byte} {len l n : Nat} (hq : q = s.engineRead addr 32) (hlen : len = leField q.2 14 2) (hlc : l = q.1.lcoreOf c)
    (hn : n = cellsOf (32 + len)) (ha : addr % 8 = 0) (hr : s.emitRange addr 32 = true) (hl : len ≤ 9000) (hr2 : q.1.emitRange addr (32 + len) = true)
    (hg : (q.1.lcore l).gc < n) : s.emit c addr = q.1.drst c 1 := by
  subst hq hlen hlc hn
  rw [State.emit, if_neg (by simp [ha, hr])]
  simp only
  rw [if_neg (by omega), if_neg (by simp [hr2]), if_pos (.inr hg)]

/-- An emission that is accepted: its record, the credit it takes and what DRST tells. -/
theorem emit_accepts {q : State × List Byte} {len l n : Nat} {a : Arena} (hq : q = s.engineRead addr 32) (hlen : len = leField q.2 14 2)
    (hlc : l = q.1.lcoreOf c) (hn : n = cellsOf (32 + len)) (ha : addr % 8 = 0) (hr : s.emitRange addr 32 = true) (hl : len ≤ 9000)
    (hr2 : q.1.emitRange addr (32 + len) = true) (hl64 : l < 64) (hg : n ≤ (q.1.lcore l).gc) (harena : q.1.arena (.derived l) = some a) :
    (s.emit c addr).adm.recs = s.adm.recs ++ [emittedRec q.1.adm.nextRec l s.timer.frame (dmOf q.1.section) q.2 a n (32 + len) addr] ∧
    ((s.emit c addr).core c).drstResult = 0 ∧ ((s.emit c addr).core c).drstCount = ((s.core c).drstCount + 1) % 65536 ∧
    ((s.emit c addr).core c).drstCred = (q.1.lcore l).gc - n ∧
    ((s.emit c addr).lcore l).gc = (q.1.lcore l).gc - n ∧ ((s.emit c addr).lcore l).uc = (q.1.lcore l).uc + n := by
  obtain ⟨_, _, _, _, _, hf⟩ := engineRead_frame s addr 32
  have hadm : q.1.adm = s.adm := by rw [hq, hf]
  have htimer : q.1.timer = s.timer := by rw [hq, hf]
  have hcore : q.1.core c = s.core c := by rw [hq, hf]; rfl
  rw [← hadm, ← htimer, ← hcore]
  subst hq hlen hlc hn
  rw [State.emit, if_neg (by simp [ha, hr])]
  simp only
  rw [if_neg (by omega), if_neg (by simp [hr2]), if_neg (by omega)]
  simp only [harena]
  refine ⟨rfl, ?_, ?_, ?_, ?_, ?_⟩
  · exact congrArg Core.drstResult (Tab.get_insert_self ..)
  · exact congrArg Core.drstCount (Tab.get_insert_self ..)
  · exact congrArg Core.drstCred (Tab.get_insert_self ..)
  · exact congrArg LCore.gc (Tab.get_insert_self ..)
  · exact congrArg LCore.uc (Tab.get_insert_self ..)

end

/-- A record's number finds it as it was replaced. -/
theorem record_setRecord {s : State} {id : Nat} {r r' : Rec} (h : s.record id = some r) (hid : r'.id = r.id) : (s.setRecord r').record id = some r' := by
  rw [State.record] at h
  have heq : (r.id == id) = true := List.find?_some (p := fun x : Rec => x.id == id) h
  have hp : (fun x : Rec => x.id == id) ∘ (fun x => if x.id = r'.id then r' else x) = fun x => x.id == id := by
    funext x
    simp only [Function.comp]
    split
    · next hx => rw [hx]
    · rfl
  simp only [State.setRecord, State.record, List.find?_map]
  rw [hp, h, Option.map_some, if_pos hid.symm]

/-- Cells that are written leave the records. -/
theorem pokeRec_adm (s : State) (r : Rec) (l : List Byte) : (s.pokeRec r l).adm = s.adm := by
  have hcells (f : Nat) : ∀ (s : State) (i : Nat) (l : List Byte), (s.pokeCells r f i l).adm = s.adm := by
    induction f with
    | zero => intros; rfl
    | succ f ih =>
      intro s i l
      rw [State.pokeCells]
      split
      · rfl
      · obtain ⟨_, _, _, _, _, h⟩ := poke_poured s (s.recCellPa r i) (l.take 64)
        rw [ih, h]
  exact hcells _ s 0 l

theorem copyEmitted_record {s : State} {id : Nat} {r : Rec} (h : s.record id = some r) (hc : r.copied = false) (hd : r.derived ≠ none) :
    (s.copyEmitted id).record id = some { r with copied := true } := by
  have hsome : r.derived.isNone = false := Option.isNone_eq_false_iff.mpr (Option.isSome_iff_ne_none.mpr hd)
  rw [State.copyEmitted]
  simp only [h, hc, hsome, Bool.false_eq_true, or_self, if_false]
  obtain ⟨_, _, _, _, _, hf⟩ := engineRead_frame s r.src r.bytes
  refine record_setRecord (r := r) ?_ rfl
  rw [State.record, pokeRec_adm, hf]
  exact h

-- ---------------------------------------------------------------- the registers (R245)

theorem Core.reg_setReg (k : Core) (r : Reg) (v : Word) : (k.setReg r v).reg r = v := Tab.get_insert_self ..

theorem loWord_zeroExtend (w : Word) : loWord (w.zeroExtend 64) = w := by
  refine BitVec.eq_of_getLsbD_eq fun i hi => ?_
  have h64 : i < 64 := by omega
  simp [loWord, hi, h64]

section
variable {s : State} {c : CoreId} (h : (s.core c).ready = true)
include h

/-- A device register of a core that can act. -/
theorem devRow_ready (f : State → Host.Outcome State Fault Refusal) : s.devRow c f = f (s.drainAll c) := if_neg (by simp [h])

theorem egsbSubmit_eq {v : DWord} (hz : v.extractLsb' 40 24 = 0#24) : execEgsbSubmit c v s = .next ((s.drainAll c).egsb c v) := by
  rw [execEgsbSubmit, devRow_ready h, if_neg (by simp [devReserved, hz])]
  rfl

theorem dremEmission_eq {v : DWord} (hz : v.extractLsb' 40 24 = 0#24) :
    execDremEmission c v s = .next ((s.drainAll c).emit c (v.extractLsb' 0 40).toNat) := by
  rw [execDremEmission, devRow_ready h, if_neg (by simp [devReserved, hz])]
  rfl

theorem iraiseStore_eq {w : Word} (hz : w.extractLsb' 14 18 = 0#18) (hz' : w.extractLsb' 4 4 = 0#4) :
    execIraiseStore c w s = .next ((s.drainAll c).iraise w) := by
  have hres : devReserved .iraise (w.zeroExtend 64) = false := by
    have hfield (lo n : Nat) (hn : lo + n ≤ 32) : (w.zeroExtend 64).extractLsb' lo n = w.extractLsb' lo n := by
      refine BitVec.eq_of_getLsbD_eq fun i hi => ?_
      have h64 : lo + i < 64 := by omega
      simp [hi, h64]
    simp [devReserved, hfield, hz, hz']
  rw [execIraiseStore, devRow_ready h, if_neg (by simp [hres]), State.devWrite, loWord_zeroExtend]

theorem dbgoutStore_eq (w : Word) :
    execDbgoutStore c w s = .next ((s.drainAll c).setCore c { (s.drainAll c).core c with dbgout := w, outf := true }) := by
  rw [execDbgoutStore, devRow_ready h, State.devWrite, loWord_zeroExtend]

/-- A load of DBGIN takes the word that is there and empties the register. -/
theorem dbginLoad_ends (rd : Reg) : ∃ t, execDbginLoad c rd s = .next t ∧
    (t.core c).reg rd = (if ((s.drainAll c).core c).inf then ((s.drainAll c).core c).dbgin else 0) ∧ (t.core c).inf = false := by
  have hv : loWord ((s.drainAll c).devRead c .dbgin) = if ((s.drainAll c).core c).inf then ((s.drainAll c).core c).dbgin else 0 := by
    simp only [State.devRead]
    split
    · exact loWord_zeroExtend _
    · rfl
  have hcore : ((s.drainAll c).devAfterRead c .dbgin).core c = { (s.drainAll c).core c with inf := false, dbgin := 0 } := State.core_setCore ..
  refine ⟨_, (congrArg (fun f => f) (execDbginLoad.eq_def c rd s)).trans (devRow_ready h _), ?_, ?_⟩
  · rw [State.core_setCore, Core.reg_setReg, hv]
  · rw [State.core_setCore, hcore]
    rfl

/-- A store to a register that its address and size name, with no reserved field set. -/
theorem deviceWrite_eq {addr : BitVec 40} {size : BitVec 4} {v : DWord} {r : DevReg} (hlo : ioBase ≤ addr.toNat) (hhi : addr.toNat < ioBase + ioSize)
    (hn : size = 4#4 ∨ size = 8#4) (hr : devReg addr.toNat = r) (hb : devBad addr.toNat size.toNat = false) (hz : devReserved r v = false) :
    execDeviceRegisterWrite c addr size v s = .next ((s.drainAll c).devWrite c r v) := by
  have hsize : size.toNat = 1 ∨ size.toNat = 2 ∨ size.toNat = 4 ∨ size.toNat = 8 := by
    rcases hn with rfl | rfl <;> decide
  rw [execDeviceRegisterWrite, if_neg (by omega), devRow_ready h, hr, if_neg (by simp [hb, hz])]

end

/-- Settles O45: each device register acts on the state in which the core's stores have drained. -/
theorem deviceRegisters : Obligations.DeviceRegisters := by
  intro s c v w rd h d k
  refine ⟨fun hz => ?egsb, fun hz => ?drem, fun id r hr hc hd => ⟨_, rfl, copyEmitted_record hr hc hd⟩, fun hz hz' p q hp hl hq => ?iraise,
    dbginLoad_ends h rd, dbgoutStore_eq h w, ?egsa, fun hz => ⟨?ipend, ?ien, ?ifast⟩⟩
  case egsb =>
    rw [show exec (.egsbSubmit c v) s = _ from egsbSubmit_eq h hz]
    exact ⟨fun hn => congrArg _ (egsb_submits hn), fun hn => congrArg _ (if_neg (Nat.not_lt.mpr hn))⟩
  case drem =>
    intro addr q len l n x
    have he : exec (.dremEmission c v) s = .next (d.emit c addr) := dremEmission_eq h hz
    obtain ⟨_, _, _, _, _, hf⟩ := engineRead_frame d addr 32
    have hadm : q.1.adm = d.adm := by rw [hf]
    refine ⟨fun a ha hr hl hr2 hl64 hg harena => ?_, fun hr => ?_, fun ha hr hl => ?_, fun ha hr hl hr2 hg => ?_⟩
    · obtain ⟨hrec, h0, hcount, hcred, hgc, huc⟩ := emit_accepts rfl rfl rfl rfl ha hr hl hr2 hl64 hg harena
      exact ⟨_, _, he, hrec, rfl, rfl, rfl, congrArg (fun x => x.frame) (drainAll_timer s c), rfl, rfl, h0, hcount, hcred, hgc, huc⟩
    · exact ⟨_, he.trans (congrArg _ (emit_range hr)), drst_ends ..⟩
    · obtain ⟨h2, h3⟩ := drst_ends q.1 c 2
      exact ⟨_, he.trans (congrArg _ (emit_long ha hr hl)), h2, h3.trans hadm⟩
    · obtain ⟨h2, h3⟩ := drst_ends q.1 c 1
      exact ⟨_, he.trans (congrArg _ (emit_poor rfl rfl rfl rfl ha hr hl hr2 hg)), h2, h3.trans hadm⟩
  case iraise =>
    rw [show exec (.iraiseStore c w) s = _ from iraiseStore_eq h hz hz', State.iraise]
    simp only [show (s.drainAll c).section = some p from hp, if_neg (Nat.not_le.mpr hl), show ((s.drainAll c).lcore _).carrier = some q from hq]
    rfl
  case egsa => exact deviceWrite_eq h (addr := 0x3000040000#40) (size := 8#4) (v := v) (r := .egsa) (by decide) (by decide) (.inr rfl) (by decide) (by decide) rfl
  case ipend => exact deviceWrite_eq h (addr := 0x3000050000#40) (size := 4#4) (v := v) (r := .ipend) (by decide) (by decide) (.inl rfl) (by decide) (by decide) (bne_eq_false_iff_eq.mpr hz)
  case ien => exact deviceWrite_eq h (addr := 0x3000050004#40) (size := 4#4) (v := v) (r := .ien) (by decide) (by decide) (.inl rfl) (by decide) (by decide) (bne_eq_false_iff_eq.mpr hz)
  case ifast => exact deviceWrite_eq h (addr := 0x3000050008#40) (size := 4#4) (v := v) (r := .ifast) (by decide) (by decide) (.inl rfl) (by decide) (by decide) (bne_eq_false_iff_eq.mpr hz)

end Sys2Proof.Machine
end

section
/-!
PROOF. The time source steers the timer (R46 to R50).
-/

namespace Sys2Proof.Machine

-- ---------------------------------------------------------------- the frequency correction

/-- The correction that the timer settles on is at most 200 ppm either way. -/
theorem slewOf_natAbs_le (f period : Nat) : (slewOf f period).natAbs ≤ period / 5000 := by
  have h := Nat.mod_lt f (show 0 < 2 * maxSlew period + 1 by omega)
  rw [slewOf]
  simp only [maxSlew] at h ⊢
  omega

-- ---------------------------------------------------------------- the best master

/-- The order of two ranks of one length is the lexicographic order of lists. -/
theorem rankLt_iff_lt {a b : List Nat} (h : a.length = b.length) : rankLt a b = true ↔ a < b := by
  induction a generalizing b with
  | nil =>
    obtain rfl := List.length_eq_zero_iff.mp h.symm
    simp [rankLt]
  | cons x a ih =>
    cases b with
    | nil => exact nomatch h
    | cons y b => simp [rankLt, List.cons_lt_cons_iff, ih (Nat.succ.inj h)]

theorem rankLt_announceRank_eq_false {a b : Announce} : rankLt (announceRank a) (announceRank b) = false ↔ ¬ announceRank a < announceRank b := by
  rw [← Bool.not_eq_true, rankLt_iff_lt (by rfl)]

theorem not_lt_trans {a b c : List Nat} (h : ¬ b < a) (h' : ¬ c < b) : ¬ c < a :=
  List.not_lt.mpr (List.le_trans (List.not_lt.mp h) (List.not_lt.mp h'))

/-- What the best master clock algorithm chooses is in the list, and nothing in the list ranks before it. -/
theorem bestPort_spec {l : List (NetPort × Announce)} {x : NetPort × Announce} (h : bestPort l = some x) :
    x ∈ l ∧ ∀ y ∈ l, rankLt (announceRank y.2) (announceRank x.2) = false := by
  induction l generalizing x with
  | nil => exact nomatch h
  | cons z l ih =>
    rw [bestPort] at h
    split at h
    next hn =>
      obtain rfl := Option.some.inj h
      have hl : l = [] := by
        cases l with
        | nil => rfl
        | cons y l =>
          rw [bestPort] at hn
          split at hn <;> exact nomatch hn
      subst hl
      simp [rankLt_announceRank_eq_false]
    next y hy =>
      obtain ⟨hmem, hbest⟩ := ih hy
      obtain rfl := Option.some.inj h
      simp only [rankLt_announceRank_eq_false] at hbest ⊢
      split
      next hlt =>
        refine ⟨List.mem_cons_of_mem _ hmem, List.forall_mem_cons.mpr ⟨?_, hbest⟩⟩
        exact List.lt_asymm ((rankLt_iff_lt (by rfl)).mp hlt)
      next hge =>
        rw [Bool.not_eq_true, rankLt_announceRank_eq_false] at hge
        exact ⟨List.mem_cons_self, List.forall_mem_cons.mpr ⟨List.lt_irrefl _, fun w hw => not_lt_trans hge (hbest w hw)⟩⟩

/-- Some port is the best of a list that holds one. -/
theorem bestPort_cons_isSome (x : NetPort × Announce) (l : List (NetPort × Announce)) : ∃ y, bestPort (x :: l) = some y := by
  rw [bestPort]
  split <;> exact ⟨_, rfl⟩

-- ---------------------------------------------------------------- the messages

theorem ptpTaken_netOpen {s : State} {m : PtpFacts} (h : s.ptpTaken m = true) : s.netOpen m.port = true := by
  simp only [State.ptpTaken, Bool.and_eq_true] at h
  exact h.1.1.1

section
variable {s : State} {m : PtpFacts} (h : s.ptpTaken m = true)
include h

theorem ptpMessage_sync {o : Int} (hk : m.kind = .sync o) : execPtpMessage m s = .next (s.ptpSync m.port o) := by
  rw [execPtpMessage, if_neg (not_not_intro (ptpTaken_netOpen h)), if_pos h]
  simp only [hk]

theorem ptpMessage_announce {a : Announce} (hk : m.kind = .announce a) : execPtpMessage m s = .next (s.announced m.port a) := by
  rw [execPtpMessage, if_neg (not_not_intro (ptpTaken_netOpen h)), if_pos h]
  simp only [hk]

theorem ptpMessage_ignored (hk : m.kind = .management ∨ m.kind = .unknown) : execPtpMessage m s = .next s := by
  rw [execPtpMessage, if_neg (not_not_intro (ptpTaken_netOpen h)), if_pos h]
  rcases hk with hk | hk <;> simp only [hk]

end

/-- What a sync interval leaves of the timer: its frame number, and plant time while a plan is active. -/
theorem syncTo_timer (s : State) (o : Int) : (s.syncTo o).timer.offset = o ∧ (s.syncTo o).timer.frame = s.timer.frame ∧
    (s.syncTo o).timer.freq.natAbs ≤ s.timer.period / 5000 ∧
    (s.syncTo o).timer.srcState = (if s.timer.srcState = 0 ∨ s.timer.srcState = 3 then 1 else s.timer.srcState) ∧
    (s.section ≠ none → (s.syncTo o).timer.plantNs = s.timer.plantNs) := by
  refine ⟨rfl, rfl, slewOf_natAbs_le _ _, rfl, fun h => if_neg fun hn => ?_⟩
  exact h (Option.isNone_iff_eq_none.mp hn.2)

/-- Settles O47: a sync interval through `syncTo_timer`, an Announce through `bestPort_spec`. -/
theorem timeSource : Obligations.TimeSource := by
  intro s m offset synced
  refine ⟨fun o hk ht hm => ?sync, fun o hk ht hm => ?other, fun a hk ht => ?announce, fun hk ht => ptpMessage_ignored ht hk, fun hup hsrc => ?edge,
    fun h1 h2 => if_pos ⟨h1, h2⟩, fun h => ⟨_, if_pos h, rfl, rfl, rfl, rfl, rfl⟩, fun h1 h2 => ?held, fun h1 h2 => ?short,
    fun n hr hn hp ht => ?pps⟩
  case sync =>
    have h := ptpMessage_sync ht hk
    rw [State.ptpSync, if_neg (not_not_intro hm)] at h
    exact ⟨_, h, syncTo_timer _ o⟩
  case other =>
    have h := ptpMessage_sync ht hk
    rwa [State.ptpSync, if_pos hm] at h
  case announce =>
    obtain ⟨x, hx⟩ := bestPort_cons_isSome (m.port, a) (s.timer.announces.filter fun x => x.1 != m.port && portOfSource s.timeSource x.1)
    obtain ⟨hmem, hbest⟩ := bestPort_spec hx
    refine ⟨_, x, ptpMessage_announce ht hk, List.mem_cons_self, fun y hy => ?_, hmem, congrArg (Option.map _) hx, hbest⟩
    refine (List.mem_cons.mp hy).imp_right fun hy => ?_
    have hy := List.mem_filter.mp hy
    exact ⟨hy.1, bne_iff_ne.mp (Bool.and_eq_true_iff.mp hy.2).1⟩
  case edge => exact ⟨_, if_pos ⟨hup, hsrc⟩, syncTo_timer _ _⟩
  case held =>
    refine ⟨_, if_pos ⟨h1, by simp [h2]⟩, State.logEvent_nextSeq _ _ _ _, if_neg fun h => h.2 rfl, rfl⟩
  case short =>
    refine if_neg fun h => ?_
    simp only [State.heldTooLong, Bool.and_eq_true, decide_eq_true_eq] at h
    omega
  case pps =>
    subst hn
    exact ⟨_, if_pos ⟨hr, hp, ht⟩, rfl, if_neg fun h => h.2.1 rfl⟩

end Sys2Proof.Machine
end

section
/-!
PROOF. Rotation, replacement, self-test and row repair (R530 to R538).
-/

namespace Sys2Proof.Machine

-- ---------------------------------------------------------------- a range of numbers

theorem natRange_eq_range' (n lo : Nat) : natRange lo n = List.range' lo n := by
  induction n generalizing lo with
  | zero => rfl
  | succ n ih => rw [natRange, List.range'_succ, ih]

theorem mem_natRange {lo n x : Nat} : x ∈ natRange lo n ↔ lo ≤ x ∧ x < lo + n := by
  rw [natRange_eq_range', List.mem_range'_1]

-- ---------------------------------------------------------------- fuses

/-- The state after a field repair has been recorded, or has found no fuse. -/
def Burned (s t : State) : Prop := ∃ fuses log n, t = { s with repair := { s.repair with fuses := fuses }, log := log, freeCtr := n }

theorem burnFuse_burned (e : Word) (n : Nat) (s : State) : Burned s (State.burnFuse e n s) := by
  induction n generalizing s with
  | zero => exact ⟨_, _, _, rfl⟩
  | succ n ih =>
    rw [State.burnFuse]
    split
    · exact ⟨_, _, _, rfl⟩
    · obtain ⟨_, _, _, h⟩ := ih ({ s.drawn with repair := { s.repair with fuses := s.repair.fuses ++ [0xFFFFFFFF#32] } } : State)
      exact ⟨_, _, _, h⟩

theorem recordFuse_burned (s : State) (kind spare unit : Nat) : Burned s (s.recordFuse kind spare unit) := burnFuse_burned ..

-- ---------------------------------------------------------------- retirement

theorem setDomain_power (s : State) (d st : Nat) : ∃ p, s.setDomain d st = { s with power := p } := by
  unfold State.setDomain
  split
  · exact ⟨_, rfl⟩
  · exact ⟨_, rfl⟩

/-- A core that is retired stands in the list and is held. -/
def State.isRetired (s : State) (c : Nat) : Prop := (s.core c).state = .retired ∧ (s.core c).run = .held ∧ c ∈ s.repair.retired

/-- What retiring one core leaves: the logical cores, the other cores, and what is retired already. -/
theorem retireOne_frame (s : State) (c cause : Nat) : (s.retireOne c cause).lcores = s.lcores ∧
    (∀ d, d ≠ c → (s.retireOne c cause).core d = s.core d ∧ (d ∈ (s.retireOne c cause).repair.retired ↔ d ∈ s.repair.retired)) ∧
    (c ∉ s.repair.retired → (s.retireOne c cause).isRetired c) ∧ (c ∈ s.repair.retired → s.retireOne c cause = s) := by
  unfold State.retireOne
  split
  next h =>
    have h : c ∈ s.repair.retired := by simpa using h
    exact ⟨rfl, fun _ _ => ⟨rfl, Iff.rfl⟩, fun hn => absurd h hn, fun _ => rfl⟩
  next h =>
    have h : c ∉ s.repair.retired := by simpa using h
    obtain ⟨f, l, n, hf⟩ := recordFuse_burned s 1 0 c
    obtain ⟨p, hp⟩ := setDomain_power (s.recordFuse 1 0 c) c 0
    have hs : (s.recordFuse 1 0 c).setDomain c 0 = { s with repair := { s.repair with fuses := f }, log := l, freeCtr := n, power := p } := by
      rw [hp, hf]
    simp only [hs]
    refine ⟨rfl, fun d hd => ⟨?_, ?_⟩, fun _ => ⟨?_, ?_, ?_⟩, fun hm => absurd hm h⟩
    · exact State.core_setCore_ne _ _ hd
    · exact List.mem_append.trans (or_iff_left (by simpa using hd))
    · exact congrArg Core.state (State.core_setCore ..)
    · exact congrArg Core.run (State.core_setCore ..)
    · exact List.mem_append_right _ List.mem_cons_self

theorem retireOne_isRetired {s : State} {c : Nat} (d cause : Nat) (h : s.isRetired c) : (s.retireOne d cause).isRetired c := by
  obtain ⟨-, hne, -, hold⟩ := retireOne_frame s d cause
  by_cases hd : c = d
  · subst hd
    rwa [hold h.2.2]
  · obtain ⟨hcore, hmem⟩ := hne c hd
    rw [State.isRetired, hcore, hmem]
    exact h

/-- Retiring the cores of a cluster retires each that was not retired. -/
theorem retireAll_isRetired (l : List Nat) {s : State} {c : Nat} (h : s.isRetired c ∨ c ∉ s.repair.retired ∧ c ∈ l) :
    (l.foldl (fun a n => a.retireOne n 4) s).isRetired c := by
  induction l generalizing s with
  | nil => exact h.elim id fun h => nomatch h.2
  | cons d l ih =>
    refine ih ?_
    rcases h with h | ⟨hn, hm⟩
    · exact .inl (retireOne_isRetired d 4 h)
    · obtain ⟨-, hne, hnew, -⟩ := retireOne_frame s d 4
      by_cases hd : c = d
      · subst hd
        exact .inl (hnew hn)
      · exact .inr ⟨fun hc => hn ((hne c hd).2.mp hc), (List.mem_cons.mp hm).resolve_left hd⟩

theorem retireCore_isRetired {s : State} {c : Nat} (cause : Nat) (h : c ∉ s.repair.retired) : (s.retireCore c cause).isRetired c := by
  unfold State.retireCore
  split
  · exact retireAll_isRetired _ (.inr ⟨h, mem_natRange.mpr (by omega)⟩)
  · exact (retireOne_frame s c cause).2.2.1 h

theorem retireCore_lcores (s : State) (c cause : Nat) : (s.retireCore c cause).lcores = s.lcores := by
  have hall (l : List Nat) (s : State) : (l.foldl (fun a n => a.retireOne n 4) s).lcores = s.lcores := by
    induction l generalizing s with
    | nil => rfl
    | cons d l ih => exact (ih _).trans (retireOne_frame s d 4).1
  unfold State.retireCore
  split
  · exact hall _ s
  · exact (retireOne_frame s c cause).1

-- ---------------------------------------------------------------- moves

/-- The other logical cores lose the carrier that is taken. -/
theorem freeCarrier_frame (q : Nat) (l : List Nat) (s : State) : ∃ ls,
    l.foldl (fun a n => if (a.lcore n).carrier = some q then a.setLcore n { a.lcore n with carrier := none } else a) s = { s with lcores := ls } := by
  induction l generalizing s with
  | nil => exact ⟨_, rfl⟩
  | cons n l ih =>
    rw [List.foldl_cons]
    split
    · obtain ⟨_, h⟩ := ih (s.setLcore n { s.lcore n with carrier := none })
      exact ⟨_, h⟩
    · exact ih s

theorem moveScratch_frame (s : State) (p q : Nat) (lost : Bool) : ∃ mem upsets, s.moveScratch p q lost = { s with mem := mem, upsets := upsets } := by
  unfold State.moveScratch
  split
  · exact ⟨_, _, rfl⟩
  · exact ⟨_, _, rfl⟩

/-- A move's last writes: the logical core's entry, and the new carrier when it is another core. -/
theorem setMoved_spec (s : State) (l p q : Nat) (x y : Core) (z : LCore) : (((s.setCore q x).setCore p y).setLcore l z).lcore l = z ∧
    (p ≠ q → (((s.setCore q x).setCore p y).setLcore l z).core q = x) :=
  ⟨State.lcore_setLcore .., fun h => (State.core_setCore_ne _ _ h.symm).trans (State.core_setCore ..)⟩

/-- What a move leaves: the logical core's carrier, the new carrier's number and state, and all but memory, the cores and the log. -/
theorem moveCore_spec (s : State) (l p q : Nat) (lost : Bool) : ((s.moveCore l p q lost).lcore l).carrier = some q ∧
    (p ≠ q → ((s.moveCore l p q lost).core q).srGet 0x036 = BitVec.ofNat 32 l ∧ ((s.moveCore l p q lost).core q).run = .idle) ∧
    (s.moveCore l p q lost).repair = s.repair ∧ (s.moveCore l p q lost).ro = s.ro := by
  obtain ⟨mem, upsets, hm⟩ := moveScratch_frame s p q lost
  obtain ⟨ls, hl⟩ := freeCarrier_frame q (natRange 0 64) (s.moveScratch p q lost)
  unfold State.moveCore
  dsimp only
  have hrepair := congrArg State.repair (hl.trans (by rw [hm]))
  have hro := congrArg State.ro (hl.trans (by rw [hm]))
  generalize List.foldl _ (s.moveScratch p q lost) (natRange 0 64) = u at hrepair hro ⊢
  split
  all_goals
    obtain ⟨hlc, hcore⟩ := setMoved_spec u l p q _ _ _
    refine ⟨congrArg LCore.carrier hlc, fun h => ⟨?_, congrArg Core.run (hcore h)⟩, hrepair, hro⟩
    exact (congrArg (fun k => k.srGet 0x036) (hcore h)).trans (Core.srGet_srSet ..)

/-- The images that are copied again reach memory alone. -/
theorem replaceScratch_poured (s : State) (l : Nat) : Poured s (s.replaceScratch l) := by
  have hall (ts : List TaskEnt) (s : State) : Poured s (ts.foldl (fun a t =>
      let d := a.imageDom t.image
      if imgPlace d = 0 then
        match (a.lcore l).carrier with
        | some c => a.poke (scratchBase + scratchSize * c + imgLoad d) (d.drop 32)
        | none => a
      else a) s) := by
    induction ts generalizing s with
    | nil => exact .refl s
    | cons t ts ih =>
      refine Poured.trans ?_ (ih _)
      dsimp only
      split
      · split
        · exact poke_poured ..
        · exact .refl s
      · exact .refl s
  unfold State.replaceScratch
  split
  · exact .refl s
  · exact hall _ s

theorem replaceScratch_lcore (s : State) (l m : Nat) : (s.replaceScratch l).lcore m = s.lcore m := by
  obtain ⟨_, _, _, _, _, h⟩ := replaceScratch_poured s l
  rw [h]
  rfl

theorem lcore_setCore_setLcore (s : State) (l q : Nat) (x : LCore) (k : Core) : ((s.setLcore l x).setCore q k).lcore l = x :=
  Tab.get_insert_self ..

theorem retireCore_lcore (s : State) (p cause l : Nat) : (s.retireCore p cause).lcore l = s.lcore l := by
  rw [State.lcore, State.lcore, retireCore_lcores]

section
variable {s : State} {l : Nat}

/-- R535: a logical core whose carrier faulted moves onto the spare. -/
theorem faultReplace_moved {p q : Nat} (hp : (s.lcore l).carrier = some p) (hq : s.spareFor (s.lcore l).home = some q) :
    ((s.faultReplace l).lcore l).carrier = some q := by
  have hm := (moveCore_spec s l p q (s.core p).scratchLost).1
  unfold State.faultReplace
  simp only [hp, hq]
  generalize hX : State.logEvent _ _ _ _ = X
  have hcar : (X.lcore l).carrier = some q := by
    subst hX
    split
    · exact (congrArg LCore.carrier (replaceScratch_lcore _ l l)).trans hm
    · exact hm
  split
  · exact (congrArg LCore.carrier (retireCore_lcore ..)).trans hcar
  · exact hcar

/-- R537: with no spare it has no carrier. -/
theorem faultReplace_none {p : Nat} (hp : (s.lcore l).carrier = some p) (hq : s.spareFor (s.lcore l).home = none) :
    ((s.faultReplace l).lcore l).carrier = none := by
  unfold State.faultReplace
  simp only [hp, hq]
  split
  · exact (congrArg LCore.carrier (retireCore_lcore ..)).trans (congrArg LCore.carrier (State.lcore_setLcore ..))
  · exact congrArg LCore.carrier (State.lcore_setLcore ..)

/-- R537: one without a carrier takes the spare. -/
theorem faultReplace_taken {q : Nat} (hp : (s.lcore l).carrier = none) (hq : s.spareFor (s.lcore l).home = some q) :
    ((s.faultReplace l).lcore l).carrier = some q := by
  unfold State.faultReplace
  simp only [hp, hq]
  generalize hX : State.replaceScratch _ l = X
  have hcar : (X.lcore l).carrier = some q := by
    rw [← hX, replaceScratch_lcore, lcore_setCore_setLcore]
  split
  · exact hcar
  · exact hcar

theorem execFaultReplacement_eq {l : LogId} (hr : s.timer.running = true) (hf : s.failing = false) (hn : s.firstNeed l = true)
    (h : (s.lcore l).carrier.isSome ∨ (s.spareFor (s.lcore l).home).isSome) : execFaultReplacement l s = .next (s.faultReplace l) :=
  if_pos ⟨hr, by simp [hf], hn, h⟩

end

/-- The core that a rotation moves is one that the section in force uses. -/
theorem oldestIn_lt {s : State} {cl l : Nat} (h : s.oldestIn cl = some l) : l < s.nl := by
  have hfold (f : Nat → Nat) (ls : List Nat) (b : Option Nat) (h : ls.foldl (fun best l => match best with
      | none => some l
      | some b => if f l < f b then some l else some b) b = some l) : l ∈ ls ∨ b = some l := by
    induction ls generalizing b with
    | nil => exact .inr h
    | cons x ls ih =>
      rcases ih _ h with h | h
      · exact .inl (List.mem_cons_of_mem _ h)
      · dsimp only at h
        split at h
        · exact .inl (List.mem_cons.mpr (.inl (Option.some.inj h).symm))
        · split at h
          · exact .inl (List.mem_cons.mpr (.inl (Option.some.inj h).symm))
          · exact .inr h
  rcases hfold _ _ none h with h | h
  · have hl := mem_natRange.mp (List.mem_filter.mp h).1
    omega
  · exact nomatch h

/-- A spare carries no logical core that the section in force uses. -/
theorem sparesOf_carrier_ne {s : State} {cl q l : Nat} (h : q ∈ s.sparesOf cl) (hl : l < s.nl) : (s.lcore l).carrier ≠ some q := by
  have hready := (List.mem_filter.mp h).2
  simp only [State.spareReady, Bool.and_eq_true, Option.isNone_iff_eq_none] at hready
  simpa using List.find?_eq_none.mp hready.2 l (mem_natRange.mpr (by omega))

/-- A counter that is no DRAM capacity leaves every byte. -/
theorem count_byte (s : State) (key n bits : Nat) (h0 : okey 0x0A30 3 ≠ key) (h1 : okey 0x0A31 3 ≠ key) (a : Nat) : (s.count key n bits).byte a = s.byte a := by
  have hcap : (s.count key n bits).dramCap = s.dramCap := by
    rw [State.dramCap, State.roGet_count_ne _ _ _ h0, State.roGet_count_ne _ _ _ h1, State.dramCap]
  simp only [State.byte, State.plain, State.keyArea, hcap]
  rfl

/-- R534: the self-test of a core that carries nothing and is not retired ends. -/
theorem selfTest_eq {s : State} {p : CoreId} (hf : s.failing = false) (hst : (s.core p).state = .underTest ∨ (s.core p).state = .held)
    (hup : s.barista.stage = .up) (hcar : ∀ l, l < 64 → (s.lcore l).carrier ≠ some p.val) (hret : s.repair.retired.contains p.val = false) (pass : Bool) :
    execCoreSelfTest p pass s = if pass then .next ((s.moveScratch p p true).setCore p { s.core p with
      state := .ready, faulted := false, scratchLost := false, lastPass := s.timer.frame, parityHold := none, run := .held })
    else .next (s.retireCore p 1) := by
  refine if_neg ?_
  rintro (h | h | h | h | h)
  · exact absurd h (by simp [hf])
  · exact h hst
  · obtain ⟨l, hl, hc⟩ := List.any_eq_true.mp h
    exact hcar l (by have := mem_natRange.mp hl; omega) (eq_of_beq hc)
  · exact Bool.false_ne_true (hret.symm.trans h)
  · exact h hup

/-- Settles O48: a move through `moveCore_spec`, a retirement through `retireCore_isRetired`, a repaired row through `recordFuse_burned`. -/
theorem coresMove : Obligations.CoresMove := by
  intro s
  refine ⟨fun cl l q p rest hr hf hd hn hcl hl hs hp => ?rotation, fun l hr hf hn => ⟨fun p q hp hq => ?moved, fun p hp hq => ?lost, fun q hp hq => ?taken⟩,
    fun p hf hst hup hcar hret => ⟨?passed, ?failed⟩, fun kind unit => ⟨fun n hnm hb hrp hfree => ?starts, fun r hfind => ?ends⟩⟩
  case rotation =>
    have hne : p ≠ q := fun h => sparesOf_carrier_ne (hs ▸ List.mem_cons_self) (oldestIn_lt hl) (h ▸ hp)
    let u : State := { s with repair := { s.repair with rotateDue := false } }
    obtain ⟨hc, hcore, hrep, hro⟩ := moveCore_spec u l p q false
    have he : execRotation s = .next ((State.count ({ u.moveCore l p q false with
        repair := { (u.moveCore l p q false).repair with lastCluster := cl } } : State) (okey 0x1200 6) 1).logEvent 0x0A01 0
          [BitVec.ofNat 8 l, BitVec.ofNat 8 p, BitVec.ofNat 8 q]) := by
      rw [execRotation, if_neg (by simp [hr, hf, hd, hn])]
      simp only [show u.rotCluster = some cl from hcl, show u.oldestIn cl = some l from hl, show u.sparesOf cl = q :: rest from hs,
        show (u.lcore l).carrier = some p from hp, u]
    refine ⟨_, he, hc, (hcore hne).1, (hcore hne).2, rfl, congrArg (fun x => x.rotateDue) hrep, ?_⟩
    rw [State.roGet_logEvent, State.roGet_count]
    exact congrArg (fun r => (Tab.get 0 r (okey 0x1200 6) + 1) % 2 ^ 64) hro
  case moved => exact ⟨_, execFaultReplacement_eq hr hf hn (.inl (by rw [hp]; rfl)), faultReplace_moved hp hq⟩
  case lost => exact ⟨_, execFaultReplacement_eq hr hf hn (.inl (by rw [hp]; rfl)), faultReplace_none hp hq⟩
  case taken => exact ⟨_, execFaultReplacement_eq hr hf hn (.inr (by rw [hq]; rfl)), faultReplace_taken hp hq⟩
  case passed => exact ⟨_, (selfTest_eq hf hst hup hcar hret true).trans (if_pos rfl), congrArg Core.state (State.core_setCore ..),
    congrArg Core.faulted (State.core_setCore ..), congrArg Core.lastPass (State.core_setCore ..)⟩
  case failed => exact ⟨_, (selfTest_eq hf hst hup hcar hret false).trans (if_neg Bool.false_ne_true),
    retireCore_isRetired 1 (by simpa using hret)⟩
  case starts =>
    refine (if_neg (by simp [hnm, hb, hrp])).trans ?_
    simp only [hfree]
  case ends =>
    obtain ⟨u, hu⟩ : ∃ u : State, u = { s with
        repair := { s.repair with
          rows := s.repair.rows.map fun (x : RowRepair) => if x = r then { x with done := true } else x
          rowHits := Tab.erase (kind.toNat * 2 ^ 15 + unit.toNat) s.repair.rowHits }
        upsets := s.upsets.filter fun x => !(decide (x.2 = Upset.correctable) && decide (rowBase kind.toNat unit.toNat ≤ x.1) &&
          decide (x.1 < rowBase kind.toNat unit.toNat + 2048)) } := ⟨_, rfl⟩
    obtain ⟨f, lg, n, hburn⟩ := recordFuse_burned u kind.toNat r.spare unit.toNat
    have he : execSramRowRepairComplete kind unit s = .next (((u.recordFuse kind.toNat r.spare unit.toNat).count (okey 0x1203 4) 1 16).logEvent 0x0A06 1
        ([BitVec.ofNat 8 kind.toNat, BitVec.ofNat 8 r.spare] ++ leBytes 2 unit.toNat)) := by
      rw [execSramRowRepairComplete]
      simp only [hfind, hu]
    rw [hburn] at he
    refine ⟨_, he, ?_, ?_, fun a => ?_⟩
    · subst hu
      exact List.mem_map.mpr ⟨r, List.mem_of_find?_eq_some hfind, if_pos rfl⟩
    · subst hu
      exact State.roGet_count ..
    · subst hu
      exact count_byte _ _ _ _ (by decide) (by decide) a

end Sys2Proof.Machine
end

section
/-!
PROOF. What the ports do with frames, messages and link changes (R84 to R87, R90, R98, R103 to R109, R119, R228, R485, R486).
-/

namespace Sys2Proof.Machine

-- ---------------------------------------------------------------- a partner's source

/-- A partner that is heard is open, on the port where it was heard. -/
theorem heard_open (p : Partner) (d : Datagram) : (p.heard d).isOpen = true ∧ (p.heard d).lastPort = d.port := by
  have hbits (st : Byte) : ∀ q : PortId, ((st &&& 0xF8#8) ||| BitVec.ofNat 8 (q.val + 4)).getLsbD 2 = true ∧
      (((st &&& 0xF8#8) ||| BitVec.ofNat 8 (q.val + 4)).extractLsb' 0 2).toNat = q.val := by
    intro ⟨q, hq⟩
    rw [BitVec.extractLsb'_or, BitVec.extractLsb'_and, BitVec.getLsbD_or]
    obtain rfl | rfl | rfl | rfl : q = 0 ∨ q = 1 ∨ q = 2 ∨ q = 3 := by omega
    all_goals simp
  exact hbits p.status d.port

-- ---------------------------------------------------------------- an acknowledgement

/-- What an acknowledgement leaves of its partner's entry, of the records and of the counters. -/
theorem sendAck_keeps (s : State) (port level n drop : Nat) : ((s.sendAck port level n drop).partner n).e = (s.partner n).e ∧
    ((s.sendAck port level n drop).partner n).status = (s.partner n).status ∧ ((s.sendAck port level n drop).partner n).mac = (s.partner n).mac ∧
    (s.sendAck port level n drop).adm.recs = s.adm.recs ∧ (s.sendAck port level n drop).adm.count = s.adm.count ∧
    (s.sendAck port level n drop).perc = s.perc ∧ (s.sendAck port level n drop).ro = s.ro := by
  unfold State.sendAck
  split
  · exact ⟨rfl, rfl, rfl, rfl, rfl, rfl, rfl⟩
  · exact ⟨(congrArg Partner.e (Tab.get_put_self ..)).trans rfl, (congrArg Partner.status (Tab.get_put_self ..)).trans rfl,
      (congrArg Partner.mac (Tab.get_put_self ..)).trans rfl, rfl, rfl, rfl, rfl⟩

-- ---------------------------------------------------------------- a record that passes

theorem pokeRec_poured (s : State) (r : Rec) (l : List Byte) : Poured s (s.pokeRec r l) := by
  have hcells (f : Nat) : ∀ (s : State) (i : Nat) (l : List Byte), Poured s (s.pokeCells r f i l) := by
    induction f with
    | zero => exact fun s _ _ => .refl s
    | succ f ih =>
      intro s i l
      rw [State.pokeCells]
      split
      · exact .refl s
      · exact (poke_poured ..).trans (ih ..)
  exact hcells _ s 0 l

theorem pokeRec_perc (s : State) (r : Rec) (l : List Byte) : (s.pokeRec r l).perc = s.perc := by
  obtain ⟨_, _, _, _, _, h⟩ := pokeRec_poured s r l
  rw [h]

theorem pokeRec_roGet (s : State) (r : Rec) (l : List Byte) (k : Nat) : (s.pokeRec r l).roGet k = s.roGet k := by
  obtain ⟨_, _, _, _, _, h⟩ := pokeRec_poured s r l
  rw [h]
  rfl

/-- A break in the alive counter is counted and logged, before the record is booked. -/
theorem admitGap_keeps (s : State) (d : Datagram) (dist : Nat) (l : List Byte) :
    let t := if dist = 0 then s else (s.count (dropKey d.port 0x23) 1).logEvent 0x0201 0 l
    t.adm = s.adm ∧ t.perc = s.perc ∧ t.roGet (dropKey d.port 0x20) = s.roGet (dropKey d.port 0x20) := by
  intro t
  by_cases h : dist = 0
  · rw [show t = s from if_pos h]
    exact ⟨rfl, rfl, rfl⟩
  · rw [show t = _ from if_neg h]
    exact ⟨rfl, rfl, State.roGet_count_ne _ _ _ (by simp [dropKey, okey])⟩

/-- A record's place in the books of admission: its arena, its partner's entry `p`, the records, the budgets and the counters (R106, R107). -/
def State.book (s : State) (port : Nat) (m : VrtMsg) (e : ClassEnt) (a : Arena) (p : Partner) (r : Rec) : State :=
  let n := cellsOf (32 + m.len)
  let s := (s.setArena (a.take n)).setPartner m.partner p
  let s := { s with
    adm := { (s.adm.addAlloc e.dram n) with
      recs := s.adm.recs ++ [r], nextRec := s.adm.nextRec + 1
      bytes := Tab.put 0 m.cls (Tab.get 0 s.adm.bytes m.cls + 32 + m.len) s.adm.bytes
      count := Tab.put 0 m.cls (Tab.get 0 s.adm.count m.cls + 1) s.adm.count }
    perc := { s.perc with dirty := s.perc.dirty + 64 * n, curRecs := r.id :: s.perc.curRecs }
    plans := { s.plans with lastAdmit := Tab.insert m.cls (s.timer.frame + 1) s.plans.lastAdmit } }
  (((s.count (okey (0x0840 + m.cls) 1) 1).count (okey (0x0840 + m.cls) 2) (32 + m.len)).count (dropKey port 0x20) 1).count (dropKey port 0x21) (32 + m.len)

theorem addAlloc_partners (x : Admission) (dram : Bool) (n : Nat) : (x.addAlloc dram n).partners = x.partners := by
  unfold Admission.addAlloc
  split <;> rfl

section
variable (s : State) (port : PortId) (m : VrtMsg) (e : ClassEnt) (a : Arena) (p : Partner) (r : Rec)

theorem book_partner : (s.book port m e a p r).partner m.partner = p := by
  refine Eq.trans ?_ (State.partner_setPartner (s.setArena (a.take (cellsOf (32 + m.len)))) m.partner p)
  exact congrArg (fun t => Tab.get Partner.zero t m.partner) (addAlloc_partners _ _ _)

theorem book_count : Tab.get 0 (s.book port m e a p r).adm.count m.cls = Tab.get 0 s.adm.count m.cls + 1 :=
  Tab.get_put_self 0 m.cls (Tab.get 0 s.adm.count m.cls + 1) s.adm.count

theorem book_roGet : (s.book port m e a p r).roGet (dropKey port 0x20) = (s.roGet (dropKey port 0x20) + 1) % 2 ^ 64 := by
  have hcls (sub : Nat) (h : sub < 3) : dropKey port 0x20 ≠ okey (0x0840 + m.cls) sub := by
    have := port.isLt
    simp only [dropKey, okey]
    omega
  unfold State.book
  dsimp only
  rw [State.roGet_count_ne _ _ _ (by simp [dropKey, okey]), State.roGet_count, State.roGet_count_ne _ _ _ (hcls 2 (by omega)),
    State.roGet_count_ne _ _ _ (hcls 1 (by omega))]
  rfl

end

/-- What an admitted record leaves: the record at the end of the list, its partner's entry, its books and its counter. -/
theorem admitRecord_spec (s : State) (d : Datagram) (m : VrtMsg) (e : ClassEnt) (a : Arena) : ∃ r,
    (s.admitRecord d m e a).adm.recs = s.adm.recs ++ [r] ∧ r.partner = m.partner ∧ r.cls = m.cls ∧ r.alive = m.alive ∧
    r.frame = s.timer.frame ∧ r.cells = cellsOf (32 + m.len) ∧ r.bytes = 32 + m.len ∧
    (s.admitRecord d m e a).perc.dirty = s.perc.dirty + 64 * r.cells ∧ ((s.admitRecord d m e a).partner m.partner).e = m.alive + 1 ∧
    Tab.get 0 (s.admitRecord d m e a).adm.count m.cls = Tab.get 0 s.adm.count m.cls + 1 ∧
    (s.admitRecord d m e a).roGet (dropKey d.port 0x20) = (s.roGet (dropKey d.port 0x20) + 1) % 2 ^ 64 := by
  obtain ⟨hadm, hperc, hro⟩ := admitGap_keeps s d (aliveDist (s.partner m.partner) m)
    (leBytes 4 m.partner ++ [(s.partner m.partner).e, BitVec.ofNat 8 (aliveDist (s.partner m.partner) m)])
  let r : Rec := {
    id := s.adm.nextRec, partner := m.partner, cls := m.cls, alive := m.alive, frame := s.timer.frame, base := a.base, ring := a.cells, pos := a.pos
    cells := cellsOf (32 + m.len), bytes := 32 + m.len, dram := e.dram, derived := none, copied := true, src := 0, horizon := e.d, taken := false
    again := none, data := [], durable := none, order := none }
  have he : s.admitRecord d m e a = (State.book (if aliveDist (s.partner m.partner) m = 0 then s else _) d.port m e a
      (((s.partner m.partner).admits e.dram (cellsOf (32 + m.len)) m.alive).heard d) r).pokeRec r
      (s.admittedBytes m (aliveDist (s.partner m.partner) m != 0)) := rfl
  generalize (if aliveDist (s.partner m.partner) m = 0 then s else _) = u at hadm hperc hro he
  refine ⟨r, ?_, rfl, rfl, rfl, rfl, rfl, rfl, ?_, ?_, ?_, ?_⟩
  · rw [he, pokeRec_adm, ← hadm]
    unfold State.book Admission.addAlloc
    dsimp only
    rfl
  · rw [he, pokeRec_perc, ← hperc]
    rfl
  · rw [he, State.partner, pokeRec_adm, ← State.partner, book_partner, Partner.heard, Partner.admits]
    split <;> rfl
  · rw [he, pokeRec_adm, book_count, hadm]
  · rw [he, pokeRec_roGet, book_roGet, hro]

end Sys2Proof.Machine
end

section
/-!
PROOF. Replies leave with what their checks leave, and the traffic of the ports (R229 to R240).
-/

namespace Sys2Proof.Machine

-- ---------------------------------------------------------------- what the checks of a reply keep

/-- Nothing has left a port and the epoch is the same. -/
def Quiet (s t : State) : Prop := t.out = s.out ∧ t.adm.epoch = s.adm.epoch

theorem Quiet.refl (s : State) : Quiet s s := ⟨rfl, rfl⟩

theorem Quiet.trans {s t u : State} (h : Quiet s t) (g : Quiet t u) : Quiet s u := ⟨g.1.trans h.1, g.2.trans h.2⟩

theorem Poured.quiet {s t : State} (h : Poured s t) : Quiet s t := by
  obtain ⟨_, _, _, _, _, rfl⟩ := h
  exact .refl s

theorem poke_quiet (s : State) (pa : Nat) (l : List Byte) : Quiet s (s.poke pa l) := (poke_poured s pa l).quiet

theorem meetWords_quiet (l : List Nat) (s : State) : Quiet s (s.meetWords l).1 := by
  obtain ⟨_, _, _, _, h⟩ := meetWords_scrubs l s
  rw [h]
  exact .refl s

theorem engineRead_quiet (s : State) (pa n : Nat) : Quiet s (s.engineRead pa n).1 := by
  obtain ⟨_, _, _, _, _, h⟩ := engineRead_frame s pa n
  rw [h]
  exact .refl s

theorem freeKeys_quiet (l : List Nat) (s : State) : Quiet s (s.freeKeys l) := by
  induction l generalizing s with
  | nil => exact .refl s
  | cons p l ih => exact Quiet.trans ⟨rfl, rfl⟩ (ih _)

theorem enginePoke_quiet (s : State) (pa : Nat) (l : List Byte) : Quiet s (s.enginePoke pa l) := by
  unfold State.enginePoke
  dsimp only
  split
  · exact ⟨rfl, rfl⟩
  split
  · exact (poke_quiet ..).trans (freeKeys_quiet ..)
  split
  · exact (meetWords_quiet ..).trans (poke_quiet ..)
  · exact ((meetWords_quiet _ s).trans ⟨rfl, rfl⟩).trans (poke_quiet ..)

theorem tagEvent_quiet (s : State) (point outcome partner admitted : Nat) (tag : DWord) (check : Nat) :
    Quiet s (s.tagEvent point outcome partner admitted tag check) := by
  constructor <;> simp [State.tagEvent]

theorem verifyAt_quiet (s : State) (point : Nat) (l : List Byte) : Quiet s (s.verifyAt point l).1 := by
  unfold State.verifyAt
  dsimp only
  split
  · exact .refl s
  · exact tagEvent_quiet ..

theorem peekCells_quiet (r : Rec) (f i n : Nat) (s : State) : Quiet s (s.peekCells r f i n).1 := by
  induction f generalizing s i n with
  | zero => exact .refl s
  | succ f ih =>
    rw [State.peekCells]
    split
    · exact .refl s
    · dsimp only
      split
      · exact ((meetWords_quiet _ s).trans ⟨rfl, rfl⟩).trans (ih ..)
      · exact (meetWords_quiet _ s).trans (ih ..)

theorem peekRec_quiet (s : State) (r : Rec) : Quiet s (s.peekRec r).1 := peekCells_quiet ..

theorem judgeHeld_quiet (s : State) (point : Nat) (r : Rec) : Quiet s (s.judgeHeld point r).1 := by
  have hp := peekRec_quiet s r
  unfold State.judgeHeld
  dsimp only
  split
  · refine Quiet.trans ?_ (poke_quiet ..)
    split
    · exact hp
    · exact hp.trans (tagEvent_quiet ..)
  · have hv := hp.trans (verifyAt_quiet _ point (s.peekRec r).2.2)
    split
    · exact hv
    · exact hv.trans ((poke_quiet ..).trans (poke_quiet ..))

theorem judgeAgain_quiet (s : State) (point : Nat) (r : Rec) : Quiet s (s.judgeAgain point r).1 := by
  have hv := verifyAt_quiet s point r.data
  unfold State.judgeAgain
  dsimp only
  split
  · exact hv
  · have hr : Quiet s ((s.verifyAt point r.data).1.setRecord { r with data := (s.verifyAt point r.data).2.2 }) := hv.trans ⟨rfl, rfl⟩
    split
    · exact hr.trans ((poke_quiet ..).trans (poke_quiet ..))
    · exact hr

theorem recordItems_quiet (l : List Found) (s : State) : Quiet s (s.recordItems l).1 := by
  induction l generalizing s with
  | nil => exact .refl s
  | cons x l ih =>
    rw [State.recordItems]
    split
    · refine Quiet.trans ?_ (ih _)
      split
      · exact judgeHeld_quiet ..
      · exact judgeAgain_quiet ..
    · split
      · exact ih s
      · exact (verifyAt_quiet ..).trans (ih _)

theorem imageBlock_quiet (s : State) (i : BootImage) (b : Nat) : Quiet s (s.imageBlock i b).1 := by
  unfold State.imageBlock
  split
  · exact engineRead_quiet ..
  · exact .refl s

theorem cacheLoad_quiet (s : State) (num ver b : Nat) (tag : DWord) (l : List Byte) : Quiet s (s.cacheLoad num ver b tag l) := by
  unfold State.cacheLoad
  split
  · exact .refl s
  split
  · exact .refl s
  · exact (enginePoke_quiet s _ l).trans ⟨rfl, rfl⟩

theorem retagCached_quiet (s : State) (num ver b : Nat) (tag : DWord) : Quiet s (s.retagCached num ver b tag) := ⟨rfl, rfl⟩

theorem imageItems_quiet (i : BootImage) (l : List Nat) (s : State) : Quiet s (s.imageItems i l).1 := by
  induction l generalizing s with
  | nil => exact .refl s
  | cons b l ih =>
    have hb := imageBlock_quiet s i b
    rw [State.imageItems]
    dsimp only
    split
    · split
      · exact hb.trans (tagEvent_quiet ..)
      · exact hb
    split
    · exact hb.trans (tagEvent_quiet ..)
    · refine Quiet.trans (Quiet.trans ?_ (cacheLoad_quiet ..)) (ih _)
      split
      · exact (hb.trans (tagEvent_quiet ..)).trans (retagCached_quiet ..)
      · exact hb

theorem bufferLost_quiet (s : State) (pa : Nat) (l : List Byte) : Quiet s (s.bufferLost pa l).1 := by
  unfold State.bufferLost
  refine Quiet.trans ?_ (poke_quiet ..)
  split
  · exact .refl s
  · exact tagEvent_quiet ..

theorem bufferItem_quiet (s : State) (pa : Nat) : Quiet s (s.bufferItem pa).1 := by
  have hh := engineRead_quiet s pa 32
  unfold State.bufferItem
  dsimp only
  split
  · exact hh.trans (bufferLost_quiet ..)
  split
  · exact hh
  have hr := hh.trans (engineRead_quiet _ pa (32 + leField (s.engineRead pa 32).2 14 2))
  split
  · exact hr.trans (bufferLost_quiet ..)
  · have hv := hr.trans (verifyAt_quiet _ 3 ((s.engineRead pa 32).1.engineRead pa (32 + leField (s.engineRead pa 32).2 14 2)).2)
    split
    · exact hv
    · exact hv.trans ((enginePoke_quiet ..).trans (enginePoke_quiet ..))

theorem replyTo_quiet (s : State) (q : Request) : Quiet s (s.replyTo q).1 := by
  unfold State.replyTo
  split
  · exact .refl s
  split
  · exact recordItems_quiet ..
  · split
    · exact .refl s
    · dsimp only
      split
      · exact ⟨rfl, rfl⟩
      · exact Quiet.trans ⟨rfl, rfl⟩ (bufferItem_quiet ..)
  · split
    · exact .refl s
    · exact imageItems_quiet ..

-- ---------------------------------------------------------------- a reply leaves

theorem touchCache_egress (s : State) (q : Request) : ∃ c, s.touchCache q = { s with egress := { s.egress with cache := c } } := by
  unfold State.touchCache
  split
  · split
    · exact ⟨_, rfl⟩
    · exact ⟨_, rfl⟩
  · exact ⟨_, rfl⟩

/-- What a reply that leaves sends, and that its last one ends its request. -/
theorem sendReply_spec (s : State) (q : Request) (need : List FlashRef) (r : Reply) :
    (s.sendReply q need r).out = s.out ++ [.vrt q.port q.partner (s.outAddr (s.partner q.partner)) (r.message q s.adm.epoch)] ∧
    (r.last = true → ∀ x ∈ (s.sendReply q need r).egress.reqs, x.order ≠ q.order) := by
  unfold State.sendReply
  dsimp only
  generalize hu : State.touchCache _ q = u
  obtain ⟨c, hc⟩ := touchCache_egress _ q
  rw [hc] at hu
  subst hu
  refine ⟨rfl, fun hl x hx => ?_⟩
  have hx : x ∈ s.egress.reqs.filter fun x => x.order != q.order := by
    have h : x ∈ (if r.last = true then s.egress.reqs.filter fun x => x.order != q.order else s.egress.reqs) := hx
    rwa [if_pos hl] at h
  exact bne_iff_ne.mp (List.mem_filter.mp hx).2

section
variable {s : State} {port : PortId} {cls : Fin 64} {e : ClassEnt} {q : Request} (ho : s.portOpen port = true) (ha : s.acksStop = false)
  (he : s.entryOf cls = some e) (hb : natBit e.egress port = true) (hq : (s.liveSubs cls).nextReply port cls = some q)
include ho ha he hb hq

/-- The reply that is visited next leaves, or is counted as deferred. -/
theorem replyTransmit_eq : execReplyTransmit port cls s =
    if e.eb < Tab.get 0 (s.liveSubs cls).egress.sentBytes (64 * port.val + cls.val) +
        (((s.liveSubs cls).replyTo q).2.message q (s.liveSubs cls).adm.epoch).length ∨
      e.ed < Tab.get 0 (s.liveSubs cls).egress.sentCount (64 * port.val + cls.val) + 1 then
      .next ((s.liveSubs cls).count (okey (0x0E60 + port.val) 4) 1)
    else .next (((s.liveSubs cls).replyTo q).1.sendReply q ((s.liveSubs cls).replyRefs q) ((s.liveSubs cls).replyTo q).2) := by
  rw [execReplyTransmit]
  simp only [he]
  rw [if_neg (by simp [ho, ha, hb])]
  split
  next q' h =>
    obtain rfl := Option.some.inj (h.symm.trans hq)
    rfl
  next h => exact nomatch h.symm.trans hq

end

-- ---------------------------------------------------------------- datagrams

section
variable {s : State} {d : Datagram} (ho : s.portOpen d.port = true)
include ho

theorem vrtDatagram_oversize (h : 9216 < d.size) : execVrtDatagram d s = .next (s.count (dropKey d.port 0x22) 1) := by
  rw [execVrtDatagram, if_neg (not_not_intro ho), if_pos h]
  rfl

variable (hz : d.size ≤ 9216)
include hz

theorem vrtDatagram_frameCode {code : Nat} (h : s.frameCode d = some code) : execVrtDatagram d s = .next (s.count (dropKey d.port code) 1) := by
  rw [execVrtDatagram, if_neg (not_not_intro ho), if_neg (Nat.not_lt.mpr hz)]
  simp only [h]
  rfl

variable (hf : s.frameCode d = none)
include hf

theorem vrtDatagram_malformed (h : wellFormedDg d.data = none) : execVrtDatagram d s = .next (s.count (dropKey d.port 0x05) 1) := by
  rw [execVrtDatagram, if_neg (not_not_intro ho), if_neg (Nat.not_lt.mpr hz)]
  simp only [hf, h]
  rfl

/-- A well-formed datagram with no reserved field set is taken. -/
theorem vrtDatagram_taken {k : DgKind} {m : VrtMsg} {r : List VrtMsg} (h : wellFormedDg d.data = some (k, m :: r))
    (hr : (m :: r).any msgReserved = false) : execVrtDatagram d s = .next (s.takeDatagram d k m r) := by
  rw [execVrtDatagram, if_neg (not_not_intro ho), if_neg (Nat.not_lt.mpr hz)]
  simp only [hf, h]
  exact if_neg fun hc => Bool.false_ne_true (hr.symm.trans hc.1)

end

theorem any_msgReserved_single {m : VrtMsg} (h : msgReserved m = false) : [m].any msgReserved = false := by
  rw [List.any_cons, h]
  rfl

/-- One record that passes every check is admitted, and its acknowledgement leaves what admission wrote. -/
theorem takeRecords_single {s : State} {d : Datagram} {m : VrtMsg} {e : ClassEnt} {a : Arena} (hc : s.recordCode d.port m false = none)
    (he : s.entryOf m.cls = some e) (ha : s.arena (.cls m.cls) = some a) (n : Nat) :
    s.takeRecords d n [m] = (if (s.policy m.cls).ack == 0 then (s.admitRecord d m e a).sendAck d.port 1 n 0 else s.admitRecord d m e a) := by
  rw [State.takeRecords, List.foldl_cons, List.foldl_nil, State.judgeRec]
  simp only [hc, he, ha, Bool.false_or]

theorem linkState_whole (old : Nat) (up : Bool) (sub : Option (Fin 4)) : linkState old false up sub = if up then 1 else 0 := by
  cases sub <;> rfl

/-- Settles O49: a datagram through `vrtDatagram_taken`, a record through `admitRecord_spec`, a reply through `replyTo_quiet` and `sendReply_spec`. -/
theorem portTraffic : Obligations.PortTraffic := by
  intro s port
  refine ⟨fun d ho => ?datagrams, fun np a ho h0 h => ?arp, fun np a ho h0 h => ?neighbour, fun a b m ho => ⟨fun h => ?arpOther, fun h => ?nsOther, fun hm h3 h4 => ?ptp⟩,
    fun f a b => ⟨fun h => ?arpField, fun h => ?nsField⟩, fun why ho => if_pos ho, fun f why => rfl, fun up sub hup hmd => ?link, fun f up sub ho => ?linkField,
    fun cls e q ho ha he hb hq => ?replies⟩
  case datagrams =>
    intro counted
    refine ⟨vrtDatagram_oversize ho, fun code hz hf => vrtDatagram_frameCode ho hz hf, fun hz hf h => vrtDatagram_malformed ho hz hf h,
      fun k m r code hz hf h hr hc h8 => ?coded, fun m e a hz hf h hr hc hrc he ha => ?record, fun m hz hf h hr hc hk hg => ?hello,
      fun m hz hf h hr hc ht hac hroom => ?request⟩
    case coded =>
      have ht := vrtDatagram_taken ho hz hf h hr
      simp only [State.takeDatagram, hc, if_neg h8] at ht
      exact ht
    case record =>
      have ht := vrtDatagram_taken ho hz hf h (any_msgReserved_single hr)
      simp only [State.takeDatagram, hc, takeRecords_single hrc he ha] at ht
      obtain ⟨r, hrecs, h1, h2, h3, h4, h5, h6, hdirty, hpe, hcount, hro⟩ := admitRecord_spec s d m e a
      refine ⟨_, r, ht, ?_⟩
      split
      · obtain ⟨ke, -, -, krecs, kcount, kperc, kro⟩ := sendAck_keeps (s.admitRecord d m e a) d.port 1 m.partner 0
        refine ⟨krecs.trans hrecs, h1, h2, h3, h4, h5, h6, ?_, ke.trans hpe, ?_, ?_⟩
        · rw [kperc, hdirty]
        · rw [kcount, hcount]
        · rw [State.roGet, kro]
          exact hro
      · exact ⟨hrecs, h1, h2, h3, h4, h5, h6, hdirty, hpe, hcount, hro⟩
    case hello =>
      have ht := vrtDatagram_taken ho hz hf h (any_msgReserved_single hr)
      simp only [State.takeDatagram, hc, State.takeHello] at ht
      rw [if_neg fun hx => hx.2.2 (hg hx.2.1), if_neg (not_not_intro hk)] at ht
      obtain ⟨-, kst, kmac, krecs, -, -, -⟩ := sendAck_keeps (s.setPartner m.partner ((s.partner m.partner).heard d)) d.port 3 m.partner 0
      rw [State.partner_setPartner] at kst kmac
      obtain ⟨hopen, hport⟩ := heard_open (s.partner m.partner) d
      refine ⟨_, ht, ?_, ?_, kmac, krecs⟩
      · rw [Partner.isOpen, kst]
        exact hopen
      · rw [Partner.lastPort, kst]
        exact hport
    case request =>
      have h' := vrtDatagram_taken ho hz hf h (any_msgReserved_single hr)
      simp only [State.takeDatagram, hc, List.foldl_cons, List.foldl_nil, State.takeRequest, hac, ht, if_neg (Nat.not_le.mpr hroom)] at h'
      exact ⟨_, h', rfl⟩
  case arp => exact (if_neg (not_not_intro ho)).trans (if_pos ⟨h0, h⟩)
  case neighbour => exact (if_neg (not_not_intro ho)).trans (if_pos ⟨h0, h⟩)
  case arpOther => exact (if_neg (not_not_intro ho)).trans (if_neg fun hx => h.elim hx.1 fun hn => hn hx.2)
  case nsOther => exact (if_neg (not_not_intro ho)).trans (if_neg fun hx => h.elim hx.1 fun hn => hn hx.2)
  case ptp =>
    have hopen : s.netOpen m.port = true := by rw [hm]; exact ho
    have htaken : ¬ s.ptpTaken m = true := by simp [State.ptpTaken, hm, portOfSource, h3, h4]
    refine (if_neg (not_not_intro hopen)).trans ((if_neg htaken).trans ((if_neg (not_or.mpr ⟨h3, h4⟩)).trans ?_))
    rw [hm]
    rfl
  case arpField =>
    by_cases ho : s.netOpen (.field f) = true
    · exact (if_neg (not_not_intro ho)).trans (if_neg fun hx => h hx.2)
    · exact if_pos ho
  case nsField =>
    by_cases ho : s.netOpen (.field f) = true
    · exact (if_neg (not_not_intro ho)).trans (if_neg fun hx => h hx.2)
    · exact if_pos ho
  case link =>
    refine ⟨_, if_neg (not_or.mpr ⟨not_not_intro hup, hmd⟩), fun h2 h3 => ?_, fun key hk => Tab.get_put_ne _ _ _ hk⟩
    have hsplit : (s.portMode port == 2 || s.portMode port == 3) = false := by simp [h2, h3]
    rw [hsplit, linkState_whole, State.linkUp, State.roGet, State.roSet, Tab.get_put_self]
    cases up <;> rfl
  case linkField => exact ⟨_, if_pos ho, Tab.get_put_self _ _ _ _, fun key hk => Tab.get_put_ne _ _ _ hk⟩
  case replies =>
    intro u r i n
    have ht := replyTransmit_eq ho ha he hb hq
    refine ⟨fun hbytes hcount => ?_, fun h => ht.trans (if_pos h)⟩
    obtain ⟨hout, hepoch⟩ := replyTo_quiet u q
    obtain ⟨hsent, hlast⟩ := sendReply_spec r.1 q (u.replyRefs q) r.2
    refine ⟨_, ht.trans (if_neg (not_or.mpr ⟨Nat.not_lt.mpr hbytes, Nat.not_lt.mpr hcount⟩)), hsent.trans ?_, hlast⟩
    rw [show r.1.out = s.out from hout, show r.1.adm.epoch = u.adm.epoch from hepoch]

end Sys2Proof.Machine
end

section
/-!
PROOF. The media queue: what a timeout leaves when two operations share a number (R218, R220).
-/

namespace Sys2Proof.Machine

/-- A channel with one journal LUN and one bulk LUN. -/
def twinChan : Chan := { Chan.off with sPg := 4096, tXfer := 1000, tCmd := 10, nBlk := 3, pages := 37, pagePages := 74 }

/-- An issued read that nothing waits for. -/
def twinRead : MediaOp := { mkOp .percolator .read 0 0 1010 with id := 8, issued := true }

/-- A program of bulk storage with the read's number. -/
def twinProgram : MediaOp := { mkOp .percolator .program 0 0 1010 with id := 8, area := .bulk }

/-- A queue in which a read and a program of bulk storage share a number, which the next operation takes too. -/
def twinState : State := { State.reset with
  media := { State.reset.media with
    present := true
    chans := (natRange 0 8).map fun n => (n, twinChan)
    luns := (natRange 0 8).map fun n => (32 * n, { Lun.absent with role := 2, state := 1, blocks := 3 })
    queue := [twinRead, twinProgram], nextOp := 8 } }

/-- The timeout writes the program again under the shared number. -/
theorem twinState_timeout : (match exec (.mediaOpTimeout 8) twinState with
    | .next t => t.media.queue.any fun x => x.id == 8
    | _ => false) = true := by decide +kernel

/-- Refutes O50: an arbitrary queue may hold two operations of one number. The timeout of the read then ends both, the program of bulk storage is
written again, and the new operation takes that number, so that an operation of the read's number stays in the queue. -/
theorem not_mediaQueue : ¬ Obligations.MediaQueue := by
  intro h
  obtain ⟨-, -, -, htimeout, -⟩ := h twinState
  obtain ⟨t, -, hnext, -, hread, -⟩ := htimeout 8 twinRead (by decide +kernel)
  have hany := twinState_timeout
  rw [hnext rfl] at hany
  obtain ⟨x, hx, hid⟩ := List.any_eq_true.mp hany
  exact hread rfl (by decide +kernel) x hx (eq_of_beq hid)

end Sys2Proof.Machine
end

section
/-!
PROOF. The work of the media keeps memory: program units, their completion, and the Grinder's writes (R153 to R164, R205, R208, R233).
-/

namespace Sys2Proof.Machine

-- ---------------------------------------------------------------- answers

/-- An answer changes the protocol's state and what leaves the device. -/
theorem answer_frame (s : State) (sid : Nat) (req : List Byte) (total res : Nat) (data : List Byte) :
    ∃ z o, s.answer sid req total res data = { s with zdp := z, out := o } := by
  unfold State.answer
  split
  · exact ⟨_, _, rfl⟩
  · exact ⟨_, _, rfl⟩

theorem answerWait_frame (s : State) (kind : PendStore → Bool) (code : Nat) : ∃ z o, s.answerWait kind code = { s with zdp := z, out := o } := by
  unfold State.answerWait
  split
  · exact ⟨_, _, rfl⟩
  next p _ =>
    split
    · exact ⟨_, _, rfl⟩
    · dsimp only
      split
      · exact ⟨_, _, rfl⟩
      · obtain ⟨z, o, h⟩ := answer_frame ({ s with zdp := { s.zdp with store := none } } : State) p.sid p.req (mTotal p.req) code []
        exact ⟨z, o, h⟩

@[simp] theorem answer_mem (s : State) (sid : Nat) (req : List Byte) (total res : Nat) (data : List Byte) : (s.answer sid req total res data).mem = s.mem := by
  obtain ⟨_, _, h⟩ := answer_frame s sid req total res data
  rw [h]

@[simp] theorem answerWait_mem (s : State) (kind : PendStore → Bool) (code : Nat) : (s.answerWait kind code).mem = s.mem := by
  obtain ⟨_, _, h⟩ := answerWait_frame s kind code
  rw [h]

-- ---------------------------------------------------------------- folds over lists

/-- What each step keeps, a fold keeps. -/
theorem foldl_keeps {α β γ : Type} (p : α → γ) (f : α → β → α) (h : ∀ a b, p (f a b) = p a) (l : List β) (a : α) : p (l.foldl f a) = p a := by
  induction l generalizing a with
  | nil => rfl
  | cons b l ih => rw [List.foldl_cons, ih, h]

/-- What both branches give, a choice gives. -/
theorem ite_keeps {α γ : Type} (p : α → γ) {c : Prop} [Decidable c] {a b : α} {x : γ} (ha : p a = x) (hb : p b = x) : p (if c then a else b) = x := by
  split
  · exact ha
  · exact hb

-- ---------------------------------------------------------------- building a unit

@[simp] theorem setGroup_mem (s : State) (g : Nat) (x : Group) : (s.setGroup g x).mem = s.mem := rfl

@[simp] theorem enqueue_mem (s : State) (o : MediaOp) : (s.enqueue o).mem = s.mem := rfl

@[simp] theorem stamp_mem (s : State) (ref : FlashRef) : (s.stamp ref).mem = s.mem := rfl

@[simp] theorem openSegment_mem (s : State) (g place : Nat) : (s.openSegment g place).1.mem = s.mem := rfl

@[simp] theorem buildFixed_mem (g : Nat) (bare : Bool) (n : Nat) : ∀ (s : State) (place : Nat) (bs : List Block) (u : UnitBuild),
    (s.buildFixed g place bare n bs u).1.mem = s.mem := by
  induction n with
  | zero => exact fun _ _ _ _ => rfl
  | succ n ih =>
    intro s place bs u
    unfold State.buildFixed
    split
    · exact (ih ..).trans rfl
    · exact (ih ..).trans rfl

@[simp] theorem closeRow_mem (s : State) (g row : Nat) : (s.closeRow g row).mem = s.mem := by
  unfold State.closeRow
  dsimp only
  split <;> rfl

@[simp] theorem leaveStripe_mem (s : State) (g place : Nat) : (s.leaveStripe g place).mem = s.mem := by
  unfold State.leaveStripe
  dsimp only
  split
  · rfl
  · exact closeRow_mem ..

@[simp] theorem placeUnit_mem (s : State) (g place next : Nat) (l : List Byte) (o : MediaOp) : (s.placeUnit g place next l o).mem = s.mem := by
  unfold State.placeUnit
  exact ite_keeps State.mem ((closeRow_mem ..).trans rfl) rfl

/-- A unit is enqueued with the memory that its building leaves. -/
theorem enqueueBuilt_mem {s : State} {g place : Nat} {build : State → Nat → State × UnitBuild} (h : ∀ t n, (build t n).1.mem = t.mem) :
    (s.enqueueBuilt g place build).mem = s.mem := by
  unfold State.enqueueBuilt
  exact (placeUnit_mem ..).trans ((h ..).trans (leaveStripe_mem ..))

-- ---------------------------------------------------------------- the system area and jobs

@[simp] theorem setJob_mem (s : State) (j : Job) : (s.setJob j).mem = s.mem := rfl

@[simp] theorem dropJob_mem (s : State) (id : Nat) : (s.dropJob id).mem = s.mem := rfl

@[simp] theorem applyJob_mem (s : State) (j : Job) : (s.applyJob j).mem = s.mem := by
  unfold State.applyJob
  dsimp only
  split <;> rfl

@[simp] theorem sysTry_mem (s : State) : s.sysTry.mem = s.mem := by
  unfold State.sysTry
  dsimp only
  split
  · rfl
  split
  · rfl
  · split <;> rfl

@[simp] theorem sysDone_mem (s : State) (g : Nat) : (s.sysDone g).mem = s.mem := by
  unfold State.sysDone
  split
  · rfl
  · refine (sysTry_mem _).trans ?_
    split
    · exact (dropJob_mem ..).trans (applyJob_mem ..)
    · rfl

@[simp] theorem sysFailed_mem (s : State) : s.sysFailed.mem = s.mem := by
  unfold State.sysFailed
  dsimp only
  split <;> rfl

@[simp] theorem jobProgrammed_mem (s : State) (j : Job) : (s.jobProgrammed j).mem = s.mem := sysTry_mem _

@[simp] theorem jobWrote_mem (s : State) (id : Nat) : (s.jobWrote id).mem = s.mem := by
  unfold State.jobWrote
  split
  · rfl
  · split
    · exact jobProgrammed_mem ..
    · rfl

-- ---------------------------------------------------------------- bulk storage and boot images

/-- A unit of bulk storage that is enqueued keeps memory. -/
theorem bulkUnit_mem {s t : State} {iss : Issuer} {job : Option Nat} {bs : List Block} {l : List Nat} (h : s.bulkUnit iss job bs = some (t, l)) :
    t.mem = s.mem := by
  unfold State.bulkUnit at h
  split at h
  · exact nomatch h
  · dsimp only at h
    split at h
    · exact nomatch h
    · have ht := congrArg (fun x : State × List Nat => x.1.mem) (Option.some.inj h)
      refine ht.symm.trans ?_
      dsimp only
      split <;> rfl

@[simp] theorem imageTags_mem (num ver : Nat) (l : List (List Byte)) : ∀ (s : State) (i : Nat), (s.imageTags num ver i l).1.mem = s.mem := by
  induction l with
  | nil => exact fun _ _ => rfl
  | cons b l ih => exact fun s i => ih _ (i + 1)

theorem imageUnit_mem {s t : State} {i j : BootImage} (h : s.imageUnit i = some (t, j)) : t.mem = s.mem := by
  unfold State.imageUnit at h
  dsimp only at h
  split at h
  · exact nomatch h
  next hu =>
    obtain rfl := congrArg Prod.fst (Option.some.inj h)
    exact (imageTags_mem ..).trans (bulkUnit_mem hu)

@[simp] theorem setImage_mem (s : State) (i : BootImage) : (s.setImage i).mem = s.mem := rfl

@[simp] theorem imageFill_mem (n : Nat) : ∀ (s : State) (i : BootImage), (s.imageFill n i).mem = s.mem := by
  induction n with
  | zero => exact fun _ _ => rfl
  | succ n ih =>
    intro s i
    rw [State.imageFill]
    split
    · rfl
    · split
      · rfl
      next hu => exact (ih ..).trans (imageUnit_mem hu)

@[simp] theorem imageOpDone_mem (s : State) (id : Nat) (l : List Nat) : (s.imageOpDone id l).mem = s.mem := by
  unfold State.imageOpDone
  split
  · rfl
  · dsimp only
    split
    · exact (imageFill_mem ..).trans rfl
    · split
      · exact (answerWait_mem ..).trans ((imageFill_mem ..).trans rfl)
      · exact (imageFill_mem ..).trans rfl

-- ---------------------------------------------------------------- what a program leaves

@[simp] theorem bulkDone_mem (s : State) (o : MediaOp) : (s.bulkDone o).mem = s.mem := by
  have hblocks : (if o.parity then
      match o.stripe with
      | some row => ({ s with media := { s.media with bulkParity := (row, o.data) :: s.media.bulkParity.filter fun p => p.1 != row } } : State)
      | none => s
    else { s with media := { s.media with bulkBlocks := o.blocks.reverse ++ s.media.bulkBlocks } }).mem = s.mem := by
    split
    · split <;> rfl
    · rfl
  unfold State.bulkDone
  dsimp only
  split
  · exact (jobWrote_mem ..).trans hblocks
  · exact (imageOpDone_mem ..).trans hblocks

@[simp] theorem parityDone_mem (s : State) (o : MediaOp) : (s.parityDone o).mem = s.mem := by
  unfold State.parityDone
  split <;> rfl

@[simp] theorem lateSwap_mem (s : State) (page : Nat) : (s.lateSwap page).mem = s.mem := by
  unfold State.lateSwap
  dsimp only
  split <;> rfl

@[simp] theorem lineDone_mem (s : State) (frame pa : Nat) : (s.lineDone frame pa).mem = s.mem := by
  unfold State.lineDone
  split
  · exact (lateSwap_mem ..).trans rfl
  · refine (lateSwap_mem ..).trans ?_
    split <;> rfl

@[simp] theorem setBlockDone_mem (s : State) (b : Block) : (s.setBlockDone b).mem = s.mem := by
  unfold State.setBlockDone
  split
  · rfl
  split
  · rfl
  · dsimp only
    split <;> rfl

@[simp] theorem linesDone_mem (s : State) (b : Block) : (s.linesDone b).mem = s.mem := by
  unfold State.linesDone
  split
  · exact foldl_keeps State.mem _ (fun a pa => lineDone_mem a b.setFrame pa) _ s
  · rfl

@[simp] theorem unitDone_mem (s : State) (o : MediaOp) : (s.unitDone o).mem = s.mem := by
  have hblocks := foldl_keeps State.mem (fun a (b : Nat × Block) => a.setBlockDone b.2) (fun a b => setBlockDone_mem a b.2) o.blocks
    (s.setGroup o.group { s.group o.group with blocks := o.blocks.reverse ++ (s.group o.group).blocks })
  have hlines := foldl_keeps State.mem (fun a (b : Nat × Block) => a.linesDone b.2) (fun a b => linesDone_mem a b.2) o.blocks
    (o.blocks.foldl (fun a (b : Nat × Block) => a.setBlockDone b.2)
      (s.setGroup o.group { s.group o.group with blocks := o.blocks.reverse ++ (s.group o.group).blocks }))
  unfold State.unitDone
  dsimp only
  split
  · exact hlines.trans hblocks
  · exact hlines.trans hblocks

@[simp] theorem programDone_mem (s : State) (o : MediaOp) : (s.programDone o).mem = s.mem := by
  unfold State.programDone
  split
  · split
    · exact parityDone_mem ..
    · exact unitDone_mem ..
  · exact bulkDone_mem ..
  · split
    · rfl
    · exact (sysDone_mem ..).trans rfl

-- ---------------------------------------------------------------- the end of a flush

@[simp] theorem programAll_mem (s : State) : s.programAll.mem = s.mem :=
  foldl_keeps State.mem (fun (a : State) (o : MediaOp) => (a.dropOp o.id).programDone o) (fun a o => programDone_mem (a.dropOp o.id) o) _ s

@[simp] theorem writeUnit_mem (s : State) (g : Nat) (bare : Bool) (bs : List Block) : (s.writeUnit g bare bs).mem = s.mem := by
  unfold State.writeUnit
  split
  · rfl
  · exact (programAll_mem _).trans (enqueueBuilt_mem fun t n => buildFixed_mem ..)

@[simp] theorem writeClosing_mem (s : State) (cr : List Byte) : (s.writeClosing cr).mem = s.mem := by
  unfold State.writeClosing
  split
  · rfl
  · exact writeUnit_mem ..

@[simp] theorem closeParity_mem (s : State) (g : Nat) : (s.closeParity g).mem = s.mem := by
  unfold State.closeParity
  dsimp only
  split
  · rfl
  · exact (programAll_mem _).trans (closeRow_mem ..)

@[simp] theorem writeMarker_mem (s : State) (digest : List Byte) (g : Nat) : (s.writeMarker digest g).mem = s.mem := by
  unfold State.writeMarker
  split
  · rfl
  · dsimp only
    split
    · exact writeUnit_mem ..
    · exact (programAll_mem _).trans (enqueueBuilt_mem fun t n => (buildFixed_mem ..).trans rfl)

end Sys2Proof.Machine
end

section
/-!
PROOF. The power-fail sequence, the capacitance test and recovery, step by step (R170, R176 to R191, R513).
-/

namespace Sys2Proof.Machine

-- ---------------------------------------------------------------- tables and domains

/-- A key that a filter by keys keeps reads as before. -/
theorem Tab.get_filter_pos {α : Type} (d : α) (p : Nat → Bool) (t : Tab α) {i : Nat} (h : p i = true) : Tab.get d (t.filter fun c => p c.1) i = Tab.get d t i := by
  induction t with
  | nil => rfl
  | cons e t ih =>
    obtain ⟨k, v⟩ := e
    by_cases hk : i = k
    · subst hk
      simp [Tab.get, h]
    · by_cases hp : p k = true
      · simpa [Tab.get, List.filter_cons, hp, hk] using ih
      · simpa [Tab.get, List.filter_cons, hp, hk] using ih

/-- A key that a filter by keys drops reads the default. -/
theorem Tab.get_filter_neg {α : Type} (d : α) (p : Nat → Bool) (t : Tab α) {i : Nat} (h : p i = false) : Tab.get d (t.filter fun c => p c.1) i = d := by
  induction t with
  | nil => rfl
  | cons e t ih =>
    obtain ⟨k, v⟩ := e
    by_cases hk : i = k
    · subst hk
      simpa [List.filter_cons, h] using ih
    · by_cases hp : p k = true
      · simpa [Tab.get, List.filter_cons, hp, hk] using ih
      · simpa [List.filter_cons, hp] using ih

theorem setDomains_power (l : List Nat) (v : Nat) (s : State) : ∃ p, l.foldl (fun a d => a.setDomain d v) s = { s with power := p } := by
  induction l generalizing s with
  | nil => exact ⟨_, rfl⟩
  | cons d l ih =>
    obtain ⟨p, hp⟩ := setDomain_power s d v
    obtain ⟨q, hq⟩ := ih (s.setDomain d v)
    exact ⟨q, by rw [List.foldl_cons, hq, hp]⟩

theorem domain_setDomain (s : State) (d v e : Nat) : (s.setDomain d v).domain e = if e = d then v else s.domain e := by
  unfold State.setDomain
  by_cases h : s.domain d = v
  · rw [if_pos h]
    split
    next he => rw [he, h]
    · rfl
  · rw [if_neg h]
    by_cases he : e = d
    · subst he
      rw [if_pos rfl]
      exact Tab.get_put_self 0 e v s.power.dom
    · rw [if_neg he]
      exact Tab.get_put_ne 0 v s.power.dom he

/-- Domains that are switched OFF one after another are all OFF. -/
theorem domain_setDomains_off (l : List Nat) {s : State} {e : Nat} (h : s.domain e = 0 ∨ e ∈ l) : (l.foldl (fun a d => a.setDomain d 0) s).domain e = 0 := by
  induction l generalizing s with
  | nil => exact h.elim id fun h => nomatch h
  | cons d l ih =>
    refine ih ?_
    rw [domain_setDomain]
    by_cases he : e = d
    · exact .inl (if_pos he)
    · rw [if_neg he]
      exact h.imp_right fun h => (List.mem_cons.mp h).resolve_left he

-- ---------------------------------------------------------------- t0

/-- A trigger outside a sequence sets t0 and latches what it finds (R176). -/
theorem startPowerFail_begun {s : State} (hf : s.failing = false) (hup : s.barista.stage = .up) (n : Nat) :
    let t := s.startPowerFail n
    t.pf.stage = .t0 ∧ t.pf.trigger = n ∧ t.pf.cutFrame = s.timer.frame ∧ t.pf.dirtyAtT0 = s.perc.dirty ∧ t.egress.reqs = [] ∧ t.egress.subs = [] ∧
      t.mem = s.mem ∧ t.cores = s.cores := by
  intro t
  have ht : t = _ := if_neg (by simp [hf, hup])
  obtain ⟨z, o, h⟩ := answerWait_frame ({ s.abandonGrinder with
    egress := { s.egress with images := s.egress.images.filter BootImage.stored }
    micro := { s.micro with loading := if s.micro.loadStage = 0 then none else s.micro.loading } } : State) PendStore.byRule abPowerFail
  have hi : s.abandonGrinder.abandonImages = _ := h
  rw [hi] at ht
  rw [ht]
  exact ⟨rfl, rfl, rfl, rfl, rfl, rfl, rfl, rfl⟩

-- ---------------------------------------------------------------- the flush

theorem closeFlushSet_perc (s : State) : ∃ p, s.closeFlushSet = { s with perc := p } := by
  unfold State.closeFlushSet
  split
  · exact ⟨_, rfl⟩
  · exact ⟨_, rfl⟩

theorem switchOff_eq (s : State) : ∃ p, s.switchOff = { s with
    power := p, mem := s.mem.filter fun c => decide (c.1 < clusterBase)
    cores := s.cores.map fun (x : Nat × Core) => (x.1, { x.2 with storeBuf := [] }) } := by
  obtain ⟨p, hp⟩ := setDomains_power (natRange 0 85 ++ natRange 101 4) 0 s
  unfold State.switchOff
  simp only [hp]
  exact ⟨p, rfl⟩

/-- The flush begins with the set of the frame of t0, and with cluster SRAM and all above it gone (R179, R549). -/
theorem flushBegin_spec {s : State} (h : s.pf.stage = .coresOff) (mv : Nat) : ∃ t, execFlushBegin mv s = .next t ∧ t.pf.stage = .flushing ∧ t.pf.mvAtT0 = mv ∧
    t.perc.sets = s.closeFlushSet.perc.sets ∧ (∀ a, clusterBase ≤ a → s.plain a = true → t.byte a = 0) ∧ (∀ a, a < clusterBase → t.byte a = s.byte a) := by
  obtain ⟨pc, hpc⟩ := closeFlushSet_perc s
  obtain ⟨pw, hpw⟩ := switchOff_eq s.closeFlushSet
  refine ⟨_, if_neg (not_not_intro h), rfl, rfl, ?_, fun a ha hp => ?_, fun a ha => ?_⟩
  · rw [hpw]
    rfl
  · rw [hpw, hpc]
    exact (if_pos hp).trans (Tab.get_filter_neg _ (fun k => decide (k < clusterBase)) _ (by simpa using ha))
  · rw [hpw, hpc]
    have hget := Tab.get_filter_pos (0 : Byte) (fun k => decide (k < clusterBase)) s.mem (i := a) (by simpa using ha)
    exact congrArg (fun b => if s.plain a then b else _) hget

theorem flushComplete_spec {s : State} (h : s.pf.stage = .flushing) (mv : Nat) (hd : s.media.present = true → s.useGroups ≠ [] →
    (∀ x ∈ s.perc.sets, x.todo = []) ∧ s.media.posted = [] ∧ ∀ o ∈ s.media.queue, o.issuer ≠ .percolator) :
    ∃ t, execFlushComplete mv s = .next t ∧ t.pf.stage = .flushed ∧ t.mem = s.mem := by
  have hready : ¬ (s.media.present ∧ s.useGroups ≠ [] ∧
      ¬ ((s.perc.sets.all fun x => x.todo == []) ∧ s.media.posted = [] ∧ (s.media.queue.all fun o => o.issuer != .percolator))) := by
    rintro ⟨hp, hu, hn⟩
    obtain ⟨h1, h2, h3⟩ := hd hp hu
    exact hn ⟨List.all_eq_true.mpr fun x hx => beq_iff_eq.mpr (h1 x hx), h2, List.all_eq_true.mpr fun o ho => bne_iff_ne.mpr (h3 o ho)⟩
  rw [execFlushComplete, if_neg (not_not_intro h), if_neg hready]
  split
  · exact ⟨_, rfl, rfl, rfl⟩
  · refine ⟨_, rfl, rfl, ?_⟩
    exact (foldl_keeps State.mem _ (fun a g => writeMarker_mem ..) _ _).trans ((foldl_keeps State.mem _ closeParity_mem _ _).trans (writeClosing_mem ..))

-- ---------------------------------------------------------------- SAFE

theorem allOff_eq (s : State) : ∃ p, s.allOff = { s with
    power := p, mem := s.mem.filter fun c => memOf c.1 == 2
    upsets := s.upsets.filter fun x => memOf x.1 == 2, poison := s.poison.filter fun x => memOf x.2 == 2 } ∧ ∀ d, d < 112 → Tab.get 0 p.dom d = 0 := by
  obtain ⟨p, hp⟩ := setDomains_power (natRange 0 112) 0 s
  refine ⟨p, ?_, fun d hd => ?_⟩
  · unfold State.allOff
    simp only [hp]
  · have hoff := domain_setDomains_off (natRange 0 112) (s := s) (e := d) (.inr (mem_natRange.mpr ⟨Nat.zero_le _, by simpa using hd⟩))
    rw [hp] at hoff
    exact hoff

theorem mem_allOff (s : State) (c : Nat × Byte) : c ∈ s.allOff.mem ↔ c ∈ s.mem ∧ memOf c.1 = 2 := by
  obtain ⟨p, hp, -⟩ := allOff_eq s
  simp only [hp, List.mem_filter, beq_iff_eq]

section
variable {s : State} (h : s.pf.stage = .flushed)
include h

theorem safeAssert_off (hr : s.pf.restart = false) :
    execSafeAssert s = .next { s.allOff.toStage .safe with barista := { (s.allOff.toStage .safe).barista with safe := true } } := by
  obtain ⟨p, hp, -⟩ := allOff_eq s
  have hrestart : ¬ (s.allOff.toStage .safe).pf.restart = true := by
    rw [hp]
    exact fun hn => Bool.false_ne_true (hr.symm.trans hn)
  rw [execSafeAssert, if_neg (not_not_intro h)]
  dsimp only
  rw [if_neg hrestart]

theorem safeAssert_restart (hr : s.pf.restart = true) : ∃ u : State, execSafeAssert s = .next (u.coldReset 2) := by
  obtain ⟨p, hp, -⟩ := allOff_eq s
  have hrestart : (s.allOff.toStage .safe).pf.restart = true := by
    rw [hp]
    exact hr
  rw [execSafeAssert, if_neg (not_not_intro h)]
  dsimp only
  rw [if_pos hrestart]
  exact ⟨_, rfl⟩

end

-- ---------------------------------------------------------------- the capacitance test

/-- The Carafe as the end of a test leaves it, but for the capacitance (R170). -/
def State.tested (s : State) (v : Nat) : Carafe :=
  { s.carafe with testing := false, testDue := false, lastTestFrame := s.timer.frame, lastTestNs := s.timer.plantNs, lastDropF := (s.codeVolts v).f32 }

/-- The state with the capacitance that a test has measured, or a free one where the spec states none. -/
def State.measured (s : State) (q v : Nat) : State :=
  let u : State := { s with carafe := s.tested v, barista := { s.barista with holdtest := false } }
  let x : State := if s.testStated then { u with carafe := { u.carafe with cap := some ((s.testFarad q v).num.toNat, (s.testFarad q v).den) } }
    else { u.drawn with carafe := { u.carafe with cap := some (s.freeVal, 1) } }
  { x with plans := { x.plans with checkSaved := x.plans.checkSaved || s.carafe.cap.isNone } }

/-- The alarm of a low capacitance. -/
def State.alarmed (s : State) : State :=
  if (if f32Wild (s.cfgBits 11 0) then natBit (s.cfgBits 11 0) 31 else s.cAlarm.le s.cFarad) then s
  else s.logEvent 0x0306 2 (leBytes 4 (s.cFarad.mul ⟨1000000, 1⟩).floor)

theorem measured_spec (s : State) (q v : Nat) : (s.measured q v).carafe = { s.tested v with
    cap := if s.testStated then some ((s.testFarad q v).num.toNat, (s.testFarad q v).den) else some (s.freeVal, 1) } ∧
    (s.measured q v).barista.holdtest = false := by
  by_cases hs : s.testStated = true
  · simp [State.measured, hs]
  · simp [State.measured, hs]

theorem alarmed_keeps (s : State) : s.alarmed.carafe = s.carafe ∧ s.alarmed.barista = s.barista := by
  unfold State.alarmed
  exact ⟨ite_keeps State.carafe rfl rfl, ite_keeps State.barista rfl rfl⟩

section
variable {s : State} (h : s.carafe.testing = true) (q v : Nat)
include h

/-- A test whose drop is below 0.05 V is inconclusive. -/
theorem capacitanceTestEnd_short (hv : (⟨1, 20⟩ : Frac).le (s.codeVolts v) = false) : ∃ t, execCapacitanceTestEnd q v s = .next t ∧
    t.carafe = s.tested v ∧ t.barista.holdtest = false := by
  rw [execCapacitanceTestEnd, if_neg (not_not_intro h)]
  dsimp only
  rw [if_pos (by simp [hv])]
  exact ⟨_, rfl, rfl, rfl⟩

/-- Another test's capacitance is accepted. -/
theorem capacitanceTestEnd_good (hv : (⟨1, 20⟩ : Frac).le (s.codeVolts v) = true) : ∃ t c, execCapacitanceTestEnd q v s = .next t ∧
    t.carafe = { s.tested v with cap := c } ∧ t.barista.holdtest = false ∧
    (s.testStated = true → c = some ((s.testFarad q v).num.toNat, (s.testFarad q v).den)) := by
  rw [execCapacitanceTestEnd, if_neg (not_not_intro h)]
  dsimp only
  rw [if_neg (not_not_intro hv)]
  obtain ⟨hc, hb⟩ := measured_spec s q v
  obtain ⟨ac, ab⟩ := alarmed_keeps (s.measured q v)
  exact ⟨(s.measured q v).alarmed, _, rfl, ac.trans hc, by rw [ab, hb], fun hs => if_pos hs⟩

end

/-- A test that is in progress ends: what it measured is accepted, or it was inconclusive (R170). -/
theorem capacitanceTestEnd_spec {s : State} (h : s.carafe.testing = true) (q v : Nat) : ∃ t, execCapacitanceTestEnd q v s = .next t ∧
    t.carafe.testing = false ∧ t.carafe.testDue = false ∧ t.barista.holdtest = false ∧ t.carafe.lastTestNs = s.timer.plantNs ∧
    ((⟨1, 20⟩ : Frac).le (s.codeVolts v) = false → t.carafe.cap = s.carafe.cap) ∧
    ((⟨1, 20⟩ : Frac).le (s.codeVolts v) = true → s.testStated = true →
      t.carafe.cap = some ((s.testFarad q v).num.toNat, (s.testFarad q v).den)) := by
  cases hv : (⟨1, 20⟩ : Frac).le (s.codeVolts v) with
  | false =>
    obtain ⟨t, he, hc, hb⟩ := capacitanceTestEnd_short h q v hv
    exact ⟨t, he, by rw [hc]; rfl, by rw [hc]; rfl, hb, by rw [hc]; rfl, fun _ => by rw [hc]; rfl, fun hn => nomatch hn⟩
  | true =>
    obtain ⟨t, c, he, hc, hb, hcap⟩ := capacitanceTestEnd_good h q v hv
    exact ⟨t, he, by rw [hc]; rfl, by rw [hc]; rfl, hb, by rw [hc]; rfl, fun hn => Bool.noConfusion hn, fun _ hs => by rw [hc]; exact hcap hs⟩

-- ---------------------------------------------------------------- recovery keeps the time it reports

/-- The elapsed time that recovery reports (R191). -/
def State.recoveryMs (s : State) : Nat := s.perc.recoveryMs

theorem poke_recoveryMs (s : State) (pa : Nat) (l : List Byte) : (s.poke pa l).recoveryMs = s.recoveryMs := by
  obtain ⟨_, _, _, _, _, h⟩ := poke_poured s pa l
  rw [h]
  rfl

theorem tagEvent_recoveryMs (s : State) (point outcome partner admitted : Nat) (tag : DWord) (check : Nat) :
    (s.tagEvent point outcome partner admitted tag check).recoveryMs = s.recoveryMs := by
  simp [State.tagEvent, State.recoveryMs]

theorem verifyAt_recoveryMs (s : State) (point : Nat) (l : List Byte) : (s.verifyAt point l).1.recoveryMs = s.recoveryMs := by
  unfold State.verifyAt
  dsimp only
  split
  · rfl
  · exact tagEvent_recoveryMs ..

theorem loadImage_recoveryMs (s : State) : s.loadImage.recoveryMs = s.recoveryMs := by
  unfold State.loadImage
  refine foldl_keeps State.recoveryMs _ (fun _ _ => ?_) _ s
  exact poke_recoveryMs ..

theorem applyLine_recoveryMs (s : State) (frame : Nat) (d : Nat × DWord) (l : List Byte) : (s.applyLine frame d l).recoveryMs = s.recoveryMs := by
  unfold State.applyLine
  refine ite_keeps State.recoveryMs ?_ ((poke_recoveryMs ..).trans ?_) <;> exact ite_keeps State.recoveryMs rfl (tagEvent_recoveryMs ..)

theorem applyLines_recoveryMs (s : State) (b : Block) : (s.applyLines b).recoveryMs = s.recoveryMs := by
  unfold State.applyLines
  exact foldl_keeps State.recoveryMs _ (fun _ _ => applyLine_recoveryMs ..) _ s

theorem applyKeys_recoveryMs (s : State) (b : Block) : (s.applyKeys b).recoveryMs = s.recoveryMs := by
  unfold State.applyKeys
  refine foldl_keeps State.recoveryMs _ (fun _ _ => ?_) _ s
  exact ite_keeps State.recoveryMs rfl rfl

theorem restorePages_recoveryMs (s : State) (bs : List Block) : (s.restorePages bs).recoveryMs = s.recoveryMs := by
  unfold State.restorePages
  refine Eq.trans (foldl_keeps State.recoveryMs _ (fun a b => ?_) _ _) (loadImage_recoveryMs s)
  exact ite_keeps State.recoveryMs (applyLines_recoveryMs ..) (ite_keeps State.recoveryMs (applyKeys_recoveryMs ..) rfl)

theorem replay_recoveryMs (l : List JRec) (s : State) : (s.replay l).1.recoveryMs = s.recoveryMs := by
  induction l generalizing s with
  | nil => rfl
  | cons j l ih =>
    rw [State.replay]
    split
    · refine (ih _).trans ?_
      exact ite_keeps State.recoveryMs rfl (tagEvent_recoveryMs ..)
    split
    · exact ih s
    · exact (ih _).trans (verifyAt_recoveryMs ..)

theorem rebuildPartners_recoveryMs (s : State) (snaps recs : List (List Byte)) (fc : Nat) (l : List Nat) :
    (l.foldl (fun a n => a.rebuildPartner snaps recs fc n) s).recoveryMs = s.recoveryMs := by
  refine foldl_keeps State.recoveryMs _ (fun _ _ => ?_) l s
  rfl

theorem holdAgains_recoveryMs (s : State) (l : List JRec) : (l.foldl State.holdAgain s).recoveryMs = s.recoveryMs := by
  refine foldl_keeps State.recoveryMs _ (fun _ _ => ?_) l s
  rfl

theorem restorePartners_recoveryMs (s : State) (snaps : List (List Byte)) (recs : List JRec) (fc : Nat) :
    (s.restorePartners snaps recs fc).recoveryMs = s.recoveryMs := by
  unfold State.restorePartners
  exact (holdAgains_recoveryMs ..).trans (rebuildPartners_recoveryMs ..)

theorem continueGroup_keeps (l : List Scan) (s : State) : (l.foldl State.continueGroup s).recoveryMs = s.recoveryMs ∧
    (l.foldl State.continueGroup s).adm = s.adm := by
  constructor
  · refine foldl_keeps State.recoveryMs _ (fun _ _ => ?_) l s
    rfl
  · refine foldl_keeps State.adm _ (fun _ _ => ?_) l s
    rfl

theorem recover_spec (s : State) (ms : Nat) : (s.recover ms).timer.armed = true ∧ (s.recover ms).adm.closed = true ∧ (s.recover ms).zdp.sessions = [] ∧
    (s.recover ms).perc.recoveryMs = ms := by
  refine ⟨rfl, ?_, rfl, ?_⟩
  · exact congrArg (fun a => a.closed) (continueGroup_keeps _ _).2
  · refine Eq.trans (continueGroup_keeps _ _).1 ?_
    exact (restorePartners_recoveryMs ..).trans ((replay_recoveryMs ..).trans (restorePages_recoveryMs ..))

/-- Settles O51, with a lemma for each step of the sequence. -/
theorem powerLoss : Obligations.PowerLoss := by
  intro s begun moved
  refine ⟨fun hf hup => ⟨?pfail, fun a b ha h1 h2 => ?warn⟩, fun hf => ?second,
    fun h => ⟨_, if_neg (not_not_intro h), rfl, rfl, rfl⟩, fun h => ⟨_, if_neg (not_not_intro h), rfl, ?stopped⟩,
    fun h => ⟨_, if_neg (not_not_intro h), rfl, fun x hx => ?halted, rfl⟩, fun mv h => ?flush, fun mv h hd => flushComplete_spec h mv hd,
    fun h hr => ?safe, fun h hr => ?restart, fun h1 h2 h3 h4 h5 => ?test, fun q v h => capacitanceTestEnd_spec h q v,
    fun ms hup hj ha => ⟨_, if_pos ⟨hup, hj, by simp [ha]⟩, recover_spec s ms⟩⟩
  case pfail => exact ⟨_, rfl, startPowerFail_begun (s := { s with barista := { s.barista with pfail := true } }) hf hup 1⟩
  case second =>
    refine ⟨_, rfl, ?_⟩
    rw [State.startPowerFail, if_pos (.inl hf)]
  case warn => exact ⟨_, if_pos ⟨ha, h1, h2⟩, startPowerFail_begun hf hup 2⟩
  case stopped => rfl
  case halted =>
    obtain ⟨y, -, rfl⟩ := List.mem_map.mp hx
    exact ⟨rfl, rfl⟩
  case flush =>
    obtain ⟨t, he, hst, hmv, hsets, hoff, hkept⟩ := flushBegin_spec h mv
    refine ⟨t, he, hst, hmv, hoff, hkept, fun hr => ?_, fun hr => ?_⟩
    · rw [hsets, State.closeFlushSet, if_pos hr]
    · rw [hsets, State.closeFlushSet, if_neg (by simp [hr])]
      exact ⟨_, rfl, rfl, rfl⟩
  case safe =>
    obtain ⟨p, hp, hoff⟩ := allOff_eq s
    have he := safeAssert_off h hr
    have hmem := mem_allOff s
    rw [hp] at he hmem
    exact ⟨_, he, rfl, rfl, hmem, hoff⟩
  case restart =>
    obtain ⟨u, he⟩ := safeAssert_restart h hr
    exact ⟨_, he, rfl, rfl, rfl, rfl⟩
  case test =>
    exact ⟨_, if_pos ⟨h1, by simp [h2], h3, by simp [h4], h5.imp_left Option.isNone_iff_eq_none.mpr⟩, rfl, rfl⟩

end Sys2Proof.Machine
end

section
/-!
PROOF. The Grinder's jobs: what is enqueued, what a completion leaves, and the relocation queue (R204, R208, R212, R213, R216, R218).
-/

namespace Sys2Proof.Machine

-- ---------------------------------------------------------------- operations that are enqueued

/-- A list answers another one element by element. -/
inductive Answers {α β : Type} (p : α → β → Prop) : List α → List β → Prop
  | nil : Answers p [] []
  | cons {x : α} {y : β} {l : List α} {q : List β} (h : p x y) (t : Answers p l q) : Answers p (x :: l) (y :: q)

theorem Answers.length_eq {α β : Type} {p : α → β → Prop} {l : List α} {q : List β} (h : Answers p l q) : l.length = q.length := by
  induction h with
  | nil => rfl
  | cons _ _ ih => exact congrArg (· + 1) ih

/-- Operations enqueued one after another stand at the end of the queue, one for each element. -/
theorem enqueueAll_spec {β : Type} (f : State → β → MediaOp) (p : β → MediaOp → Prop) (hp : ∀ a x n, p x { f a x with id := n }) (l : List β) (s : State) :
    ∃ q n, l.foldl (fun a x => a.enqueue (f a x)) s = { s with media := { s.media with queue := s.media.queue ++ q, nextOp := n } } ∧ Answers p l q := by
  induction l generalizing s with
  | nil => exact ⟨[], _, by rw [List.append_nil]; rfl, .nil⟩
  | cons x l ih =>
    obtain ⟨q, n, he, hq⟩ := ih (s.enqueue (f s x))
    refine ⟨{ f s x with id := s.media.nextOp } :: q, n, ?_, .cons (hp ..) hq⟩
    rw [List.foldl_cons, he, State.enqueue]
    simp

/-- What is left of a list that answers another one element by element. -/
theorem Answers.exists_of_mem {α β : Type} {p : α → β → Prop} {l : List α} {q : List β} (h : Answers p l q) {y : β} (hy : y ∈ q) : ∃ x ∈ l, p x y := by
  induction h with
  | nil => exact nomatch hy
  | cons hp _ ih =>
    rcases List.mem_cons.mp hy with rfl | hy
    · exact ⟨_, List.mem_cons_self, hp⟩
    · obtain ⟨x, hx, hp⟩ := ih hy
      exact ⟨x, List.mem_cons_of_mem _ hx, hp⟩

/-- A read of the Grinder's job `n` for a reference. -/
def isRead (n : Nat) (ref : FlashRef) (o : MediaOp) : Prop := o.ref = some ref ∧ o.kind = .read ∧ o.issuer = .grinder ∧ o.issued = false ∧ o.job = some n

theorem isRead_refs {n : Nat} {refs : List FlashRef} {q : List MediaOp} (h : Answers (isRead n) refs q) : q.map MediaOp.ref = refs.map some := by
  induction h with
  | nil => rfl
  | cons hp _ ih => rw [List.map_cons, List.map_cons, hp.1, ih]

/-- A job that has something to read enqueues a read for each reference (R208, R213, R218). -/
theorem startReads_spec (s : State) (k : JobKind) {refs : List FlashRef} (h : refs ≠ []) : ∃ q n jobs m,
    s.startReads k refs = { s with media := { s.media with queue := s.media.queue ++ q, nextOp := n, jobs := jobs, nextJob := m } } ∧
    Answers (isRead s.media.nextJob) refs q := by
  unfold State.startReads
  dsimp only
  rw [if_neg h]
  obtain ⟨q, n, he, hq⟩ := enqueueAll_spec
    (fun a ref => { mkOp .grinder .read (a.refLun ref) (a.refLun ref / 256) (a.unitNs (a.refLun ref / 32)) with ref := some ref, job := some s.media.nextJob })
    (isRead s.media.nextJob) (fun _ _ _ => ⟨rfl, rfl, rfl, rfl, rfl⟩) refs
    ({ s with media := { s.media with
        nextJob := s.media.nextJob + 1, jobs := s.media.jobs ++ [{ mkJob s.media.nextJob k with left := refs.length }] } } : State)
  exact ⟨q, n, _, _, he, hq⟩

-- ---------------------------------------------------------------- the relocation queue

theorem mem_queueMove (s : State) (ref r : FlashRef) : r ∈ (s.queueMove ref).media.relocate ↔ r ∈ s.media.relocate ∨ r = ref := by
  unfold State.queueMove
  split
  next h =>
    have h : ref ∈ s.media.relocate := by simpa using h
    exact ⟨.inl, fun hr => hr.elim id fun hr => hr ▸ h⟩
  · simp

theorem mem_queueMoves (l : List FlashRef) (s : State) (r : FlashRef) : r ∈ (s.queueMoves l).media.relocate ↔ r ∈ s.media.relocate ∨ r ∈ l := by
  unfold State.queueMoves
  induction l generalizing s with
  | nil => simp
  | cons x l ih =>
    rw [List.foldl_cons, ih, mem_queueMove, List.mem_cons]
    exact or_assoc

theorem not_mem_moved (s : State) (ref : FlashRef) : ref ∉ (s.moved ref).media.relocate := by
  simp [State.moved]

-- ---------------------------------------------------------------- the system area

/-- What the next image of the system area changes. -/
theorem sysTry_frame (s : State) : ∃ jobs v d o q n,
    s.sysTry = { s with media := { s.media with jobs := jobs, sysVersion := v, sysDirty := d, sysOpen := o, queue := q, nextOp := n } } := by
  unfold State.sysTry
  dsimp only
  split
  · exact ⟨_, _, _, _, _, _, rfl⟩
  split
  · exact ⟨_, _, _, _, _, _, rfl⟩
  · split <;> exact ⟨_, _, _, _, _, _, rfl⟩

/-- A table that has changed stays to be written, or its image is on its way. -/
theorem sysTry_dirty {s : State} (h : s.media.sysDirty = true) : s.sysTry.media.sysDirty = true ∨ s.sysTry.media.sysOpen ≠ none := by
  unfold State.sysTry
  dsimp only
  split
  · exact .inl h
  split
  · exact .inl h
  · refine .inr ?_
    split <;> exact Option.some_ne_none _

theorem Tab.mem_insert_self {α : Type} (i : Nat) (x : α) (t : Tab α) : (i, x) ∈ Tab.insert i x t := by
  induction t with
  | nil => exact List.mem_cons_self
  | cons e t ih =>
    obtain ⟨k, v⟩ := e
    unfold Tab.insert
    split
    · exact List.mem_cons_self
    split
    next h => exact h ▸ List.mem_cons_self
    · exact List.mem_cons_of_mem _ ih

/-- What a fold has written stands when its job is applied: the fold point and the index entries. -/
theorem applyJob_fold {s : State} {j : Job} {g q : Nat} {f : Nat × Nat × List Byte} (hk : j.kind = .fold g q) (hf : j.fold = some f) :
    ((s.applyJob j).group g).foldSeq = f.1 ∧ ((s.applyJob j).group g).foldBlock = f.2.1 ∧ ((s.applyJob j).group g).foldLink = f.2.2 ∧
    (∀ r ∈ j.recs, r ∈ (s.applyJob j).media.bulk) ∧ (∀ r ∈ (s.applyJob j).media.bulk, r ∈ j.recs ∨ r ∈ s.media.bulk) ∧
    (s.applyJob j).media.sysImages = s.media.sysImages ∧ (s.applyJob j).zdp = s.zdp := by
  have hentries : j.entries s.media.bulk = j.recs := by rw [Job.entries, hk]
  unfold State.applyJob
  simp only [hk, hf, hentries]
  refine ⟨congrArg Group.foldSeq (Tab.get_put_self ..), congrArg Group.foldBlock (Tab.get_put_self ..), congrArg Group.foldLink (Tab.get_put_self ..),
    fun r hr => List.mem_append_right _ hr, fun r hr => ?_, rfl, rfl⟩
  exact (List.mem_append.mp hr).symm.imp_right fun hr => (List.mem_filter.mp hr).1

-- ---------------------------------------------------------------- completions

theorem resumeOp_frame (s : State) (o : MediaOp) : ∃ q c, s.resumeOp o = { s with media := { s.media with queue := q, chans := c } } := by
  unfold State.resumeOp
  dsimp only
  split <;> exact ⟨_, _, rfl⟩

theorem resumeOn_frame (s : State) (lun : Nat) : ∃ q c, s.resumeOn lun = { s with media := { s.media with queue := q, chans := c } } := by
  unfold State.resumeOn
  split
  · exact resumeOp_frame ..
  · exact ⟨_, _, rfl⟩

/-- With nothing waiting, serving what waits leaves the state (R471). -/
theorem serveWaiting_idle {s : State} (h : s.zdp.backlog = []) : s.serveWaiting = .next s := by
  unfold State.serveWaiting
  split
  · rfl
  · rw [h, State.receiveAll, ← h]

/-- An operation that completes has its effect, and its LUN resumes what it had suspended. -/
theorem mediaOpComplete_eq {s t : State} {id : Nat} {o : MediaOp} {res : MediaResult} {data : List Byte}
    (h : (s.media.queue.find? fun x => x.id == id && x.issued && x.susp != 2 && !s.pieceLeft x) = some o) (hs : o.susp = 0)
    (hc : s.complete o res data = some t) : execMediaOpComplete id res data s = (t.resumeOn o.lun).serveWaiting := by
  rw [execMediaOpComplete]
  simp only [h]
  rw [if_neg (by simp [hs])]
  simp only [hc]

theorem completing_id {s : State} {id : Nat} {o : MediaOp}
    (h : (s.media.queue.find? fun x => x.id == id && x.issued && x.susp != 2 && !s.pieceLeft x) = some o) : o.id = id := by
  have hx := List.find?_some h
  simp only [Bool.and_eq_true, beq_iff_eq] at hx
  exact hx.1.1.1

theorem tagEvent_frame (s : State) (point outcome partner admitted : Nat) (tag : DWord) (check : Nat) :
    ∃ ro log, s.tagEvent point outcome partner admitted tag check = { s with ro := ro, log := log } := by
  dsimp only [State.tagEvent, State.count, State.roSet, State.logEvent]
  exact ⟨_, _, rfl⟩

/-- Records judged from flash change counters and the log. -/
theorem judgeFlash_frame (l : List (List Byte)) (s : State) : ∃ ro log, s.judgeFlash l = { s with ro := ro, log := log } := by
  unfold State.judgeFlash
  induction l generalizing s with
  | nil => exact ⟨_, _, rfl⟩
  | cons x l ih =>
    obtain ⟨ro, log, h⟩ := ih (s.verifyAt 4 x).1
    obtain ⟨ro', log', h'⟩ : ∃ ro log, (s.verifyAt 4 x).1 = { s with ro := ro, log := log } := by
      unfold State.verifyAt
      dsimp only
      split
      · exact ⟨_, _, rfl⟩
      · exact tagEvent_frame ..
    exact ⟨ro, log, by rw [List.foldl_cons, h, h']⟩

end Sys2Proof.Machine
end

section
/-!
PROOF. The Grinder: scrub reads, relocation, erases, and the scrubs of the memories (R203, R204, R206, R213, R216, R217, R256, R257, R259).
-/

namespace Sys2Proof.Machine

-- ---------------------------------------------------------------- what a read leaves (R203, R213)

/-- The stages beyond the first that a read took are counted on its channel (R204). -/
def State.countStages (s : State) (ch stage : Nat) : State :=
  let s := if 2 ≤ stage then s.count (okey (0x0D20 + ch) 10) 1 else s
  let s := if 4 ≤ stage then s.count (okey (0x0D20 + ch) 11) 1 else s
  if stage = 5 then s.count (okey (0x0D20 + ch) 13) 1 else s

theorem count_ro (s : State) (key n bits : Nat) : ∃ ro, s.count key n bits = { s with ro := ro } := ⟨_, rfl⟩

theorem countStages_ro (s : State) (ch stage : Nat) : ∃ ro, s.countStages ch stage = { s with ro := ro } := by
  have hif (u : State) (hu : ∃ ro, u = { s with ro := ro }) (p : Prop) [Decidable p] (key : Nat) :
      ∃ ro, (if p then u.count key 1 else u) = { s with ro := ro } := by
    obtain ⟨ro, rfl⟩ := hu
    split <;> exact ⟨_, rfl⟩
  exact hif _ (hif _ (hif _ ⟨_, rfl⟩ _ _) _ _) _ _

theorem countStages_lost (s : State) (ch : Nat) : (s.countStages ch 5).roGet (okey (0x0D20 + ch) 13) = (s.roGet (okey (0x0D20 + ch) 13) + 1) % 2 ^ 64 := by
  have h : s.countStages ch 5 = ((s.count (okey (0x0D20 + ch) 10) 1).count (okey (0x0D20 + ch) 11) 1).count (okey (0x0D20 + ch) 13) 1 := rfl
  rw [h, State.roGet_count, State.roGet_count_ne _ _ _ (by simp [okey]), State.roGet_count_ne _ _ _ (by simp [okey])]

/-- How often the block of a reference has been read, with this read. -/
def State.readsOf (s : State) (ref : FlashRef) : Nat := Tab.get 0 (s.lun (s.refLun ref)).reads (s.refBlock ref) + 1

/-- Whether a read asks for its content to be moved (R204, R213). -/
def State.asksMove (s : State) (ref : FlashRef) (stage corrected : Nat) : Prop :=
  2 ≤ stage ∨ s.objNat (okey 0x0D00 4) 80 < corrected ∨ s.disturbLimit (s.lun (s.refLun ref)) ≤ s.readsOf ref

/-- What a read of the Grinder leaves: the reads of its block, the relocation queue and its channel's counter of lost reads. -/
theorem readDone_spec (s : State) (ref : FlashRef) (stage ns corrected : Nat) :
    let t := s.readDone ref stage ns corrected false
    Tab.get 0 (t.lun (s.refLun ref)).reads (s.refBlock ref) = s.readsOf ref ∧
    (ref ∈ t.media.relocate ↔ ref ∈ s.media.relocate ∨ s.asksMove ref stage corrected) ∧
    (stage = 5 → t.roGet (okey (0x0D20 + s.refLun ref / 32) 13) = (s.roGet (okey (0x0D20 + s.refLun ref / 32) 13) + 1) % 2 ^ 64) ∧ t.zdp = s.zdp := by
  intro t
  let u := s.setLun (s.refLun ref) { s.lun (s.refLun ref) with
    reads := Tab.put 0 (s.refBlock ref) (s.readsOf ref) (s.lun (s.refLun ref)).reads }
  have ht : t = if 2 ≤ stage ∨ (u.countStages (s.refLun ref / 32) stage).objNat (okey 0x0D00 4) 80 < corrected ∨
      (u.countStages (s.refLun ref / 32) stage).disturbLimit (s.lun (s.refLun ref)) ≤ s.readsOf ref then
      (u.countStages (s.refLun ref / 32) stage).queueMove ref else u.countStages (s.refLun ref / 32) stage := rfl
  obtain ⟨ro, hro⟩ := countStages_ro u (s.refLun ref / 32) stage
  have hasks : (2 ≤ stage ∨ (u.countStages (s.refLun ref / 32) stage).objNat (okey 0x0D00 4) 80 < corrected ∨
      (u.countStages (s.refLun ref / 32) stage).disturbLimit (s.lun (s.refLun ref)) ≤ s.readsOf ref) ↔ s.asksMove ref stage corrected := by
    rw [hro]
    rfl
  have hlun (v : State) (hv : v.media.luns = u.media.luns) : Tab.get 0 (v.lun (s.refLun ref)).reads (s.refBlock ref) = s.readsOf ref := by
    have hu : v.lun (s.refLun ref) = u.lun (s.refLun ref) := by rw [State.lun, State.lun, hv]
    rw [hu, State.lun_setLun, Tab.get_put_self]
  have h5 (v : State) (hv : v.ro = (u.countStages (s.refLun ref / 32) stage).ro) (h : stage = 5) :
      v.roGet (okey (0x0D20 + s.refLun ref / 32) 13) = (s.roGet (okey (0x0D20 + s.refLun ref / 32) 13) + 1) % 2 ^ 64 := by
    subst h
    rw [State.roGet, hv]
    exact countStages_lost u (s.refLun ref / 32)
  by_cases hm : s.asksMove ref stage corrected
  · rw [ht, if_pos (hasks.mpr hm)]
    have hq : ∃ q, (u.countStages (s.refLun ref / 32) stage).queueMove ref = { u.countStages (s.refLun ref / 32) stage with
        media := { (u.countStages (s.refLun ref / 32) stage).media with relocate := q } } := by
      unfold State.queueMove
      split <;> exact ⟨_, rfl⟩
    obtain ⟨q, hq⟩ := hq
    refine ⟨hlun _ ?_, ?_, h5 _ ?_, ?_⟩
    · rw [hq, hro]
    · rw [mem_queueMove]
      exact ⟨fun _ => .inr hm, fun _ => .inr rfl⟩
    · rw [hq]
    · rw [hq, hro]
      rfl
  · rw [ht, if_neg (mt hasks.mp hm)]
    refine ⟨hlun _ ?_, ?_, h5 _ rfl, ?_⟩
    · rw [hro]
    · rw [hro]
      exact (or_iff_left hm).symm
    · rw [hro]
      rfl

/-- What follows a read's counts: content that is lost, and who asked for the read. -/
def ReadKept (s t : State) : Prop := t.media.luns = s.media.luns ∧ t.media.relocate = s.media.relocate ∧ t.zdp = s.zdp

theorem readLost_kept (s : State) (ref : FlashRef) : ReadKept s (s.readLost ref) ∧ (s.readLost ref).ro = s.ro := by
  have hdrop (u : State) : ReadKept u (u.dropBulkBlock ref) ∧ (u.dropBulkBlock ref).ro = u.ro := by
    unfold State.dropBulkBlock
    split <;> exact ⟨⟨rfl, rfl, rfl⟩, rfl⟩
  unfold State.readLost
  dsimp only
  split
  · refine ⟨⟨?_, ?_, ?_⟩, ?_⟩
    · exact ite_keeps (fun x : State => x.media.luns) rfl rfl
    · exact ite_keeps (fun x : State => x.media.relocate) rfl rfl
    · exact ite_keeps (fun x : State => x.zdp) rfl rfl
    · exact ite_keeps (fun x : State => x.ro) rfl rfl
  · exact ⟨⟨rfl, rfl, rfl⟩, rfl⟩
  · exact ⟨⟨rfl, rfl, rfl⟩, rfl⟩
  · exact hdrop _
  · exact hdrop _
  · exact ⟨⟨rfl, rfl, rfl⟩, rfl⟩

/-- A scrub read is handed to the scrub, which judges its records when it was read. -/
theorem readTo_kept {s : State} {o : MediaOp} (hi : o.issuer = .grinder) (hj : o.job = none) (ref : FlashRef) (good : Bool) :
    ReadKept s (s.readTo o ref good) ∧ (good = false → s.readTo o ref good = s) := by
  unfold State.readTo
  simp only [hi, hj]
  cases good with
  | false => exact ⟨⟨rfl, rfl, rfl⟩, fun _ => rfl⟩
  | true =>
    obtain ⟨ro, log, h⟩ := judgeFlash_frame (s.refRecords ref) s
    refine ⟨?_, fun h => nomatch h⟩
    rw [if_pos rfl, h]
    exact ⟨rfl, rfl, rfl⟩

end Sys2Proof.Machine
end

section
/-!
PROOF. The scrubs of the memories, and the Grinder's commands (R206, R208, R212, R213, R216, R217, R256, R257, R259).
-/

namespace Sys2Proof.Machine

-- ---------------------------------------------------------------- the scrub of a code word (R256, R257, R259)

theorem countCorrected_poison (s : State) (cw : Nat) : (s.countCorrected cw).poison = s.poison := by
  unfold State.countCorrected
  split <;> rfl

theorem poisonWord_poison {s : State} {cw : Nat} (h : (s.poison.filter fun x => x.1 == poisonOf cw).length < 64) : (poisonOf cw, cw) ∈ (s.poisonWord cw).poison := by
  unfold State.poisonWord
  dsimp only
  split
  next hc => simpa using hc
  · rw [if_pos]
    · exact List.mem_append_right _ List.mem_cons_self
    · split <;> exact h

/-- The counter of corrected errors of a code word. -/
def countsAt (cw key : Nat) (s : State) : Prop := ∀ t : State, t.ro = s.ro → (t.countCorrected cw).roGet key = (s.roGet key + 1) % 2 ^ 64

theorem countsAt_sram {cw : Nat} (h3 : memOf cw ≠ 3) (h4 : memOf cw ≠ 4) (s : State) : countsAt cw (okey 0x0A38 3) s := by
  intro t ht
  have hro : t.roGet (okey 0x0A38 3) = s.roGet (okey 0x0A38 3) := congrArg (fun r => Tab.get 0 r _) ht
  unfold State.countCorrected
  split
  next h => exact absurd h h3
  next h => exact absurd h h4
  · rw [← hro, ← State.roGet_count]
    exact Tab.get_put_ne _ _ _ (by decide)

theorem countsAt_dram {cw : Nat} (h3 : memOf cw = 3) (s : State) : countsAt cw (okey (0x0A30 + s.dramChan cw) 6) s := by
  intro t ht
  have hget (k : Nat) : t.roGet k = s.roGet k := congrArg (fun r => Tab.get 0 r k) ht
  have hchan : t.dramChan cw = s.dramChan cw := by simp only [State.dramChan, hget]
  unfold State.countCorrected
  simp only [h3, hchan]
  rw [← hget, ← State.roGet_count]
  exact Tab.get_put_ne _ _ _ (by simp [okey])

section
variable {s : State} {cw : Nat} (f : EccFinding) (rep : Repair) (hclean : Tab.get .none s.upsets cw = .none)

/-- A scrub of a code word that took a finding, whatever it noted of the row. -/
def State.scrubOf (s : State) (cw : Nat) (f : EccFinding) (rep : Repair) : State :=
  (({ s.takeFinding cw f with repair := rep } : State).scrubWord cw).scrubbed cw

include hclean

/-- A code word with no wrong symbol stays. -/
theorem scrubOf_clean (h : wrongSymbols f = 0) : (s.scrubOf cw f rep).mem = s.mem ∧ (s.scrubOf cw f rep).upsets = s.upsets ∧
    (s.scrubOf cw f rep).poison = s.poison ∧ (s.scrubOf cw f rep).ro = s.ro := by
  have ht : s.takeFinding cw f = s := if_pos (.inl h)
  simp only [State.scrubOf, ht, State.scrubWord, State.meetWord, hclean]
  exact ⟨rfl, rfl, rfl, rfl⟩

/-- One within the code's limit is corrected and counted. -/
theorem scrubOf_corrected (h0 : 0 < wrongSymbols f) (h : wrongSymbols f ≤ symbolLimit cw) {key : Nat} (hk : countsAt cw key s) :
    Tab.get .none (s.scrubOf cw f rep).upsets cw = .none ∧ (s.scrubOf cw f rep).mem = s.mem ∧ (s.scrubOf cw f rep).poison = s.poison ∧
    (s.scrubOf cw f rep).roGet key = (s.roGet key + 1) % 2 ^ 64 := by
  have ht : s.takeFinding cw f = { s with upsets := Tab.put .none cw .correctable s.upsets } := by
    simp only [State.takeFinding, hclean]
    rw [if_neg (by simp; omega), if_pos h]
  simp only [State.scrubOf, ht, State.scrubWord, State.meetWord, Tab.get_put_self]
  refine ⟨?_, countCorrected_mem _ cw, countCorrected_poison _ cw, hk _ rfl⟩
  exact (congrArg (fun u => Tab.get Upset.none u cw) (countCorrected_upsets _ cw)).trans (Tab.get_put_self .none cw .none (Tab.put .none cw .correctable s.upsets))

/-- One beyond the limit that the code detects is poisoned. -/
theorem scrubOf_poisoned (h : symbolLimit cw < wrongSymbols f) (hw : Config.eccWrong (memOf cw) (s.bytes cw (codeWord (memOf cw))) f.wrong = none) :
    Tab.get .none (s.scrubOf cw f rep).upsets cw = .uncorrectable ∧ (s.scrubOf cw f rep).mem = s.mem ∧
    ((s.poison.filter fun x => x.1 == poisonOf cw).length < 64 → (poisonOf cw, cw) ∈ (s.scrubOf cw f rep).poison) := by
  have ht : s.takeFinding cw f = { s with upsets := Tab.put .none cw .uncorrectable s.upsets } := by
    simp only [State.takeFinding, hclean]
    rw [if_neg (by simp; omega), if_neg (by omega)]
    simp only [hw]
  simp only [State.scrubOf, ht, State.scrubWord, State.meetWord, Tab.get_put_self, if_true]
  refine ⟨?_, poisonWord_mem _ cw, fun hp => poisonWord_poison hp⟩
  exact (congrArg (fun u => Tab.get Upset.none u cw) (poisonWord_upsets _ cw)).trans (Tab.get_put_self .none cw .uncorrectable s.upsets)

/-- One that the decoder takes for other data reads as that data. -/
theorem scrubOf_mistaken {l : List Byte} (h : symbolLimit cw < wrongSymbols f)
    (hw : Config.eccWrong (memOf cw) (s.bytes cw (codeWord (memOf cw))) f.wrong = some l) :
    Tab.get .none (s.scrubOf cw f rep).upsets cw = .none ∧ (s.scrubOf cw f rep).poison = s.poison ∧
    (s.scrubOf cw f rep).mem = memWriteBut [] cw (sliceZ l 0 (codeWord (memOf cw))) s.mem := by
  have ht : s.takeFinding cw f = { s with
      mem := memWriteBut [] cw (sliceZ l 0 (codeWord (memOf cw))) s.mem, upsets := Tab.put .none cw .correctable s.upsets } := by
    simp only [State.takeFinding, hclean]
    rw [if_neg (by simp; omega), if_neg (by omega)]
    simp only [hw]
  simp only [State.scrubOf, ht, State.scrubWord, State.meetWord, Tab.get_put_self]
  refine ⟨?_, countCorrected_poison _ cw, countCorrected_mem _ cw⟩
  exact (congrArg (fun u => Tab.get Upset.none u cw) (countCorrected_upsets _ cw)).trans (Tab.get_put_self .none cw .none (Tab.put .none cw .correctable s.upsets))

end

theorem sramScrub_eq {a : BitVec 40} (f : EccFinding) (s : State) (h : sramAt a.toNat = true) :
    ∃ rep, execSramScrub a f s = .next (s.scrubOf (cwOf a.toNat) f rep) := by
  rw [execSramScrub, if_neg (not_not_intro h)]
  dsimp only
  split
  · exact ⟨_, rfl⟩
  · exact ⟨(s.takeFinding (cwOf a.toNat) f).repair, rfl⟩

theorem dramScrub_eq {a : BitVec 40} (f : EccFinding) (s : State) (h : memOf a.toNat = 3) (hc : a.toNat < s.dramCap) :
    ∃ rep, execDramScrub a f s = .next (s.scrubOf (cwOf a.toNat) f rep) := by
  rw [execDramScrub, if_neg (not_or.mpr ⟨not_not_intro h, Nat.not_le.mpr hc⟩)]
  exact ⟨(s.takeFinding (cwOf a.toNat) f).repair, rfl⟩

/-- Record, partner and cluster SRAM lie between DRAM and the scratch memories (R243). -/
theorem memOf_between {pa : Nat} (h0 : recordBase ≤ pa) (h1 : pa < scratchBase) : memOf pa ≠ 3 ∧ memOf pa ≠ 4 := by
  rw [memOf, if_neg (Nat.not_lt.mpr h0), if_pos h1]
  split
  · decide
  · split <;> decide

theorem sramAt_between {pa : Nat} (h : sramAt pa = true) : recordBase ≤ pa ∧ pa < scratchBase := by
  simp only [sramAt, Bool.or_eq_true, Bool.and_eq_true, decide_eq_true_eq] at h
  have hb : recordBase = 0x2000000000 ∧ recordSize = 0x4000000 ∧ partnerBase = 0x2100000000 ∧ partnerSize = 0x800000 ∧
    clusterBase = 0x2200000000 ∧ clusterSize = 0x100000 ∧ scratchBase = 0x2300000000 := by decide
  omega

/-- The code word of an SRAM address lies in SRAM. -/
theorem memOf_cwOf_sram {pa : Nat} (h : sramAt pa = true) : memOf (cwOf pa) ≠ 3 ∧ memOf (cwOf pa) ≠ 4 := by
  obtain ⟨h0, h1⟩ := sramAt_between h
  obtain ⟨h3, h4⟩ := memOf_between h0 h1
  have hcw : cwOf pa = pa / 32 * 32 := by rw [cwOf, codeWord, if_neg h4, if_neg h3]
  have hb : recordBase = 0x2000000000 := rfl
  rw [hcw]
  refine memOf_between ?_ (Nat.lt_of_le_of_lt (Nat.div_mul_le_self pa 32) h1)
  omega

theorem memOf_cwOf_dram {pa : Nat} (h : memOf pa = 3) : memOf (cwOf pa) = 3 := by
  have hlt : pa < recordBase := by
    refine Decidable.byContradiction fun hn => ?_
    by_cases h1 : pa < scratchBase
    · exact (memOf_between (Nat.not_lt.mp hn) h1).1 h
    · have hb : recordBase + recordSize ≤ scratchBase ∧ partnerBase + partnerSize ≤ scratchBase := by decide
      rw [memOf, if_neg hn, if_neg (by omega), if_neg (by omega), if_neg h1] at h
      split at h
      · exact absurd h (by decide)
      · split at h <;> exact absurd h (by decide)
  refine if_pos ?_
  rw [cwOf, h]
  exact Nat.lt_of_le_of_lt (Nat.div_mul_le_self pa 64) hlt

-- ---------------------------------------------------------------- erases

theorem stripeLuns_length (s : State) (g : Nat) (bulk : Bool) (i : Nat) : (s.stripeLuns g bulk i).length = 8 := by
  unfold State.stripeLuns
  split <;> rfl

/-- A stripe's erase enqueues eight operations and notes the erase in its group (R206, R208). -/
theorem eraseStripe_spec (s : State) (g : Nat) (bulk : Bool) (i : Nat) :
    (s.eraseStripe g bulk i).media.queue.length = s.media.queue.length + 8 ∧
    ((if bulk then 2 ^ 20 + i else i), 8, 0) ∈ ((s.eraseStripe g bulk i).group g).erasing ∧
    ∀ o ∈ (s.eraseStripe g bulk i).media.queue, o ∈ s.media.queue ∨ (o.kind = .erase ∧ o.issuer = .grinder ∧ o.issued = false ∧ o.group = g) := by
  obtain ⟨q, n, he, hq⟩ := enqueueAll_spec
    (fun (a : State) n => { mkOp .grinder .erase n g (a.chan (n / 32)).tCmd with
      stripe := some (if bulk then 2 ^ 20 + i else i), area := if bulk then .bulk else .journal })
    (fun _ o => o.kind = .erase ∧ o.issuer = .grinder ∧ o.issued = false ∧ o.group = g) (fun _ _ _ => ⟨rfl, rfl, rfl, rfl⟩)
    ((s.setGroup g { s.group g with erasing := ((if bulk then 2 ^ 20 + i else i), 8, 0) :: (s.group g).erasing }).stripeLuns g bulk i)
    (s.setGroup g { s.group g with erasing := ((if bulk then 2 ^ 20 + i else i), 8, 0) :: (s.group g).erasing })
  have hs : s.eraseStripe g bulk i = _ := he
  rw [hs]
  refine ⟨?_, ?_, fun o ho => ?_⟩
  · have hlen := hq.length_eq
    rw [stripeLuns_length] at hlen
    exact List.length_append.trans (congrArg (s.media.queue.length + ·) hlen.symm)
  · refine Eq.mpr (congrArg (fun x : Group => _ ∈ x.erasing) (Tab.get_put_self ..)) ?_
    exact List.mem_cons_self
  · rcases List.mem_append.mp ho with ho | ho
    · exact .inl ho
    · obtain ⟨_, -, h⟩ := hq.exists_of_mem ho
      exact .inr h

end Sys2Proof.Machine
end

section
/-!
PROOF. The Grinder's commands one by one (R139, R203, R204, R208, R212, R213, R216 to R218).
-/

namespace Sys2Proof.Machine

/-- Reads of a new job have joined the queue, one for each reference. -/
def Reading (s t : State) (refs : List FlashRef) : Prop :=
  ∃ l : List MediaOp, t.media.queue = s.media.queue ++ l ∧ l.map MediaOp.ref = refs.map some ∧
    ∀ o ∈ l, o.kind = .read ∧ o.issuer = .grinder ∧ o.issued = false ∧ o.job = some s.media.nextJob

theorem startReads_reading (s : State) (k : JobKind) {refs : List FlashRef} (h : refs ≠ []) :
    Reading s (s.startReads k refs) refs ∧ (s.startReads k refs).media.groups = s.media.groups ∧
    (s.startReads k refs).media.relocate = s.media.relocate := by
  obtain ⟨q, n, jobs, m, he, hq⟩ := startReads_spec s k h
  rw [he]
  refine ⟨⟨q, rfl, isRead_refs hq, fun o ho => ?_⟩, rfl, rfl⟩
  obtain ⟨_, -, -, hread⟩ := hq.exists_of_mem ho
  exact hread

theorem startMove_reading {s : State} {ref : FlashRef} (ha : s.activeJob = none) (hw : s.jobWaits (.move ref) = false) (hf : s.freeSlots .grinder ≠ 0) :
    Reading s (s.startMove ref) [ref] ∧ (s.startMove ref).media.relocate = s.media.relocate := by
  rw [State.startMove, if_neg (by simp [ha, hw, hf])]
  obtain ⟨h, -, hr⟩ := startReads_reading s (.move ref) (List.cons_ne_nil ref [])
  exact ⟨h, hr⟩

-- ---------------------------------------------------------------- folding (R208)

theorem foldSegment_eq {s : State} (hg : s.grinds = true) (grp : GroupId) : exec (.foldSegment grp) s = .next (s.foldOn grp) :=
  congrArg Host.Outcome.next (if_pos hg)

theorem foldSegment_reads {s : State} (hg : s.grinds = true) {grp : GroupId} {x : Seg} (hj : s.foldJob grp = none) (hx : (s.group grp).foldSeg = some x)
    (hfold : s.foldable grp x = true) (ha : s.activeJob = none) (hw : s.jobWaits (.fold grp x.seq) = false)
    (hs : (s.segUnits grp x.place).length ≤ s.freeSlots .grinder) (hu : s.segUnits grp x.place ≠ []) :
    ∃ t, exec (.foldSegment grp) s = .next t ∧ Reading s t ((s.segUnits grp x.place).map fun u => .journal grp u) ∧
      (t.group grp).foldSeq = (s.group grp).foldSeq := by
  have he : s.foldOn grp = s.startReads (.fold grp x.seq) ((s.segUnits grp x.place).map fun u => .journal grp u) := by
    rw [State.foldOn, hj]
    simp only [State.startFold, hx]
    rw [if_neg (by simp [hfold, ha, hw, hs]), Fin.ofNat_val_eq_self]
  obtain ⟨hread, hgroups, -⟩ := startReads_reading s (.fold grp x.seq) (refs := (s.segUnits grp x.place).map fun u => .journal grp u) (by simpa using hu)
  refine ⟨_, (foldSegment_eq hg grp).trans (congrArg _ he), hread, ?_⟩
  rw [State.group, hgroups, ← State.group]

/-- What a fold leaves once its image is programmed: the fold point, the index entries, and the image in its group. -/
def FoldStands (s t : State) (g group : Nat) (img : SysImage) (j : Job) (f : Nat × Nat × List Byte) : Prop :=
  (t.group g).foldSeq = f.1 ∧ (t.group g).foldBlock = f.2.1 ∧ (t.group g).foldLink = f.2.2 ∧ (∀ r ∈ j.recs, r ∈ t.media.bulk) ∧
  (∀ r ∈ t.media.bulk, r ∈ j.recs ∨ r ∈ s.media.bulk) ∧ (group, img) ∈ t.media.sysImages

theorem sysDone_fold {s : State} {g q group : Nat} {img : SysImage} {j : Job} {f : Nat × Nat × List Byte} (himg : s.media.sysOpen = some img)
    (hj : s.sysJob = some j) (hjk : j.kind = .fold g q) (hf : j.fold = some f) :
    FoldStands s (s.sysDone group) g group img j f ∧ (s.sysDone group).zdp = s.zdp := by
  let v : State := { s with media := { s.media with sysImages := Tab.insert group img s.media.sysImages, sysOpen := none } }
  have hd : s.sysDone group = ((v.applyJob j).dropJob j.id).sysTry := by
    have hv : v.sysJob = some j := hj
    simp only [State.sysDone, himg]
    exact congrArg State.sysTry (by simp only [v] at hv ⊢; rw [hv])
  obtain ⟨h1, h2, h3, h4, h5, h6, h7⟩ := applyJob_fold (s := v) hjk hf
  obtain ⟨jobs, ver, d, o, queue, n, hs⟩ := sysTry_frame ((v.applyJob j).dropJob j.id)
  rw [hd, hs]
  exact ⟨⟨h1, h2, h3, h4, h5, (congrArg ((group, img) ∈ ·) h6).mpr (Tab.mem_insert_self ..)⟩, h7⟩

/-- The image of the system area that a fold waits for, once programmed, makes the fold true (R208 step 5). -/
theorem foldImage_programmed {s : State} {id : Nat} {o : MediaOp} {st : Byte} {data : List Byte} {img : SysImage} {j : Job} {g q : Nat}
    {f : Nat × Nat × List Byte}
    (ho : (s.media.queue.find? fun x => x.id == id && x.issued && x.susp != 2 && !s.pieceLeft x) = some o) (hs : o.susp = 0) (hk : o.kind = .program)
    (har : o.area = .system) (hi : o.issuer = .grinder) (himg : s.media.sysOpen = some img) (hj : s.sysJob = some j) (hjk : j.kind = .fold g q)
    (hf : j.fold = some f) :
    ∃ t, exec (.mediaOpComplete id (.done st) data) s = t.serveWaiting ∧ (s.zdp.backlog = [] → exec (.mediaOpComplete id (.done st) data) s = .next t) ∧
      FoldStands s t g o.group img j f := by
  have hc : s.complete o (.done st) data = some (((s.dropOp o.id).stamp .system).sysDone o.group) := by
    simp only [State.complete, hk, State.programDone, har, hi]
    exact congrArg some (if_neg (by decide))
  obtain ⟨hstands, hz⟩ := sysDone_fold (s := (s.dropOp o.id).stamp .system) (group := o.group) himg hj hjk hf
  have he : exec (.mediaOpComplete id (.done st) data) s = _ := mediaOpComplete_eq ho hs hc
  obtain ⟨queue, c, hr⟩ := resumeOn_frame (((s.dropOp o.id).stamp .system).sysDone o.group) o.lun
  refine ⟨_, he, fun hb => he.trans (serveWaiting_idle ?_), ?_⟩
  · rw [hr]
    exact (congrArg Zdp.backlog hz).trans hb
  · rw [hr]
    exact hstands

-- ---------------------------------------------------------------- scrub reads (R203, R213)

theorem flashScrubRead_enqueues {s : State} (hg : s.grinds = true) (area : FlashArea) (part item : Nat) (hh : s.refHeld (s.scrubRef area part item) = true)
    (hf : s.freeSlots .grinder ≠ 0) (hw : s.jobWaits (.move (s.scrubRef area part item)) = false)
    (hq : ∀ o ∈ s.media.queue, o.ref = some (s.scrubRef area part item) → o.issuer ≠ .grinder) :
    ∃ t o, exec (.flashScrubRead area part item) s = .next t ∧ t.media.queue = s.media.queue ++ [o] ∧ o.kind = .read ∧ o.issuer = .grinder ∧
      o.issued = false ∧ o.ref = some (s.scrubRef area part item) ∧ o.lun = s.refLun (s.scrubRef area part item) ∧ o.job = none := by
  have hnone : (s.media.queue.any fun o => o.ref == some (s.scrubRef area part item) && o.issuer == .grinder) = false := by
    simpa [List.any_eq_false] using hq
  exact ⟨_, _, if_neg (by simp [hg, hh, hf, hw, hnone]), rfl, rfl, rfl, rfl, rfl, rfl, rfl⟩

/-- What a read of the scrub leaves: its block's reads, the relocation queue, and the counter of what no stage could read. -/
theorem scrubRead_completes {s : State} {id : Nat} {o : MediaOp} {ref : FlashRef} (own : ReadTry) (members : List ReadTry) (corrected : Nat) (data : List Byte)
    (ho : (s.media.queue.find? fun x => x.id == id && x.issued && x.susp != 2 && !s.pieceLeft x) = some o) (hs : o.susp = 0) (hk : o.kind = .read)
    (hi : o.issuer = .grinder) (hj : o.job = none) (href : o.ref = some ref) :
    ∃ t, exec (.mediaOpComplete id (.read own members corrected) data) s = t.serveWaiting ∧
      (s.zdp.backlog = [] → exec (.mediaOpComplete id (.read own members corrected) data) s = .next t) ∧
      Tab.get 0 (t.lun (s.refLun ref)).reads (s.refBlock ref) = s.readsOf ref ∧
      (ref ∈ t.media.relocate ↔ ref ∈ s.media.relocate ∨ s.asksMove ref ((s.dropOp id).readStage ref own members) corrected) ∧
      ((s.dropOp id).readStage ref own members = 5 →
        t.roGet (okey (0x0D20 + s.refLun ref / 32) 13) = (s.roGet (okey (0x0D20 + s.refLun ref / 32) 13) + 1) % 2 ^ 64) := by
  obtain rfl := completing_id ho
  generalize hst : (s.dropOp o.id).readStage ref own members = stage
  let u := (s.dropOp o.id).readDone ref stage ((s.dropOp o.id).recoveryNs ref own members) corrected false
  let v := if stage = 5 then u.readLost ref else u
  let w := v.readTo o ref (stage != 5)
  have hfore : o.foreground = false := by simp [MediaOp.foreground, MediaOp.rank, hi]
  have hc : s.complete o (.read own members corrected) data = some w := by
    simp only [State.complete, hk, href, State.readEnd, hst, hfore]
    rfl
  obtain ⟨hreads, hmove, h5, hz⟩ := readDone_spec (s.dropOp o.id) ref stage ((s.dropOp o.id).recoveryNs ref own members) corrected
  have hv : ReadKept u v ∧ v.ro = u.ro := by
    unfold v
    split
    · exact readLost_kept u ref
    · exact ⟨⟨rfl, rfl, rfl⟩, rfl⟩
  have hw : ReadKept v w := (readTo_kept hi hj ref _).1
  obtain ⟨⟨hvl, hvr, hvz⟩, hvro⟩ := hv
  obtain ⟨hwl, hwr, hwz⟩ := hw
  have he : exec (.mediaOpComplete o.id (.read own members corrected) data) s = _ := mediaOpComplete_eq ho hs hc
  obtain ⟨queue, c, hr⟩ := resumeOn_frame w o.lun
  refine ⟨_, he, fun hb => he.trans (serveWaiting_idle ?_), ?_, ?_, fun hlost => ?_⟩
  · rw [hr]
    exact (congrArg Zdp.backlog (hwz.trans (hvz.trans hz))).trans hb
  · rw [hr]
    refine Eq.trans ?_ hreads
    exact congrArg (fun l : Tab Lun => Tab.get 0 (Tab.get Lun.absent l (s.refLun ref)).reads (s.refBlock ref)) (hwl.trans hvl)
  · rw [hr]
    exact (congrArg (ref ∈ ·) (hwr.trans hvr)).to_iff.trans hmove
  · have hw' : w = v := (readTo_kept hi hj ref (stage != 5)).2 (by simp [hlost])
    rw [hr]
    refine Eq.trans ?_ (h5 hlost)
    exact congrArg (fun r => Tab.get 0 r (okey (0x0D20 + s.refLun ref / 32) 13)) ((congrArg State.ro hw').trans hvro)

theorem readStage_own {s : State} {id : Nat} {ref : FlashRef} {own : ReadTry} (members : List ReadTry)
    (hr : (s.lun (s.refLun ref)).rebuilding = false) (ht : tryStage own < 4) : (s.dropOp id).readStage ref own members = tryStage own := by
  have hr' : ((s.dropOp id).lun ((s.dropOp id).refLun ref)).rebuilding = false := hr
  unfold State.readStage
  rw [hr']
  exact if_pos ⟨by decide, ht⟩

-- ---------------------------------------------------------------- relocation (R139, R213)

theorem relocation_dead {s : State} (hg : s.grinds = true) {ref : FlashRef} (hq : ref ∈ s.media.relocate) (hl : s.refLive ref = false) :
    exec (.relocation ref) s = .next (s.moved ref) :=
  (if_neg (by simp [hg, hq])).trans (if_pos (by simp [hl]))

theorem relocation_journal {s : State} (hg : s.grinds = true) {g : GroupId} {p : Nat} (hq : .journal g p ∈ s.media.relocate)
    (hl : s.refLive (.journal g p) = true) : exec (.relocation (.journal g p)) s = exec (.foldSegment g) s :=
  ((if_neg (by simp [hg, hq])).trans (if_neg (by simp [hl]))).trans (foldSegment_eq hg g).symm

theorem relocation_parity {s : State} (hg : s.grinds = true) {g : GroupId} {row : Nat} (hq : .parity g row ∈ s.media.relocate)
    (hl : s.refLive (.parity g row) = true) : exec (.relocation (.parity g row)) s = exec (.foldSegment g) s :=
  ((if_neg (by simp [hg, hq])).trans (if_neg (by simp [hl]))).trans (foldSegment_eq hg g).symm

/-- The system area is relocated by its next image. -/
theorem relocation_system {s : State} (hg : s.grinds = true) (hq : .system ∈ s.media.relocate) (hl : s.refLive .system = true) :
    ∃ t, exec (.relocation .system) s = .next t ∧ FlashRef.system ∉ t.media.relocate ∧ (t.media.sysDirty = true ∨ t.media.sysOpen ≠ none) := by
  refine ⟨(s.tableChanged.moved .system).sysTry, (if_neg (by simp [hg, hq])).trans (if_neg (by simp [hl])), ?_, sysTry_dirty rfl⟩
  obtain ⟨jobs, v, d, o, q, n, h⟩ := sysTry_frame (s.tableChanged.moved .system)
  rw [h]
  exact not_mem_moved s.tableChanged .system

/-- Anything else is relocated by a job that reads it first. -/
theorem relocation_reads {s : State} (hg : s.grinds = true) {ref : FlashRef} (hq : ref ∈ s.media.relocate) (hl : s.refLive ref = true)
    (hj : ∀ g p, ref ≠ .journal g p) (hp : ∀ g row, ref ≠ .parity g row) (hsys : ref ≠ .system) (hm : s.moveJob ref = none) (ha : s.activeJob = none)
    (hw : s.jobWaits (.move ref) = false) (hf : s.freeSlots .grinder ≠ 0) :
    ∃ t, exec (.relocation ref) s = .next t ∧ Reading s t [ref] ∧ ref ∈ t.media.relocate := by
  obtain ⟨hread, hrel⟩ := startMove_reading ha hw hf
  refine ⟨s.startMove ref, (if_neg (by simp [hg, hq])).trans ((if_neg (by simp [hl])).trans ?_), hread, hrel ▸ hq⟩
  cases ref with
  | journal g p => exact absurd rfl (hj g p)
  | parity g row => exact absurd rfl (hp g row)
  | system => exact absurd rfl hsys
  | bulk id => rw [hm]
  | page n => rw [hm]
  | image num ver b => rw [hm]

-- ---------------------------------------------------------------- erases, wear and expiry (R206, R212, R216)

theorem journalErase_eq {s : State} (hg : s.grinds = true) {grp : GroupId} {bulk : Bool} {n : Nat} (hf : 8 ≤ s.freeSlots .grinder)
    (he : s.erasable grp bulk n = true) : exec (.journalErase grp bulk n) s = .next (s.eraseStripe grp bulk n) :=
  if_neg (by simp [hg, hf, he])

theorem wearLevelling_eq {s : State} (hg : s.grinds = true) {lun k : Nat} (hu : (s.lun lun).uneven = true) (hst : (s.lun lun).state = 1)
    (hk : s.leastWorn lun = some k) : exec (.wearLevelling lun) s = .next (s.queueMoves (s.stripeRefs k)) := by
  refine (if_neg (by simp [hg, hu, hst])).trans ?_
  simp only [hk]

theorem recordExpiry_eq {s : State} (hg : s.grinds = true) {id : Nat} {b : BulkRec} (hb : (s.media.bulk.find? fun b => b.id == id) = some b) :
    exec (.recordExpiry id) s = .next (if s.expired b.retention b.frame then s.startMove (.bulk id) else s) := by
  refine (if_neg (not_not_intro hg)).trans ?_
  simp only [hb]

-- ---------------------------------------------------------------- deadlines (R217)

theorem jobMiss_counts {s : State} {job : Fin 8} (ms : Nat) (h : s.jobLate job = true) :
    ∃ t, exec (.grinderJobMiss job ms) s = .next t ∧ t.log.nextSeq = (s.log.nextSeq + 1) % 2 ^ 32 ∧
      t.roGet (okey 0x0D78 (job.val + 1)) = (s.roGet (okey 0x0D78 (job.val + 1)) + 1) % 2 ^ 32 :=
  ⟨_, if_neg (not_not_intro h), State.logEvent_nextSeq .., State.roGet_count ..⟩

-- ---------------------------------------------------------------- the scrubs (R256, R257, R259)

/-- What a scrub that runs as `scrubOf` does, by what it found. -/
theorem scrub_cases {s : State} {a : Nat} {f : EccFinding} {i : Instr} {key : Nat} (hup : s.upset a = .none) (hk : countsAt (cwOf a) key s)
    (he : ∃ rep, exec i s = .next (s.scrubOf (cwOf a) f rep)) :
    (wrongSymbols f = 0 → ∃ t, exec i s = .next t ∧ t.mem = s.mem ∧ t.upsets = s.upsets ∧ t.poison = s.poison ∧ t.ro = s.ro) ∧
    (0 < wrongSymbols f → wrongSymbols f ≤ symbolLimit (cwOf a) → ∃ t, exec i s = .next t ∧ t.upset a = .none ∧ t.mem = s.mem ∧ t.poison = s.poison ∧
      t.roGet key = (s.roGet key + 1) % 2 ^ 64) ∧
    (symbolLimit (cwOf a) < wrongSymbols f → Config.eccWrong (memOf (cwOf a)) (s.bytes (cwOf a) (codeWord (memOf (cwOf a)))) f.wrong = none →
      ∃ t, exec i s = .next t ∧ t.upset a = .uncorrectable ∧ t.mem = s.mem ∧
        ((s.poison.filter fun x => x.1 == poisonOf (cwOf a)).length < 64 → (poisonOf (cwOf a), cwOf a) ∈ t.poison)) ∧
    (∀ l, symbolLimit (cwOf a) < wrongSymbols f → Config.eccWrong (memOf (cwOf a)) (s.bytes (cwOf a) (codeWord (memOf (cwOf a)))) f.wrong = some l →
      ∃ t, exec i s = .next t ∧ t.upset a = .none ∧ t.poison = s.poison ∧
        t.mem = memWriteBut [] (cwOf a) (sliceZ l 0 (codeWord (memOf (cwOf a)))) s.mem) := by
  obtain ⟨rep, he⟩ := he
  exact ⟨fun h => ⟨_, he, scrubOf_clean f rep hup h⟩, fun h0 h => ⟨_, he, scrubOf_corrected f rep hup h0 h hk⟩,
    fun h hw => ⟨_, he, scrubOf_poisoned f rep hup h hw⟩, fun l h hw => ⟨_, he, scrubOf_mistaken f rep hup h hw⟩⟩

/-- Settles O52: the Grinder's commands one by one, and the scrubs by what they find in the code word. -/
theorem grinderJobs : Obligations.GrinderJobs := by
  intro s
  refine ⟨fun hg => ⟨?_, ?_, ?_, ?_, ?_, ?_, ?_, ?_⟩, ?_, fun job ms => ⟨fun h => if_pos (by simp [h]), jobMiss_counts ms⟩⟩
  · exact fun grp x hj hx hfold ha hw hs hu => foldSegment_reads hg hj hx hfold ha hw hs hu
  · exact fun id o st data img j g q f ho hs hk har hi himg hj hjk hf => foldImage_programmed ho hs hk har hi himg hj hjk hf
  · exact fun area part item hh hf hw hq => flashScrubRead_enqueues hg area part item hh hf hw hq
  · exact fun id o ref own members corrected data ho hs hk hi hj href =>
      ⟨readStage_own members, scrubRead_completes own members corrected data ho hs hk hi hj href⟩
  · intro ref hq
    refine ⟨fun hl => ⟨_, relocation_dead hg hq hl, not_mem_moved s ref, rfl⟩, fun hl => ⟨?_, ?_, ?_, ?_⟩⟩
    · rintro g p rfl
      exact relocation_journal hg hq hl
    · rintro g row rfl
      exact relocation_parity hg hq hl
    · rintro rfl
      exact relocation_system hg hq hl
    · exact relocation_reads hg hq hl
  · intro grp bulk n hf he
    obtain ⟨hlen, hmem, hops⟩ := eraseStripe_spec s grp bulk n
    exact ⟨_, journalErase_eq hg hf he, hlen, hmem, hops⟩
  · exact fun lun k hu hst hk => ⟨_, wearLevelling_eq hg hu hst hk, mem_queueMoves _ s⟩
  · intro id b hb
    refine ⟨fun h => (recordExpiry_eq hg hb).trans (by rw [h]; rfl), fun h ha hw hf => ?_⟩
    exact ⟨_, (recordExpiry_eq hg hb).trans (congrArg _ (if_pos h)), (startMove_reading ha hw hf).1⟩
  · intro a f hup
    refine ⟨fun ha => scrub_cases hup ?_ (sramScrub_eq f s ha), fun ha hc => scrub_cases hup (countsAt_dram (memOf_cwOf_dram ha) s) (dramScrub_eq f s ha hc)⟩
    obtain ⟨h3, h4⟩ := memOf_cwOf_sram ha
    exact countsAt_sram h3 h4 s

end Sys2Proof.Machine
end

section
/-!
PROOF. What boot changes, step by step (R196 to R200, R235, R502, R526, R527, R550).
-/

namespace Sys2Proof.Machine

-- ---------------------------------------------------------------- discovery (R196)

/-- Only the media, the log and the objects differ. -/
def MediaOnly (s t : State) : Prop := ∃ m l o, t = { s with media := m, log := l, obj := o }

theorem MediaOnly.refl (s : State) : MediaOnly s s := ⟨_, _, _, rfl⟩

theorem MediaOnly.trans {s t u : State} (h : MediaOnly s t) (h' : MediaOnly t u) : MediaOnly s u := by
  obtain ⟨_, _, _, rfl⟩ := h
  obtain ⟨_, _, _, rfl⟩ := h'
  exact ⟨_, _, _, rfl⟩

theorem MediaOnly.media (s : State) (m : Media) : MediaOnly s { s with media := m } := ⟨_, _, _, rfl⟩

theorem MediaOnly.foldl {β : Type} {f : State → β → State} (h : ∀ a b, MediaOnly a (f a b)) (l : List β) (s : State) : MediaOnly s (l.foldl f s) := by
  induction l generalizing s with
  | nil => exact .refl s
  | cons b l ih => exact (h s b).trans (ih _)

theorem MediaOnly.ite {s a b : State} {c : Prop} [Decidable c] (ha : MediaOnly s a) (hb : MediaOnly s b) : MediaOnly s (if c then a else b) := by
  split
  · exact ha
  · exact hb

theorem refreshL_media (s : State) (ch : Nat) : MediaOnly s (s.refreshL ch) := .ite (.refl s) (.media s _)

theorem markStripes_media (s : State) (g : Nat) : MediaOnly s (s.markStripes g) := .media s _

theorem queueMove_media (s : State) (ref : FlashRef) : MediaOnly s (s.queueMove ref) := .ite (.refl s) (.media s _)

theorem queueMoves_media (s : State) (l : List FlashRef) : MediaOnly s (s.queueMoves l) := .foldl queueMove_media l s

theorem retireLun_media (s : State) (n : Nat) : MediaOnly s (s.retireLun n) := .ite (.refl s) ((MediaOnly.media s _).trans (refreshL_media _ _))

theorem leaveService_media (s : State) (n : Nat) : MediaOnly s (s.leaveService n) :=
  .ite (.refl s) ((((retireLun_media s n).trans (queueMoves_media _ _)).trans (.media _ _)).trans (markStripes_media _ _))

theorem takeObject_media (s : State) (key v : Nat) : MediaOnly s (s.takeObject key v) := .ite (.refl s) ⟨_, _, _, rfl⟩

theorem takeRoles_media (s : State) (t : SysTables) : MediaOnly s (s.takeRoles t) :=
  (MediaOnly.foldl (fun a _ => takeObject_media a _ _) _ _).trans (.foldl (fun a _ => takeObject_media a _ _) _ _)

theorem takeTables_media (s : State) (t : SysTables) : MediaOnly s (s.takeTables t) :=
  (MediaOnly.media s _).trans (.foldl (fun a _ => .media a _) _ _)

theorem chanFound_media (s : State) (ch : Nat) (f : ChanFacts) : MediaOnly s (s.chanFound ch f) := by
  have hlog : MediaOnly s (match f.mismatch with
      | some m => s.logEvent 0x0401 2 [BitVec.ofNat 8 ch, BitVec.ofNat 8 m.1, BitVec.ofNat 8 m.2]
      | none => s) := by
    split
    · exact ⟨_, _, _, rfl⟩
    · exact .refl s
  exact hlog.trans (.media _ _)

theorem lunsFound_media (s : State) (scan : Bool) (ch : Nat) (f : ChanFacts) : MediaOnly s (s.lunsFound scan ch f) := .foldl (fun a _ => .media a _) _ _

theorem numberLuns_media (s : State) (blank : Bool) (ch role : Nat) : MediaOnly s (s.numberLuns blank ch role) :=
  .ite ((MediaOnly.foldl (fun a _ => .ite (.media a _) (.refl a)) _ _).trans (.foldl (fun a _ => .media a _) _ _))
    (.foldl (fun a _ => .ite (.refl a) (.media a _)) _ _)

theorem groupFound_media (s : State) (g : Nat) : MediaOnly s (s.groupFound g) := (MediaOnly.media s _).trans (markStripes_media _ _)

theorem retirements_media (s : State) : MediaOnly s s.retirements :=
  .foldl (fun a _ => .ite (queueMoves_media a _) (.ite (leaveService_media a _) (.refl a))) _ _

theorem discover_media (s : State) (w : BootFacts) : MediaOnly s (s.discover w) := by
  unfold State.discover
  dsimp only
  refine .trans ?_ ((retirements_media _).trans (.media _ _))
  refine .trans ?_ (.foldl groupFound_media _ _)
  refine .trans ?_ (.foldl (fun a _ => ((numberLuns_media a _ _ _).trans (numberLuns_media _ _ _ _)).trans (refreshL_media _ _)) _ _)
  cases newestImage w.sysGood ((((natRange 0 32).zip w.chans).foldl (fun a x => a.chanFound x.1 x.2) s).media.sysImages) with
  | none =>
    refine .trans (.trans ?_ (.foldl (fun a _ => lunsFound_media a _ _ _) _ _)) (.media _ _)
    exact .foldl (fun a _ => chanFound_media a _ _) _ _
  | some i =>
    refine .trans (.trans (.trans ?_ (takeRoles_media _ _)) (.foldl (fun a _ => lunsFound_media a _ _ _) _ _)) (takeTables_media _ _)
    exact .foldl (fun a _ => chanFound_media a _ _) _ _

-- ---------------------------------------------------------------- homes and carriers (R527)

theorem assignHomes_frame (l given : List Nat) (s : State) : ∃ lc c, s.assignHomes l given = { s with lcores := lc, cores := c } := by
  induction l generalizing given s with
  | nil => exact ⟨_, _, rfl⟩
  | cons n l ih =>
    unfold State.assignHomes
    split
    · exact ih given s
    next cl c _ =>
      obtain ⟨lc, k, h⟩ := ih (c :: given) ((s.setLcore n { LCore.reset with carrier := some c, home := cl }).setCore c
        { (((s.setLcore n { LCore.reset with carrier := some c, home := cl }).core c).srSet 0x036 (BitVec.ofNat 32 n)) with run := .idle })
      exact ⟨lc, k, h⟩

-- ---------------------------------------------------------------- domains (R502, R550)

theorem setDomain_frame (s : State) (d st : Nat) : ∃ p, s.setDomain d st = { s with power := p } := by
  unfold State.setDomain
  split <;> exact ⟨_, rfl⟩

/-- A core that reports a fault is held; the device's other parts stay. -/
theorem reportFault_frame (s : State) (c cause : Nat) :
    ∃ k l q r, s.reportFault c cause = { s with cores := k, locks := l, lockQueue := q, repair := r } ∧ (Tab.get Core.reset k c).faulted = true := by
  unfold State.reportFault
  dsimp only
  split <;> exact ⟨_, _, _, _, rfl, congrArg Core.faulted (Tab.get_insert_self ..)⟩

/-- What a loss of power does to the cores of a domain. -/
theorem coresFault_frame (s : State) (d : Nat) : ∃ k l q r, s.coresFault d = { s with cores := k, locks := l, lockQueue := q, repair := r } ∧
    (d < 68 → s.repair.retired.contains d = false → (Tab.get Core.reset k d).faulted = true) ∧ (85 ≤ d → k = s.cores) := by
  unfold State.coresFault
  dsimp only
  split
  next hd =>
    split
    next hr => exact ⟨_, _, _, _, rfl, fun _ h => absurd (hr.symm.trans h) (by decide), fun h => by omega⟩
    next =>
      obtain ⟨k, l, q, r, h, hf⟩ := reportFault_frame (s.setCore d { s.core d with scratchLost := true }) d 2
      exact ⟨k, l, q, r, h, fun _ _ => hf, fun h => by omega⟩
  next hd =>
    split
    next h85 =>
      have hfold : ∀ (cs : List Nat) (u : State), ∃ k l q r, cs.foldl (fun (u : State) c => if u.repair.retired.contains c then u else u.reportFault c 4) u =
          { u with cores := k, locks := l, lockQueue := q, repair := r } := by
        intro cs
        induction cs with
        | nil => exact fun u => ⟨_, _, _, _, rfl⟩
        | cons c cs ih =>
          intro u
          rw [List.foldl_cons]
          split
          · exact ih u
          · obtain ⟨k, l, q, r, h, -⟩ := reportFault_frame u c 4
            obtain ⟨k', l', q', r', h'⟩ := ih (u.reportFault c 4)
            exact ⟨k', l', q', r', h'.trans (by rw [h])⟩
      obtain ⟨k, l, q, r, h⟩ := hfold (natRange (4 * (d - 68)) 4) s
      exact ⟨k, l, q, r, h, fun h => absurd h hd, fun h => by omega⟩
    next => exact ⟨_, _, _, _, rfl, fun h => absurd h hd, fun _ => rfl⟩

/-- What a loss of power does (R502). -/
theorem powerLost_frame (s : State) (d : Nat) : ∃ k l q r, s.powerLost d =
      { (s.badPower d).logEvent 0x0704 3 [BitVec.ofNat 8 d] with cores := k, locks := l, lockQueue := q, repair := r } ∧
    (d < 68 → s.repair.retired.contains d = false → (Tab.get Core.reset k d).faulted = true) ∧ (85 ≤ d → k = s.cores) :=
  coresFault_frame ((s.badPower d).logEvent 0x0704 3 [BitVec.ofNat 8 d]) d

theorem badPower_good (s : State) (d : Fin 112) : (s.badPower d).power.good.getLsbD d = false := by
  have h : (s.badPower d).power.good = s.power.good &&& ~~~ (1#112 <<< d.val) := rfl
  rw [h]
  simp

end Sys2Proof.Machine
end

section
/-!
PROOF. The watchdog, the sensor round and power good (R500 to R502, R504).
-/

namespace Sys2Proof.Machine

-- ---------------------------------------------------------------- a sensor at or above a limit

theorem hotSensor_isSome {temps : List Int} {limit : Int} (h : ∃ x ∈ temps, limit ≤ x) : ∃ y, hotSensor temps limit = some y := by
  obtain ⟨x, hx, hl⟩ := h
  have hsnd : ((natRange 0 temps.length).zip temps).map Prod.snd = temps :=
    List.map_snd_zip (Nat.le_of_eq (by rw [natRange_eq_range', List.length_range']))
  rw [← hsnd] at hx
  obtain ⟨y, hy, rfl⟩ := List.mem_map.mp hx
  exact Option.isSome_iff_exists.mp (List.find?_isSome.mpr ⟨y, hy, by simpa using hl⟩)

-- ---------------------------------------------------------------- what the round keeps

/-- Objects, the power-fail sequence, and THERMTRIP_N stay. -/
def Sampled (s t : State) : Prop := t.obj = s.obj ∧ t.pf = s.pf ∧ t.barista.thermtrip = s.barista.thermtrip ∧ t.barista.stage = s.barista.stage

theorem Sampled.refl (s : State) : Sampled s s := ⟨rfl, rfl, rfl, rfl⟩

theorem Sampled.trans {s t u : State} (h : Sampled s t) (h' : Sampled t u) : Sampled s u :=
  ⟨h'.1.trans h.1, h'.2.1.trans h.2.1, h'.2.2.1.trans h.2.2.1, h'.2.2.2.trans h.2.2.2⟩

theorem Sampled.foldl {β : Type} {f : State → β → State} (h : ∀ a b, Sampled a (f a b)) (l : List β) (s : State) : Sampled s (l.foldl f s) := by
  induction l generalizing s with
  | nil => exact .refl s
  | cons b l ih => exact (h s b).trans (ih _)

theorem Sampled.ite {s a b : State} {c : Prop} [Decidable c] (ha : Sampled s a) (hb : Sampled s b) : Sampled s (if c then a else b) := by
  split
  · exact ha
  · exact hb

theorem railSample_sampled (s : State) (n mv : Nat) : Sampled s (s.railSample n mv) := by
  refine .ite ⟨rfl, rfl, rfl, rfl⟩ ?_
  exact .ite ⟨rfl, rfl, rfl, rfl⟩ ⟨rfl, rfl, rfl, rfl⟩

theorem bankSample_kept (s : State) (w : SensorFacts) : (s.bankSample w).pf = s.pf ∧ (s.bankSample w).barista.thermtrip = s.barista.thermtrip := by
  unfold State.bankSample
  dsimp only
  split <;> exact ⟨rfl, rfl⟩

/-- The warning of a thermal round. -/
def State.heatWarned (s : State) (temps : List Int) : State :=
  match hotSensor temps s.warnLimit with
  | some x => if s.barista.warnLatched then s else { (s.heatEvent 0x0701 1 x) with barista := { s.barista with warnLatched := true } }
  | none => if temps.all fun t => decide (t ≤ s.warnLimit - 20) then { s with barista := { s.barista with warnLatched := false } } else s

theorem heatWarned_sampled (s : State) (temps : List Int) : Sampled s (s.heatWarned temps) := by
  unfold State.heatWarned
  split
  · exact .ite (.refl s) ⟨rfl, rfl, rfl, rfl⟩
  · exact .ite ⟨rfl, rfl, rfl, rfl⟩ (.refl s)

/-- The temperatures of a round are shown. -/
def State.heatShown (s : State) (temps : List Int) : State :=
  (((natRange 0 24).zip temps).foldl (fun a x => a.roSet (okey 0x1000 (x.1 + 1)) (BitVec.ofInt 16 x.2).toNat) s).roSet (okey 0x1000 25)
    (BitVec.ofInt 16 (temps.foldl max (temps.headD 0))).toNat

theorem heatShown_sampled (s : State) (temps : List Int) : Sampled s (s.heatShown temps) :=
  (Sampled.foldl (f := fun (a : State) (x : Nat × Int) => a.roSet (okey 0x1000 (x.1 + 1)) (BitVec.ofInt 16 x.2).toNat) (fun _ _ => ⟨rfl, rfl, rfl, rfl⟩)
    ((natRange 0 24).zip temps) s).trans ⟨rfl, rfl, rfl, rfl⟩

theorem askShutdown_asked {s : State} (h : s.failing = false) (restart : Bool) : (s.askShutdown restart).pf.shutdownAsked = true := by
  rw [State.askShutdown, h]
  rfl

theorem askShutdown_frame (s : State) (restart : Bool) : ∃ p, s.askShutdown restart = { s with pf := p } ∧
    (s.pf.shutdownAsked = true → p.shutdownAsked = true) := by
  unfold State.askShutdown
  split
  · exact ⟨s.pf, rfl, id⟩
  · exact ⟨_, rfl, fun _ => rfl⟩

/-- A thermal round asks for an orderly shutdown at the critical limit (R502). -/
theorem thermal_spec (s : State) (temps : List Int) : (s.thermal temps).obj = s.obj ∧ (s.thermal temps).barista.thermtrip = s.barista.thermtrip ∧
    (s.failing = false → (∃ x ∈ temps, s.critLimit ≤ x) → (s.thermal temps).pf.shutdownAsked = true) := by
  let u := (s.heatShown temps).heatWarned temps
  obtain ⟨hobj, hpf, htrip, -⟩ : Sampled s u := (heatShown_sampled s temps).trans (heatWarned_sampled _ temps)
  have ht : s.thermal temps = match hotSensor temps u.critLimit with
    | some x => (u.heatEvent 0x0702 3 x).askShutdown false
    | none => u := rfl
  have hcrit : u.critLimit = s.critLimit := by rw [State.critLimit, State.critLimit, State.objNat, State.objNat, hobj]
  rw [ht, hcrit]
  cases hc : hotSensor temps s.critLimit with
  | none =>
    refine ⟨hobj, htrip, fun _ hx => ?_⟩
    obtain ⟨y, hy⟩ := hotSensor_isSome hx
    exact absurd (hc.symm.trans hy) nofun
  | some y =>
    obtain ⟨p, hp, -⟩ := askShutdown_frame (u.heatEvent 0x0702 3 y) false
    refine ⟨?_, ?_, fun hf _ => askShutdown_asked (s := u.heatEvent 0x0702 3 y) ((congrArg (fun p : PowerFail => p.stage != .none) hpf).trans hf) false⟩
    · exact (congrArg State.obj hp).trans hobj
    · exact (congrArg (fun t : State => t.barista.thermtrip) hp).trans htrip

/-- A loss of power good leaves Barista's figures, and a request for a shutdown. -/
theorem losePower_kept (s : State) (d : Nat) : (s.losePower d).barista = s.barista ∧ (s.pf.shutdownAsked = true → (s.losePower d).pf.shutdownAsked = true) := by
  obtain ⟨k, l, q, r, h, -⟩ := powerLost_frame s d
  unfold State.losePower
  split
  · exact ⟨rfl, id⟩
  split
  · rw [h]
    exact ⟨rfl, id⟩
  · obtain ⟨p, hp, hm⟩ := askShutdown_frame (s.powerLost d) false
    rw [hp]
    rw [h] at hm ⊢
    exact ⟨rfl, hm⟩

theorem losePowers_kept (l : List Nat) (s : State) : (l.foldl State.losePower s).barista = s.barista ∧
    (s.pf.shutdownAsked = true → (l.foldl State.losePower s).pf.shutdownAsked = true) := by
  induction l generalizing s with
  | nil => exact ⟨rfl, id⟩
  | cons d l ih =>
    obtain ⟨hb, hp⟩ := ih (s.losePower d)
    obtain ⟨hb', hp'⟩ := losePower_kept s d
    exact ⟨hb.trans hb', hp ∘ hp'⟩

-- ---------------------------------------------------------------- the round (R501, R502, R504)

/-- The firmware's part of a sensor round. -/
def State.sampled (s : State) (w : SensorFacts) : State :=
  ((natRange 0 8).zip w.rails).foldl (fun a x => a.railSample x.1 x.2) (s.thermal w.temps)

theorem sensorSample_eq (s : State) (w : SensorFacts) : exec (.sensorSample w) s = .next (if ¬ s.firmwareUp then s.tripped w.temps else
    (((natRange 0 112).filter fun d => !w.good.getLsbD d).foldl State.losePower (((s.tripped w.temps).sampled w).bankSample w))) := by
  have hup : (s.tripped w.temps).firmwareUp = s.firmwareUp := by
    unfold State.tripped
    split <;> rfl
  rw [← hup]
  exact (apply_ite Host.Outcome.next ..).symm

theorem sampled_spec (s : State) (w : SensorFacts) : (s.sampled w).obj = s.obj ∧ (s.sampled w).barista.thermtrip = s.barista.thermtrip ∧
    (s.failing = false → (∃ x ∈ w.temps, s.critLimit ≤ x) → (s.sampled w).pf.shutdownAsked = true) := by
  obtain ⟨hobj, htrip, hask⟩ := thermal_spec s w.temps
  obtain ⟨hobj', hpf', htrip', -⟩ : Sampled (s.thermal w.temps) (s.sampled w) := .foldl (fun a _ => railSample_sampled a _ _) _ _
  exact ⟨hobj'.trans hobj, htrip'.trans htrip, fun hf hx => (congrArg PowerFail.shutdownAsked hpf').trans (hask hf hx)⟩

/-- The bank's figures follow from the objects (R168, R504). -/
theorem bankSample_stated {s u : State} (w : SensorFacts) (h : u.obj = s.obj) (ht : s.testStated = true)
    (hmv : ((s.codeVolts w.bankCode.toNat).mul ⟨1000, 1⟩).floor < 2 ^ 32) :
    (u.bankSample w).barista.bankMv = ((s.codeVolts w.bankCode.toNat).mul ⟨1000, 1⟩).floor ∧ (u.bankSample w).barista.bankMa = s.bankAmps w.isenseUV := by
  have hcfg : ∀ sub d, u.cfgBits sub d = s.cfgBits sub d := fun sub d => by simp only [State.cfgBits, State.objNat, h]
  have hshunt : u.shunt = s.shunt := by rw [State.shunt, State.shunt, hcfg]
  have hdiv : u.kDiv = s.kDiv := by rw [State.kDiv, State.kDiv, hcfg]
  have htest : u.testStated = s.testStated := by rw [State.testStated, State.testStated, hshunt, hdiv, hcfg, hcfg]
  have hvolts : u.codeVolts w.bankCode.toNat = s.codeVolts w.bankCode.toNat := by rw [State.codeVolts, State.codeVolts, hdiv]
  have hamps : u.bankAmps w.isenseUV = s.bankAmps w.isenseUV := by rw [State.bankAmps, State.bankAmps, hshunt]
  unfold State.bankSample
  dsimp only
  rw [hvolts, if_pos ⟨htest.trans ht, hmv⟩]
  exact ⟨rfl, hamps⟩

theorem sensorSample_figures {s : State} (hup : s.firmwareUp = true) (w : SensorFacts) : ∃ t, exec (.sensorSample w) s = .next t ∧
    (s.testStated = true → ((s.codeVolts w.bankCode.toNat).mul ⟨1000, 1⟩).floor < 2 ^ 32 →
      t.barista.bankMv = ((s.codeVolts w.bankCode.toNat).mul ⟨1000, 1⟩).floor ∧ t.barista.bankMa = s.bankAmps w.isenseUV) ∧
    (s.failing = false → (∃ x ∈ w.temps, s.critLimit ≤ x) → t.pf.shutdownAsked = true) := by
  obtain ⟨hobj, -, hask⟩ := sampled_spec (s.tripped w.temps) w
  have htripped : (s.tripped w.temps).obj = s.obj ∧ (s.tripped w.temps).failing = s.failing ∧ (s.tripped w.temps).critLimit = s.critLimit := by
    unfold State.tripped
    split <;> exact ⟨rfl, rfl, rfl⟩
  obtain ⟨hobj', hfail, hcrit⟩ := htripped
  obtain ⟨hb, hp⟩ := losePowers_kept ((natRange 0 112).filter fun d => !w.good.getLsbD d) (((s.tripped w.temps).sampled w).bankSample w)
  refine ⟨_, (sensorSample_eq s w).trans (congrArg _ (if_neg (not_not_intro hup))), fun ht hmv => ?_, fun hf hx => hp ?_⟩
  · rw [hb]
    exact bankSample_stated w (hobj.trans hobj') ht hmv
  · rw [(bankSample_kept ..).1]
    exact hask (hfail.trans hf) (hcrit.symm ▸ hx)

theorem sensorSample_trips (s : State) (w : SensorFacts) (h : ∃ x ∈ w.temps, 1150 ≤ x) :
    ∃ t, exec (.sensorSample w) s = .next t ∧ t.barista.thermtrip = true := by
  obtain ⟨y, hy⟩ := hotSensor_isSome h
  have ht : (s.tripped w.temps).barista.thermtrip = true := by
    rw [State.tripped, hy]
    rfl
  refine ⟨_, sensorSample_eq s w, ite_keeps (fun t : State => t.barista.thermtrip) ht ?_⟩
  rw [(losePowers_kept _ _).1, (bankSample_kept ..).2, (sampled_spec ..).2.1]
  exact ht

-- ---------------------------------------------------------------- the watchdog (R500)

theorem watchdog_restarts {s : State} (hup : s.firmwareUp = true) (h : (s.barista.slot s.barista.running).state ≠ 3) :
    exec .watchdogExpiry s = .next s.restartFirmware :=
  (if_neg (not_not_intro hup)).trans (if_neg h)

theorem watchdog_trial {s : State} (hup : s.firmwareUp = true) (h : (s.barista.slot s.barista.running).state = 3) (hf : s.failing = false) :
    ∃ t, exec .watchdogExpiry s = .next t ∧ t.pf.shutdownAsked = true ∧ t.pf.restart = true := by
  refine ⟨s.askShutdown true, (if_neg (not_not_intro hup)).trans (if_pos h), askShutdown_asked hf true, ?_⟩
  rw [State.askShutdown, hf]
  exact Bool.or_true _

-- ---------------------------------------------------------------- power good (R502, R550)

theorem powerGoodLost_spec {s : State} (d : Fin 112) (hup : s.barista.stage = .up) (hon : s.domain d = 2) (hg : s.power.good.getLsbD d = true)
    (hf : s.failing = false) : ∃ t, exec (.powerGoodLost d) s = .next t ∧ t.power.good.getLsbD d = false ∧
      t.log.nextSeq = (s.log.nextSeq + 1) % 2 ^ 32 ∧ (d.val < 68 → s.repair.retired.contains d.val = false → (t.core d).faulted = true) ∧
      (85 ≤ d.val → t.pf.shutdownAsked = true ∧ t.cores = s.cores) := by
  obtain ⟨k, l, q, r, h, hlow, hhigh⟩ := powerLost_frame s d.val
  have he : exec (.powerGoodLost d) s = .next (if coreDomain d then s.powerLost d else (s.powerLost d).askShutdown false) :=
    (if_pos hup).trans (congrArg _ (if_neg (by simp [hon, hg])))
  refine ⟨_, he, ?_⟩
  by_cases hd : d.val < 85
  · rw [if_pos (show coreDomain d.val = true from decide_eq_true hd), h]
    exact ⟨badPower_good s d, rfl, hlow, fun h85 => by omega⟩
  · rw [if_neg (show ¬ coreDomain d.val = true by simpa [coreDomain] using hd)]
    have hask : ((s.powerLost d).askShutdown false).pf.shutdownAsked = true := askShutdown_asked (by rw [h]; exact hf) false
    obtain ⟨p, hp, -⟩ := askShutdown_frame (s.powerLost d) false
    refine ⟨?_, ?_, fun h68 => by omega, fun h85 => ⟨hask, ?_⟩⟩
    · rw [hp, h]
      exact badPower_good s d
    · rw [hp, h]
      rfl
    · rw [hp, h]
      exact hhigh h85

theorem domainPowerTimeout_spec {s : State} (d : Fin 112) (hup : s.barista.stage = .up) (hon : s.domain d = 2) :
    ∃ t, exec (.domainPowerTimeout d) s = .next t ∧ t.power.good.getLsbD d = false ∧ t.pf = s.pf := by
  obtain ⟨k, l, q, r, h, -⟩ := powerLost_frame (s.logEvent 0x1302 3 [BitVec.ofNat 8 d]) d.val
  refine ⟨_, if_neg (by simp [hup, hon]), ?_⟩
  split
  · rw [h]
    exact ⟨badPower_good _ d, rfl⟩
  · exact ⟨badPower_good _ d, rfl⟩

-- ---------------------------------------------------------------- NMI_N (R511, R559)

/-- NMI at one logical core of a mask. -/
def State.nmiOne (mask : Nat) (a : State) (l : Nat) : State :=
  match natBit mask l, (a.lcore l).carrier with
  | true, some c => a.setCore c { a.core c with nmiPend := true }
  | _, _ => a

theorem nmiMask_eq (s : State) (mask : Nat) : s.nmiMask mask = (natRange 0 s.nl).foldl (State.nmiOne mask) s := rfl

theorem nmiOne_kept (mask : Nat) (a : State) (l c : Nat) : (State.nmiOne mask a l).lcores = a.lcores ∧ (State.nmiOne mask a l).log = a.log ∧
    ((a.core c).nmiPend = true → ((State.nmiOne mask a l).core c).nmiPend = true) := by
  unfold State.nmiOne
  split
  next d _ _ =>
    refine ⟨rfl, rfl, fun h => ?_⟩
    by_cases hcd : c = d
    · rw [hcd, State.core_setCore]
    · rw [State.core_setCore_ne _ _ hcd]
      exact h
  · exact ⟨rfl, rfl, id⟩

theorem nmiOnes_kept (mask : Nat) (ls : List Nat) (a : State) (c : Nat) : (ls.foldl (State.nmiOne mask) a).log = a.log ∧
    ((a.core c).nmiPend = true → ((ls.foldl (State.nmiOne mask) a).core c).nmiPend = true) := by
  induction ls generalizing a with
  | nil => exact ⟨rfl, id⟩
  | cons l ls ih =>
    obtain ⟨-, hlog, hpend⟩ := nmiOne_kept mask a l c
    obtain ⟨hlog', hpend'⟩ := ih (State.nmiOne mask a l)
    exact ⟨hlog'.trans hlog, hpend' ∘ hpend⟩

/-- Every carrier of a logical core of the mask has its NMI pending. -/
theorem nmiOnes_pend (mask : Nat) {ls : List Nat} {l c : Nat} (a : State) (hl : l ∈ ls) (hm : natBit mask l = true) (hc : (a.lcore l).carrier = some c) :
    ((ls.foldl (State.nmiOne mask) a).core c).nmiPend = true := by
  induction ls generalizing a with
  | nil => exact nomatch hl
  | cons m ls ih =>
    rcases List.mem_cons.mp hl with rfl | hl
    · refine (nmiOnes_kept mask ls _ c).2 ?_
      rw [State.nmiOne, hm, hc]
      exact congrArg Core.nmiPend (State.core_setCore ..)
    · refine ih _ hl ?_
      rw [State.lcore, (nmiOne_kept mask a m c).1]
      exact hc

theorem nmiNAssert_spec (s : State) : ∃ t, exec .nmiNAssert s = .next t ∧ t.log.nextSeq = (s.log.nextSeq + 1) % 2 ^ 32 ∧
    (s.barista.stage = .up → s.failing = false → ∀ l c, l < s.nl → natBit (s.objNat (okey 0x1030 1) (2 ^ 64 - 1)) l = true →
      (s.lcore l).carrier = some c → (t.core c).nmiPend = true) ∧
    (s.barista.stage ≠ .up ∨ s.failing = true → t.cores = s.cores) := by
  by_cases h : s.barista.stage ≠ .up ∨ s.failing = true
  · refine ⟨s.logEvent 0x0906 0 [], if_pos h, rfl, fun hup hf => ?_, fun _ => rfl⟩
    exact absurd h (by simp [hup, hf])
  · refine ⟨_, if_neg h, ?_, fun _ _ l c hl hm hc => ?_, fun h' => absurd h' h⟩
    · rw [nmiMask_eq, (nmiOnes_kept _ _ _ 0).1]
      rfl
    · rw [nmiMask_eq]
      exact nmiOnes_pend _ (s.logEvent 0x0906 0 []) (mem_natRange.mpr ⟨Nat.zero_le l, lt_of_lt_of_eq hl (Nat.zero_add _).symm⟩) hm hc

-- ---------------------------------------------------------------- the mirrors of the log (R508)

theorem logNandMirror_enqueues {s : State} {g : Nat} (hm : s.media.present = true) (hf : s.failing = false) (hu : s.log.unmirrored s.log.nand ≠ [])
    (hs : s.freeSlots .barista ≠ 0) (hq : ∀ o ∈ s.media.queue, o.issuer = .barista → o.area ≠ .system)
    (hg : s.sysTarget (s.log.nextSeq / 128) = some g) :
    ∃ t o, exec .logNandMirror s = .next t ∧ t.media.queue = s.media.queue ++ [o] ∧ o.kind = .program ∧ o.issuer = .barista ∧ o.area = .system ∧
      o.issued = false ∧ o.data = ((s.log.unmirrored s.log.nand).take 128).flatMap Prod.snd ∧ t.log = s.log := by
  have hnone : (s.media.queue.any fun o => o.issuer == .barista && o.area == .system) = false := by
    simpa [List.any_eq_false] using hq
  have he : exec .logNandMirror s = .next (s.enqueue { mkOp .barista .program (s.journalLun (8 * g) 0) g (s.unitNs (8 * g)) with
      area := .system, stripe := s.sysStripe g, data := ((s.log.unmirrored s.log.nand).take 128).flatMap Prod.snd }) := by
    refine (if_neg (by simp [hm, hf, hu, hs, hnone])).trans ?_
    simp only [hg]
  exact ⟨_, _, he, rfl, rfl, rfl, rfl, rfl, rfl, rfl⟩

/-- Entries of 32 bytes stand one behind another. -/
theorem sliceZ_flatMap {es : List (Nat × List Byte)} (h : ∀ e ∈ es, e.2.length = 32) {i : Nat} (hi : i < es.length) :
    sliceZ (es.flatMap Prod.snd) (32 * i) 32 = es[i].2 := by
  induction es generalizing i with
  | nil => exact nomatch hi
  | cons e es ih =>
    have he : e.2.length = 32 := h e List.mem_cons_self
    cases i with
    | zero => simp [sliceZ, List.flatMap_cons, he]
    | succ i =>
      have hdrop : (e.2 ++ es.flatMap Prod.snd).drop (32 * (i + 1)) = (es.flatMap Prod.snd).drop (32 * i) := by
        rw [Nat.mul_succ, Nat.add_comm, ← List.drop_drop, List.drop_left' he]
      rw [List.getElem_cons_succ, ← ih (fun e he => h e (List.mem_cons_of_mem _ he)) (Nat.lt_of_succ_lt_succ hi), sliceZ, List.flatMap_cons, hdrop, sliceZ]

theorem length_flatMap_32 {es : List (Nat × List Byte)} (h : ∀ e ∈ es, e.2.length = 32) : (es.flatMap Prod.snd).length = 32 * es.length := by
  rw [List.length_flatMap, List.map_congr_left h, List.map_const', List.sum_replicate_nat, Nat.mul_comm]

/-- The block of the log that has been programmed joins the mirror. -/
theorem logDone_mirrors (s : State) {o : MediaOp} {es : List (Nat × List Byte)} (hd : o.data = es.flatMap Prod.snd)
    (h : ∀ e ∈ es, e.2.length = 32 ∧ e.1 = leField e.2 8 4) : s.logDone o = { s with log := { s.log with nand := (es.reverse ++ s.log.nand).take 2097152 } } := by
  have hlen : ∀ e ∈ es, e.2.length = 32 := fun e he => (h e he).1
  have hn : o.data.length / 32 = es.length := by rw [hd, length_flatMap_32 hlen, Nat.mul_div_cancel_left _ (by decide)]
  have hrows : ((natRange 0 (o.data.length / 32)).map fun i => (leField (sliceZ o.data (32 * i) 32) 8 4, sliceZ o.data (32 * i) 32)) = es := by
    rw [hn, natRange_eq_range', hd]
    refine List.ext_getElem (by simp) fun i _ hi => ?_
    rw [List.getElem_map, List.getElem_range', Nat.zero_add, Nat.one_mul, sliceZ_flatMap hlen hi, ← (h _ (List.getElem_mem hi)).2]
  exact congrArg (fun rows => { s with log := { s.log with nand := (rows.reverse ++ s.log.nand).take 2097152 } }) hrows

theorem logBlock_programmed {s : State} {id : Nat} {o : MediaOp} (st : Byte) (data : List Byte) {es : List (Nat × List Byte)}
    (ho : (s.media.queue.find? fun x => x.id == id && x.issued && x.susp != 2 && !s.pieceLeft x) = some o) (hs : o.susp = 0) (hk : o.kind = .program)
    (har : o.area = .system) (hi : o.issuer = .barista) (hd : o.data = es.flatMap Prod.snd) (h : ∀ e ∈ es, e.2.length = 32 ∧ e.1 = leField e.2 8 4) :
    ∃ t : State, exec (.mediaOpComplete id (.done st) data) s = t.serveWaiting ∧
      t.log = { s.log with nand := (es.reverse ++ s.log.nand).take 2097152 } := by
  have hc : s.complete o (.done st) data = some ((s.dropOp o.id).logDone o) := by
    simp only [State.complete, hk, State.programDone, har, hi, if_true]
  obtain ⟨queue, c, hr⟩ := resumeOn_frame ((s.dropOp o.id).logDone o) o.lun
  refine ⟨_, mediaOpComplete_eq ho hs hc, ?_⟩
  rw [hr, logDone_mirrors (s.dropOp o.id) hd h]
  rfl

theorem logNorMirror_eq {s : State} {e : Nat × List Byte} (hst : s.barista.stage ≠ .reset) (hsafe : s.pf.stage ≠ .safe)
    (h : ((s.log.unmirrored s.log.nor).find? fun e => decide (s.objNat (okey 0x1010 7) 2 ≤ leField e.2 14 1)) = some e) :
    exec .logNorMirror s = .next { s with log := { s.log with nor := (e :: s.log.nor).take 65536 } } := by
  refine (if_neg (not_or.mpr ⟨hst, hsafe⟩)).trans ?_
  simp only [h]

end Sys2Proof.Machine
end

section
/-!
PROOF. Boot, the resets, and adaptive voltage scaling (R513, R515, R516, R553 to R556, R560).
-/

namespace Sys2Proof.Machine

-- ---------------------------------------------------------------- the choice of a slot (R516)

/-- Only the firmware slots and the log differ. -/
def SlotOnly (s t : State) : Prop := ∃ a b l, t = { s with barista := { s.barista with slotA := a, slotB := b }, log := l }

theorem SlotOnly.refl (s : State) : SlotOnly s s := ⟨_, _, _, rfl⟩

theorem SlotOnly.trans {s t u : State} (h : SlotOnly s t) (h' : SlotOnly t u) : SlotOnly s u := by
  obtain ⟨_, _, _, rfl⟩ := h
  obtain ⟨_, _, _, rfl⟩ := h'
  exact ⟨_, _, _, rfl⟩

theorem setSlot_frame (b : Barista) (n : Nat) (x : Slot) : ∃ y z, b.setSlot n x = { b with slotA := y, slotB := z } := by
  unfold Barista.setSlot
  split <;> exact ⟨_, _, rfl⟩

theorem slotSkip_only (s : State) (n reason : Nat) : SlotOnly s (s.slotSkip n reason) := by
  obtain ⟨y, z, h⟩ := setSlot_frame s.barista n { (s.barista.slot n) with state := 0, attempts := 0 }
  refine ⟨y, z, (s.slotSkip n reason).log, ?_⟩
  rw [← h]
  rfl

theorem slotSpent_only (s : State) (n : Nat) : SlotOnly s (s.slotSpent n) := by
  unfold State.slotSpent
  split
  · exact slotSkip_only s n 4
  · exact .refl s

theorem spendTry_only (s : State) (n : Nat) : SlotOnly s (s.spendTry n) := by
  unfold State.spendTry
  dsimp only
  split
  · obtain ⟨y, z, h⟩ := setSlot_frame s.barista n { s.barista.slot n with attempts := (s.barista.slot n).attempts - 1 }
    exact ⟨y, z, s.log, by rw [h]⟩
  · exact .refl s

theorem trySlots_only (s : State) (w : BootFacts) (n : Nat) : SlotOnly s (s.trySlots w n).1 := by
  have hn := spendTry_only s n
  unfold State.trySlots
  dsimp only
  split
  · exact hn
  next r _ =>
    have hskip := hn.trans (slotSkip_only (s.spendTry n) n r)
    split
    · have hm := hskip.trans (spendTry_only _ (1 - n))
      split
      · exact hm
      · exact hm.trans (slotSkip_only ..)
    · exact hskip

theorem chooseSlot_only (s : State) (w : BootFacts) : SlotOnly s (s.chooseSlot w).1 := by
  have h := (slotSpent_only s 0).trans (slotSpent_only _ 1)
  unfold State.chooseSlot
  dsimp only
  split
  · exact h
  · exact h.trans (trySlots_only ..)

-- ---------------------------------------------------------------- the configuration and the values of a start (R472, R509)

theorem loadConfig_frame (s : State) (lost : Bool) : ∃ l n o a, s.loadConfig lost = { s with log := l, nor := n, obj := o, adm := a } := by
  cases lost <;> exact ⟨_, _, _, _, rfl⟩

theorem roSets_frame {β : Type} (key v : State → β → Nat) (l : List β) (s : State) :
    ∃ ro, l.foldl (fun (a : State) x => a.roSet (key a x) (v a x)) s = { s with ro := ro } := by
  induction l generalizing s with
  | nil => exact ⟨_, rfl⟩
  | cons x l ih =>
    obtain ⟨ro, h⟩ := ih (s.roSet (key s x) (v s x))
    exact ⟨ro, h⟩

theorem startValues_frame (s : State) : ∃ ro t, s.startValues = { s with ro := ro, timer := t } := by
  unfold State.startValues
  dsimp only
  generalize ([(okey 0x0E02 1, 0), (okey 0x0E02 2, 0), (okey 0x0E10 1, 0), (okey 0x0E10 2, 64), (okey 0x0400 5, 0), (okey 0x0206 1, 1), (okey 0x0200 1, 46230),
    (okey 0x0206 2, 500), (okey 0x0206 3, 2000),
    (okey 0x0206 4, 1), (okey 0x0204 1, 0), (okey 0x0205 1, 0), (okey 0x1301 1, 0)] : List (Nat × Nat)) = l
  obtain ⟨ro, h⟩ := roSets_frame (fun _ (x : Nat × Nat) => x.1) (fun a x => a.objNat x.1 x.2) l s
  rw [h]
  exact ⟨_, _, rfl⟩

-- ---------------------------------------------------------------- the rest of boot

/-- With no dead domain the boot groups go ON one after another (R550). -/
theorem powerUp_frame (gs : List (List Nat)) (s : State) : ∃ p, s.powerUp [] gs = ({ s with power := p }, true) := by
  induction gs generalizing s with
  | nil => exact ⟨_, rfl⟩
  | cons g gs ih =>
    have hon : ∀ (l : List Nat) (u : State), ∃ p, l.foldl (fun (a : State) d => a.setDomain d 2) u = { u with power := p } := by
      intro l
      induction l with
      | nil => exact fun u => ⟨_, rfl⟩
      | cons d l ih =>
        intro u
        obtain ⟨p, hp⟩ := setDomain_frame u d 2
        obtain ⟨q, hq⟩ := ih (u.setDomain d 2)
        exact ⟨q, by rw [List.foldl_cons, hq, hp]⟩
    obtain ⟨p, hp⟩ := hon (g.filter s.bootsOn) s
    obtain ⟨q, hq⟩ := ih { s with power := p }
    have hbad : (g.filter s.bootsOn).filter ([] : List Nat).contains = [] := List.filter_eq_nil_iff.mpr (by simp)
    refine ⟨q, ?_⟩
    rw [State.powerUp]
    rw [hbad, hp, List.foldl_nil, List.all_nil, if_pos rfl, hq]

theorem dramFound_barista (s : State) (c : Nat) (f : DramFacts) : (s.dramFound c f).barista = s.barista := by
  obtain ⟨p, h⟩ := setDomain_frame s (109 + c) 0
  unfold State.dramFound
  dsimp only
  split
  · rw [h]
  · simp only [State.roSet_barista]

theorem loadStored_frame (s : State) : ∃ m, s.loadStored = { s with micro := m } := by
  unfold State.loadStored
  dsimp only
  split <;> exact ⟨_, rfl⟩

theorem applyMap_barista (s : State) (w : BootFacts) : (s.applyMap w).barista = s.barista := by
  unfold State.applyMap
  dsimp only
  refine (foldl_keeps State.barista _ (fun _ _ => ?_) _ _).trans (ite_keeps State.barista rfl rfl)
  rfl

theorem freeKeys_barista (l : List Nat) (s : State) : (s.freeKeys l).barista = s.barista := by
  induction l generalizing s with
  | nil => rfl
  | cons p l ih => exact ih _

theorem enginePoke_barista (s : State) (pa : Nat) (l : List Byte) : (s.enginePoke pa l).barista = s.barista := by
  have hpoke (u : State) (pa : Nat) (l : List Byte) : (u.poke pa l).barista = u.barista := by
    obtain ⟨_, _, _, _, _, h⟩ := poke_poured u pa l
    rw [h]
  have hmeet (l : List Nat) : (s.meetWords l).1.barista = s.barista := by
    obtain ⟨_, _, _, _, h⟩ := meetWords_scrubs l s
    rw [h]
  unfold State.enginePoke
  dsimp only
  split
  · rfl
  split
  · rw [freeKeys_barista, hpoke]
  split
  · rw [hpoke, hmeet]
  · rw [hpoke]
    exact hmeet _

theorem loadImages_barista (s : State) : s.loadImages.barista = s.barista := by
  have hload (a : State) (num ver b : Nat) (tag : DWord) (data : List Byte) : (a.cacheLoad num ver b tag data).barista = a.barista := by
    unfold State.cacheLoad
    split
    · rfl
    split
    · rfl
    · exact enginePoke_barista ..
  refine foldl_keeps State.barista _ (fun a i => ?_) _ _
  unfold State.loadResident
  exact ite_keeps State.barista rfl (foldl_keeps State.barista _ (fun _ _ => hload ..) _ _)

theorem freshStart_barista (s : State) : s.freshStart.barista = s.barista := rfl

/-- Boot step 6 once the domains are ON: DRAM, media, homes, dead cores, microcode, images and policies. -/
def State.bootDevices (u : State) (w : BootFacts) : State :=
  let s := ((((u.dramFound 0 w.dram.1).dramFound 1 w.dram.2).discover w).assignHomes (natRange 0 64) [])
  let s := (w.deadDomains.filter fun d => coreDomain d && s.bootsOn d).foldl State.powerLost s
  let s := s.loadStored.loadImages
  { s with adm := { s.adm with policy := (natRange 0 64).map fun k => (k, s.policyOf k) } }

/-- The end of boot: it is logged, and media without a journal start afresh. -/
def State.bootEnd (y : State) (w : BootFacts) : State :=
  let s := { y with barista := { y.barista with stage := .up, bootMs := w.bootMs } }
  let s := s.logEvent 0x0901 0 ([BitVec.ofNat 8 s.barista.lastReset, 0, 0, 0] ++ leBytes 4 w.bootMs)
  if s.hasJournal then s else s.freshStart

theorem bootRest_eq (s : State) (w : BootFacts) : s.bootRest w =
    if ¬ ((s.applyMap w).powerUp w.deadDomains bootGroups).2 then
      { ((s.applyMap w).powerUp w.deadDomains bootGroups).1 with
        barista := { ((s.applyMap w).powerUp w.deadDomains bootGroups).1.barista with stage := .stuck } }
    else (((s.applyMap w).powerUp w.deadDomains bootGroups).1.bootDevices w).bootEnd w := rfl

theorem bootDevices_barista (u : State) (w : BootFacts) : (u.bootDevices w).barista = u.barista := by
  have hlost (l : List Nat) (a : State) : (l.foldl State.powerLost a).barista = a.barista := by
    refine foldl_keeps State.barista _ (fun a d => ?_) l a
    obtain ⟨_, _, _, _, h, -⟩ := powerLost_frame a d
    rw [h]
    rfl
  have hstored (a : State) : a.loadStored.barista = a.barista := by
    obtain ⟨_, h⟩ := loadStored_frame a
    rw [h]
  have hhomes (a : State) (l given : List Nat) : (a.assignHomes l given).barista = a.barista := by
    obtain ⟨_, _, h⟩ := assignHomes_frame l given a
    rw [h]
  have hmedia (a : State) : (a.discover w).barista = a.barista := by
    obtain ⟨_, _, _, h⟩ := discover_media a w
    rw [h]
  unfold State.bootDevices
  dsimp only
  rw [loadImages_barista, hstored, hlost, hhomes, hmedia, dramFound_barista, dramFound_barista]

theorem bootEnd_barista (y : State) (w : BootFacts) : (y.bootEnd w).barista = { y.barista with stage := .up, bootMs := w.bootMs } :=
  ite_keeps State.barista rfl rfl

/-- Boot comes up when no domain is dead (R515, R550). -/
theorem bootRest_up (s : State) {w : BootFacts} (h : w.deadDomains = []) : (s.bootRest w).barista = { s.barista with stage := .up, bootMs := w.bootMs } := by
  obtain ⟨p, hp⟩ := powerUp_frame bootGroups (s.applyMap w)
  rw [bootRest_eq, h, hp, if_neg (not_not_intro rfl), bootEnd_barista, bootDevices_barista, applyMap_barista]

end Sys2Proof.Machine
end

section
/-!
PROOF. The commands of boot, of the resets and of adaptive voltage scaling (R513, R515, R516, R553 to R556, R560).
-/

namespace Sys2Proof.Machine

-- ---------------------------------------------------------------- boot (R515, R516, R560)

/-- The state at boot step 5 with the slot that was chosen: its configuration is loaded and its values are in force. -/
def State.bootSlot (s : State) (w : BootFacts) (n : Nat) : State :=
  let u := ((s.logKept w).chooseSlot w).1
  (({ u with barista := { u.barista with bootFacts := some w, running := n, firmware := (u.barista.slot n).version } } : State).loadConfig
    w.configLost).startValues

theorem chooseSlot_kept (s : State) (w : BootFacts) : SlotOnly s ((s.logKept w).chooseSlot w).1 := by
  obtain ⟨a, b, l, h⟩ := chooseSlot_only (s.logKept w) w
  exact ⟨a, b, l, h⟩

theorem bootSlot_kept (s : State) (w : BootFacts) (n : Nat) : (s.bootSlot w n).power = s.power ∧ (s.bootSlot w n).barista.running = n := by
  obtain ⟨a, b, l, h⟩ := chooseSlot_kept s w
  let u := ((s.logKept w).chooseSlot w).1
  let v : State := { u with barista := { u.barista with bootFacts := some w, running := n, firmware := (u.barista.slot n).version } }
  obtain ⟨_, _, _, _, hc⟩ := loadConfig_frame v w.configLost
  obtain ⟨_, _, hv⟩ := startValues_frame (v.loadConfig w.configLost)
  have hpower : u.power = s.power := (congrArg State.power h).trans rfl
  have he : s.bootSlot w n = (v.loadConfig w.configLost).startValues := rfl
  rw [he, hv, hc]
  exact ⟨hpower, rfl⟩

theorem boot_rescue {s : State} {w : BootFacts} (hst : s.barista.stage = .reset) (h : ((s.logKept w).chooseSlot w).2 = none) :
    ∃ t, exec (.boot w) s = .next t ∧ t.barista.stage = .rescue ∧ t.cores = s.cores ∧ t.timer.running = s.timer.running := by
  obtain ⟨a, b, l, hk⟩ := chooseSlot_kept s w
  let u := ((s.logKept w).chooseSlot w).1
  have he : exec (.boot w) s = .next { u with barista := { u.barista with bootFacts := some w, stage := .rescue } } := by
    refine (if_neg (not_not_intro hst)).trans ?_
    simp only [h]
    rfl
  exact ⟨_, he, rfl, (congrArg State.cores hk).trans rfl, (congrArg (fun t : State => t.timer.running) hk).trans rfl⟩

theorem boot_slot {s : State} {w : BootFacts} {n : Nat} (hst : s.barista.stage = .reset) (h : ((s.logKept w).chooseSlot w).2 = some n) :
    exec (.boot w) s = .next (if w.pfail then
      { s.bootSlot w n with barista := { (s.bootSlot w n).barista with stage := .waitPfail, pfail := true } } else (s.bootSlot w n).bootRest w) := by
  refine (if_neg (not_not_intro hst)).trans ?_
  simp only [h]
  rfl

theorem bootResume_up {s : State} {w : BootFacts} (hst : s.barista.stage = .waitPfail) (hw : s.barista.bootFacts = some w) (hd : w.deadDomains = []) :
    ∃ t, exec .bootResume s = .next t ∧ t.barista.stage = .up ∧ t.barista.pfail = false ∧ t.barista.running = s.barista.running := by
  have he : exec .bootResume s = .next (({ s with barista := { s.barista with pfail := false } } : State).bootRest w) := by
    refine Eq.trans (b := execBootResume s) rfl ?_
    rw [execBootResume]
    simp only [hst, hw]
  have hb := bootRest_up ({ s with barista := { s.barista with pfail := false } } : State) hd
  refine ⟨_, he, ?_⟩
  rw [hb]
  exact ⟨rfl, rfl, rfl⟩

-- ---------------------------------------------------------------- adaptive voltage scaling (R553 to R556)

theorem avsStep_near {cur : Nat} (target : Nat) (h : cur ≠ 0) : avsStep cur target ≤ cur + 5 ∧ cur ≤ avsStep cur target + 5 := by
  unfold avsStep
  rw [if_neg h]
  split <;> omega

theorem avsStep_there {cur : Nat} : avsStep cur cur = cur := by
  unfold avsStep
  split
  · rfl
  · rw [if_neg (Nat.lt_irrefl cur)]
    omega

theorem avsUpdate_spec {s : State} (hon : s.avsOn = true) (hf : s.power.avsFaulted = false) (mv : Nat) :
    ∃ t, exec (.avsUpdate mv) s = .next t ∧ t.roGet (okey 0x1301 2) = max 700 (min 850 mv) ∧
      t.power.avsMv = avsStep s.power.avsMv (max 700 (min 850 mv)) := by
  refine ⟨_, if_neg (by simp [hon, hf]), ?_, ?_⟩
  · refine ite_keeps (fun t : State => t.roGet (okey 0x1301 2)) ?_ ?_
    · exact State.roGet_roSet ..
    · exact State.roGet_roSet ..
  · refine congrArg (fun v => avsStep v (max 700 (min 850 mv))) (ite_keeps (fun t : State => t.power.avsMv) rfl rfl)

theorem pmbusRetry_clears {s : State} (hon : s.avsOn = true) :
    exec (.pmbusRetry true ⟨0, true⟩) s = .next { s with power := { s.power with avsFaulted := false } } :=
  (if_neg (not_not_intro hon)).trans ((if_neg (by simp)).trans (if_pos ⟨rfl, rfl⟩))

theorem pmbusRetry_otherMode {s : State} (hon : s.avsOn = true) (status : BitVec 16) :
    ∃ t, exec (.pmbusRetry true ⟨status, false⟩) s = .next t ∧ t.avsOn = false ∧ t.log.nextSeq = (s.log.nextSeq + 1) % 2 ^ 32 := by
  refine ⟨_, (if_neg (not_not_intro hon)).trans (if_pos (by simp)), ?_, rfl⟩
  exact Bool.and_false _

/-- A transaction that failed is counted and logged, and stops the steps (R556). -/
def State.pmbusFailed (s : State) (word : Nat) : State :=
  let s := s.count (okey 0x1301 3) 1 32
  let s := s.logEvent 0x1301 2 ([BitVec.ofNat 8 (s.roGet (okey 0x1301 1)), 0] ++ leBytes 2 word)
  { s with power := { s.power with avsFaulted := true } }

theorem pmbusFailed_spec (s : State) (word : Nat) : (s.pmbusFailed word).power = { s.power with avsFaulted := true } ∧
    (s.pmbusFailed word).roGet (okey 0x1301 3) = (s.roGet (okey 0x1301 3) + 1) % 2 ^ 32 ∧
    (s.pmbusFailed word).log.nextSeq = (s.log.nextSeq + 1) % 2 ^ 32 :=
  ⟨rfl, State.roGet_count s (okey 0x1301 3) 1 32, rfl⟩

theorem pmbusRetry_fails {s : State} (hon : s.avsOn = true) {ack linear : Bool} {status : BitVec 16} (hm : ¬ (ack = true ∧ linear = false))
    (hs : ¬ (ack = true ∧ status = 0)) : exec (.pmbusRetry ack ⟨status, linear⟩) s = .next (s.pmbusFailed (if ack then status.toNat else 0xFFFF)) := by
  have hlin : ¬ (ack = true ∧ ¬ linear = true) := by simpa using hm
  refine Eq.trans (b := execPmbusRetry ack ⟨status, linear⟩ s) rfl ?_
  rw [execPmbusRetry, if_neg (not_not_intro hon), if_neg hlin, if_neg hs]
  rfl

/-- Settles O53: Barista's commands one by one, each by what it changes. -/
theorem baristaWork : Obligations.BaristaWork := by
  intro s
  refine ⟨fun hup => ⟨fun h => ⟨_, watchdog_restarts hup h, rfl, rfl, rfl, rfl, rfl, rfl, rfl⟩, watchdog_trial hup, sensorSample_figures hup⟩,
    sensorSample_trips s, fun d hup hon => ⟨powerGoodLost_spec d hup hon, domainPowerTimeout_spec d hup hon⟩, nmiNAssert_spec s,
    fun g => logNandMirror_enqueues, fun id o st data es => logBlock_programmed st data, fun e => logNorMirror_eq,
    ⟨_, rfl, rfl, rfl, rfl, rfl, rfl, rfl, rfl, rfl, rfl, rfl⟩, fun w hst => ⟨boot_rescue hst, ?_, ?_⟩, fun w => bootResume_up, fun hon => ⟨?_,
    pmbusRetry_clears hon, pmbusRetry_otherMode hon, fun ack linear status hm hs => ⟨_, pmbusRetry_fails hon hm hs, pmbusFailed_spec ..⟩⟩⟩
  · intro n hn hp
    obtain ⟨hpower, hrun⟩ := bootSlot_kept s w n
    have he := boot_slot hst hn
    rw [if_pos hp] at he
    generalize s.bootSlot w n = u at hpower hrun he
    exact ⟨_, he, rfl, hrun, hpower⟩
  · intro n hn hp hd
    have hb := bootRest_up (s.bootSlot w n) hd
    have he := boot_slot hst hn
    rw [if_neg (by simp [hp])] at he
    obtain ⟨-, hrun⟩ := bootSlot_kept s w n
    generalize s.bootSlot w n = u at hrun hb he
    refine ⟨_, he, ?_⟩
    rw [hb]
    exact ⟨rfl, hrun, rfl⟩
  · intro mv hf
    obtain ⟨t, he, hro, hmv⟩ := avsUpdate_spec hon hf mv
    refine ⟨t, he, hro, fun h0 => ?_, fun heq => ?_⟩
    · rw [hmv]
      exact avsStep_near _ h0
    · rw [hmv, ← heq, avsStep_there]

end Sys2Proof.Machine
end

section
/-!
PROOF. Writes of objects: what an accepted write leaves (R470, R474).
-/

namespace Sys2Proof.Machine

-- ---------------------------------------------------------------- an accepted write

theorem judgeValue_rule {s : State} {i sub win : Nat} {r : ORow} {v : List Byte} {o : WriteRes} (hv : vendor i = false) (h : s.judgeValue i sub win r v = o)
    (ho : ∀ t a, o ≠ .abort t a) : s.ruleOf i sub win v = o := by
  unfold State.judgeValue at h
  rw [if_neg (by simp [hv])] at h
  split at h
  · exact absurd h.symm (ho _ _)
  · dsimp only at h
    split at h
    · split at h
      · exact absurd h.symm (ho _ _)
      · exact h
    · split at h
      · exact absurd h.symm (ho _ _)
      · exact h

theorem mayWrite_row {s : State} {ring i sub : Nat} {r : ORow} (hv : vendor i = false) (h : s.mayWrite ring i sub = .inl r) : objRow i sub = some r := by
  have hf : s.findObject i sub = .inl r := by
    unfold State.mayWrite at h
    cases hfind : s.findObject i sub with
    | inr a => simp [hfind] at h
    | inl q =>
      simp only [hfind] at h
      split at h
      · exact nomatch h
      · split at h
        · exact h
        · exact h
        · exact nomatch h
  unfold State.findObject at hf
  rw [if_neg (by simp [hv])] at hf
  split at hf
  · exact nomatch hf
  · split at hf
    next q hq => exact hq.trans (congrArg some (Sum.inl.inj hf))
    · exact nomatch hf

/-- An accepted write is answered with result 0 after its effect. -/
theorem directWrite_ok {s : State} {i sub : Nat} {w : ObjWrite} {r : ORow} {u : State} (h : s.accepts i sub w r u) :
    s.directWrite i sub w = .next ((u.effect w.sid i sub (s.winOf i sub) r w.value).result w.sid i sub 0) := by
  obtain ⟨x, hx, hst, hserved, hf, hmay, htr, hj⟩ := h
  unfold State.directWrite
  simp only [hx]
  rw [if_neg (by simp [hst, hserved]), if_neg (by simp [hf])]
  simp only [hmay]
  rw [if_neg (by simp [htr])]
  simp only [hj]

/-- A write is settled by the object's rule, its row, and what its effect leaves. -/
theorem written_of {s : State} {i sub : Nat} {w : ObjWrite} {e : Instr} {p : State → Prop} {o : WriteRes} (hv : vendor i = false)
    (he : exec e s = s.directWrite i sub w) (hrule : s.ruleOf i sub (s.winOf i sub) w.value = o)
    (h : ∀ r u, s.failing = false → objRow i sub = some r → o = .ok u → (u.effect w.sid i sub (s.winOf i sub) r w.value).out = s.out ∧
      p ((u.effect w.sid i sub (s.winOf i sub) r w.value).result w.sid i sub 0)) : Written s i sub w e p := by
  intro r u ha
  have hd := directWrite_ok ha
  obtain ⟨x, -, -, -, hf, hmay, -, hj⟩ := ha
  have hu : o = .ok u := hrule.symm.trans (judgeValue_rule hv hj fun _ _ => WriteRes.noConfusion)
  obtain ⟨hout, hp⟩ := h r u hf (mayWrite_row hv hmay) hu
  exact ⟨_, he.trans hd, congrArg (· ++ [Out.objectResult w.sid (okey i sub) 0]) hout, hp⟩

/-- A write-only object's rule makes the effect of its write. -/
theorem effect_command {s : State} {sid i sub win : Nat} {r : ORow} {v : List Byte} (hr : objRow i sub = some r)
    (hi : ((objRow i sub).map ORow.acc = some .wo ∧ i ≠ 0x0208 ∧ i ≠ 0x0900 ∧ i ≠ 0x0A00 ∧ i < 0x2000)) : s.effect sid i sub win r v = s := by
  obtain ⟨hacc, h1, h2, h3, h4⟩ := hi
  have hacc : r.acc = .wo := by
    rw [hr] at hacc
    exact Option.some.inj hacc
  unfold State.effect
  dsimp only
  rw [if_neg h1, if_neg (by omega), if_neg (by omega), if_neg (by omega), if_neg (by omega), if_neg (by omega), if_pos (by simp [hacc])]

theorem written_command {s : State} {i sub : Nat} {w : ObjWrite} {e : Instr} {p : State → Prop} {o : WriteRes}
    (hi : ((objRow i sub).map ORow.acc = some .wo ∧ i ≠ 0x0208 ∧ i ≠ 0x0900 ∧ i ≠ 0x0A00 ∧ i < 0x2000)) (he : exec e s = s.directWrite i sub w)
    (hrule : s.ruleOf i sub (s.winOf i sub) w.value = o) (h : ∀ u, s.failing = false → o = .ok u → u.out = s.out ∧ p (u.result w.sid i sub 0)) :
    Written s i sub w e p := by
  have hv : vendor i = false := by
    have := hi.2.2.2.2
    simp [vendor]
    omega
  refine written_of hv he hrule fun r u hf hr hu => ?_
  rw [effect_command hr hi]
  exact h u hf hu

/-- A write that is answered later leaves what its rule leaves, and waits. -/
theorem writtenLater_of {s : State} {i sub : Nat} {w : ObjWrite} {e : Instr} {p : State → Prop} {o : WriteRes} (hv : vendor i = false)
    (he : exec e s = s.directWrite i sub w) (hrule : s.ruleOf i sub (s.winOf i sub) w.value = o) (h : ∀ u, o = .wait u → p u) :
    WrittenLater s i sub w e p := by
  intro x r u hj
  obtain ⟨hx, hst, hserved, hf, hmay, htr, hj⟩ := hj
  refine ⟨he.trans ?_, h u (hrule.symm.trans (judgeValue_rule hv hj fun _ _ => WriteRes.noConfusion))⟩
  unfold State.directWrite
  simp only [hx]
  rw [if_neg (by simp [hst, hserved]), if_neg (by simp [hf])]
  simp only [hmay]
  rw [if_neg (by simp [htr])]
  simp only [hj]

theorem commandWrite_eq {s : State} {i sub cmd : Nat} {w : ObjWrite} (h : w.value = [BitVec.ofNat 8 cmd]) : s.commandWrite i sub cmd w = s.directWrite i sub w :=
  if_pos h

-- ---------------------------------------------------------------- the shadow plan (R74 to R76)

theorem shadowPlan_written (s : State) (w : ObjWrite) :
    Written s 0x0411 1 w (.shadowPlanWrite w) (fun t => t.plans.shadow = w.value ∧ t.plans.shadowState = 1 ∧ t.plans.active = s.plans.active) := by
  refine written_command (by decide) rfl (o := s.writeShadow w.value) rfl fun u _ hu => ?_
  unfold State.writeShadow at hu
  split at hu
  · unfold State.refuseLong at hu
    split at hu <;> exact nomatch hu
  · split at hu
    · exact nomatch hu
    · exact nomatch hu
    · obtain rfl := WriteRes.ok.inj hu
      exact ⟨rfl, rfl, rfl, rfl⟩

theorem planCommit_written {s : State} {w : ObjWrite} (h1 : w.value = [1#8]) :
    Written s 0x0412 1 w (.planCommit w) fun t => t.plans.shadowState = 2 ∧ t.plans.pending = s.plans.shadow ∧ s.timer.frame + 2 ≤ t.plans.pendingFrame := by
  have hrule : s.ruleOf 0x0412 1 (s.winOf 0x0412 1) w.value = s.commitPlan := by
    rw [h1]
    rfl
  refine written_command (by decide) (commandWrite_eq h1) hrule fun u _ hu => ?_
  unfold State.commitPlan at hu
  split at hu
  · exact nomatch hu
  split at hu
  · exact nomatch hu
  split at hu
  · exact nomatch hu
  · exact nomatch hu
  · dsimp only at hu
    split at hu
    · exact nomatch hu
    · obtain rfl := WriteRes.ok.inj hu
      exact ⟨rfl, rfl, rfl, Nat.le_refl _⟩

theorem shadowDiscard_written {s : State} {w : ObjWrite} (h2 : w.value = [2#8]) :
    Written s 0x0412 1 w (.shadowDiscard w) fun t => t.plans.shadow = [] ∧ t.plans.shadowState = 0 := by
  have hrule : s.ruleOf 0x0412 1 (s.winOf 0x0412 1) w.value = s.discardShadow := by
    rw [h2]
    rfl
  refine written_command (by decide) (commandWrite_eq h2) hrule fun u _ hu => ?_
  unfold State.discardShadow at hu
  split at hu
  · exact nomatch hu
  · obtain rfl := WriteRes.ok.inj hu
    exact ⟨rfl, rfl, rfl⟩

-- ---------------------------------------------------------------- firmware updates (R518 to R520)

@[simp] theorem Barista.slot_setSlot (b : Barista) (n : Nat) (x : Slot) : (b.setSlot n x).slot n = x := by
  unfold Barista.setSlot Barista.slot
  split <;> rfl

theorem setSlot_running (b : Barista) (n : Nat) (x : Slot) : (b.setSlot n x).running = b.running ∧ (b.setSlot n x).counter = b.counter := by
  obtain ⟨_, _, h⟩ := setSlot_frame b n x
  rw [h]
  exact ⟨rfl, rfl⟩

theorem updateImage_written (s : State) (w : ObjWrite) :
    Written s 0x1100 1 w (.updateImageWrite w) (fun t => (t.barista.slot (1 - s.barista.running)).state = 2 ∧
      (t.barista.slot (1 - s.barista.running)).version = leField w.value 12 4 ∧ t.barista.running = s.barista.running) := by
  refine written_command (by decide) rfl (o := s.writeUpdate w.value) rfl fun u _ hu => ?_
  unfold State.writeUpdate at hu
  dsimp only at hu
  split at hu
  · exact nomatch hu
  split at hu
  · exact nomatch hu
  split at hu
  · exact nomatch hu
  split at hu
  · exact nomatch hu
  split at hu
  · exact nomatch hu
  · obtain rfl := WriteRes.ok.inj hu
    refine ⟨rfl, congrArg Slot.state (Barista.slot_setSlot ..), congrArg Slot.version (Barista.slot_setSlot ..), (setSlot_running ..).1⟩

theorem updateTry_written {s : State} {w : ObjWrite} (h1 : w.value = [1#8]) :
    Written s 0x1100 8 w (.updateTry w) fun t => (t.barista.slot (1 - s.barista.running)).state = 3 ∧
      (t.barista.slot (1 - s.barista.running)).attempts = 3 := by
  have hrule : s.ruleOf 0x1100 8 (s.winOf 0x1100 8) w.value = s.tryUpdate := by
    rw [h1]
    rfl
  refine written_command (by decide) (commandWrite_eq h1) hrule fun u _ hu => ?_
  unfold State.tryUpdate at hu
  dsimp only at hu
  split at hu
  · obtain rfl := WriteRes.ok.inj hu
    exact ⟨rfl, congrArg Slot.state (Barista.slot_setSlot ..), congrArg Slot.attempts (Barista.slot_setSlot ..)⟩
  · exact nomatch hu

theorem updateDiscard_written {s : State} {w : ObjWrite} (h3 : w.value = [3#8]) :
    Written s 0x1100 8 w (.updateDiscard w) fun t => (t.barista.slot (1 - s.barista.running)).state = 0 := by
  have hrule : s.ruleOf 0x1100 8 (s.winOf 0x1100 8) w.value = s.discardUpdate := by
    rw [h3]
    rfl
  refine written_command (by decide) (commandWrite_eq h3) hrule fun u _ hu => ?_
  unfold State.discardUpdate at hu
  dsimp only at hu
  split at hu
  · obtain rfl := WriteRes.ok.inj hu
    exact ⟨rfl, congrArg Slot.state (Barista.slot_setSlot ..)⟩
  · exact nomatch hu

end Sys2Proof.Machine
end

section
/-!
PROOF. Writes of objects: updates, partners, keys, images, microcode, repair and interrupts (R97, R459, R493, R511, R518, R536, R540, R551).
-/

namespace Sys2Proof.Machine

-- ---------------------------------------------------------------- the rollback counter (R518)

/-- A value is burned into the counter until a word reads back, or no word is left. -/
theorem burnCounter_spec (v n : Nat) (s : State) (hv : s.barista.rollback ≤ v) :
    (State.burnCounter v n s).out = s.out ∧ (∀ m, (State.burnCounter v n s).barista.slot m = s.barista.slot m) ∧
    ((State.burnCounter v n s).barista.rollback = v ∨ s.barista.counter.length + n ≤ (State.burnCounter v n s).barista.counter.length) := by
  induction n generalizing s with
  | zero => exact ⟨rfl, fun _ => rfl, .inr (Nat.le_refl _)⟩
  | succ n ih =>
    have hroll (back : Nat) : ({ s.barista with counter := s.barista.counter ++ [back] } : Barista).rollback = max s.barista.rollback back := by
      simp [Barista.rollback, List.foldl_append]
    rw [State.burnCounter]
    dsimp only
    split
    next hb =>
      refine ⟨rfl, fun _ => rfl, .inl ?_⟩
      rw [hb]
      exact (hroll v).trans (Nat.max_eq_right hv)
    · obtain ⟨hout, hslot, hend⟩ := ih { s.drawn with barista := { s.barista with counter := s.barista.counter ++ [v &&& s.freeVal] } }
        (Nat.le_trans (Nat.le_of_eq (hroll _)) (Nat.max_le.mpr ⟨hv, Nat.and_le_left⟩))
      refine ⟨hout, hslot, hend.imp_right fun h => ?_⟩
      rw [List.length_append] at h
      exact (Nat.add_right_comm .. ▸ h : s.barista.counter.length + n + 1 ≤ _)

theorem updateCommit_written {s : State} {w : ObjWrite} (h2 : w.value = [2#8]) :
    Written s 0x1100 8 w (.updateCommit w) fun t => (t.barista.slot s.barista.running).state = 1 ∧
      (t.barista.rollback = max s.barista.rollback (s.barista.slot s.barista.running).rollback ∨ 128 ≤ t.barista.counter.length) := by
  have hrule : s.ruleOf 0x1100 8 (s.winOf 0x1100 8) w.value = s.commitUpdate := by
    rw [h2]
    rfl
  refine written_command (by decide) (commandWrite_eq h2) hrule fun u _ hu => ?_
  unfold State.commitUpdate at hu
  dsimp only at hu
  split at hu
  · obtain rfl := WriteRes.ok.inj hu
    generalize hx : s.barista.slot s.barista.running = x
    let t := s.slotTo s.barista.running { x with state := 1, attempts := 0 }
    have ht : (t.barista.slot s.barista.running).state = 1 := congrArg Slot.state (Barista.slot_setSlot ..)
    have hcount : t.barista.counter = s.barista.counter := (setSlot_running ..).2
    have hroll : t.barista.rollback = s.barista.rollback := by rw [Barista.rollback, hcount, Barista.rollback]
    have hadv : t.advanceCounter x.rollback =
        if x.rollback ≤ t.barista.rollback then t else State.burnCounter x.rollback (128 - t.barista.counter.length) t := rfl
    by_cases hle : x.rollback ≤ t.barista.rollback
    · rw [if_pos hle] at hadv
      refine ⟨(congrArg State.out hadv).trans rfl, ?_, .inl ?_⟩
      · exact (congrArg (fun y : State => (y.barista.slot s.barista.running).state) hadv).trans ht
      · refine (congrArg (fun y : State => y.barista.rollback) hadv).trans ?_
        rw [← hroll]
        exact (Nat.max_eq_left hle).symm
    · obtain ⟨hout, hslot, hend⟩ := burnCounter_spec x.rollback (128 - t.barista.counter.length) t (Nat.le_of_not_le hle)
      rw [if_neg hle] at hadv
      refine ⟨(congrArg State.out hadv).trans hout, ?_, ?_⟩
      · exact (congrArg (fun y : State => (y.barista.slot s.barista.running).state) hadv).trans ((congrArg Slot.state (hslot _)).trans ht)
      · refine hend.imp (fun h => ?_) fun h => ?_
        · refine ((congrArg (fun y : State => y.barista.rollback) hadv).trans h).trans ?_
          rw [← hroll]
          exact (Nat.max_eq_right (Nat.le_of_not_le hle)).symm
        · refine le_of_le_of_eq (Nat.le_trans ?_ h) (congrArg (fun y : State => y.barista.counter.length) hadv).symm
          omega
  · exact nomatch hu

-- ---------------------------------------------------------------- partners (R96 to R99)

theorem sliceZ_append {a : List Byte} (b : List Byte) {off n : Nat} (h : off + n ≤ a.length) : sliceZ (a ++ b) off n = sliceZ a off n := by
  have ht : ((a ++ b).drop off).take n = (a.drop off).take n := by
    rw [List.drop_append_of_le_length (by omega), List.take_append_of_le_length (by rw [List.length_drop]; omega)]
  rw [sliceZ, ht, sliceZ]

/-- A partner's entry with a configuration of 34 bytes. -/
def configOf (v b : List Byte) : Partner := Partner.ofBytes (sliceZ v 0 34 ++ b)

/-- The configuration part of an entry does not depend on the rest. -/
theorem configOf_fields (v b b' : List Byte) : (configOf v b).addr = (configOf v b').addr ∧ (configOf v b).classMask = (configOf v b').classMask ∧
    (configOf v b).vlan = (configOf v b').vlan ∧ (configOf v b).keySlot = (configOf v b').keySlot ∧ (configOf v b).qs = (configOf v b').qs ∧
    (configOf v b).qd = (configOf v b').qd ∧ (configOf v b).portMask = (configOf v b').portMask ∧ (configOf v b).flags = (configOf v b').flags := by
  have hlen : (sliceZ v 0 34).length = 34 := sliceZ_length v 0 34
  have hle (c : List Byte) {off n : Nat} (h : off + n ≤ 34) : leField (sliceZ v 0 34 ++ c) off n = leField (sliceZ v 0 34) off n :=
    congrArg leNat (sliceZ_append c (by omega))
  have hbe (c : List Byte) {off n : Nat} (h : off + n ≤ 34) : beField (sliceZ v 0 34 ++ c) off n = beField (sliceZ v 0 34) off n :=
    congrArg beNat (sliceZ_append c (by omega))
  have hget (c : List Byte) {i : Nat} (h : i < 34) : (sliceZ v 0 34 ++ c).getD i 0 = (sliceZ v 0 34).getD i 0 :=
    getD_append_of_lt _ _ (by omega)
  simp only [configOf, Partner.ofBytes]
  refine ⟨?_, ?_, ?_, ?_, ?_, ?_, ?_, ?_⟩
  · rw [hbe b (by decide), hbe b' (by decide)]
  · rw [hle b (by decide), hle b' (by decide)]
  · rw [hle b (by decide), hle b' (by decide)]
  · rw [hle b (by decide), hle b' (by decide)]
  · rw [hle b (by decide), hle b' (by decide)]
  · rw [hle b (by decide), hle b' (by decide)]
  · rw [hget b (by decide), hget b' (by decide)]
  · rw [hget b (by decide), hget b' (by decide)]

theorem configOf_en (v b b' : List Byte) : (configOf v b).en = (configOf v b').en := by
  obtain ⟨-, -, -, -, -, -, -, hflags⟩ := configOf_fields v b b'
  rw [Partner.en, hflags, ← Partner.en]

/-- A write of a configuration: an entry that becomes enabled starts its guarded fields afresh (R98). -/
theorem configPartner_spec (s : State) (n : Nat) (v : List Byte) : (s.configPartner n v).out = s.out ∧ ∃ b,
    ((s.partner n).en = false ∧ (configOf v b).en = true ∧ (s.configPartner n v).partner n = (configOf v b).enabled) ∨
    (¬ ((s.partner n).en = false ∧ (configOf v b).en = true) ∧ (s.configPartner n v).partner n = configOf v b) := by
  unfold State.configPartner
  dsimp only
  split
  next h =>
    have hvoid : (s.voidNow n).out = s.out := by
      unfold State.voidNow
      split <;> rfl
    refine ⟨hvoid, ((s.voidNow n).partner n).bytes.drop 34, .inl ⟨by simpa using h.1, ?_, State.partner_setPartner ..⟩⟩
    rw [configOf_en v _ ((s.partner n).bytes.drop 34)]
    exact h.2
  next h =>
    have hp : ∀ u : State, u.adm.partners = (s.setPartner n (configOf v ((s.partner n).bytes.drop 34))).adm.partners →
        u.partner n = configOf v ((s.partner n).bytes.drop 34) := by
      intro u hu
      rw [State.partner, hu, ← State.partner, State.partner_setPartner]
    refine ⟨ite_keeps State.out rfl rfl, (s.partner n).bytes.drop 34, .inr ⟨by simpa [configOf] using h, hp _ ?_⟩⟩
    exact ite_keeps (fun u : State => u.adm.partners) rfl rfl

theorem partnerConfig_written (s : State) (w : ObjWrite) : Written s 0x0900 3 w (.partnerConfigWrite w) (fun t =>
      let p := t.partner (s.winOf 0x0900 3)
      let q := Partner.ofBytes (sliceZ w.value 0 34 ++ zeros 30)
      p.addr = q.addr ∧ p.classMask = q.classMask ∧ p.vlan = q.vlan ∧ p.keySlot = q.keySlot ∧ p.qs = q.qs ∧ p.qd = q.qd ∧ p.portMask = q.portMask ∧
      p.flags = q.flags ∧ ((s.partner (s.winOf 0x0900 3)).en = false → q.en = true → p.e = 0 ∧ p.aDur = 0xFF#8 ∧ p.ackSeq = 0)) := by
  refine written_of (by decide) rfl (o := if configReserved w.value then .undef else .ok s) rfl fun r u _ _ hu => ?_
  split at hu
  · exact nomatch hu
  · obtain rfl := WriteRes.ok.inj hu
    generalize s.winOf 0x0900 3 = win
    obtain ⟨hout, b, hp⟩ := configPartner_spec s win w.value
    have he : s.effect w.sid 0x0900 3 win r w.value = (s.configPartner win w.value).keepConfig win w.value := rfl
    rw [he]
    refine ⟨hout, ?_⟩
    intro p q
    obtain ⟨h1, h2, h3, h4, h5, h6, h7, h8⟩ := configOf_fields w.value b (zeros 30)
    rcases hp with ⟨hwas, hnow, hp⟩ | ⟨hnot, hp⟩
    · have hp : p = (configOf w.value b).enabled := hp
      rw [hp]
      exact ⟨h1, h2, h3, h4, h5, h6, h7, h8, fun _ _ => ⟨rfl, rfl, rfl⟩⟩
    · have hp : p = configOf w.value b := hp
      rw [hp]
      exact ⟨h1, h2, h3, h4, h5, h6, h7, h8, fun hwas hnow => absurd ⟨hwas, (configOf_en w.value b (zeros 30)).trans hnow⟩ hnot⟩

theorem partnerEntry_written (s : State) (w : ObjWrite) :
    Written s 0x0900 2 w (.partnerEntryWrite w) (fun t => t.partner (s.winOf 0x0900 2) = Partner.ofBytes w.value) := by
  refine written_of (by decide) rfl (o := if configReserved w.value || guardedReserved w.value then .undef else .ok s) rfl fun r u _ _ hu => ?_
  split at hu
  · exact nomatch hu
  · obtain rfl := WriteRes.ok.inj hu
    exact ⟨rfl, State.partner_setPartner ..⟩

-- ---------------------------------------------------------------- keys (R121, R493)

theorem Tab.get_map {α β : Type} (d : α) (e : β) (f : α → β) (t : Tab α) (i : Nat) (hd : f d = e) :
    Tab.get e (t.map fun x => (x.1, f x.2)) i = f (Tab.get d t i) := by
  induction t with
  | nil => exact hd.symm
  | cons x t ih =>
    obtain ⟨k, v⟩ := x
    rw [List.map_cons, Tab.get, Tab.get]
    split
    · rfl
    · exact ih

/-- A key that is loaded or erased starts the ack sequence of its partners again. -/
theorem putKey_spec (s : State) (slot : Nat) (v : List Byte) : Tab.get [] (s.putKey slot v).adm.keys slot = v ∧
    ∀ k, (s.partner k).names slot = true → ((s.putKey slot v).partner k).ackSeq = 0 ∧ k ∉ (s.putKey slot v).adm.ackDone := by
  refine ⟨Tab.get_put_self .., fun k hk => ⟨?_, ?_⟩⟩
  · have hzero : Partner.zero.names slot = false := rfl
    have hmap : (s.putKey slot v).partner k = if (s.partner k).names slot then { s.partner k with ackSeq := 0 } else s.partner k := by
      refine Eq.trans ?_ (Tab.get_map Partner.zero Partner.zero (fun p => if p.names slot then { p with ackSeq := 0 } else p) s.adm.partners k (by simp [hzero]))
      refine congrArg (fun t => Tab.get Partner.zero t k) (List.map_congr_left fun x _ => ?_)
      split <;> rfl
    rw [hmap, if_pos hk]
  · intro hmem
    have h := (List.mem_filter.mp hmem).2
    simp [hk] at h

theorem keyWrite_written (s : State) (w : ObjWrite) : Written s 0x0A00 2 w (.keyWrite w) (fun t =>
    Tab.get [] t.adm.keys (s.winOf 0x0A00 2) = w.value ∧
    ∀ k, (s.partner k).names (s.winOf 0x0A00 2) = true → (t.partner k).ackSeq = 0 ∧ k ∉ t.adm.ackDone) := by
  refine written_of (by decide) rfl (o := .ok s) rfl fun r u _ _ hu => ?_
  obtain rfl := WriteRes.ok.inj hu
  exact ⟨rfl, putKey_spec ..⟩

theorem keyErase_written (s : State) (w : ObjWrite) : Written s 0x0A00 4 w (.keyErase w) (fun t =>
    Tab.get [] t.adm.keys (s.winOf 0x0A00 4) = [] ∧
    ∀ k, (s.partner k).names (s.winOf 0x0A00 4) = true → (t.partner k).ackSeq = 0 ∧ k ∉ t.adm.ackDone) := by
  refine written_of (by decide) rfl (o := .ok s) rfl fun r u _ _ hu => ?_
  obtain rfl := WriteRes.ok.inj hu
  exact ⟨rfl, putKey_spec ..⟩

end Sys2Proof.Machine
end

section
/-!
PROOF. Writes of objects: images, microcode, repair, domains, interrupts and credentials (R176, R219, R233, R459, R484, R511, R536, R540, R551).
-/

namespace Sys2Proof.Machine

theorem orderlyShutdown_written (s : State) (w : ObjWrite) :
    Written s 0x0C00 2 w (.orderlyShutdown w) (fun t => t.pf.shutdownAsked = true ∧ t.pf.restart = s.pf.restart) := by
  refine written_command (by decide) rfl (o := .ok (s.askShutdown false)) rfl fun u hf hu => ?_
  obtain rfl := WriteRes.ok.inj hu
  rw [State.askShutdown, hf]
  exact ⟨rfl, rfl, Bool.or_false _⟩

theorem deviceRestart_written (s : State) (w : ObjWrite) :
    Written s 0x1020 2 w (.deviceRestart w) (fun t => t.pf.shutdownAsked = true ∧ t.pf.restart = true) := by
  refine written_command (by decide) rfl (o := .ok (s.askShutdown true)) rfl fun u hf hu => ?_
  obtain rfl := WriteRes.ok.inj hu
  rw [State.askShutdown, hf]
  exact ⟨rfl, rfl, Bool.or_true _⟩

-- ---------------------------------------------------------------- ports (R87)

theorem retrain_frame (s : State) (p was : Nat) : ∃ q, s.retrain p was = { s.roSet (okey (0x0210 + p) 6) 0 with power := q } := by
  unfold State.retrain
  dsimp only
  split
  · exact setDomain_frame ..
  split
  · exact setDomain_frame ..
  · exact ⟨_, rfl⟩

/-- The mode or the FEC of a port is held, and its link retrains. -/
theorem portMode_effect (s : State) (sid win : Nat) (port : PortId) (fec : Bool) {r : ORow} (v : List Byte) (hacc : r.acc = .rw) (hpers : r.pers = true) :
    s.effect sid (0x0210 + port.val) (if fec then 2 else 1) win r v =
      (s.holdValue (okey (0x0210 + port.val) (if fec then 2 else 1)) v true).retrain port.val (s.portMode port.val) := by
  have hport := port.isLt
  have hsub : (if fec then 2 else 1) ≤ 2 := by split <;> decide
  have hwin : s.window (0x0210 + port.val) (if fec then 2 else 1) = none := by
    unfold State.window
    dsimp only
    rw [if_neg (by omega), if_neg (by omega), if_neg (by omega), if_neg (by omega), if_neg (by omega)]
  unfold State.effect
  simp only [hwin, Option.isSome_none, Bool.false_eq_true, if_false]
  rw [if_neg (by omega), if_neg (by omega), if_neg (by omega), if_neg (by omega), if_neg (by omega), if_neg (by omega), if_neg (by simp [hacc]),
    if_neg (by omega), if_neg (by omega), if_neg (by omega), if_neg (by omega), if_pos ⟨by omega, by omega, hsub⟩, if_neg (by omega), hpers,
    Nat.add_sub_cancel_left]

theorem portMode_rule (s : State) (win : Nat) (port : PortId) (fec : Bool) (v : List Byte) :
    s.ruleOf (0x0210 + port.val) (if fec then 2 else 1) win v = .ok s := by
  have hcust : customer (0x0210 + port.val) = false := by
    have := port.isLt
    simp [customer]
    omega
  have hport := port.isLt
  unfold State.ruleOf
  dsimp only
  rw [hcust]
  repeat rw [if_neg (by omega)]
  exact if_neg (by decide)

/-- The rows of a port's mode and FEC hold persistent values. -/
theorem portMode_row (port : PortId) (fec : Bool) : ∃ r, objRow (0x0210 + port.val) (if fec then 2 else 1) = some r ∧ r.acc = .rw ∧ r.pers = true := by
  obtain ⟨n, hn⟩ := port
  obtain rfl | rfl | rfl | rfl : n = 0 ∨ n = 1 ∨ n = 2 ∨ n = 3 := by omega
  all_goals cases fec <;> exact ⟨_, rfl, rfl, rfl⟩

theorem portMode_written (s : State) (w : ObjWrite) (port : PortId) (fec : Bool) :
    Written s (0x0210 + port.val) (if fec then 2 else 1) w (.portModeWrite port fec w) fun t =>
      (Tab.get [] t.obj (okey (0x0210 + port.val) (if fec then 2 else 1)) = w.value ∧ Tab.get [] t.nor (okey (0x0210 + port.val) (if fec then 2 else 1)) = w.value) ∧
      t.roGet (okey (0x0210 + port.val) 6) = 0 := by
  have hv : vendor (0x0210 + port.val) = false := by
    have := port.isLt
    simp [vendor]
    omega
  refine written_of hv rfl (o := .ok s) (portMode_rule ..) fun r u _ hr hu => ?_
  obtain rfl := WriteRes.ok.inj hu
  obtain ⟨q, hq, hacc, hpers⟩ := portMode_row port fec
  obtain rfl := Option.some.inj (hq.symm.trans hr)
  rw [portMode_effect s w.sid _ port fec w.value hacc hpers]
  obtain ⟨p, hp⟩ := retrain_frame (s.holdValue (okey (0x0210 + port.val) (if fec then 2 else 1)) w.value true) port.val (s.portMode port.val)
  rw [hp]
  refine ⟨rfl, ⟨Tab.get_put_self .., Tab.get_put_self ..⟩, ?_⟩
  exact Tab.get_put_self 0 (okey (0x0210 + port.val) 6) 0 s.ro

-- ---------------------------------------------------------------- raw sequences (R219)

theorem rawCommand_written (s : State) (w : ObjWrite) : Written s 0x0D60 6 w (.rawCommandStart w) (fun t => ∃ o ∈ t.media.queue, o.kind = .raw ∧
    o.issuer = .barista ∧ o.issued = false ∧ o.lun = s.objNat (okey 0x0D60 1) 0) := by
  refine written_command (by decide) rfl (o := s.startRaw) rfl fun u _ hu => ?_
  unfold State.startRaw at hu
  dsimp only at hu
  split at hu
  · exact nomatch hu
  split at hu
  · exact nomatch hu
  · obtain rfl := WriteRes.ok.inj hu
    refine ⟨ite_keeps (fun t : State => t.out) rfl rfl, _, List.mem_append_right _ List.mem_cons_self, rfl, rfl, rfl, rfl⟩

-- ---------------------------------------------------------------- boot images (R233)

theorem bulkUnit_egress {s t : State} {iss : Issuer} {job : Option Nat} {bs : List Block} {l : List Nat} (h : s.bulkUnit iss job bs = some (t, l)) :
    t.egress = s.egress := by
  unfold State.bulkUnit at h
  split at h
  · exact nomatch h
  · dsimp only at h
    split at h
    · exact nomatch h
    · have ht := congrArg (fun x : State × List Nat => x.1.egress) (Option.some.inj h)
      refine ht.symm.trans ?_
      dsimp only
      split <;> rfl

theorem imageTags_egress (num ver : Nat) (l : List (List Byte)) (s : State) (i : Nat) : (s.imageTags num ver i l).1.egress = s.egress := by
  induction l generalizing s i with
  | nil => rfl
  | cons b l ih => exact ih _ (i + 1)

/-- Two states of the same image: its number, version, length, and whether it is current. -/
def SameImage (i j : BootImage) : Prop := j.num = i.num ∧ j.version = i.version ∧ j.length = i.length ∧ j.current = i.current

theorem imageUnit_same {s t : State} {i j : BootImage} (h : s.imageUnit i = some (t, j)) : t.egress = s.egress ∧ SameImage i j := by
  unfold State.imageUnit at h
  dsimp only at h
  split at h
  · exact nomatch h
  next hu =>
    have hpair := Prod.mk.inj (Option.some.inj h)
    obtain ⟨rfl, rfl⟩ := hpair
    exact ⟨(imageTags_egress ..).trans (bulkUnit_egress hu), rfl, rfl, rfl, rfl⟩

/-- An image that is written changes its own entry alone. -/
theorem imageFill_images (n : Nat) (s : State) (i : BootImage) : ∃ j, SameImage i j ∧
    (s.imageFill n i).egress.images = s.egress.images.map fun x => if x.num = i.num ∧ x.version = i.version then j else x := by
  induction n generalizing s i with
  | zero => exact ⟨i, ⟨rfl, rfl, rfl, rfl⟩, rfl⟩
  | succ n ih =>
    rw [State.imageFill]
    split
    · exact ⟨i, ⟨rfl, rfl, rfl, rfl⟩, rfl⟩
    · split
      · exact ⟨i, ⟨rfl, rfl, rfl, rfl⟩, rfl⟩
      next t k hu =>
        obtain ⟨hegress, hnum, hver, hlen, hcur⟩ := imageUnit_same hu
        obtain ⟨j, ⟨hn, hv, hl, hc⟩, hj⟩ := ih t k
        refine ⟨j, ⟨hn.trans hnum, hv.trans hver, hl.trans hlen, hc.trans hcur⟩, ?_⟩
        rw [hj, hegress, hnum, hver]

theorem le_foldl_max {l : List BootImage} {x : BootImage} (h : x ∈ l) (m : Nat) : x.version ≤ l.foldl (fun m x => max m x.version) m := by
  have hmono : ∀ (l : List BootImage) (m : Nat), m ≤ l.foldl (fun m x => max m x.version) m := by
    intro l
    induction l with
    | nil => exact fun m => Nat.le_refl m
    | cons y l ih => exact fun m => Nat.le_trans (Nat.le_max_left m y.version) (ih _)
  induction l generalizing m with
  | nil => exact nomatch h
  | cons y l ih =>
    rcases List.mem_cons.mp h with rfl | h
    · exact Nat.le_trans (Nat.le_max_right m x.version) (hmono l _)
    · exact ih h _

theorem image_written (s : State) (w : ObjWrite) : WrittenLater s 0x0E01 4 w (.imageWrite w) (fun t => ∃ x ∈ t.egress.images, x.num = s.winOf 0x0E01 4 ∧
    x.length = w.value.length ∧ x.current = false ∧ ∀ y ∈ s.egress.images, y ∈ t.egress.images ∧ (y.num = x.num → y.version < x.version)) := by
  refine writtenLater_of (by decide) rfl (o := s.storeImage (s.winOf 0x0E01 4) w.value) rfl fun u hu => ?_
  generalize s.winOf 0x0E01 4 = win at hu ⊢
  unfold State.storeImage at hu
  dsimp only at hu
  split at hu
  · exact nomatch hu
  split at hu
  · exact nomatch hu
  · generalize hi : ({ num := win, version := (s.versions win).foldl (fun m x => max m x.version) 0 + 1, length := w.value.length, blocks := [], todo := _, left := []
                       current := false } : BootImage) = i at hu
    obtain rfl := WriteRes.wait.inj hu
    have hfresh (y : BootImage) (hy : y ∈ s.egress.images) (hn : y.num = win) : y.version < i.version := by
      rw [← hi]
      exact Nat.lt_succ_of_le (le_foldl_max (List.mem_filter.mpr ⟨hy, by simpa using hn⟩) 0)
    have hnum : i.num = win := by rw [← hi]
    have hlen : i.length = w.value.length := by rw [← hi]
    have hcur : i.current = false := by rw [← hi]
    obtain ⟨j, ⟨hjn, hjv, hjl, hjc⟩, hj⟩ := imageFill_images _ ({ s with egress := { s.egress with images := s.egress.images ++ [i] } } : State) i
    refine ⟨j, ?_, hjn.trans hnum, hjl.trans hlen, hjc.trans hcur, fun y hy => ⟨?_, fun hn => ?_⟩⟩
    · rw [hj]
      exact List.mem_map.mpr ⟨i, List.mem_append_right _ List.mem_cons_self, if_pos ⟨rfl, rfl⟩⟩
    · rw [hj]
      refine List.mem_map.mpr ⟨y, List.mem_append_left _ hy, if_neg fun h => ?_⟩
      exact absurd h.2 (Nat.ne_of_lt (hfresh y hy (h.1.trans hnum)))
    · rw [hjv]
      exact hfresh y hy (hn.trans (hjn.trans hnum))

/-- A write that waited, with no request behind it, is answered with its result. -/
theorem answerWait_out {s : State} {kind : PendStore → Bool} {sid i sub win code : Nat} (hs : s.zdp.store = some ⟨sid, [], i, sub, win, []⟩)
    (hk : kind ⟨sid, [], i, sub, win, []⟩ = true) : (s.answerWait kind code).out = s.out ++ [.objectResult sid (okey i sub) code] ∧
    (s.answerWait kind code).micro = s.micro := by
  unfold State.answerWait
  simp only [hs]
  rw [if_neg (not_not_intro hk)]
  exact ⟨rfl, rfl⟩

theorem image_answered {q : State} {w : ObjWrite} {win id : Nat} {x : BootImage} (hs : q.zdp.store = some ⟨w.sid, [], 0x0E01, 4, win, []⟩)
    (hx : q.egress.images.find? (fun y => y.left.contains id) = some x) (ht : x.todo = []) (hl : ∀ y ∈ x.left, y = id) :
    (q.imageOpDone id []).out = q.out ++ [.objectResult w.sid (okey 0x0E01 4) 0] := by
  have hleft : x.left.filter (fun n => n != id) = [] := List.filter_eq_nil_iff.mpr fun y hy => by simp [hl y hy]
  have htodo : x.todo.length = 0 := by rw [ht]; rfl
  generalize hi : ({ x with left := x.left.filter (fun n => n != id) ++ [] } : BootImage) = i
  have hstored : i.stored = true := by
    rw [← hi]
    simp [BootImage.stored, ht, hleft]
  have hin : i.num = x.num ∧ i.version = x.version ∧ i.todo = x.todo := by
    rw [← hi]
    exact ⟨rfl, rfl, rfl⟩
  obtain ⟨hnum, hver, hitodo⟩ := hin
  have hof : ((q.setImage i).setImage i).imageOf i.num i.version = some i := by
    have hmem : i ∈ ((q.setImage i).setImage i).egress.images := by
      refine List.mem_map.mpr ⟨i, List.mem_map.mpr ⟨x, List.mem_of_find?_eq_some hx, if_pos ⟨hnum.symm, hver.symm⟩⟩, if_pos ⟨rfl, rfl⟩⟩
    obtain ⟨y, hy⟩ := Option.isSome_iff_exists.mp (List.find?_isSome (p := fun j : BootImage => j.num == i.num && j.version == i.version) |>.mpr ⟨i, hmem, by simp⟩)
    have hyp := List.find?_some hy
    obtain ⟨z, -, hz⟩ := List.mem_map.mp (List.mem_of_find?_eq_some hy)
    have hyi : y = i := by
      split at hz
      · exact hz.symm
      next h => exact absurd (by simpa [hz] using hyp) h
    exact hy.trans (congrArg some hyi)
  rw [hnum, hver] at hof
  have he : q.imageOpDone id [] = ((q.setImage i).setImage i).answerWait PendStore.image 0 := by
    unfold State.imageOpDone
    simp only [hx, hi, htodo, State.imageFill, hof, hstored, if_true]
  rw [he]
  exact (answerWait_out (s := (q.setImage i).setImage i) (kind := PendStore.image) hs rfl).1

theorem imageDelete_written (s : State) (w : ObjWrite) : Written s 0x0E01 5 w (.imageDelete w) (fun t =>
    ∀ x ∈ t.egress.images, x.num = s.winOf 0x0E01 5 → s.bound x.num x.version = true) := by
  refine written_command (by decide) rfl (o := .ok (s.deleteImages (s.winOf 0x0E01 5))) rfl fun u _ hu => ?_
  obtain rfl := WriteRes.ok.inj hu
  refine ⟨rfl, fun x hx hn => ?_⟩
  have hkeep := (List.mem_filter.mp hx).2
  simpa [hn] using hkeep

-- ---------------------------------------------------------------- program images and customer objects (R494, R497)

/-- Above the device's own objects the dictionary holds program images and customer objects. -/
theorem dictionary_high : ∀ r ∈ dictionary, r.index + r.n ≤ 0x2000 ∨ (r.index = 0x2000 ∧ r.n = 4096) ∨ (r.index = 0x4000 ∧ r.acc = .rw ∧ r.pers = true) := by
  decide +kernel

theorem dictionary_sets : ∀ r ∈ dictionary, r.index = 0x2000 → r.sub ≤ 2 → 2 < r.sub + r.m → r.acc = .rw ∧ r.pers = true := by
  decide +kernel

theorem objRow_found {i sub : Nat} {r : ORow} (hs : sub ≠ 0) (h : objRow i sub = some r) :
    r ∈ dictionary ∧ r.index ≤ i ∧ i < r.index + r.n ∧ r.sub ≤ sub ∧ sub < r.sub + r.m := by
  rw [objRow, if_neg hs] at h
  have hhas := List.find?_some h
  simp only [ORow.has, ORow.hasIndex, Bool.and_eq_true, decide_eq_true_eq] at hhas
  obtain ⟨⟨⟨h1, h2⟩, h3⟩, h4⟩ := hhas
  exact ⟨List.mem_of_find?_eq_some h, h1, h2, h3, h4⟩

theorem window_high (s : State) {i : Nat} (sub : Nat) (h : 0x2000 ≤ i) : s.window i sub = none := by
  unfold State.window
  dsimp only
  rw [if_neg (by omega), if_neg (by omega), if_neg (by omega), if_neg (by omega), if_neg (by omega)]

/-- A persistent value above the device's own objects is held. -/
theorem effect_high {s : State} {sid i sub win : Nat} {r : ORow} {v : List Byte} (h : 0x2000 ≤ i) (hs : ¬ (i < 0x3000 ∧ sub = 1)) (hacc : r.acc = .rw)
    (hpers : r.pers = true) : s.effect sid i sub win r v = s.holdValue (okey i sub) v true := by
  unfold State.effect
  simp only [window_high s sub h, Option.isSome_none, Bool.false_eq_true, if_false]
  rw [if_neg (by omega), if_neg (by omega), if_neg (by omega), if_neg (by omega), if_neg (by omega), if_neg (by omega), if_neg (by simp [hacc]),
    if_neg (by omega), if_neg (by omega), if_neg (by omega), if_neg (by omega), if_neg (by omega), if_neg (by omega), hpers]

theorem programImage_rule (s : State) {i : Nat} (sub win : Nat) (v : List Byte) (h : 0x2000 ≤ i) (h' : i < 0x3000) :
    s.ruleOf i sub win v = s.programImage i sub v := by
  unfold State.ruleOf
  dsimp only
  iterate 21 rw [if_neg (by omega)]
  exact if_pos ⟨h, h'⟩

theorem programImage_ok {s u : State} {i sub : Nat} {v : List Byte} (h : s.programImage i sub v = .ok u) : u = s := by
  unfold State.programImage at h
  split at h
  · exact nomatch h
  split at h
  · split at h
    · exact nomatch h
    split at h
    · exact nomatch h
    · exact (WriteRes.ok.inj h).symm
  split at h
  · exact nomatch h
  · exact (WriteRes.ok.inj h).symm

theorem vendor_low {i : Nat} (h : i < 0xF000) : vendor i = false := by
  simp [vendor]
  omega

theorem programImage_written (s : State) (w : ObjWrite) (k : BitVec 12) :
    Written s (0x2000 + k.toNat) 1 w (.programImageWrite k false w) (fun t => Tab.get [] t.domains (0x2000 + k.toNat) = w.value) := by
  have hk := k.isLt
  refine written_of (vendor_low (by omega)) rfl (programImage_rule s 1 _ w.value (by omega) (by omega)) fun r u _ _ hu => ?_
  obtain rfl := programImage_ok hu
  have he : u.effect w.sid (0x2000 + k.toNat) 1 (u.winOf (0x2000 + k.toNat) 1) r w.value =
      { u with domains := Tab.put [] (0x2000 + k.toNat) w.value u.domains } := by
    unfold State.effect
    dsimp only
    rw [if_neg (by omega), if_neg (by omega), if_neg (by omega), if_neg (by omega), if_neg (by omega), if_pos (by omega)]
  rw [he]
  exact ⟨rfl, Tab.get_put_self ..⟩

theorem descriptorSet_written (s : State) (w : ObjWrite) (k : BitVec 12) :
    Written s (0x2000 + k.toNat) 2 w (.programImageWrite k true w) fun t =>
      Tab.get [] t.obj (okey (0x2000 + k.toNat) 2) = w.value ∧ Tab.get [] t.nor (okey (0x2000 + k.toNat) 2) = w.value := by
  have hk := k.isLt
  refine written_of (vendor_low (by omega)) rfl (programImage_rule s 2 _ w.value (by omega) (by omega)) fun r u _ hr hu => ?_
  obtain rfl := programImage_ok hu
  obtain ⟨hmem, hlo, hhi, hsub, hsub'⟩ := objRow_found (by decide) hr
  have hindex : r.index = 0x2000 := by
    rcases dictionary_high r hmem with h | h | h <;> omega
  obtain ⟨hacc, hpers⟩ := dictionary_sets r hmem hindex hsub hsub'
  rw [effect_high (by omega) (by omega) hacc hpers]
  exact ⟨rfl, Tab.get_put_self .., Tab.get_put_self ..⟩

theorem customer_rule {s : State} {i : Nat} (sub win : Nat) (v : List Byte) (h : 0x4000 ≤ i) (h' : i < 0x8000) :
    s.ruleOf i sub win v = if 4194304 < s.customerBytes i + v.length then .abort s abRange else .ok s := by
  have hc : customer i = true := by simp [customer, h, h']
  unfold State.ruleOf
  dsimp only
  iterate 22 rw [if_neg (by omega)]
  exact if_pos hc

theorem customerObject_written (s : State) (w : ObjWrite) (k : BitVec 14) :
    Written s (0x4000 + k.toNat) 1 w (.customerObjectWrite k w) fun t =>
      Tab.get [] t.obj (okey (0x4000 + k.toNat) 1) = w.value ∧ Tab.get [] t.nor (okey (0x4000 + k.toNat) 1) = w.value := by
  have hk := k.isLt
  refine written_of (vendor_low (by omega)) rfl (customer_rule 1 _ w.value (by omega) (by omega)) fun r u _ hr hu => ?_
  split at hu
  · exact nomatch hu
  · obtain rfl := WriteRes.ok.inj hu
    obtain ⟨hmem, hlo, hhi, -⟩ := objRow_found (by decide) hr
    obtain ⟨hacc, hpers⟩ : r.acc = .rw ∧ r.pers = true := by
      rcases dictionary_high r hmem with h | h | h
      · omega
      · omega
      · exact h.2
    rw [effect_high (by omega) (by omega) hacc hpers]
    exact ⟨rfl, Tab.get_put_self .., Tab.get_put_self ..⟩

end Sys2Proof.Machine
end

section
/-!
PROOF. Writes of objects: microcode, repair, domains, interrupts and credentials (R459, R484, R511, R536, R540, R551).
-/

namespace Sys2Proof.Machine

-- ---------------------------------------------------------------- user microcode (R459)

theorem userImage_written (s : State) (w : ObjWrite) : WrittenLater s 0x1400 2 w (.userImageWrite w) (fun t =>
    t.micro.loading = some w.value ∧ t.micro.loadStage = 0 ∧ t.micro.loaded = s.micro.loaded) := by
  refine writtenLater_of (by decide) rfl (o := s.writeMicro w.value) rfl fun u hu => ?_
  unfold State.writeMicro at hu
  split at hu
  · exact nomatch hu
  · obtain rfl := WriteRes.wait.inj hu
    exact ⟨rfl, rfl, rfl⟩

/-- The tick that clears the slots answers the write of a user image. -/
theorem userImage_answered {q : State} {sid win : Nat} {img : List Byte} (hs : q.zdp.store = some ⟨sid, [], 0x1400, 2, win, []⟩)
    (hl : q.micro.loading = some img) (h0 : q.micro.loadStage = 0) :
    q.microTick.out = q.out ++ [.objectResult sid (okey 0x1400 2) 0] ∧ q.microTick.micro.loaded = 0 ∧ q.microTick.micro.loadStage = 1 := by
  have he : q.microTick = ({ q with micro := { q.micro with
      loaded := 0, unloadDue := 0, image := img, loadStage := 1 } } : State).answerWait PendStore.user 0 := by
    unfold State.microTick
    simp only [hl]
    rw [if_pos h0]
  obtain ⟨hout, hm⟩ := answerWait_out (s := { q with micro := { q.micro with loaded := 0, unloadDue := 0, image := img, loadStage := 1 } })
    (kind := PendStore.user) (code := 0) hs rfl
  rw [he]
  refine ⟨hout, ?_, ?_⟩
  · rw [hm]
  · rw [hm]

theorem slotUnload_written (s : State) (w : ObjWrite) : Written s 0x1400 6 w (.slotUnload w) (fun t =>
    ∀ i, i < 16 → t.micro.unloadDue.getLsbD i = (s.micro.unloadDue.getLsbD i || natBit (leNat w.value) i)) := by
  refine written_command (by decide) rfl (o := s.unloadSlots (leNat w.value)) rfl fun u _ hu => ?_
  unfold State.unloadSlots at hu
  split at hu
  · exact nomatch hu
  · obtain rfl := WriteRes.ok.inj hu
    refine ⟨rfl, fun i hi => ?_⟩
    have hbit : (BitVec.ofNat 16 (leNat w.value)).getLsbD i = natBit (leNat w.value) i := by
      rw [BitVec.getLsbD_ofNat, Nat.testBit_eq_decide_div_mod_eq, natBit, decide_eq_true hi, Bool.true_and]
      rfl
    exact (BitVec.getLsbD_or ..).trans (congrArg _ hbit)

-- ---------------------------------------------------------------- repair and domains (R536, R540, R551)

theorem retireCore_written (s : State) (w : ObjWrite) : Written s 0x1200 8 w (.retireCore w) (fun t =>
    leNat w.value ∈ s.repair.retired ∨ ∃ x ∈ t.repair.retireDue, x.1 = leNat w.value) := by
  refine written_command (by decide) rfl (o := s.askRetire (leNat w.value)) rfl fun u _ hu => ?_
  unfold State.askRetire at hu
  split at hu
  next h =>
    obtain rfl := WriteRes.ok.inj hu
    refine ⟨rfl, h.imp (fun h => by simpa using h) fun h => ?_⟩
    obtain ⟨x, hx, he⟩ := List.any_eq_true.mp h
    exact ⟨x, hx, eq_of_beq he⟩
  split at hu
  · exact nomatch hu
  · obtain rfl := WriteRes.ok.inj hu
    exact ⟨rfl, .inr ⟨_, List.mem_append_right _ List.mem_cons_self, rfl⟩⟩

theorem queueMoves_luns (s : State) (l : List FlashRef) : (s.queueMoves l).media.luns = s.media.luns := by
  refine foldl_keeps (fun u : State => u.media.luns) _ (fun a r => ?_) l s
  unfold State.queueMove
  exact ite_keeps (fun u : State => u.media.luns) rfl rfl

theorem refreshL_luns (s : State) (ch : Nat) : (s.refreshL ch).media.luns = s.media.luns := ite_keeps (fun t : State => t.media.luns) rfl rfl

theorem markStripes_luns (s : State) (g : Nat) : (s.markStripes g).media.luns = s.media.luns := rfl

theorem tableChanged_luns (s : State) : s.tableChanged.media.luns = s.media.luns := rfl

/-- A LUN that leaves service is being rebuilt, unless it is retired or has no role. -/
theorem leaveService_rebuilding (s : State) (n : Nat) (h3 : (s.lun n).state ≠ 3) (hr : (s.lun n).role = 1 ∨ (s.lun n).role = 2) :
    ((s.leaveService n).lun n).rebuilding = true := by
  by_cases hb : (s.lun n).rebuilding = true
  · rw [State.leaveService, if_pos (.inr (.inl hb))]
    exact hb
  · have hnot : ¬ ((s.lun n).state = 3 ∨ (s.lun n).rebuilding = true ∨ ¬ ((s.lun n).role = 1 ∨ (s.lun n).role = 2)) := by simp [h3, hb, hr]
    have hluns : (s.leaveService n).media.luns = (s.setLun n { s.lun n with state := 2, rebuilding := true }).media.luns := by
      rw [State.leaveService, if_neg hnot, markStripes_luns, tableChanged_luns, queueMoves_luns, State.retireLun, if_neg hnot, refreshL_luns]
    rw [State.lun, hluns, ← State.lun, State.lun_setLun]

theorem retireLun_written (s : State) (w : ObjWrite) : Written s 0x1200 11 w (.retireLun w) (fun t =>
    (s.lun (leNat w.value)).state ≠ 3 → (s.lun (leNat w.value)).role = 1 ∨ (s.lun (leNat w.value)).role = 2 →
      (t.lun (leNat w.value)).rebuilding = true) := by
  refine written_command (by decide) rfl (o := .ok (s.leaveService (leNat w.value))) rfl fun u _ hu => ?_
  obtain rfl := WriteRes.ok.inj hu
  obtain ⟨_, _, _, h⟩ := leaveService_media s (leNat w.value)
  exact ⟨(congrArg State.out h).trans rfl, leaveService_rebuilding s _⟩

theorem domainRequest_written (s : State) (w : ObjWrite) :
    Written s 0x1300 3 w (.domainRequest w) (fun t => t.domain (s.winOf 0x1300 3) = leNat w.value) := by
  refine written_command (by decide) rfl (o := s.askDomain (s.winOf 0x1300 3) (leNat w.value)) rfl fun u _ hu => ?_
  unfold State.askDomain at hu
  split at hu
  · obtain rfl := WriteRes.ok.inj hu
    obtain ⟨_, h⟩ := setDomain_frame s (s.winOf 0x1300 3) (leNat w.value)
    refine ⟨(congrArg State.out h).trans rfl, ?_⟩
    exact (domain_setDomain s (s.winOf 0x1300 3) (leNat w.value) (s.winOf 0x1300 3)).trans (if_pos rfl)
  · exact nomatch hu

-- ---------------------------------------------------------------- interrupts (R511)

theorem raiseNmi_written (s : State) (w : ObjWrite) : Written s 0x1030 2 w (.raiseNmi w) (fun t =>
    ∀ l c, l < s.nl → natBit (leNat w.value) l = true → (s.lcore l).carrier = some c → (t.core c).nmiPend = true) := by
  refine written_command (by decide) rfl (o := .ok (s.nmiMask (leNat w.value))) rfl fun u _ hu => ?_
  obtain rfl := WriteRes.ok.inj hu
  have hout : (s.nmiMask (leNat w.value)).out = s.out := by
    rw [nmiMask_eq]
    refine foldl_keeps State.out _ (fun a l => ?_) _ s
    unfold State.nmiOne
    split <;> rfl
  refine ⟨hout, fun l c hl hm hc => ?_⟩
  have h := nmiOnes_pend (leNat w.value) s (mem_natRange.mpr ⟨Nat.zero_le l, lt_of_lt_of_eq hl (Nat.zero_add _).symm⟩) hm hc
  rwa [← nmiMask_eq] at h

/-- Barista's interrupt at one logical core of a mask. -/
def State.barOne (mask : Nat) (a : State) (l : Nat) : State :=
  match natBit mask l, (a.lcore l).carrier with
  | true, some c => a.setCore c { a.core c with ipend := (a.core c).ipend ||| 0x10000#17 }
  | _, _ => a

theorem barMask_eq (s : State) (mask : Nat) : s.barMask mask = (natRange 0 s.nl).foldl (State.barOne mask) s := rfl

theorem barOne_kept (mask : Nat) (a : State) (l c : Nat) : (State.barOne mask a l).lcores = a.lcores ∧ (State.barOne mask a l).out = a.out ∧
    ((a.core c).ipend.getLsbD 16 = true → ((State.barOne mask a l).core c).ipend.getLsbD 16 = true) := by
  unfold State.barOne
  split
  next d _ _ =>
    refine ⟨rfl, rfl, fun h => ?_⟩
    by_cases hcd : c = d
    · rw [hcd, State.core_setCore]
      simp
    · rw [State.core_setCore_ne _ _ hcd]
      exact h
  · exact ⟨rfl, rfl, id⟩

theorem barOnes_kept (mask : Nat) (ls : List Nat) (a : State) (c : Nat) : (ls.foldl (State.barOne mask) a).out = a.out ∧
    ((a.core c).ipend.getLsbD 16 = true → ((ls.foldl (State.barOne mask) a).core c).ipend.getLsbD 16 = true) := by
  induction ls generalizing a with
  | nil => exact ⟨rfl, id⟩
  | cons l ls ih =>
    obtain ⟨-, hout, hpend⟩ := barOne_kept mask a l c
    obtain ⟨hout', hpend'⟩ := ih (State.barOne mask a l)
    exact ⟨hout'.trans hout, hpend' ∘ hpend⟩

theorem barOnes_pend (mask : Nat) {ls : List Nat} {l c : Nat} (a : State) (hl : l ∈ ls) (hm : natBit mask l = true) (hc : (a.lcore l).carrier = some c) :
    ((ls.foldl (State.barOne mask) a).core c).ipend.getLsbD 16 = true := by
  induction ls generalizing a with
  | nil => exact nomatch hl
  | cons m ls ih =>
    rcases List.mem_cons.mp hl with rfl | hl
    · refine (barOnes_kept mask ls _ c).2 ?_
      rw [State.barOne, hm, hc]
      simp
    · refine ih _ hl ?_
      rw [State.lcore, (barOne_kept mask a m c).1]
      exact hc

theorem raiseBar_written (s : State) (w : ObjWrite) : Written s 0x1030 3 w (.raiseBar w) (fun t =>
    ∀ l c, l < s.nl → natBit (leNat w.value) l = true → (s.lcore l).carrier = some c → (t.core c).ipend.getLsbD 16 = true) := by
  refine written_command (by decide) rfl (o := .ok (s.barMask (leNat w.value))) rfl fun u _ hu => ?_
  obtain rfl := WriteRes.ok.inj hu
  refine ⟨(barOnes_kept (leNat w.value) (natRange 0 s.nl) s 0).1, fun l c hl hm hc => ?_⟩
  have h := barOnes_pend (leNat w.value) s (mem_natRange.mpr ⟨Nat.zero_le l, lt_of_lt_of_eq hl (Nat.zero_add _).symm⟩) hm hc
  rwa [← barMask_eq] at h

-- ---------------------------------------------------------------- credentials (R484)

theorem credential_written (s : State) (w : ObjWrite) (ring : Fin 4) : Written s 0x0208 (ring.val + 1) w (.credentialWrite ring w) fun t =>
    (Tab.get [] t.obj (okey 0x0208 (ring.val + 1)) = w.value ∧ Tab.get [] t.nor (okey 0x0208 (ring.val + 1)) = w.value) ∧
    ∀ x ∈ t.zdp.sessions, x.isOpen = true → x.ring = ring.val → x.sid = w.sid := by
  refine written_of (by decide) rfl (o := .ok s) rfl fun r u _ _ hu => ?_
  obtain rfl := WriteRes.ok.inj hu
  refine ⟨rfl, ⟨Tab.get_put_self .., Tab.get_put_self ..⟩, fun x hx hopen hring => ?_⟩
  have h := (List.mem_filter.mp hx).2
  simpa [hopen, hring] using h

/-- Settles O54: each object's write by its rule and its effect. -/
theorem objectWrites : Obligations.ObjectWrites := by
  intro s w
  refine ⟨shadowPlan_written s w, planCommit_written, shadowDiscard_written, partnerConfig_written s w, partnerEntry_written s w, keyWrite_written s w,
    keyErase_written s w, orderlyShutdown_written s w, portMode_written s w, rawCommand_written s w, image_written s w, ?_, imageDelete_written s w,
    fun k => ⟨programImage_written s w k, descriptorSet_written s w k⟩, customerObject_written s w, userImage_written s w, ?_, ?_, slotUnload_written s w,
    deviceRestart_written s w, updateImage_written s w, updateTry_written, updateCommit_written, updateDiscard_written, retireCore_written s w,
    retireLun_written s w, domainRequest_written s w, raiseNmi_written s w, raiseBar_written s w, credential_written s w⟩
  · exact fun q id x hq hx ht hl => image_answered hq hx ht hl
  · exact fun q hq hl h0 => userImage_answered hq hl h0
  · exact fun hl h1 => if_pos ⟨hl, h1⟩

end Sys2Proof.Machine
end

section
/-!
PROOF. Messages of the dictionary protocol, and their carriage on CAN FD (R471 to R489).
-/

namespace Sys2Proof.Machine

-- ---------------------------------------------------------------- sessions

theorem session_mem {s : State} {sid : Nat} {x : Session} (h : s.session sid = some x) : x ∈ s.zdp.sessions ∧ x.sid = sid ∧ x.isOpen = true := by
  have hp := List.find?_some h
  simp only [Bool.and_eq_true, beq_iff_eq] at hp
  exact ⟨List.mem_of_find?_eq_some h, hp.1, hp.2⟩

/-- A session that is replaced by an open one is found by its ID. -/
theorem session_setSession {s : State} {x y : Session} (hx : x ∈ s.zdp.sessions) (hs : x.sid = y.sid) (ho : y.isOpen = true) :
    (s.setSession y).session y.sid = some y := by
  have hmem : y ∈ (s.setSession y).zdp.sessions := List.mem_map.mpr ⟨x, hx, if_pos hs⟩
  obtain ⟨z, hz⟩ := Option.isSome_iff_exists.mp
    (List.find?_isSome (p := fun z : Session => z.sid == y.sid && z.isOpen) |>.mpr ⟨y, hmem, by simp [ho]⟩)
  have hzp := List.find?_some hz
  obtain ⟨w, -, hw⟩ := List.mem_map.mp (List.mem_of_find?_eq_some hz)
  have hzy : z = y := by
    split at hw
    · exact hw.symm
    next h => exact absurd (by simpa [hw] using hzp : w.sid = y.sid ∧ _).1 h
  exact hz.trans (congrArg some hzy)

/-- An answer leaves to the session's client, and the session keeps it (R480). -/
theorem answer_spec {s : State} {sid : Nat} {x : Session} (h : s.session sid = some x) (req : List Byte) (total res : Nat) (data : List Byte) :
    s.answer sid req total res data = (s.setSession { x with busy := false, lastResp := response req sid (some x.key) total res data }).send x.client
      (response req sid (some x.key) total res data) := by
  unfold State.answer
  simp only [h]

theorem answer_out {s : State} {sid : Nat} {x : Session} (h : s.session sid = some x) (req : List Byte) (total res : Nat) (data : List Byte) :
    (s.answer sid req total res data).out = s.out ++ s.carried x.client (response req sid (some x.key) total res data) := by
  rw [answer_spec h]
  rfl

theorem answer_session {s : State} {sid : Nat} {x : Session} (h : s.session sid = some x) (req : List Byte) (total res : Nat) (data : List Byte) :
    (s.answer sid req total res data).session sid = some { x with busy := false, lastResp := response req sid (some x.key) total res data } := by
  obtain ⟨hmem, hsid, hopen⟩ := session_mem h
  rw [answer_spec h]
  have hset := session_setSession (s := s) (x := x) (y := { x with busy := false, lastResp := response req sid (some x.key) total res data }) hmem rfl hopen
  exact (congrArg (State.session _) hsid.symm).trans hset

theorem answer_zdp_frame (s : State) (sid : Nat) (req : List Byte) (total res : Nat) (data : List Byte) :
    ∃ l o, s.answer sid req total res data = { s with zdp := { s.zdp with sessions := l }, out := o } := by
  unfold State.answer
  split
  · exact ⟨_, _, rfl⟩
  · exact ⟨_, _, rfl⟩

theorem endSession_gone (s : State) (sid : Nat) : ∀ z ∈ (s.endSession sid).zdp.sessions, z.sid ≠ sid := by
  intro z hz
  simpa using (List.mem_filter.mp hz).2

-- ---------------------------------------------------------------- arrival (R471)

theorem receiveNext_serves {s : State} {m : ZdpMsg} (hst : s.zdp.store = none) (hb : s.zdp.backlog = []) (hr : s.reaches m = true) :
    s.receiveNext m = s.serve m := by
  unfold State.receiveNext
  rw [serveWaiting_idle hb]
  refine Eq.trans (b := s.receive m) rfl ?_
  unfold State.receive
  rw [if_neg (not_not_intro hr), hst]

/-- A request of an open session that arrives in order is executed with its sequence number noted. -/
theorem inOrder_performs {s : State} {m : ZdpMsg} {x : Session} {cmd : Nat} (h : s.inOrder m x cmd) (h1 : cmd ≠ 1) (h2 : cmd ≠ 2) :
    s.receiveNext m = (s.setSession { x with lastSeq := mSeq m.bytes }).perform { x with lastSeq := mSeq m.bytes } m.bytes := by
  obtain ⟨hcmd, hr, hst, hb, hgood, hhead, hx, hclient, htag, hseq, hbusy⟩ := h
  rw [receiveNext_serves hst hb hr, State.serve, if_neg (not_not_intro hgood), if_neg (by omega), if_neg (by omega), State.serveRequest]
  simp only [hx]
  rw [if_neg (by simp [hclient, htag]), if_neg (by simp [hhead]), if_neg (by omega), if_neg (by omega), if_neg (by simp [hbusy])]

theorem receiveAs_eq (s : State) {cmd : Nat} {m : ZdpMsg} (h : mCmd m.bytes = cmd) : s.receiveAs cmd m = s.receiveNext m := if_pos h

section
variable {s : State} {m : ZdpMsg} {x : Session} {cmd : Nat} (h : s.inOrder m x cmd)

/-- The session of a message in order, once the message is accepted. -/
def Session.accepted (x : Session) (b : List Byte) : Session := { x with lastSeq := mSeq b }

include h

theorem inOrder_session : x ∈ s.zdp.sessions ∧ x.sid = mSid m.bytes ∧ x.isOpen = true := by
  obtain ⟨-, -, -, -, -, -, hx, -⟩ := h
  exact session_mem hx

theorem accepted_session : (s.setSession (x.accepted m.bytes)).session x.sid = some (x.accepted m.bytes) := by
  obtain ⟨hmem, -, hopen⟩ := inOrder_session h
  exact session_setSession (y := x.accepted m.bytes) hmem rfl hopen

theorem accepted_answer (total res : Nat) (data : List Byte) :
    ((s.setSession (x.accepted m.bytes)).answer x.sid m.bytes total res data).out = s.out ++ s.respond m x total res data :=
  answer_out (accepted_session h) m.bytes total res data

end

-- ---------------------------------------------------------------- OPEN and PROVE (R481 to R484)

theorem zdpOpen_spec {s : State} {m : ZdpMsg} (hcmd : mCmd m.bytes = 1) (hr : s.reaches m = true) (hst : s.zdp.store = none) (hb : s.zdp.backlog = [])
    (hgood : msgGood m.bytes = true) (hhead : headReserved m.bytes = false) (hlock : clientSource m.src ∉ s.zdp.locked)
    (hlen : (mData m.bytes).length = 20) (hzero : allZero (sliceZ (mData m.bytes) 1 3) = true) (hring : beField (mData m.bytes) 0 1 ≤ 3)
    (hres : s.barista.stage = .rescue → beField (mData m.bytes) 0 1 = 0) (hfull : s.tableFull m.src = false) :
    ∃ t z, exec (.zdpOpen m) s = .next t ∧ t.zdp.sessions = s.zdp.sessions ++ [z] ∧ z.isOpen = false ∧ z.client = m.src ∧
      z.ring = beField (mData m.bytes) 0 1 ∧ z.nc = (mData m.bytes).drop 4 ∧ t.out = s.out ++ s.carried m.src z.lastResp := by
  let u : State := if allZero (s.credential (beField (mData m.bytes) 0 1)) then s.logEvent 0x0802 1 [BitVec.ofNat 8 (beField (mData m.bytes) 0 1)] else s
  have hu : ∃ l, u = { s with log := l } := by
    unfold u
    split
    · exact ⟨_, rfl⟩
    · exact ⟨_, rfl⟩
  obtain ⟨l, hu⟩ := hu
  let a := response m.bytes u.newSid none (mTotal m.bytes) 0 (beBytes 16 (Config.nonce u.zdp.opens).toNat)
  let z : Session := { sid := u.newSid, client := m.src, ring := beField (mData m.bytes) 0 1, nc := (mData m.bytes).drop 4,
                       nd := beBytes 16 (Config.nonce u.zdp.opens).toNat, key := [], isOpen := false, lastSeq := mSeq m.bytes, busy := false
                       lastResp := a, transfer := none }
  let t : State := (({ u with zdp := { u.zdp with sessions := u.zdp.sessions ++ [z], opens := u.zdp.opens + 1 } } : State).drawn).send m.src a
  have hfull' : u.tableFull m.src = false := by rw [hu]; exact hfull
  have he : exec (.zdpOpen m) s = .next t := by
    refine (receiveAs_eq s hcmd).trans ?_
    rw [receiveNext_serves hst hb hr, State.serve, if_neg (not_not_intro hgood), if_pos hcmd, State.serveOpen]
    dsimp only
    rw [if_neg (by simpa using hlock), if_neg (by simp [hhead, hlen, hzero]), if_neg (not_not_intro hlen), if_neg ?_]
    · exact if_neg (by simp only [u] at hfull'; simp [hfull'])
    · rintro (h3 | ⟨hstage, hne⟩)
      · omega
      · exact hne (hres hstage)
  refine ⟨t, z, he, ?_, rfl, rfl, rfl, rfl, ?_⟩
  · exact congrArg (fun w : Zdp => w.sessions ++ [z]) ((congrArg State.zdp hu).trans rfl)
  · have hout : u.out = s.out := by rw [hu]
    have hcarried : u.carried m.src a = s.carried m.src a := by
      rw [hu]
      rfl
    exact (congrArg (· ++ u.carried m.src a) hout).trans (congrArg (s.out ++ ·) hcarried)

/-- A right proof opens the session. -/
theorem zdpProve_opens {s : State} {m : ZdpMsg} {x : Session} (hcmd : mCmd m.bytes = 2) (hr : s.reaches m = true) (hst : s.zdp.store = none)
    (hb : s.zdp.backlog = []) (hgood : msgGood m.bytes = true) (hhead : headReserved m.bytes = false)
    (hx : (s.zdp.sessions.find? fun z => z.sid == mSid m.bytes && !z.isOpen && z.client == m.src) = some x) (hseq : x.lastSeq < mSeq m.bytes)
    (hd : mData m.bytes = proofOf "ZDP-P" (s.credential x.ring) x.sid x.nc x.nd)
    (htag : tagGood (proofOf "ZDP-K" (s.credential x.ring) x.sid x.nc x.nd) m.bytes = true) :
    ∃ t z, exec (.zdpProve m) s = .next t ∧ t.session x.sid = some z ∧ z.key = proofOf "ZDP-K" (s.credential x.ring) x.sid x.nc x.nd ∧
      z.client = x.client ∧ z.ring = x.ring ∧
      t.out = s.out ++ s.respond m { x with key := proofOf "ZDP-K" (s.credential x.ring) x.sid x.nc x.nd } (mTotal m.bytes) 0 [] := by
  generalize hk : proofOf "ZDP-K" (s.credential x.ring) x.sid x.nc x.nd = key at htag
  let y : Session := { x with key := key, isOpen := true, lastSeq := mSeq m.bytes }
  have he : exec (.zdpProve m) s = .next ((s.setSession y).refuse x.sid m.bytes 0) := by
    refine (receiveAs_eq s hcmd).trans ?_
    rw [receiveNext_serves hst hb hr, State.serve, if_neg (not_not_intro hgood), if_neg (by omega), if_pos hcmd, State.serveProve]
    simp only [hx]
    rw [if_neg (by omega), if_neg (by omega), if_neg (not_not_intro hd), hk, if_neg (not_not_intro htag), if_neg (by simp [hhead])]
  have hy : (s.setSession y).session x.sid = some y := session_setSession (y := y) (List.mem_of_find?_eq_some hx) rfl rfl
  exact ⟨_, _, he, answer_session hy .., rfl, rfl, rfl, answer_out hy ..⟩

theorem failedProof_ro (s : State) (src : Client) (ring : Nat) : (s.failedProof src ring).ro = (s.count (okey 0x0200 5) 1 32).ro := rfl

/-- A wrong proof ends the session and is counted. -/
theorem zdpProve_fails {s : State} {m : ZdpMsg} {x : Session} (hcmd : mCmd m.bytes = 2) (hr : s.reaches m = true) (hst : s.zdp.store = none)
    (hb : s.zdp.backlog = []) (hgood : msgGood m.bytes = true) (hhead : headReserved m.bytes = false)
    (hx : (s.zdp.sessions.find? fun z => z.sid == mSid m.bytes && !z.isOpen && z.client == m.src) = some x) (hseq : x.lastSeq < mSeq m.bytes)
    (hd : mData m.bytes ≠ proofOf "ZDP-P" (s.credential x.ring) x.sid x.nc x.nd) :
    ∃ t, exec (.zdpProve m) s = .next t ∧ (∀ z ∈ t.zdp.sessions, z.sid ≠ x.sid) ∧
      t.roGet (okey 0x0200 5) = (s.roGet (okey 0x0200 5) + 1) % 2 ^ 32 := by
  have he : exec (.zdpProve m) s = .next (((s.failedProof m.src x.ring).endSession x.sid).send m.src
      (response m.bytes x.sid none (mTotal m.bytes) abAuth [])) := by
    refine (receiveAs_eq s hcmd).trans ?_
    rw [receiveNext_serves hst hb hr, State.serve, if_neg (not_not_intro hgood), if_neg (by omega), if_pos hcmd, State.serveProve]
    simp only [hx]
    rw [if_neg (by omega), if_neg (by omega), if_pos hd, if_neg (by simp [hhead])]
  refine ⟨_, he, endSession_gone _ _, ?_⟩
  refine Eq.trans ?_ (State.roGet_count s (okey 0x0200 5) 1 32)
  exact congrArg (fun r => Tab.get 0 r (okey 0x0200 5)) (failedProof_ro s m.src x.ring)

-- ---------------------------------------------------------------- requests of an open session (R478 to R480)

/-- An accepted request that is executed by its command. -/
theorem inOrder_exec {s : State} {m : ZdpMsg} {x : Session} {cmd : Nat} {e : Instr} {o : Host.Outcome State Fault Refusal} (h : s.inOrder m x cmd)
    (he : exec e s = s.receiveAs cmd m) (h1 : cmd ≠ 1) (h2 : cmd ≠ 2)
    (ho : (s.setSession (x.accepted m.bytes)).perform (x.accepted m.bytes) m.bytes = o) : exec e s = o := by
  obtain ⟨hcmd, -⟩ := id h
  exact (he.trans (receiveAs_eq s hcmd)).trans ((inOrder_performs h h1 h2).trans ho)

theorem zdpClose_spec {s : State} {m : ZdpMsg} {x : Session} (h : s.inOrder m x 0x03) :
    ∃ t, exec (.zdpClose m) s = .next t ∧ t.out = s.out ++ s.respond m x (mTotal m.bytes) 0 [] ∧ ∀ z ∈ t.zdp.sessions, z.sid ≠ x.sid := by
  obtain ⟨hcmd, -⟩ := id h
  refine ⟨((s.setSession (x.accepted m.bytes)).refuse x.sid m.bytes 0).endSession x.sid, inOrder_exec h rfl (by decide) (by decide) ?_,
    accepted_answer h (mTotal m.bytes) 0 [], endSession_gone _ _⟩
  rw [State.perform, hcmd]
  rfl

theorem zdpNop_spec {s : State} {m : ZdpMsg} {x : Session} (h : s.inOrder m x 0x04) :
    ∃ t, exec (.zdpNop m) s = .next t ∧ t.out = s.out ++ s.respond m x (mTotal m.bytes) 0 [] ∧ t.obj = s.obj ∧ t.nor = s.nor := by
  obtain ⟨hcmd, -⟩ := id h
  obtain ⟨l, o, hf⟩ := answer_zdp_frame (s.setSession (x.accepted m.bytes)) x.sid m.bytes (mTotal m.bytes) 0 []
  refine ⟨(s.setSession (x.accepted m.bytes)).refuse x.sid m.bytes 0, inOrder_exec h rfl (by decide) (by decide) ?_,
    accepted_answer h (mTotal m.bytes) 0 [], (congrArg State.obj hf).trans rfl, (congrArg State.nor hf).trans rfl⟩
  rw [State.perform, hcmd]
  rfl

theorem unknownCommand_spec {s : State} {m : ZdpMsg} {x : Session} (hk : knownCommand (mCmd m.bytes) = false) (h : s.inOrder m x (mCmd m.bytes)) :
    ∃ t, exec (.unknownCommand m) s = .next t ∧ t.out = s.out ++ s.respond m x (mTotal m.bytes) abCommand [] ∧ t.obj = s.obj := by
  have hne (n : Nat) (hn : knownCommand n = true) : mCmd m.bytes ≠ n := fun h => absurd (h ▸ hk) (by simp [hn])
  obtain ⟨l, o, hf⟩ := answer_zdp_frame (s.setSession (x.accepted m.bytes)) x.sid m.bytes (mTotal m.bytes) abCommand []
  refine ⟨(s.setSession (x.accepted m.bytes)).refuse x.sid m.bytes abCommand,
    (if_neg (by simp [hk])).trans ((inOrder_performs h (hne 1 rfl) (hne 2 rfl)).trans ?_), accepted_answer h (mTotal m.bytes) abCommand [],
    (congrArg State.obj hf).trans rfl⟩
  unfold State.perform
  split
  next hc => exact absurd hc (hne 0x03 rfl)
  next hc => exact absurd hc (hne 0x04 rfl)
  next hc => exact absurd hc (hne 0x10 rfl)
  next hc => exact absurd hc (hne 0x11 rfl)
  next hc => exact absurd hc (hne 0x12 rfl)
  next hc => exact absurd hc (hne 0x13 rfl)
  next => rfl

/-- A READ answers with the bytes asked for and changes no object and no memory. -/
theorem zdpRead_spec {s : State} {m : ZdpMsg} {x : Session} {r : ORow} (h : s.inOrder m x 0x10)
    (hr : (s.setSession (x.accepted m.bytes)).findObject (mIndex m.bytes) (mSub m.bytes) = .inl r) (hring : x.ring ≤ r.rr) (hacc : r.acc ≠ .wo)
    (hv : vendor (mIndex m.bytes) = false)
    (hlen : mOff m.bytes ≤ ((s.setSession (x.accepted m.bytes)).readObject (mIndex m.bytes) (mSub m.bytes) r).length) :
    ∃ t, exec (.zdpRead m) s = .next t ∧
      t.out = s.out ++ s.respond m x ((s.setSession (x.accepted m.bytes)).readObject (mIndex m.bytes) (mSub m.bytes) r).length 0
        ((((s.setSession (x.accepted m.bytes)).readObject (mIndex m.bytes) (mSub m.bytes) r).drop (mOff m.bytes)).take (mLen m.bytes)) ∧
      t.obj = s.obj ∧ t.nor = s.nor ∧ t.mem = s.mem := by
  obtain ⟨hcmd, -⟩ := id h
  generalize hl : (s.setSession (x.accepted m.bytes)).readObject (mIndex m.bytes) (mSub m.bytes) r = l at hlen
  let u := (s.setSession (x.accepted m.bytes)).answer x.sid m.bytes l.length 0 ((l.drop (mOff m.bytes)).take (mLen m.bytes))
  have hafter (i sub : Nat) : ∃ lc, u.afterRead i sub = { u with lcores := lc } := by
    unfold State.afterRead
    split
    · exact ⟨_, rfl⟩
    split
    · exact ⟨_, rfl⟩
    · exact ⟨_, rfl⟩
  have hdo : (s.setSession (x.accepted m.bytes)).doRead (x.accepted m.bytes) m.bytes =
      if r.acc = .rc then u.afterRead (mIndex m.bytes) (mSub m.bytes) else u := by
    have hring' : ¬ r.rr < (x.accepted m.bytes).ring := Nat.not_lt.mpr hring
    unfold State.doRead
    simp only [hr, hv, Bool.false_eq_true, if_false, hl]
    rw [if_neg hring', if_neg hacc, if_neg (Nat.not_lt.mpr hlen)]
    rfl
  obtain ⟨lc, ho⟩ : ∃ lc, (s.setSession (x.accepted m.bytes)).doRead (x.accepted m.bytes) m.bytes = { u with lcores := lc } := by
    rw [hdo]
    split
    · exact hafter _ _
    · exact ⟨_, rfl⟩
  obtain ⟨sess, o, hf⟩ := answer_zdp_frame (s.setSession (x.accepted m.bytes)) x.sid m.bytes l.length 0 ((l.drop (mOff m.bytes)).take (mLen m.bytes))
  refine ⟨{ u with lcores := lc }, inOrder_exec h rfl (by decide) (by decide) ?_, accepted_answer h _ 0 _, ?_, ?_, ?_⟩
  · rw [State.perform, hcmd]
    exact congrArg Host.Outcome.next ho
  · exact (congrArg State.obj hf).trans rfl
  · exact (congrArg State.nor hf).trans rfl
  · exact (congrArg State.mem hf).trans rfl

/-- A WRITE of a whole value that its checks accept. -/
theorem zdpWrite_eq {s u : State} {m : ZdpMsg} {x : Session} {r : ORow} (h : s.inOrder m x 0x11) (hf : s.failing = false)
    (hr : (s.setSession (x.accepted m.bytes)).canWrite (x.accepted m.bytes) (mIndex m.bytes) (mSub m.bytes) = .inl r) (hoff : mOff m.bytes = 0)
    (htot : mTotal m.bytes = mLen m.bytes)
    (hj : (s.setSession (x.accepted m.bytes)).judgeValue (mIndex m.bytes) (mSub m.bytes)
      ((s.setSession (x.accepted m.bytes)).winOf (mIndex m.bytes) (mSub m.bytes)) r (mData m.bytes) = .ok u) :
    exec (.zdpWrite m) s = if r.pers then
        .next (u.waits (x.accepted m.bytes) m.bytes (mIndex m.bytes) (mSub m.bytes)
          ((s.setSession (x.accepted m.bytes)).winOf (mIndex m.bytes) (mSub m.bytes)) (mData m.bytes))
      else .next ((u.effect x.sid (mIndex m.bytes) (mSub m.bytes)
        ((s.setSession (x.accepted m.bytes)).winOf (mIndex m.bytes) (mSub m.bytes)) r (mData m.bytes)).refuse x.sid m.bytes 0) := by
  obtain ⟨hcmd, -⟩ := id h
  have hfail : (s.setSession (x.accepted m.bytes)).failing = false := hf
  refine inOrder_exec h rfl (by decide) (by decide) ?_
  rw [State.perform, hcmd]
  refine Eq.trans (b := (s.setSession (x.accepted m.bytes)).doWrite (x.accepted m.bytes) m.bytes) rfl ?_
  unfold State.doWrite
  rw [if_neg (by simp [hfail])]
  simp only [hr]
  rw [if_neg (by simp [hoff, htot]), State.writeValue]
  simp only [hj]
  rfl

-- ---------------------------------------------------------------- transfers (R479)

/-- A transfer that goes on holds what has come so far, and its segment is answered. -/
theorem growTransfer_spec {s : State} {m : ZdpMsg} {x : Session} {cmd : Nat} (h : s.inOrder m x cmd) (r : ORow) {l : List Byte} (hl : l.length ≠ mTotal m.bytes) :
    ∃ t, (s.setSession (x.accepted m.bytes)).growTransfer (x.accepted m.bytes) m.bytes r l = .next t ∧
      t.out = s.out ++ s.respond m x (mTotal m.bytes) 0 [] ∧
      ∃ z, t.session x.sid = some z ∧ z.transfer = some ⟨okey (mIndex m.bytes) (mSub m.bytes), mTotal m.bytes, l⟩ := by
  obtain ⟨-, -, hopen⟩ := inOrder_session h
  obtain ⟨hmem, -, -⟩ := session_mem (accepted_session h)
  let y : Session := { x.accepted m.bytes with transfer := some ⟨okey (mIndex m.bytes) (mSub m.bytes), mTotal m.bytes, l⟩ }
  have hy : ((s.setSession (x.accepted m.bytes)).setSession y).session x.sid = some y := session_setSession (y := y) hmem rfl hopen
  refine ⟨_, if_neg hl, answer_out hy .., _, answer_session hy .., rfl⟩

theorem zdpWriteSeg_opens {s : State} {m : ZdpMsg} {x : Session} {r : ORow} (h : s.inOrder m x 0x12) (hf : s.failing = false) (ht : x.transfer = none)
    (hoff : mOff m.bytes = 0) (hr : (s.setSession (x.accepted m.bytes)).canWrite (x.accepted m.bytes) (mIndex m.bytes) (mSub m.bytes) = .inl r)
    (hv : vendor (mIndex m.bytes) = false) (hplan : mIndex m.bytes = 0x0411 → mTotal m.bytes ≤ 4194304) (hmax : mTotal m.bytes ≤ r.ty.max)
    (hd : (mData m.bytes).length < mTotal m.bytes) (hlen : mLen m.bytes ≤ mTotal m.bytes) :
    ∃ t, exec (.zdpWriteSeg m) s = .next t ∧ t.out = s.out ++ s.respond m x (mTotal m.bytes) 0 [] ∧
      ∃ z, t.session x.sid = some z ∧ z.transfer = some ⟨okey (mIndex m.bytes) (mSub m.bytes), mTotal m.bytes, mData m.bytes⟩ := by
  obtain ⟨hcmd, -⟩ := id h
  have hfail : (s.setSession (x.accepted m.bytes)).failing = false := hf
  have htr : (x.accepted m.bytes).transfer = none := ht
  obtain ⟨t, hgrow, hout, hz⟩ := growTransfer_spec h r (Nat.ne_of_lt hd)
  refine ⟨t, inOrder_exec h rfl (by decide) (by decide) ?_, hout, hz⟩
  rw [State.perform, hcmd]
  refine Eq.trans (b := (s.setSession (x.accepted m.bytes)).doSegment (x.accepted m.bytes) m.bytes) rfl ?_
  unfold State.doSegment
  rw [if_neg (by simp [hfail])]
  simp only [htr]
  rw [State.openTransfer, if_neg (not_not_intro hoff)]
  simp only [hr]
  rw [if_neg (by simp [hv]), if_neg (fun hp => absurd (hplan hp.1) (Nat.not_le.mpr hp.2)), if_neg (Nat.not_lt.mpr hmax), if_neg (Nat.not_lt.mpr hlen), hgrow]

theorem zdpWriteSeg_continues {s : State} {m : ZdpMsg} {x : Session} {r : ORow} {l : List Byte} (h : s.inOrder m x 0x12) (hf : s.failing = false)
    (ht : x.transfer = some ⟨okey (mIndex m.bytes) (mSub m.bytes), mTotal m.bytes, l⟩) (hoff : l.length = mOff m.bytes)
    (hlen : l.length + mLen m.bytes ≤ mTotal m.bytes)
    (hr : (s.setSession (x.accepted m.bytes)).findObject (mIndex m.bytes) (mSub m.bytes) = .inl r)
    (hd : l.length + (mData m.bytes).length ≠ mTotal m.bytes) :
    ∃ t, exec (.zdpWriteSeg m) s = .next t ∧ t.out = s.out ++ s.respond m x (mTotal m.bytes) 0 [] ∧
      ∃ z, t.session x.sid = some z ∧ z.transfer = some ⟨okey (mIndex m.bytes) (mSub m.bytes), mTotal m.bytes, l ++ mData m.bytes⟩ := by
  obtain ⟨hcmd, -⟩ := id h
  have hfail : (s.setSession (x.accepted m.bytes)).failing = false := hf
  have htr : (x.accepted m.bytes).transfer = some ⟨okey (mIndex m.bytes) (mSub m.bytes), mTotal m.bytes, l⟩ := ht
  obtain ⟨t, hgrow, hout, hz⟩ := growTransfer_spec h r (l := l ++ mData m.bytes) (by rwa [List.length_append])
  refine ⟨t, inOrder_exec h rfl (by decide) (by decide) ?_, hout, hz⟩
  rw [State.perform, hcmd]
  refine Eq.trans (b := (s.setSession (x.accepted m.bytes)).doSegment (x.accepted m.bytes) m.bytes) rfl ?_
  unfold State.doSegment
  rw [if_neg (by simp [hfail])]
  simp only [htr]
  rw [if_neg (by simp [hoff]; omega)]
  simp only [hr]
  exact hgrow

theorem zdpCancel_spec {s : State} {m : ZdpMsg} {x : Session} (h : s.inOrder m x 0x13) (ht : x.transfer ≠ none) :
    ∃ t, exec (.zdpCancel m) s = .next t ∧ t.out = s.out ++ s.respond m x (mTotal m.bytes) 0 [] ∧
      ∃ z, t.session x.sid = some z ∧ z.transfer = none := by
  obtain ⟨hcmd, -⟩ := id h
  obtain ⟨-, -, hopen⟩ := inOrder_session h
  obtain ⟨hmem, -, -⟩ := session_mem (accepted_session h)
  let y : Session := { x.accepted m.bytes with transfer := none }
  have hy : ((s.setSession (x.accepted m.bytes)).setSession y).session x.sid = some y := session_setSession (y := y) hmem rfl hopen
  obtain ⟨l, hl⟩ := Option.ne_none_iff_exists'.mp ht
  have htr : (x.accepted m.bytes).transfer = some l := hl
  refine ⟨((s.setSession (x.accepted m.bytes)).setSession y).refuse x.sid m.bytes 0, inOrder_exec h rfl (by decide) (by decide) ?_, answer_out hy .., _,
    answer_session hy .., rfl⟩
  rw [State.perform, hcmd]
  refine Eq.trans (b := .next ((s.setSession (x.accepted m.bytes)).doCancel (x.accepted m.bytes) m.bytes)) rfl ?_
  unfold State.doCancel
  simp only [htr]
  rfl

end Sys2Proof.Machine
end

section
/-!
PROOF. Timeouts, persistent writes, and CAN FD (R471, R472, R474, R479, R483, R486 to R489).
-/

namespace Sys2Proof.Machine

-- ---------------------------------------------------------------- timeouts (R479, R483)

theorem anySession_mem {s : State} {sid : Nat} {x : Session} (h : s.anySession sid = some x) : x ∈ s.zdp.sessions ∧ x.sid = sid := by
  unfold State.anySession at h
  have hp := List.find?_some h
  exact ⟨List.mem_of_find?_eq_some h, by simpa using hp⟩

theorem transferTimeout_spec {s : State} {sid : Nat} {x : Session} (h : s.anySession sid = some x) :
    ∃ t, exec (.transferTimeout sid) s = .next t ∧ ∀ z ∈ t.zdp.sessions, z.sid = sid → z.transfer = none := by
  have he : exec (.transferTimeout sid) s = .next (s.setSession { x with transfer := none }) := by
    refine Eq.trans (b := execTransferTimeout sid s) rfl ?_
    unfold execTransferTimeout
    simp only [h]
  refine ⟨_, he, fun z hz hsid => ?_⟩
  obtain ⟨y, -, hy⟩ := List.mem_map.mp hz
  split at hy
  · rw [← hy]
  next hne => exact absurd ((congrArg Session.sid hy).trans (hsid.trans (anySession_mem h).2.symm)) hne

theorem sessionIdleTimeout_spec {s : State} {sid : Nat} {x : Session} (h : s.anySession sid = some x) (hb : x.busy = false) :
    ∃ t, exec (.sessionIdleTimeout sid) s = .next t ∧ ∀ z, z ∈ t.zdp.sessions ↔ z ∈ s.zdp.sessions ∧ z.sid ≠ sid := by
  have he : exec (.sessionIdleTimeout sid) s = .next (s.endSession sid) := by
    refine Eq.trans (b := execSessionIdleTimeout sid s) rfl ?_
    unfold execSessionIdleTimeout
    simp only [h, hb]
    rfl
  refine ⟨_, he, fun z => List.mem_filter.trans ?_⟩
  simp

theorem openLockoutEnd_spec (s : State) (src : Client) :
    ∃ t, exec (.openLockoutEnd src) s = .next t ∧ ∀ z, z ∈ t.zdp.locked ↔ z ∈ s.zdp.locked ∧ z ≠ clientSource src :=
  ⟨_, rfl, fun z => List.mem_filter.trans (by simp)⟩

-- ---------------------------------------------------------------- persistent writes (R472, R474)

theorem effect_backlog (s : State) (sid i sub win : Nat) (r : ORow) (v : List Byte) : (s.effect sid i sub win r v).zdp.backlog = s.zdp.backlog := by
  have hconfig (n : Nat) : (s.configPartner n v).zdp = s.zdp := by
    have hvoid : (s.voidNow n).zdp = s.zdp := by
      unfold State.voidNow
      split <;> rfl
    unfold State.configPartner
    dsimp only
    split
    · exact hvoid
    · exact ite_keeps State.zdp rfl rfl
  have hlapse (n : Nat) : (s.lapse n).zdp = s.zdp := by
    unfold State.lapse
    dsimp only
    split <;> rfl
  have hperiod (u : State) : u.setPeriod.zdp = u.zdp := by
    unfold State.setPeriod
    exact ite_keeps State.zdp rfl rfl
  have hrefresh (l : List Nat) (u : State) : (l.foldl State.refreshL u).zdp = u.zdp := by
    refine foldl_keeps State.zdp _ (fun a ch => ?_) l u
    obtain ⟨_, _, _, h⟩ := refreshL_media a ch
    rw [h]
  have hretrain (u : State) (p was : Nat) : (u.retrain p was).zdp = u.zdp := by
    obtain ⟨_, h⟩ := retrain_frame u p was
    rw [h]
    rfl
  have hheld (u : State) (hz : u.zdp = s.zdp) (a : State) (ha : a.zdp = u.zdp) : a.zdp.backlog = s.zdp.backlog := congrArg Zdp.backlog (ha.trans hz)
  have hu : (if 0x0D40 ≤ i ∧ i < 0x0D50 ∧ sub = 1 then s.lapse (i - 0x0D40) else s).zdp = s.zdp := ite_keeps State.zdp (hlapse _) rfl
  unfold State.effect
  refine ite_keeps (fun u : State => u.zdp.backlog) rfl ?_
  refine ite_keeps (fun u : State => u.zdp.backlog) rfl ?_
  refine ite_keeps (fun u : State => u.zdp.backlog) (congrArg Zdp.backlog (hconfig win)) ?_
  refine ite_keeps (fun u : State => u.zdp.backlog) rfl ?_
  refine ite_keeps (fun u : State => u.zdp.backlog) rfl ?_
  refine ite_keeps (fun u : State => u.zdp.backlog) rfl ?_
  refine ite_keeps (fun u : State => u.zdp.backlog) rfl ?_
  generalize (if 0x0D40 ≤ i ∧ i < 0x0D50 ∧ sub = 1 then s.lapse (i - 0x0D40) else s) = u at hu ⊢
  refine ite_keeps (fun u : State => u.zdp.backlog) (hheld u hu _ (ite_keeps State.zdp (hperiod _) rfl)) ?_
  refine ite_keeps (fun u : State => u.zdp.backlog) (hheld u hu _ rfl) ?_
  refine ite_keeps (fun u : State => u.zdp.backlog) (hheld u hu _ (hrefresh _ _)) ?_
  refine ite_keeps (fun u : State => u.zdp.backlog) (hheld u hu _ rfl) ?_
  exact ite_keeps (fun u : State => u.zdp.backlog) (hheld u hu _ (hretrain _ _ _)) (hheld u hu _ rfl)

theorem refuse_backlog (s : State) (sid : Nat) (req : List Byte) (code : Nat) : (s.refuse sid req code).zdp.backlog = s.zdp.backlog := by
  obtain ⟨_, _, h⟩ := answer_zdp_frame s sid req (mTotal req) code []
  exact (congrArg (fun u : State => u.zdp.backlog) h).trans rfl

section
variable {s : State} {p : PendStore} (hp : s.zdp.store = some p) (hr : p.byRule = false) (hb : s.zdp.backlog = [])

/-- The state without the write that waited. -/
def State.stored (s : State) : State := { s with zdp := { s.zdp with store := none, backlog := [] } }

/-- The write that waited is answered: cut by a power failure, lost, or with its effect. -/
def State.storeEnd (q : State) (p : PendStore) (good : Bool) : State :=
  if q.failing then q.refuse p.sid p.req abPowerFail
  else if ¬ good then q.refuse p.sid p.req abStore
  else match q.findObject p.index p.sub with
    | .inl r => (q.effect p.sid p.index p.sub p.win r p.value).refuse p.sid p.req 0
    | .inr a => q.refuse p.sid p.req a

include hp hr hb

/-- The end of a persistent write: it is answered, and nothing waits behind it. -/
theorem persistentStore_ends (good : Bool) {u : State} (hu : u.zdp.backlog = []) (h : s.stored.storeEnd p good = u) :
    exec (.persistentStoreComplete good) s = .next u := by
  have hs : ({ s with zdp := { s.zdp with store := none } } : State) = s.stored := by
    rw [State.stored, ← hb]
  have he : exec (.persistentStoreComplete good) s = (({ s with zdp := { s.zdp with store := none } } : State).storeEnd p good).serveWaiting := by
    refine Eq.trans (b := execPersistentStoreComplete good s) rfl ?_
    unfold execPersistentStoreComplete
    simp only [hp]
    rw [if_neg (by simp [hr])]
    rfl
  rw [he, hs, h]
  exact serveWaiting_idle hu

theorem persistentStore_written (hf : s.failing = false) {r : ORow} (hfind : s.stored.findObject p.index p.sub = .inl r) :
    exec (.persistentStoreComplete true) s = .next ((s.stored.effect p.sid p.index p.sub p.win r p.value).refuse p.sid p.req 0) := by
  have hfail : s.stored.failing = false := hf
  refine persistentStore_ends hp hr hb true ((refuse_backlog ..).trans (effect_backlog ..)) ?_
  rw [State.storeEnd, if_neg (by simp [hfail]), if_neg (by simp)]
  simp only [hfind]

theorem persistentStore_lost (hf : s.failing = false) : exec (.persistentStoreComplete false) s = .next (s.stored.refuse p.sid p.req abStore) := by
  have hfail : s.stored.failing = false := hf
  refine persistentStore_ends hp hr hb false (refuse_backlog ..) ?_
  rw [State.storeEnd, if_neg (by simp [hfail]), if_pos (by simp)]

theorem persistentStore_cut (hf : s.failing = true) (good : Bool) :
    exec (.persistentStoreComplete good) s = .next (s.stored.refuse p.sid p.req abPowerFail) :=
  persistentStore_ends hp hr hb good (refuse_backlog ..) (if_pos hf)

end

/-- While a write waits, a request of another session waits behind it (R471). -/
theorem receiveNext_waits {s : State} {m : ZdpMsg} {p : PendStore} (hp : s.zdp.store = some p) (hr : s.reaches m = true) (hs : mSid m.bytes ≠ p.sid) :
    s.receiveNext m = .next { s with zdp := { s.zdp with backlog := s.zdp.backlog ++ [m] } } := by
  have hw : s.serveWaiting = .next s := if_pos (by simp [hp])
  unfold State.receiveNext
  rw [hw]
  refine Eq.trans (b := s.receive m) rfl ?_
  unfold State.receive
  rw [if_neg (not_not_intro hr)]
  simp only [hp]
  exact if_neg hs

-- ---------------------------------------------------------------- CAN FD (R486 to R489)

/-- The state with another reassembly. -/
def State.withCan (s : State) (c : Option (Nat × List Byte)) : State := { s with zdp := { s.zdp with can := c } }

section
variable {s : State} {f : CanFrame} {h : Byte} {l : List Byte} (hd : f.data = h :: l) (hr : s.canReaches = true) (hi : f.ident.toNat = 0x5C0 + s.canNode)
include hd hr hi

theorem canFrame_starts (h7 : h.getLsbD 7 = true) (h6 : h.getLsbD 6 = false) : exec (.canFdFrame f) s = .next (s.withCan (some (1, l))) := by
  refine Eq.trans (b := execCanFdFrame f s) rfl ?_
  unfold execCanFdFrame
  simp only [hd]
  rw [if_neg (by simp [hr, hi])]
  simp only [h7, h6]
  rfl

theorem canFrame_whole (h7 : h.getLsbD 7 = true) (h6 : h.getLsbD 6 = true) :
    exec (.canFdFrame f) s = (s.withCan none).receiveNext { src := .can, bytes := l.take (mSize l) } := by
  refine Eq.trans (b := execCanFdFrame f s) rfl ?_
  unfold execCanFdFrame
  simp only [hd]
  rw [if_neg (by simp [hr, hi])]
  simp only [h7, h6]
  rfl

theorem canFrame_continues {n : Nat} {k : List Byte} (h7 : h.getLsbD 7 = false) (hc : s.zdp.can = some (n, k)) (hn : h.toNat % 64 = n) :
    exec (.canFdFrame f) s = if h.getLsbD 6 then (s.withCan none).receiveNext { src := .can, bytes := (k ++ l).take (mSize (k ++ l)) }
      else .next (s.withCan (some ((n + 1) % 64, k ++ l))) := by
  refine Eq.trans (b := execCanFdFrame f s) rfl ?_
  unfold execCanFdFrame
  simp only [hd]
  rw [if_neg (by simp [hr, hi])]
  simp only [h7, hc]
  exact if_neg (not_not_intro hn)

end

theorem canReassemblyTimeout_spec {s : State} (h : s.zdp.can ≠ none) : ∃ t, exec .canReassemblyTimeout s = .next t ∧ t.zdp.can = none ∧
    t.roGet (okey 0x0206 6) = (s.roGet (okey 0x0206 6) + 1) % 2 ^ 32 := by
  obtain ⟨c, hc⟩ := Option.ne_none_iff_exists'.mp h
  have he : exec .canReassemblyTimeout s = .next s.dropCan := by
    refine Eq.trans (b := execCanReassemblyTimeout s) rfl ?_
    unfold execCanReassemblyTimeout
    simp only [hc]
  exact ⟨_, he, rfl, State.roGet_count s (okey 0x0206 6) 1 32⟩

theorem canBusOffRecovery_spec {s : State} (h : s.roGet (okey 0x0206 5) = 3) : ∃ t, exec .canBusOffRecovery s = .next t ∧ t.roGet (okey 0x0206 5) = 1 :=
  ⟨_, if_pos h, State.roGet_roSet ..⟩

theorem canFaultConfinement_spec {s : State} (st : CanState) (h0 : s.roGet (okey 0x0206 5) ≠ 0) (h3 : s.roGet (okey 0x0206 5) ≠ 3) :
    ∃ t, exec (.canFaultConfinement st) s = .next t ∧ t.roGet (okey 0x0206 5) = canCode st :=
  ⟨_, if_neg (not_or.mpr ⟨h0, h3⟩), State.roGet_roSet ..⟩

/-- Settles O55: each command of the protocol by what its message does and answers. -/
theorem zdpMessages : Obligations.ZdpMessages := by
  intro s m x b d arrives y v answered
  refine ⟨?_, ?_, zdpClose_spec, zdpNop_spec, fun r h hr hring hacc hv => zdpRead_spec h hr hring hacc hv, ?_, ?_, ?_,
    fun h ht => zdpCancel_spec h ht, unknownCommand_spec, fun sid h => ⟨transferTimeout_spec h, sessionIdleTimeout_spec h⟩, openLockoutEnd_spec s, ?_, ?_, ?_,
    canReassemblyTimeout_spec, canBusOffRecovery_spec, fun st => canFaultConfinement_spec st⟩
  · rintro ⟨hcmd, hr, hst, hb, hgood, hhead⟩ hlock hlen hzero hring hres hfull
    exact zdpOpen_spec hcmd hr hst hb hgood hhead hlock hlen hzero hring hres hfull
  · rintro ⟨hcmd, hr, hst, hb, hgood, hhead⟩ hx hseq
    exact ⟨zdpProve_opens hcmd hr hst hb hgood hhead hx hseq, zdpProve_fails hcmd hr hst hb hgood hhead hx hseq⟩
  · intro r u h hf hr hoff htot win hj
    have he := zdpWrite_eq h hf hr hoff htot hj
    refine ⟨fun hpers => he.trans (if_neg (by simp [hpers])), fun hpers => ⟨_, he.trans (if_pos hpers), rfl, rfl, rfl, rfl⟩⟩
  · exact fun r h hf ht hoff hr hv hplan hmax hd hlen => zdpWriteSeg_opens h hf ht hoff hr hv hplan hmax hd hlen
  · exact fun r l h hf ht hoff hlen hr hd => zdpWriteSeg_continues h hf ht hoff hlen hr hd
  · exact fun p hp hr hb => ⟨fun r hf hfind => persistentStore_written hp hr hb hf hfind, persistentStore_lost hp hr hb, persistentStore_cut hp hr hb⟩
  · rintro p hp hr hs e (⟨rfl, hcmd⟩ | ⟨rfl, hcmd⟩)
    · exact (receiveAs_eq s hcmd).trans (receiveNext_waits hp hr hs)
    · exact (receiveAs_eq s hcmd).trans (receiveNext_waits hp hr hs)
  · intro f h l hd hr hi can
    refine ⟨canFrame_starts hd hr hi, canFrame_whole hd hr hi, fun n k h7 hc hn => ?_⟩
    have he := canFrame_continues hd hr hi h7 hc hn
    exact ⟨fun h6 => he.trans (if_neg (fun h => absurd (h.symm.trans h6) (by decide))), fun h6 => he.trans (if_pos h6)⟩

end Sys2Proof.Machine
end

section
/-!
PROOF. What leaves memory as it is: conditionals, iterations, cores, keys, records, plans and the journal. A proof `(rfl)` keeps
its lemma an ordinary rewriting rule, which `simp` also uses for side conditions.
-/

namespace Sys2Proof.Machine

@[simp] theorem ite_mem (p : Prop) [Decidable p] (a b : State) : (if p then a else b).mem = if p then a.mem else b.mem :=
  apply_ite State.mem p a b

@[simp] theorem ite_fst_mem {α : Type} (p : Prop) [Decidable p] (a b : State × α) : (if p then a else b).1.mem = if p then a.1.mem else b.1.mem :=
  apply_ite (fun x : State × α => x.1.mem) p a b

@[simp] theorem foldl_mem {α : Type} {f : State → α → State} (h : ∀ s x, (f s x).mem = s.mem) {l : List α} {s : State} :
    (l.foldl f s).mem = s.mem := foldl_keeps State.mem f h l s

-- ---------------------------------------------------------------- Ops.lean

@[simp] theorem modLcore_mem (s : State) (l : Nat) (f : LCore → LCore) : (s.modLcore l f).mem = s.mem := (rfl)

@[simp] theorem charge_mem (s : State) (c : Nat) (x : Cost) : (s.charge c x).mem = s.mem := by simp [State.charge]

@[simp] theorem reportFault_mem (s : State) (c cause : Nat) : (s.reportFault c cause).mem = s.mem := by simp [State.reportFault]

@[simp] theorem checkstop_mem (s : State) (c : Nat) (t : Trap) (pc : Word) : (s.checkstop c t pc).mem = s.mem := by simp [State.checkstop]

@[simp] theorem enter_mem (s : State) (c : Nat) (t : Trap) (pc : Word) (rs : Bool) : (s.enter c t pc rs).mem = s.mem := by simp [State.enter]

@[simp] theorem enterAsync_mem (s : State) (c vec : Nat) : (s.enterAsync c vec).mem = s.mem := by simp [State.enterAsync]

@[simp] theorem fetchFault_mem (s : State) (c : Nat) (t : Trap) : (s.fetchFault c t).mem = s.mem := by simp [State.fetchFault]

@[simp] theorem retire_mem (s : State) (c : Nat) (pc : Word) (rep : Bool) (x : Cost) : (s.retire c pc rep x).mem = s.mem := by simp [State.retire]

@[simp] theorem retireTo_mem (s : State) (c : Nat) (target : Word) (x : Cost) : (s.retireTo c target x).mem = s.mem := by simp [State.retireTo]

@[simp] theorem holdParity_mem (s : State) (c : Nat) (w : BadWord) : (s.holdParity c w).mem = s.mem := by simp [State.holdParity]

-- ---------------------------------------------------------------- Mem.lean

@[simp] theorem freeKeys_mem (l : List Nat) (s : State) : (s.freeKeys l).mem = s.mem := by
  induction l generalizing s with
  | nil => rfl
  | cons p l ih => exact (ih _).trans rfl

@[simp] theorem giveBack_mem (s : State) (c line : Nat) : (s.giveBack c line).mem = s.mem := (rfl)

@[simp] theorem giveUp_mem (s : State) (c : Nat) : (s.giveUp c).mem = s.mem := by simp [State.giveUp]

-- ---------------------------------------------------------------- Undefined.lean

@[simp] theorem havocKeys_mem (s : State) (c u : Nat) : (s.havocKeys c u).mem = s.mem :=
  ite_keeps State.mem rfl (foldl_mem (fun _ _ => by rfl))

-- ---------------------------------------------------------------- Run.lean

@[simp] theorem fetch_mem (s : State) (c : Nat) (pc : Word) : (s.fetch c pc).1.mem = s.mem := by
  unfold State.fetch
  simp only
  (repeat' split) <;> simp

@[simp] theorem takeBreakpoint_mem (s : State) (c : Nat) : (s.takeBreakpoint c).mem = s.mem := by simp [State.takeBreakpoint]

@[simp] theorem restoreRef_mem (s s0 : State) : (s.restoreRef s0).mem = s.mem := (rfl)

-- ---------------------------------------------------------------- Plan.lean

@[simp] theorem refuse_mem (s : State) (sid : Nat) (req : List Byte) (code : Nat) : (s.refuse sid req code).mem = s.mem := by simp [State.refuse]

@[simp] theorem shownFigure_mem (s : State) (n : Option Nat) : (s.shownFigure n).1.mem = s.mem := by
  unfold State.shownFigure
  split <;> simp

@[simp] theorem putRefusal_mem (s : State) (r : RefusalRec) (op : Nat) : (s.putRefusal r op).mem = s.mem := by simp [State.putRefusal]

@[simp] theorem clearRefusal_mem (s : State) : s.clearRefusal.mem = s.mem := (rfl)

-- ---------------------------------------------------------------- Books.lean

@[simp] theorem peekCells_mem (r : Rec) (f : Nat) : ∀ (s : State) (i n : Nat), (s.peekCells r f i n).1.mem = s.mem := by
  induction f with
  | zero => exact fun _ _ _ => rfl
  | succ f ih =>
    intro s i n
    unfold State.peekCells
    simp only
    split
    · rfl
    · split <;> simp [ih]

@[simp] theorem peekRec_mem (s : State) (r : Rec) : (s.peekRec r).1.mem = s.mem := peekCells_mem r _ _ _ _

@[simp] theorem setRecord_mem (s : State) (r : Rec) : (s.setRecord r).mem = s.mem := (rfl)

@[simp] theorem setArena_mem (s : State) (a : Arena) : (s.setArena a).mem = s.mem := (rfl)

@[simp] theorem drst_mem (s : State) (c res : Nat) : (s.drst c res).mem = s.mem := (rfl)

@[simp] theorem emit_mem (s : State) (c addr : Nat) : (s.emit c addr).mem = s.mem := by
  unfold State.emit
  simp only
  (repeat' split) <;> simp

-- ---------------------------------------------------------------- Carafe.lean

@[simp] theorem newCeiling_mem (s : State) (w : TickFacts) : (s.newCeiling w).mem = s.mem := by simp [State.newCeiling]

@[simp] theorem breach_mem (s : State) : s.breach.mem = s.mem := by simp [State.breach]

@[simp] theorem testComes_mem (s : State) : s.testComes.mem = s.mem := by simp [State.testComes]

-- ---------------------------------------------------------------- Sessions.lean

@[simp] theorem discardMsg_mem (s : State) : s.discardMsg.mem = s.mem := (rfl)

@[simp] theorem send_mem (s : State) (dst : Client) (b : List Byte) : (s.send dst b).mem = s.mem := (rfl)

@[simp] theorem setSession_mem (s : State) (x : Session) : (s.setSession x).mem = s.mem := (rfl)

@[simp] theorem endSession_mem (s : State) (sid : Nat) : (s.endSession sid).mem = s.mem := (rfl)

-- ---------------------------------------------------------------- Halt.lean

@[simp] theorem abandonGrinder_mem (s : State) : s.abandonGrinder.mem = s.mem := (rfl)

@[simp] theorem abandonImages_mem (s : State) : s.abandonImages.mem = s.mem := by simp [State.abandonImages]

@[simp] theorem startPowerFail_mem (s : State) (trigger : Nat) : (s.startPowerFail trigger).mem = s.mem := by simp [State.startPowerFail]

-- ---------------------------------------------------------------- Tags.lean

@[simp] theorem tagEvent_mem (s : State) (point outcome partner admitted : Nat) (tag : DWord) (check : Nat) :
    (s.tagEvent point outcome partner admitted tag check).mem = s.mem := by
  simp [State.tagEvent]

@[simp] theorem verifyAt_mem (s : State) (point : Nat) (l : List Byte) : (s.verifyAt point l).1.mem = s.mem := by
  unfold State.verifyAt
  simp only
  split <;> simp

-- ---------------------------------------------------------------- Acks.lean

@[simp] theorem sendAck_mem (s : State) (port level n drop : Nat) : (s.sendAck port level n drop).mem = s.mem := by simp [State.sendAck]

@[simp] theorem voidGrants_mem (s : State) (n : Nat) : (s.voidGrants n).mem = s.mem := (rfl)

@[simp] theorem coreGrant_mem (s : State) (want l : Nat) : (s.coreGrant want l).mem = s.mem := by
  unfold State.coreGrant
  simp only
  split <;> simp

@[simp] theorem coreGrants_mem (s : State) : s.coreGrants.mem = s.mem := by simp [State.coreGrants]

@[simp] theorem reserveDerived_mem (s : State) : s.reserveDerived.mem = s.mem := (rfl)

-- ---------------------------------------------------------------- Switch.lean

@[simp] theorem turnArenas_mem (s : State) : s.turnArenas.mem = s.mem := (rfl)

@[simp] theorem swapResident_mem (s : State) (n : Nat) : (s.swapResident n).mem = s.mem := (rfl)

@[simp] theorem swapStaging_mem (s : State) : s.swapStaging.mem = s.mem := (rfl)

@[simp] theorem setReserves_mem (s : State) : s.setReserves.mem = s.mem := (rfl)

@[simp] theorem takePeriod_mem (s : State) (p : Nat) : (s.takePeriod p).mem = s.mem := (rfl)

@[simp] theorem setPeriod_mem (s : State) : s.setPeriod.mem = s.mem := by simp [State.setPeriod]

@[simp] theorem startSchedules_mem (s : State) : s.startSchedules.mem = s.mem := by simp [State.startSchedules]

@[simp] theorem activate_mem (s : State) (dom : List Byte) (state : Nat) : (s.activate dom state).mem = s.mem := by
  unfold State.activate
  simp only
  split <;> simp

@[simp] theorem deactivate_mem (s : State) : s.deactivate.mem = s.mem := by simp [State.deactivate]

@[simp] theorem lendCarrier_mem (s : State) (planNl degNl l : Nat) : (s.lendCarrier planNl degNl l).mem = s.mem := by
  unfold State.lendCarrier
  (repeat' split) <;> simp

@[simp] theorem lendCarriers_mem (s : State) (planNl degNl : Nat) : (s.lendCarriers planNl degNl).mem = s.mem := by simp [State.lendCarriers]

-- ---------------------------------------------------------------- Repair.lean

@[simp] theorem burnFuse_mem (e : Word) (n : Nat) : ∀ s : State, (State.burnFuse e n s).mem = s.mem := by
  induction n with
  | zero => exact fun _ => rfl
  | succ n ih => exact fun s => ite_keeps State.mem rfl ((ih _).trans rfl)

@[simp] theorem recordFuse_mem (s : State) (kind spare unit : Nat) : (s.recordFuse kind spare unit).mem = s.mem := burnFuse_mem _ _ _

@[simp] theorem retireOne_mem (s : State) (c cause : Nat) : (s.retireOne c cause).mem = s.mem := by
  simp [State.retireOne, setDomain_mem]

@[simp] theorem retireCore_mem (s : State) (c cause : Nat) : (s.retireCore c cause).mem = s.mem := by
  simp [State.retireCore]

@[simp] theorem refreshL_mem (s : State) (ch : Nat) : (s.refreshL ch).mem = s.mem := by simp [State.refreshL]

@[simp] theorem retireLun_mem (s : State) (n : Nat) : (s.retireLun n).mem = s.mem := by simp [State.retireLun]

-- ---------------------------------------------------------------- Geometry.lean

@[simp] theorem occupancy_mem (s : State) : s.occupancy.mem = s.mem := by
  unfold State.occupancy
  simp only
  split <;> simp

-- ---------------------------------------------------------------- Sets.lean

@[simp] theorem closeSet_mem (s : State) (f dm : Nat) : (s.closeSet f dm).mem = s.mem := (rfl)

@[simp] theorem swapWords_mem (s : State) : s.swapWords.mem = s.mem := by simp [State.swapWords]

@[simp] theorem settle_mem (s : State) : s.settle.mem = s.mem := (rfl)

@[simp] theorem dropSets_mem (s : State) : s.dropSets.mem = s.mem := (rfl)

@[simp] theorem missSets_mem (s : State) (f : Nat) : (s.missSets f).1.mem = s.mem :=
  foldl_mem (fun _ _ => by rfl)

@[simp] theorem releaseRec_mem (s : State) (r : Rec) : (s.releaseRec r).mem = s.mem := by
  unfold State.releaseRec
  split <;> simp

@[simp] theorem advanceDur_mem (s : State) (ns : List Nat) : (s.advanceDur ns).mem = s.mem :=
  foldl_mem (fun _ _ => by rfl)

@[simp] theorem endFrame_mem (s : State) (f : Nat) : (s.endFrame f).mem = s.mem := by
  simp [State.endFrame]

-- ---------------------------------------------------------------- Queue.lean

@[simp] theorem fetchRead_mem (s : State) (ref : FlashRef) : (s.fetchRead ref).mem = s.mem := by simp [State.fetchRead]

-- ---------------------------------------------------------------- Percolator.lean

@[simp] theorem lineImage_mem (s : State) (pa frame : Nat) : (s.lineImage pa frame).1.mem = s.mem := by
  unfold State.lineImage
  split <;> simp

@[simp] theorem lineSlots_mem (frame : Nat) (l : List Item) : ∀ (s : State) (c : Content), (s.lineSlots frame l c).1.mem = s.mem := by
  induction l with
  | nil => exact fun _ _ => rfl
  | cons x l ih =>
    intro s c
    cases x with
    | line pa => exact (ih _ _).trans (lineImage_mem s pa frame)
    | record id => exact ih s c
    | control l => exact ih s c
    | key a b => exact ih s c

@[simp] theorem setChange_mem (s : State) (cs : ChangeSet) : (s.setChange cs).mem = s.mem := (rfl)

@[simp] theorem placeRecords_mem (s : State) (setIndex : Nat) (c : Chunk) (starts : BitVec 64) : (s.placeRecords setIndex c starts).mem = s.mem := by
  refine foldl_mem fun u x => ?_
  split <;> rfl

@[simp] theorem rewriteUnit_mem (s : State) (g place : Nat) (o : MediaOp) : (s.rewriteUnit g place o).mem = s.mem := by simp [State.rewriteUnit]

-- ---------------------------------------------------------------- SysArea.lean

@[simp] theorem tableChanged_mem (s : State) : s.tableChanged.mem = s.mem := (rfl)

@[simp] theorem setFold_mem (s : State) (g : Nat) (f : Nat × Nat × List Byte) : (s.setFold g f).mem = s.mem := (rfl)

@[simp] theorem retryJobs_mem (s : State) : s.retryJobs.mem = s.mem := (rfl)

@[simp] theorem takeObject_mem (s : State) (key v : Nat) : (s.takeObject key v).mem = s.mem := by simp [State.takeObject]

@[simp] theorem takeRoles_mem (s : State) (t : SysTables) : (s.takeRoles t).mem = s.mem := by simp [State.takeRoles]

@[simp] theorem takeTables_mem (s : State) (t : SysTables) : (s.takeTables t).mem = s.mem := by simp [State.takeTables]

-- ---------------------------------------------------------------- Bulk.lean

@[simp] theorem lapse_mem (s : State) (r : Nat) : (s.lapse r).mem = s.mem := by simp [State.lapse]

@[simp] theorem countExpired_mem (s : State) (r : Nat) : (s.countExpired r).mem = s.mem := (rfl)

theorem bulkWrite_mem (job : Option Nat) (f : Nat) : ∀ {s t : State} {bs : List Block} {l : List Nat},
    s.bulkWrite job f bs = some (t, l) → t.mem = s.mem := by
  induction f with
  | zero => intro s t bs l h; obtain ⟨rfl, -⟩ := h; rfl
  | succ f ih =>
    intro s t bs l h
    unfold State.bulkWrite at h
    simp only at h
    split at h
    · obtain ⟨rfl, -⟩ := h; rfl
    · split at h
      · cases h
      · next r hr =>
        split at h
        · cases h
        · next q hq =>
          obtain ⟨rfl, -⟩ := h
          exact (ih hq).trans (bulkUnit_mem hr)

@[simp] theorem queueMove_mem (s : State) (ref : FlashRef) : (s.queueMove ref).mem = s.mem := by simp [State.queueMove]

@[simp] theorem queueMoves_mem (s : State) (l : List FlashRef) : (s.queueMoves l).mem = s.mem := by simp [State.queueMoves]

@[simp] theorem markStripes_mem (s : State) (g : Nat) : (s.markStripes g).mem = s.mem := (rfl)

@[simp] theorem leaveService_mem (s : State) (n : Nat) : (s.leaveService n).mem = s.mem := by simp [State.leaveService]

@[simp] theorem fillImages_mem (s : State) : s.fillImages.mem = s.mem := by simp [State.fillImages]

end Sys2Proof.Machine
end

section
/-!
PROOF. What leaves memory as it is: device registers, ticks, boot, power, ports and recovery.
-/

namespace Sys2Proof.Machine

-- ---------------------------------------------------------------- DeviceRegs.lean

@[simp] theorem iraise_mem (s : State) (v : Word) : (s.iraise v).mem = s.mem := by
  unfold State.iraise
  simp only
  (repeat' split) <;> simp

@[simp] theorem egsb_mem (s : State) (c : Nat) (v : DWord) : (s.egsb c v).mem = s.mem := by simp [State.egsb]

@[simp] theorem devWrite_mem (s : State) (c : Nat) (r : DevReg) (v : DWord) : (s.devWrite c r v).mem = s.mem := by
  unfold State.devWrite
  split <;> simp

@[simp] theorem devAfterRead_mem (s : State) (c : Nat) (r : DevReg) : (s.devAfterRead c r).mem = s.mem := by simp [State.devAfterRead]

-- ---------------------------------------------------------------- Microcode.lean

@[simp] theorem reloadDone_mem (s : State) (c : Nat) : (s.reloadDone c).mem = s.mem := by
  unfold State.reloadDone
  simp only
  (repeat' split) <;> simp

-- ---------------------------------------------------------------- FrameTick.lean

@[simp] theorem logAudit_mem (s : State) : s.logAudit.mem = s.mem := (rfl)

@[simp] theorem abandonTask_mem (s : State) (l : Nat) : (s.abandonTask l).mem = s.mem := by
  unfold State.abandonTask
  split <;> simp

@[simp] theorem abandonTasks_mem (s : State) : s.abandonTasks.mem = s.mem := by simp [State.abandonTasks]

@[simp] theorem countOverruns_mem (s : State) : s.countOverruns.mem = s.mem := (rfl)

@[simp] theorem processingMisses_mem (s : State) (f : Nat) : (s.processingMisses f).mem = s.mem := by simp [State.processingMisses]

@[simp] theorem takePolicies_mem (s : State) : s.takePolicies.mem = s.mem := by simp [State.takePolicies]

@[simp] theorem freshFrame_mem (s : State) : s.freshFrame.mem = s.mem := (rfl)

@[simp] theorem doVoids_mem (s : State) : s.doVoids.mem = s.mem := by simp [State.doVoids]

@[simp] theorem rehome_mem (s : State) (r : Rec) (dram : Bool) : (s.rehome r dram).mem = s.mem := by simp [State.rehome]

@[simp] theorem sendDurable_mem (s : State) (n : Nat) : (s.sendDurable n).mem = s.mem := by simp [State.sendDurable]

@[simp] theorem sendState_mem (s : State) (n : Nat) : (s.sendState n).mem = s.mem := by simp [State.sendState]

@[simp] theorem restoredAcks_mem (s : State) (ends : Bool) : (s.restoredAcks ends).mem = s.mem := by simp [State.restoredAcks]

@[simp] theorem tickAcks_mem (s : State) (ends : Bool) : (s.tickAcks ends).mem = s.mem := by simp [State.tickAcks]

@[simp] theorem microTick_mem (s : State) : s.microTick.mem = s.mem := by
  unfold State.microTick
  simp only
  split <;> simp

@[simp] theorem debugTick_mem (s : State) : s.debugTick.mem = s.mem := by simp [State.debugTick]

@[simp] theorem findTrigger_mem (s : State) (missed : Bool) : (s.findTrigger missed).mem = s.mem := by simp [State.findTrigger]

@[simp] theorem finishStop_mem (s : State) : s.finishStop.mem = s.mem := by simp [State.finishStop]

@[simp] theorem openGroups_mem (s : State) : s.openGroups.mem = s.mem := by
  refine foldl_mem fun u g => ?_
  simp only
  split
  · rfl
  · exact enqueueBuilt_mem (fun t n => buildFixed_mem _ _ _ _ _ _ _)

@[simp] theorem turnTimer_mem (s : State) : s.turnTimer.mem = s.mem := by simp [State.turnTimer]

@[simp] theorem latchQueue_mem (s : State) : s.latchQueue.mem = s.mem := (rfl)

@[simp] theorem settleFrame_mem (s : State) (w : TickFacts) : (s.settleFrame w).mem = s.mem := by simp [State.settleFrame]

-- ---------------------------------------------------------------- Boot.lean

@[simp] theorem slotTo_mem (s : State) (n : Nat) (x : Slot) : (s.slotTo n x).mem = s.mem := (rfl)

@[simp] theorem slotSkip_mem (s : State) (n reason : Nat) : (s.slotSkip n reason).mem = s.mem := (rfl)

@[simp] theorem slotSpent_mem (s : State) (n : Nat) : (s.slotSpent n).mem = s.mem := by simp [State.slotSpent]

@[simp] theorem spendTry_mem (s : State) (n : Nat) : (s.spendTry n).mem = s.mem := by simp [State.spendTry]

@[simp] theorem trySlots_mem (s : State) (w : BootFacts) (n : Nat) : (s.trySlots w n).1.mem = s.mem := by
  unfold State.trySlots
  simp only
  (repeat' split) <;> simp

@[simp] theorem chooseSlot_mem (s : State) (w : BootFacts) : (s.chooseSlot w).1.mem = s.mem := by
  unfold State.chooseSlot
  simp only
  split <;> simp

@[simp] theorem loadConfig_mem (s : State) (lost : Bool) : (s.loadConfig lost).mem = s.mem := by simp [State.loadConfig]

@[simp] theorem startValues_mem (s : State) : s.startValues.mem = s.mem := by simp [State.startValues]

@[simp] theorem dramFound_mem (s : State) (c : Nat) (f : DramFacts) : (s.dramFound c f).mem = s.mem := by
  simp [State.dramFound, setDomain_mem]

@[simp] theorem chanFound_mem (s : State) (ch : Nat) (f : ChanFacts) : (s.chanFound ch f).mem = s.mem := by
  unfold State.chanFound
  split <;> simp

@[simp] theorem lunsFound_mem (s : State) (scan : Bool) (ch : Nat) (f : ChanFacts) : (s.lunsFound scan ch f).mem = s.mem := by
  refine foldl_mem fun u n => ?_
  generalize u.lunFound f n = x
  rfl

@[simp] theorem numberLuns_mem (s : State) (blank : Bool) (ch role : Nat) : (s.numberLuns blank ch role).mem = s.mem :=
  ite_keeps State.mem
    ((foldl_mem (fun _ _ => by rfl)).trans (foldl_mem (fun _ _ => by exact ite_keeps State.mem rfl rfl)))
    (foldl_mem (fun _ _ => by exact ite_keeps State.mem rfl rfl))

@[simp] theorem groupFound_mem (s : State) (g : Nat) : (s.groupFound g).mem = s.mem := (rfl)

@[simp] theorem retirements_mem (s : State) : s.retirements.mem = s.mem := by simp [State.retirements]

@[simp] theorem discover_mem (s : State) (w : BootFacts) : (s.discover w).mem = s.mem := by
  unfold State.discover
  simp only [retirements_mem]
  rw [foldl_mem (fun u g => by simp), foldl_mem (fun u ch => by simp)]
  split
  · rw [takeTables_mem, foldl_mem (fun u x => by simp)]
    split <;> simp
  · rw [tableChanged_mem, foldl_mem (fun u x => by simp)]
    split <;> simp

@[simp] theorem assignHomes_mem (l : List Nat) : ∀ (s : State) (given : List Nat), (s.assignHomes l given).mem = s.mem := by
  induction l with
  | nil => exact fun _ _ => rfl
  | cons n l ih =>
    intro s given
    unfold State.assignHomes
    split
    · exact ih s given
    · exact (ih _ _).trans rfl

@[simp] theorem applyMap_mem (s : State) (w : BootFacts) : (s.applyMap w).mem = s.mem :=
  (foldl_mem (fun _ _ => by rfl)).trans (ite_keeps State.mem rfl rfl)

@[simp] theorem badPower_mem (s : State) (d : Nat) : (s.badPower d).mem = s.mem := (rfl)

@[simp] theorem coresFault_mem (s : State) (d : Nat) : (s.coresFault d).mem = s.mem := by simp [State.coresFault]

@[simp] theorem powerLost_mem (s : State) (d : Nat) : (s.powerLost d).mem = s.mem := by simp [State.powerLost]

@[simp] theorem powerUp_mem (dead : List Nat) (gs : List (List Nat)) : ∀ s : State, (s.powerUp dead gs).1.mem = s.mem := by
  induction gs with
  | nil => exact fun _ => rfl
  | cons g gs ih =>
    intro s
    unfold State.powerUp
    simp only
    split <;> simp [ih, setDomains_mem]

@[simp] theorem newEpoch_mem (s : State) (e : Nat) : (s.newEpoch e).mem = s.mem := (rfl)

@[simp] theorem arm_mem (s : State) (frame period : Nat) : (s.arm frame period).mem = s.mem := (rfl)

@[simp] theorem freshStart_mem (s : State) : s.freshStart.mem = s.mem := (rfl)

@[simp] theorem loadStored_mem (s : State) : s.loadStored.mem = s.mem := by simp [State.loadStored]

@[simp] theorem logKept_mem (s : State) (w : BootFacts) : (s.logKept w).mem = s.mem := (rfl)

-- ---------------------------------------------------------------- Barista.lean

@[simp] theorem askShutdown_mem (s : State) (restart : Bool) : (s.askShutdown restart).mem = s.mem := by simp [State.askShutdown]

@[simp] theorem restartFirmware_mem (s : State) : s.restartFirmware.mem = s.mem := (rfl)

@[simp] theorem railSample_mem (s : State) (n mv : Nat) : (s.railSample n mv).mem = s.mem := by simp [State.railSample]

@[simp] theorem heatEvent_mem (s : State) (code sev : Nat) (x : Nat × Int) : (s.heatEvent code sev x).mem = s.mem := (rfl)

@[simp] theorem thermal_mem (s : State) (temps : List Int) : (s.thermal temps).mem = s.mem := by
  have hw : ∀ u : State, (match hotSensor temps u.critLimit with
      | some x => (u.heatEvent 0x0702 3 x).askShutdown false | none => u).mem = u.mem := by
    intro u; split <;> simp
  unfold State.thermal
  simp only
  refine (hw _).trans ?_
  split <;> simp [heatEvent_mem] <;> exact foldl_mem (fun _ _ => by rfl)

@[simp] theorem losePower_mem (s : State) (d : Nat) : (s.losePower d).mem = s.mem := by simp [State.losePower]

@[simp] theorem bankSample_mem (s : State) (w : SensorFacts) : (s.bankSample w).mem = s.mem := by simp [State.bankSample]

@[simp] theorem tripped_mem (s : State) (temps : List Int) : (s.tripped temps).mem = s.mem := by simp [State.tripped]

@[simp] theorem nmiMask_mem (s : State) (mask : Nat) : (s.nmiMask mask).mem = s.mem := by
  refine foldl_mem fun u l => ?_
  split <;> rfl

-- ---------------------------------------------------------------- Ingress.lean

@[simp] theorem drop_mem (s : State) (p code : Nat) : (s.drop p code).mem = s.mem := (rfl)

@[simp] theorem takeHello_mem (s : State) (d : Datagram) (m : VrtMsg) : (s.takeHello d m).mem = s.mem := by simp [State.takeHello]

@[simp] theorem addRequest_mem (s : State) (port : Nat) (m : VrtMsg) (kind : ReqKind) (refuse : Option Nat) :
    (s.addRequest port m kind refuse).mem = s.mem := (rfl)

@[simp] theorem takeImage_mem (s : State) (port : Nat) (m : VrtMsg) : (s.takeImage port m).mem = s.mem := (rfl)

@[simp] theorem freeRo_mem (s : State) (u i : Nat) (l : List Nat) : (s.freeRo u i l).mem = s.mem :=
  foldl_mem (fun _ _ => by rfl)

@[simp] theorem staleAck_mem (s : State) (n : Nat) : (s.staleAck n).mem = s.mem := by simp [State.staleAck]

@[simp] theorem discard_mem (s : State) (port : NetPort) : (s.discard port).mem = s.mem := by
  unfold State.discard
  split <;> simp

-- ---------------------------------------------------------------- Egress.lean

@[simp] theorem imageBlock_mem (s : State) (i : BootImage) (b : Nat) : (s.imageBlock i b).1.mem = s.mem := by
  unfold State.imageBlock
  split <;> simp

@[simp] theorem retagCached_mem (s : State) (num ver b : Nat) (tag : DWord) : (s.retagCached num ver b tag).mem = s.mem := (rfl)

@[simp] theorem touchCache_mem (s : State) (q : Request) : (s.touchCache q).mem = s.mem := by
  unfold State.touchCache
  (repeat' split) <;> simp

@[simp] theorem sendReply_mem (s : State) (q : Request) (need : List FlashRef) (r : Reply) : (s.sendReply q need r).mem = s.mem := by
  simp [State.sendReply]

-- ---------------------------------------------------------------- Recovery.lean

@[simp] theorem scanGroup_mem (s : State) (g : Nat) : (s.scanGroup g).1.mem = s.mem := by simp [State.scanGroup]

@[simp] theorem scanAll_mem (gs : List Nat) : ∀ s : State, (s.scanAll gs).1.mem = s.mem := by
  induction gs with
  | nil => exact fun _ => rfl
  | cons g gs ih => exact fun s => (ih _).trans (scanGroup_mem s g)

@[simp] theorem applyKeys_mem (s : State) (b : Block) : (s.applyKeys b).mem = s.mem := by simp [State.applyKeys]

@[simp] theorem replayTorn_mem (s : State) (j : JRec) : (s.replayTorn j).mem = s.mem := by simp [State.replayTorn]

@[simp] theorem replay_mem (l : List JRec) : ∀ s : State, (s.replay l).1.mem = s.mem := by
  induction l with
  | nil => exact fun _ => rfl
  | cons j l ih =>
    intro s
    unfold State.replay
    split
    · simp [ih]
    · split <;> simp [ih]

@[simp] theorem holdAgain_mem (s : State) (j : JRec) : (s.holdAgain j).mem = s.mem := (rfl)

@[simp] theorem rebuildPartner_mem (s : State) (snaps : List (List Byte)) (recs : List (List Byte)) (fc n : Nat) :
    (s.rebuildPartner snaps recs fc n).mem = s.mem := (rfl)

@[simp] theorem continueGroup_mem (s : State) (c : Scan) : (s.continueGroup c).mem = s.mem := (rfl)

@[simp] theorem decideClose_mem (s : State) (ep : Nat) (sc : List Scan) (ms : Nat) : (s.decideClose ep sc ms).1.mem = s.mem := (rfl)

@[simp] theorem restorePartners_mem (s : State) (snaps : List (List Byte)) (recs : List JRec) (fc : Nat) :
    (s.restorePartners snaps recs fc).mem = s.mem := by
  simp [State.restorePartners]

end Sys2Proof.Machine
end

section
/-!
PROOF. What leaves memory as it is: the media, the timer, objects, the dictionary protocol and the rest of a step.
-/

namespace Sys2Proof.Machine

-- ---------------------------------------------------------------- Jobs.lean

@[simp] theorem foldRecord_mem (s : State) (j : JRec) : (s.foldRecord j).1.mem = s.mem := by simp [State.foldRecord]

@[simp] theorem foldRecords_mem (l : List JRec) : ∀ s : State, (s.foldRecords l).1.mem = s.mem := by
  induction l with
  | nil => exact fun _ => rfl
  | cons j l ih => exact fun s => (ih _).trans (foldRecord_mem s j)

theorem writeJob_mem {s t : State} {j : Job} {recs : List Folded} {imgs : Tab (List Byte × Byte)} (h : s.writeJob j recs imgs = some t) :
    t.mem = s.mem := by
  unfold State.writeJob at h
  simp only at h
  split at h
  · cases h
  · next u places hu =>
    obtain rfl := Option.some.inj h
    simpa using bulkWrite_mem _ _ hu

theorem foldContent_mem {s t : State} {j : Job} {g : Nat} {x : Seg} (h : s.foldContent j g x = some t) : t.mem = s.mem := by
  refine (writeJob_mem h).trans ?_
  split <;> simp

@[simp] theorem endMove_mem (s : State) (j : Job) (ref : FlashRef) : (s.endMove j ref).mem = s.mem := (rfl)

theorem moveRecord_mem {s t : State} {j : Job} {b : BulkRec} (h : s.moveRecord j b = some t) : t.mem = s.mem := by
  unfold State.moveRecord at h
  simp only at h
  split at h
  · obtain rfl := Option.some.inj h; simp
  · split at h
    · cases h
    · next u places hu =>
      obtain rfl := Option.some.inj h
      simpa using bulkWrite_mem _ _ hu

theorem moveBlock_mem {s t : State} {j : Job} {b : Block} {note : Job → Nat → Job} (h : s.moveBlock j b note = some t) : t.mem = s.mem := by
  unfold State.moveBlock at h
  split at h
  · cases h
  · next u places hu =>
    obtain rfl := Option.some.inj h
    simpa using bulkWrite_mem _ _ hu

theorem moveContent_mem {s t : State} {j : Job} {ref : FlashRef} (h : s.moveContent j ref = some t) : t.mem = s.mem := by
  have he : some (s.endMove j ref) = some t → t.mem = s.mem := by rintro ⟨rfl⟩; simp
  cases ref with
  | bulk id =>
    unfold State.moveContent at h
    simp only at h
    split at h
    · exact moveRecord_mem h
    · exact he h
  | page n =>
    unfold State.moveContent at h
    simp only at h
    split at h
    · exact moveBlock_mem h
    · exact he h
  | image num ver b =>
    unfold State.moveContent at h
    simp only at h
    split at h
    · exact moveBlock_mem h
    · exact he h
  | journal g u => exact he h
  | parity g r => exact he h
  | system => exact he h

@[simp] theorem jobContent_mem (s : State) (j : Job) : (s.jobContent j).mem = s.mem := by
  have hd : ∀ {o : Option State} {u : State}, (∀ t, o = some t → t.mem = u.mem) → (o.getD u).mem = u.mem := by
    intro o u h
    cases o with
    | none => rfl
    | some t => exact h t rfl
  unfold State.jobContent
  simp only
  refine (hd fun t ht => ?_).trans (setJob_mem s _)
  split at ht
  · split at ht
    · exact foldContent_mem ht
    · obtain rfl := Option.some.inj ht; simp
  · exact moveContent_mem ht

@[simp] theorem startReads_mem (s : State) (k : JobKind) (refs : List FlashRef) : (s.startReads k refs).mem = s.mem :=
  ite_keeps State.mem (jobContent_mem _ _) (foldl_mem (fun _ _ => by rfl))

@[simp] theorem startFold_mem (s : State) (g : Nat) : (s.startFold g).mem = s.mem := by
  unfold State.startFold
  split
  · rfl
  · simp

@[simp] theorem startMove_mem (s : State) (ref : FlashRef) : (s.startMove ref).mem = s.mem := by
  unfold State.startMove
  split <;> rfl

@[simp] theorem jobRead_mem (s : State) (id : Nat) (ref : FlashRef) (good : Bool) : (s.jobRead id ref good).mem = s.mem := by
  unfold State.jobRead
  split
  · rfl
  · simp only
    split <;> simp

@[simp] theorem giveUpJob_mem (s : State) (id : Nat) : (s.giveUpJob id).mem = s.mem := by
  unfold State.giveUpJob
  split <;> simp

-- ---------------------------------------------------------------- MediaOps.lean

@[simp] theorem spendReserve_mem (s : State) (ch n : Nat) : (s.spendReserve ch n).mem = s.mem := (rfl)

@[simp] theorem sendPieces_mem (s : State) (o : MediaOp) : (s.sendPieces o).mem = s.mem := by simp [State.sendPieces]

@[simp] theorem discardPieces_mem (s : State) (lun : Nat) : (s.discardPieces lun).mem = s.mem := (rfl)

@[simp] theorem issueOp_mem (s : State) (o : MediaOp) : (s.issueOp o).mem = s.mem := by simp [State.issueOp]

@[simp] theorem resumeOp_mem (s : State) (o : MediaOp) : (s.resumeOp o).mem = s.mem := by simp [State.resumeOp]

@[simp] theorem growBad_mem (s : State) (o : MediaOp) : (s.growBad o).mem = s.mem := by simp [State.growBad]

@[simp] theorem postUnit_mem (s : State) (o : MediaOp) : (s.postUnit o).mem = s.mem := (rfl)

@[simp] theorem unitFailed_mem (s : State) (o : MediaOp) : (s.unitFailed o).mem = s.mem := by simp [State.unitFailed]

theorem bulkAgain_mem {s t : State} {o : MediaOp} (h : s.bulkAgain o = some t) : t.mem = s.mem := by
  unfold State.bulkAgain at h
  split at h
  · cases h
  · next u places hu =>
    simp only at h
    split at h
    · obtain rfl := Option.some.inj h
      simpa using bulkUnit_mem hu
    · split at h <;> obtain rfl := Option.some.inj h <;> simpa using bulkUnit_mem hu

@[simp] theorem bulkLost_mem (s : State) (o : MediaOp) : (s.bulkLost o).mem = s.mem := by
  unfold State.bulkLost
  (repeat' split) <;> simp

@[simp] theorem bulkRetry_mem (s : State) (o : MediaOp) : (s.bulkRetry o).mem = s.mem := by
  unfold State.bulkRetry
  split
  · split <;> simp
  · split
    · simp
    · cases h : s.bulkAgain o with
      | none => simp
      | some t => exact bulkAgain_mem h

@[simp] theorem programFailed_mem (s : State) (o : MediaOp) : (s.programFailed o).mem = s.mem := by
  unfold State.programFailed
  split <;> simp

@[simp] theorem eraseEnd_mem (s : State) (g stripe how : Nat) : (s.eraseEnd g stripe how).mem = s.mem := by
  unfold State.eraseEnd
  simp only
  split <;> simp

@[simp] theorem eraseDone_mem (s : State) (o : MediaOp) : (s.eraseDone o).mem = s.mem := (rfl)

@[simp] theorem readDone_mem (s : State) (ref : FlashRef) (stage ns corrected : Nat) (fore : Bool) :
    (s.readDone ref stage ns corrected fore).mem = s.mem := by
  simp [State.readDone]

@[simp] theorem logLost_mem (s : State) (ref : FlashRef) : (s.logLost ref).mem = s.mem := (rfl)

@[simp] theorem dropBulkBlock_mem (s : State) (ref : FlashRef) : (s.dropBulkBlock ref).mem = s.mem := by
  unfold State.dropBulkBlock
  split <;> simp

@[simp] theorem readLost_mem (s : State) (ref : FlashRef) : (s.readLost ref).mem = s.mem := by
  unfold State.readLost
  split <;> simp

@[simp] theorem fetchedRef_mem (s : State) (ref : FlashRef) (good : Bool) : (s.fetchedRef ref good).mem = s.mem := (rfl)

@[simp] theorem judgeFlash_mem (s : State) (l : List (List Byte)) : (s.judgeFlash l).mem = s.mem := by simp [State.judgeFlash]

@[simp] theorem readTo_mem (s : State) (o : MediaOp) (ref : FlashRef) (good : Bool) : (s.readTo o ref good).mem = s.mem := by
  unfold State.readTo
  split <;> simp

@[simp] theorem readEnd_mem (s : State) (o : MediaOp) (ref : FlashRef) (own : ReadTry) (members : List ReadTry) (corrected : Nat) :
    (s.readEnd o ref own members corrected).mem = s.mem := by
  simp [State.readEnd]

@[simp] theorem dropOp_mem (s : State) (id : Nat) : (s.dropOp id).mem = s.mem := (rfl)

@[simp] theorem resumeOn_mem (s : State) (lun : Nat) : (s.resumeOn lun).mem = s.mem := by
  unfold State.resumeOn
  split <;> simp

@[simp] theorem rawDone_mem (s : State) (status : Byte) (data : List Byte) : (s.rawDone status data).mem = s.mem := by simp [State.rawDone]

theorem complete_mem {s t : State} {o : MediaOp} {res : MediaResult} {data : List Byte} (h : s.complete o res data = some t) : t.mem = s.mem := by
  unfold State.complete at h
  simp only at h
  split at h
  case h_7 => cases h
  all_goals obtain rfl := Option.some.inj h
  case h_3 | h_4 | h_5 => split <;> simp
  all_goals simp

@[simp] theorem suspendDone_mem (s : State) (o : MediaOp) (res : MediaResult) : (s.suspendDone o res).mem = s.mem := by
  unfold State.suspendDone
  split <;> simp

@[simp] theorem countTimeout_mem (s : State) (n : Nat) : (s.countTimeout n).mem = s.mem := by simp [State.countTimeout]

@[simp] theorem readTimedOut_mem (s : State) (o : MediaOp) (ref : FlashRef) : (s.readTimedOut o ref).mem = s.mem := by
  unfold State.readTimedOut
  split <;> simp

@[simp] theorem opError_mem (s : State) (o : MediaOp) : (s.opError o).mem = s.mem := by
  unfold State.opError
  simp only
  split
  case h_2 | h_4 | h_5 => split <;> simp
  all_goals simp

@[simp] theorem reform_mem (s : State) (n role num : Nat) : (s.reform n role num).mem = s.mem := by
  unfold State.reform
  simp only
  split <;> simp

-- ---------------------------------------------------------------- Timer.lean

@[simp] theorem syncTo_mem (s : State) (offset : Int) : (s.syncTo offset).mem = s.mem := (rfl)

@[simp] theorem announced_mem (s : State) (port : NetPort) (a : Announce) : (s.announced port a).mem = s.mem := (rfl)

@[simp] theorem ptpSync_mem (s : State) (port : NetPort) (offset : Int) : (s.ptpSync port offset).mem = s.mem := by simp [State.ptpSync]

-- ---------------------------------------------------------------- Dictionary.lean

@[simp] theorem afterRead_mem (s : State) (i sub : Nat) : (s.afterRead i sub).mem = s.mem := by simp [State.afterRead]

-- ---------------------------------------------------------------- ObjectHavoc.lean

@[simp] theorem havocValues_mem (s : State) (ring u : Nat) : (s.havocValues ring u).mem = s.mem :=
  foldl_mem (fun _ _ => by exact foldl_mem (fun _ _ => by rfl))

@[simp] theorem havocPartners_mem (s : State) (u : Nat) : (s.havocPartners u).mem = s.mem := by simp [State.havocPartners]

@[simp] theorem havocKeySlots_mem (s : State) (u : Nat) : (s.havocKeySlots u).mem = s.mem :=
  (foldl_mem (fun _ _ => by rfl)).trans (foldl_mem (fun _ _ => by rfl))

@[simp] theorem havocImages_mem (s : State) (u : Nat) : (s.havocImages u).mem = s.mem := by simp [State.havocImages]

@[simp] theorem havocCommands_mem (s : State) (u : Nat) : (s.havocCommands u).mem = s.mem :=
  (foldl_mem (fun _ _ => by rfl)).trans ((foldl_mem (fun _ _ => by exact ite_keeps State.mem (setDomain_mem _ _ _) rfl)).trans rfl)

@[simp] theorem havocLun_mem (s : State) (n u : Nat) : (s.havocLun n u).mem = s.mem := (rfl)

@[simp] theorem havocObjects_mem (s : State) (ring : Nat) : (s.havocObjects ring).mem = s.mem := by
  simp [State.havocObjects]

-- ---------------------------------------------------------------- Objects.lean

@[simp] theorem voidNow_mem (s : State) (n : Nat) : (s.voidNow n).mem = s.mem := by simp [State.voidNow]

@[simp] theorem configPartner_mem (s : State) (n : Nat) (v : List Byte) : (s.configPartner n v).mem = s.mem := by simp [State.configPartner]

@[simp] theorem deleteImages_mem (s : State) (num : Nat) : (s.deleteImages num).mem = s.mem := (rfl)

@[simp] theorem burnCounter_mem (v n : Nat) : ∀ s : State, (State.burnCounter v n s).mem = s.mem := by
  induction n with
  | zero => exact fun _ => rfl
  | succ n ih => exact fun s => ite_keeps State.mem rfl ((ih _).trans rfl)

@[simp] theorem advanceCounter_mem (s : State) (v : Nat) : (s.advanceCounter v).mem = s.mem :=
  ite_keeps State.mem rfl (burnCounter_mem _ _ _)

@[simp] theorem barMask_mem (s : State) (mask : Nat) : (s.barMask mask).mem = s.mem := by
  refine foldl_mem fun u l => ?_
  split <;> rfl

@[simp] theorem keepConfig_mem (s : State) (n : Nat) (v : List Byte) : (s.keepConfig n v).mem = s.mem := (rfl)

@[simp] theorem putCredential_mem (s : State) (sid r : Nat) (v : List Byte) : (s.putCredential sid r v).mem = s.mem := (rfl)

@[simp] theorem retrain_mem (s : State) (p was : Nat) : (s.retrain p was).mem = s.mem := by
  simp [State.retrain, setDomain_mem]

@[simp] theorem effect_mem (s : State) (sid i sub win : Nat) (r : ORow) (v : List Byte) : (s.effect sid i sub win r v).mem = s.mem := by
  simp [State.effect]

-- ---------------------------------------------------------------- Zdp.lean

@[simp] theorem refuseOpen_mem (s : State) (src : Client) (b : List Byte) (code : Nat) : (s.refuseOpen src b code).mem = s.mem := (rfl)

@[simp] theorem failedProof_mem (s : State) (src : Client) (ring : Nat) : (s.failedProof src ring).mem = s.mem := (rfl)

@[simp] theorem doRead_mem (s : State) (x : Session) (b : List Byte) : (s.doRead x b).mem = s.mem := by
  unfold State.doRead
  simp only
  split <;> simp

@[simp] theorem waits_mem (s : State) (x : Session) (b : List Byte) (i sub win : Nat) (v : List Byte) : (s.waits x b i sub win v).mem = s.mem := (rfl)

@[simp] theorem doCancel_mem (s : State) (x : Session) (b : List Byte) : (s.doCancel x b).mem = s.mem := by
  unfold State.doCancel
  split <;> simp

@[simp] theorem dropCan_mem (s : State) : s.dropCan.mem = s.mem := (rfl)

-- ---------------------------------------------------------------- Control.lean

@[simp] theorem tend_mem (s : State) (c : Nat) : (s.tend c).mem = s.mem := (rfl)

-- ---------------------------------------------------------------- Debug.lean

@[simp] theorem setIr_mem (s : State) (n : BitVec 8) : (s.setIr n).mem = s.mem := (rfl)

@[simp] theorem scan_mem (s : State) (cells pins : List Bool) : (s.scan cells pins).mem = s.mem := (rfl)

@[simp] theorem debugScan_mem (s : State) (fn : Nat) (l : LogId) (capture : Core → Nat) (update : Core → Core) :
    (s.debugScan fn l capture update).mem = s.mem := by
  unfold State.debugScan
  simp only
  (repeat' split) <;> simp

-- ---------------------------------------------------------------- Grinder.lean

@[simp] theorem foldOn_mem (s : State) (g : Nat) : (s.foldOn g).mem = s.mem := by
  unfold State.foldOn
  split <;> simp

@[simp] theorem moved_mem (s : State) (ref : FlashRef) : (s.moved ref).mem = s.mem := (rfl)

@[simp] theorem eraseStripe_mem (s : State) (g : Nat) (bulk : Bool) (i : Nat) : (s.eraseStripe g bulk i).mem = s.mem :=
  foldl_mem (fun _ _ => by rfl)

@[simp] theorem scrubbed_mem (s : State) (cw : Nat) : (s.scrubbed cw).mem = s.mem := (rfl)

@[simp] theorem scrubWord_mem (s : State) (cw : Nat) : (s.scrubWord cw).mem = s.mem := by simp [State.scrubWord]

@[simp] theorem hitRow_mem (s : State) (cw : Nat) : (s.hitRow cw).mem = s.mem := (rfl)

-- ---------------------------------------------------------------- Posting.lean

@[simp] theorem takeLocks_mem (c : Nat) (l : List (Nat × Word)) : ∀ s : State, (s.takeLocks c l).1.mem = s.mem := by
  induction l with
  | nil => exact fun _ => rfl
  | cons x l ih =>
    intro s
    unfold State.takeLocks
    split
    · exact (ih _).trans rfl
    · rfl

-- ---------------------------------------------------------------- PowerLoss.lean

@[simp] theorem toStage_mem (s : State) (st : PfStage) : (s.toStage st).mem = s.mem := (rfl)

@[simp] theorem closeFlushSet_mem (s : State) : s.closeFlushSet.mem = s.mem := by simp [State.closeFlushSet]

-- ---------------------------------------------------------------- System.lean

@[simp] theorem ctxCur_mem (s : State) (c : Nat) : (s.ctxCur c).1.mem = s.mem := by simp [State.ctxCur]

@[simp] theorem mfsValue_mem (s : State) (c n : Nat) : (s.mfsValue c n).1.mem = s.mem := by simp [State.mfsValue]

-- ---------------------------------------------------------------- Release.lean

@[simp] theorem rewriteScratch_mem (s : State) (c : Nat) : (s.rewriteScratch c).mem = s.mem := by simp [State.rewriteScratch]

@[simp] theorem release_mem (s : State) (l c : Nat) (t : TaskEnt) : (s.release l c t).mem = s.mem := by simp [State.release]

end Sys2Proof.Machine
end

section
/-!
PROOF. What an outcome goes on in: a property of every state that it carries.
-/

namespace Sys2Proof.Machine

@[simp] theorem inv_iff (s : State) : s.Inv ↔ Memory.wf s.mem = true := Iff.rfl

/-- Conditionals and iterations keep the canonical form. -/
@[simp] theorem ite_wf (p : Prop) [Decidable p] (a b : List Host.Cell) :
    Memory.wf (if p then a else b) = true ↔ (p → Memory.wf a = true) ∧ (¬ p → Memory.wf b = true) := by
  split <;> simp [*]

@[simp] theorem foldl_wf {α : Type} {f : State → α → State} (h : ∀ s x, Memory.wf s.mem = true → Memory.wf (f s x).mem = true) {l : List α}
    {s : State}
    (hs : Memory.wf s.mem = true) : Memory.wf (l.foldl f s).mem = true := by
  induction l generalizing s with
  | nil => exact hs
  | cons x l ih => exact ih (h s x hs)

/-- The state that an outcome goes on in has a property. -/
def Goes (p : State → Prop) : Host.Outcome State Fault Refusal → Prop
  | .next t => p t
  | .fault _ => True
  | .refused _ => True

@[simp] theorem goes_next (p : State → Prop) (t : State) : Goes p (.next t) ↔ p t := Iff.rfl

@[simp] theorem goes_ite (p : State → Prop) (c : Prop) [Decidable c] (a b : Host.Outcome State Fault Refusal) :
    Goes p (if c then a else b) ↔ (c → Goes p a) ∧ (¬ c → Goes p b) := by
  split <;> simp [*]

/-- The state that a body's outcome carries has a property. -/
def Res.keeps (p : State → Prop) : Res → Prop
  | .done s _ => p s
  | .jump s _ _ => p s
  | .leave s _ => p s
  | .again s _ => p s
  | .trap s _ => p s
  | .trapLate s _ _ => p s
  | .doneTrap s _ _ => p s
  | .wait s _ => p s
  | .hold _ => True
  | .undef _ => True

@[simp] theorem Res.keeps_done (p : State → Prop) (s : State) (x : Cost) : Res.keeps p (.done s x) ↔ p s := Iff.rfl

@[simp] theorem Res.keeps_jump (p : State → Prop) (s : State) (t : Word) (x : Cost) : Res.keeps p (.jump s t x) ↔ p s := Iff.rfl

@[simp] theorem Res.keeps_leave (p : State → Prop) (s : State) (x : Cost) : Res.keeps p (.leave s x) ↔ p s := Iff.rfl

@[simp] theorem Res.keeps_again (p : State → Prop) (s : State) (x : Cost) : Res.keeps p (.again s x) ↔ p s := Iff.rfl

@[simp] theorem Res.keeps_trap (p : State → Prop) (s : State) (t : Trap) : Res.keeps p (.trap s t) ↔ p s := Iff.rfl

@[simp] theorem Res.keeps_trapLate (p : State → Prop) (s : State) (t : Trap) (x : Cost) : Res.keeps p (.trapLate s t x) ↔ p s := Iff.rfl

@[simp] theorem Res.keeps_doneTrap (p : State → Prop) (s : State) (t : Trap) (x : Cost) : Res.keeps p (.doneTrap s t x) ↔ p s := Iff.rfl

@[simp] theorem Res.keeps_wait (p : State → Prop) (s : State) (w : WaitWhy) : Res.keeps p (.wait s w) ↔ p s := Iff.rfl

@[simp] theorem Res.keeps_undef (p : State → Prop) (n : Nat) : Res.keeps p (.undef n) ↔ True := Iff.rfl

@[simp] theorem Res.keeps_ite (p : State → Prop) (c : Prop) [Decidable c] (a b : Res) :
    Res.keeps p (if c then a else b) ↔ (c → Res.keeps p a) ∧ (¬ c → Res.keeps p b) := by
  split <;> simp [*]

/-- So has the state that any other answer carries. -/
def LoadRes.keeps (p : State → Prop) : LoadRes → Prop
  | .ok s _ => p s
  | .trap s _ => p s
  | .undef _ => True

def PutRes.keeps (p : State → Prop) : PutRes → Prop
  | .ok s => p s
  | .wait s _ => p s
  | .trap s _ => p s
  | .undef _ => True

def StackRes.keeps (p : State → Prop) : StackRes → Prop
  | .ok s => p s
  | .wait s _ => p s
  | .trap s _ => p s
  | .undef _ => True

def MicroMem.keeps (p : State → Prop) : MicroMem → Prop
  | .ok s _ => p s
  | .trap s _ => p s

def EditRes.keeps (p : State → Prop) : EditRes → Prop
  | .ok s _ _ _ => p s
  | .trap s _ => p s
  | .undef _ => True

def TchkRes.keeps (p : State → Prop) : TchkRes → Prop
  | .ok s _ _ => p s
  | .trap s _ => p s

def WriteRes.keeps (p : State → Prop) : WriteRes → Prop
  | .ok s => p s
  | .wait s => p s
  | .abort s _ => p s
  | .undef => True

@[simp] theorem WriteRes.keeps_ok (p : State → Prop) (s : State) : WriteRes.keeps p (.ok s) ↔ p s := Iff.rfl

@[simp] theorem WriteRes.keeps_wait (p : State → Prop) (s : State) : WriteRes.keeps p (.wait s) ↔ p s := Iff.rfl

@[simp] theorem WriteRes.keeps_abort (p : State → Prop) (s : State) (n : Nat) : WriteRes.keeps p (.abort s n) ↔ p s := Iff.rfl

@[simp] theorem WriteRes.keeps_undef (p : State → Prop) : WriteRes.keeps p .undef ↔ True := Iff.rfl

@[simp] theorem WriteRes.keeps_ite (p : State → Prop) (c : Prop) [Decidable c] (a b : WriteRes) :
    WriteRes.keeps p (if c then a else b) ↔ (c → WriteRes.keeps p a) ∧ (¬ c → WriteRes.keeps p b) := by
  split <;> simp [*]

/-- What a successful answer says of its state, for each kind of answer. -/
theorem StoreRes.keeps.ok {p : State → Prop} {r : StoreRes} {u : State} (h : r.keeps p) (e : r = .ok u) : p u := by subst e; exact h

theorem StoreRes.keeps.wait {p : State → Prop} {r : StoreRes} {u : State} {w : WaitWhy} (h : r.keeps p) (e : r = .wait u w) : p u := by
  subst e
  exact h

theorem StoreRes.keeps.trap {p : State → Prop} {r : StoreRes} {u : State} {t : Trap} (h : r.keeps p) (e : r = .trap u t) : p u := by
  subst e
  exact h

theorem LoadRes.keeps.ok {p : State → Prop} {r : LoadRes} {u : State} {v : Nat} (h : r.keeps p) (e : r = .ok u v) : p u := by
  subst e
  exact h

theorem LoadRes.keeps.trap {p : State → Prop} {r : LoadRes} {u : State} {t : Trap} (h : r.keeps p) (e : r = .trap u t) : p u := by
  subst e
  exact h

theorem PutRes.keeps.ok {p : State → Prop} {r : PutRes} {u : State} (h : r.keeps p) (e : r = .ok u) : p u := by
  subst e
  exact h

theorem PutRes.keeps.wait {p : State → Prop} {r : PutRes} {u : State} {w : WaitWhy} (h : r.keeps p) (e : r = .wait u w) : p u := by
  subst e
  exact h

theorem PutRes.keeps.trap {p : State → Prop} {r : PutRes} {u : State} {t : Trap} (h : r.keeps p) (e : r = .trap u t) : p u := by
  subst e
  exact h

theorem StackRes.keeps.ok {p : State → Prop} {r : StackRes} {u : State} (h : r.keeps p) (e : r = .ok u) : p u := by
  subst e
  exact h

theorem StackRes.keeps.wait {p : State → Prop} {r : StackRes} {u : State} {w : WaitWhy} (h : r.keeps p) (e : r = .wait u w) : p u := by
  subst e
  exact h

theorem StackRes.keeps.trap {p : State → Prop} {r : StackRes} {u : State} {t : Trap} (h : r.keeps p) (e : r = .trap u t) : p u := by
  subst e
  exact h

theorem MicroMem.keeps.ok {p : State → Prop} {r : MicroMem} {u : State} {m : Micro} (h : r.keeps p) (e : r = .ok u m) : p u := by
  subst e
  exact h

theorem MicroMem.keeps.trap {p : State → Prop} {r : MicroMem} {u : State} {t : Trap} (h : r.keeps p) (e : r = .trap u t) : p u := by
  subst e
  exact h

theorem EditRes.keeps.ok {p : State → Prop} {r : EditRes} {u : State} {st : EditSt} {out : List Byte} {srcs : List Nat} (h : r.keeps p)
    (e : r = .ok u st out srcs) : p u := by subst e; exact h

theorem EditRes.keeps.trap {p : State → Prop} {r : EditRes} {u : State} {t : Trap} (h : r.keeps p) (e : r = .trap u t) : p u := by
  subst e
  exact h

theorem TchkRes.keeps.ok {p : State → Prop} {r : TchkRes} {u : State} {ms : List Mapped} {l : List Byte} (h : r.keeps p) (e : r = .ok u ms l) :
    p u := by
  subst e; exact h

theorem TchkRes.keeps.trap {p : State → Prop} {r : TchkRes} {u : State} {t : Trap} (h : r.keeps p) (e : r = .trap u t) : p u := by
  subst e
  exact h

theorem WriteRes.keeps.ok {p : State → Prop} {r : WriteRes} {u : State} (h : r.keeps p) (e : r = .ok u) : p u := by
  subst e
  exact h

theorem WriteRes.keeps.wait {p : State → Prop} {r : WriteRes} {u : State} (h : r.keeps p) (e : r = .wait u) : p u := by
  subst e
  exact h

theorem WriteRes.keeps.abort {p : State → Prop} {r : WriteRes} {u : State} {n : Nat} (h : r.keeps p) (e : r = .abort u n) : p u := by
  subst e
  exact h

/-- What an outcome says of the state that it goes on in. -/
theorem Goes.of_next {p : State → Prop} {o : Host.Outcome State Fault Refusal} {t : State} (h : Goes p o)
    (e : o = .next t) : p t := by subst e; exact h

end Sys2Proof.Machine
end

section
/-!
PROOF. What writes memory and keeps its canonical form.
-/

namespace Sys2Proof.Machine

-- ---------------------------------------------------------------- Mem.lean

@[simp] theorem fixBytes_wf {s : State} (pa : Nat) (l : List Byte) (h : Memory.wf s.mem = true) : Memory.wf (s.fixBytes pa l).mem = true := by
  unfold State.fixBytes
  split
  · rw [State.setPartner_mem]; exact h
  · exact memWrite_wf _ _ h

@[simp] theorem enginePoke_wf {s : State} (pa : Nat) (l : List Byte) (h : Memory.wf s.mem = true) : Memory.wf (s.enginePoke pa l).mem = true := by
  unfold State.enginePoke
  simp only
  split
  · simpa using h
  · split
    · simpa using poke_wf _ _ h
    · split <;> exact poke_wf _ _ (by simpa using h)

@[simp] theorem loadPiece_wf {s : State} (c pa n : Nat) (h : Memory.wf s.mem = true) : Memory.wf (s.loadPiece c pa n).1.mem = true := by
  unfold State.loadPiece
  split
  · exact h
  · split
    · split
      · exact h
      · simpa using drain_wf _ c h
    · simpa using h

@[simp] theorem loadPieces_wf {s : State} (c : Nat) (ms : List Mapped) (h : Memory.wf s.mem = true) : Memory.wf (s.loadPieces c ms).1.mem = true := by
  induction ms generalizing s with
  | nil => exact h
  | cons m ms ih =>
    have hm := loadPiece_wf c m.pa m.n h
    unfold State.loadPieces
    simp only
    split
    · exact hm
    · split <;> exact ih hm

-- ---------------------------------------------------------------- Undefined.lean

@[simp] theorem havocMem_wf {s : State} (c u : Nat) (h : Memory.wf s.mem = true) : Memory.wf (s.havocMem c u).mem = true :=
  foldl_wf (fun _ _ hs => by exact poke_wf _ _ hs) h

@[simp] theorem havoc_wf {s : State} (c : Nat) (h : Memory.wf s.mem = true) : Memory.wf (s.havoc c).mem = true :=
  havocMem_wf c _ (by simpa using h)

-- ---------------------------------------------------------------- Books.lean

@[simp] theorem pokeCells_wf (r : Rec) (f : Nat) : ∀ {s : State} (i : Nat) (l : List Byte) (_ : Memory.wf s.mem = true),
    Memory.wf (s.pokeCells r f i l).mem = true := by
  induction f with
  | zero => exact fun _ _ h => h
  | succ f ih =>
    intro s i l h
    unfold State.pokeCells
    split
    · exact h
    · exact ih _ _ (poke_wf _ _ h)

@[simp] theorem pokeRec_wf {s : State} (r : Rec) (l : List Byte) (h : Memory.wf s.mem = true) : Memory.wf (s.pokeRec r l).mem = true :=
  pokeCells_wf r _ _ _ h

@[simp] theorem copyEmitted_wf {s : State} (id : Nat) (h : Memory.wf s.mem = true) : Memory.wf (s.copyEmitted id).mem = true := by
  unfold State.copyEmitted
  split
  · exact h
  · split
    · exact h
    · simpa using pokeRec_wf _ _ (by simpa using h)

-- ---------------------------------------------------------------- Switch.lean

@[simp] theorem writeClassWindows_wf {s : State} (f : Nat) (h : Memory.wf s.mem = true) : Memory.wf (s.writeClassWindows f).mem = true :=
  foldl_wf (fun _ _ hs => by exact foldl_wf (fun _ _ ht => by exact poke_wf _ _ ht) hs) h

@[simp] theorem writeRingWindows_wf {s : State} (f : Nat) (h : Memory.wf s.mem = true) : Memory.wf (s.writeRingWindows f).mem = true := by
  have hp : Memory.wf ((natRange 0 64).foldl (fun (a : State) k => a.enginePoke (s.ringBase k) (s.ringWindow k f)) s).mem = true :=
    foldl_wf (fun _ _ hs => enginePoke_wf _ _ hs) h
  unfold State.writeRingWindows
  simp only
  split
  · exact h
  · exact hp

@[simp] theorem placeImage_wf {s : State} (l img : Nat) (h : Memory.wf s.mem = true) : Memory.wf (s.placeImage l img).mem = true := by
  unfold State.placeImage
  simp only
  split
  · exact poke_wf _ _ (poke_wf _ _ h)
  · split
    · exact poke_wf _ _ (poke_wf _ _ h)
    · exact poke_wf _ _ h

@[simp] theorem placeImages_wf {s : State} (p : Section) (h : Memory.wf s.mem = true) : Memory.wf (s.placeImages p).mem = true :=
  foldl_wf (fun _ _ hs => by exact placeImage_wf _ _ hs) h

@[simp] theorem havocPlaces_wf {s : State} (l : List (Nat × (Nat × Nat × Nat × Nat))) (h : Memory.wf s.mem = true) : Memory.wf (s.havocPlaces l).mem = true :=
  foldl_wf (fun _ _ hs => by exact poke_wf _ _ hs) h

@[simp] theorem copyImages_wf {s : State} (p : Section) (olds : List (Nat × (Nat × Nat × Nat × Nat))) (h : Memory.wf s.mem = true) :
    Memory.wf (s.copyImages p olds).mem = true := by
  simp [State.copyImages, h]

@[simp] theorem switchNow_wf {s : State} (h : Memory.wf s.mem = true) : Memory.wf s.switchNow.mem = true :=
  writeClassWindows_wf _ (by simpa using h)

-- ---------------------------------------------------------------- Repair.lean

@[simp] theorem moveCore_wf {s : State} (l p q : Nat) (lost : Bool) (h : Memory.wf s.mem = true) : Memory.wf (s.moveCore l p q lost).mem = true := by
  simp [State.moveCore, moveScratch_wf, h]

@[simp] theorem replaceScratch_wf {s : State} (l : Nat) (h : Memory.wf s.mem = true) : Memory.wf (s.replaceScratch l).mem = true := by
  unfold State.replaceScratch
  split
  · exact h
  · refine foldl_wf (fun u t hu => ?_) h
    simp only
    split
    · split
      · exact poke_wf _ _ hu
      · exact hu
    · exact hu

@[simp] theorem faultReplace_wf {s : State} (l : Nat) (h : Memory.wf s.mem = true) : Memory.wf (s.faultReplace l).mem = true := by
  unfold State.faultReplace
  simp only
  split
  · split <;> simp [h]
  · split <;> simp [h]
  · simp [h]
  · exact h

@[simp] theorem retireAtTick_wf {s : State} (h : Memory.wf s.mem = true) : Memory.wf s.retireAtTick.mem = true := by
  refine foldl_wf (fun u x hu => ?_) h
  split
  · simpa using hu
  · split
    · exact hu
    · split
      · simpa using hu
      · split <;> simp [hu]

-- ---------------------------------------------------------------- Journal.lean

@[simp] theorem judgeHeld_wf {s : State} (point : Nat) (r : Rec) (h : Memory.wf s.mem = true) : Memory.wf (s.judgeHeld point r).1.mem = true := by
  unfold State.judgeHeld
  simp only
  split
  · exact poke_wf _ _ (by simpa using h)
  · split
    · simpa using h
    · exact poke_wf _ _ (poke_wf _ _ (by simpa using h))

-- ---------------------------------------------------------------- Percolator.lean

@[simp] theorem recordSlots_wf {s : State} (l : List Item) (c : Content) (h : Memory.wf s.mem = true) :
    Memory.wf (s.recordSlots l c).1.mem = true := by
  induction l generalizing s c with
  | nil => exact h
  | cons x l ih =>
    cases x with
    | record id =>
      unfold State.recordSlots
      split
      · exact ih c h
      · exact ih _ (judgeHeld_wf 2 _ h)
    | line pa => exact ih c h
    | key p b => exact ih c h
    | control b => exact ih c h

@[simp] theorem runBlock_wf {s : State} (id j : Nat) (h : Memory.wf s.mem = true) : Memory.wf (s.runBlock id j).1.mem = true := by
  unfold State.runBlock
  split
  · exact h
  · split <;> simp [h]

@[simp] theorem chunkBlock_wf {s : State} (frame : Nat) (c : Chunk) (h : Memory.wf s.mem = true) : Memory.wf (s.chunkBlock frame c).1.mem = true := by
  unfold State.chunkBlock
  split
  · simpa using h
  · exact h
  · split <;> simp [h]
  · exact h

@[simp] theorem bodyBlock_wf {s : State} (g place : Nat) (h : Memory.wf s.mem = true) : Memory.wf (s.bodyBlock g place).1.mem = true := by
  unfold State.bodyBlock
  simp only
  split
  · exact h
  · split
    · exact h
    · split
      · exact h
      · simp [h]

@[simp] theorem buildUnit_wf (g n : Nat) : ∀ {s : State} (place : Nat) (u : UnitBuild) (_ : Memory.wf s.mem = true),
    Memory.wf (s.buildUnit g place n u).1.mem = true := by
  induction n with
  | zero => exact fun _ _ h => h
  | succ n ih =>
    intro s place u h
    unfold State.buildUnit
    refine ih _ _ ?_
    split <;> simp [h]

@[simp] theorem enqueueUnit_wf {s : State} (g place : Nat) (h : Memory.wf s.mem = true) : Memory.wf (s.enqueueUnit g place).mem = true := by
  simp [State.enqueueUnit, State.enqueueBuilt, h]

-- ---------------------------------------------------------------- Decimal.lean

@[simp] theorem readAll_wf {s : State} (c : Nat) (l : List (List Mapped × Bool)) (h : Memory.wf s.mem = true) :
    Memory.wf (s.readAll c l).1.mem = true := by
  induction l generalizing s with
  | nil => exact h
  | cons x l ih =>
    have hx : Memory.wf (if x.2 then s.loadPieces c x.1 else (s, .ok [])).1.mem = true := by split <;> simp [h]
    unfold State.readAll
    simp only
    split
    · exact hx
    · split <;> exact ih hx

-- ---------------------------------------------------------------- FrameTick.lean

@[simp] theorem drainCores_wf {s : State} (h : Memory.wf s.mem = true) : Memory.wf s.drainCores.mem = true :=
  foldl_wf (fun _ _ hs => by exact drainAll_wf _ hs) h

@[simp] theorem presentRec_wf {s : State} (r : Rec) (h : Memory.wf s.mem = true) : Memory.wf (s.presentRec r).mem = true := by
  unfold State.presentRec
  split
  · exact h
  · exact pokeRec_wf _ _ (by simpa using h)

@[simp] theorem presentFrame_wf {s : State} (f : Nat) (h : Memory.wf s.mem = true) : Memory.wf (s.presentFrame f).mem = true :=
  foldl_wf (fun _ _ hs => by exact presentRec_wf _ hs) h

@[simp] theorem loadAgain_wf {s : State} (h : Memory.wf s.mem = true) : Memory.wf s.loadAgain.mem = true :=
  foldl_wf (fun _ _ hs => by exact presentFrame_wf _ hs) h

@[simp] theorem presentAgain_wf {s : State} (ends : Bool) (h : Memory.wf s.mem = true) : Memory.wf (s.presentAgain ends).mem = true := by
  unfold State.presentAgain
  split
  · exact h
  · split
    · exact h
    · split <;> simp [h]

@[simp] theorem cacheLoad_wf {s : State} (num ver b : Nat) (tag : DWord) (data : List Byte) (h : Memory.wf s.mem = true) :
    Memory.wf (s.cacheLoad num ver b tag data).mem = true := by
  unfold State.cacheLoad
  split
  · exact h
  · split
    · exact h
    · exact enginePoke_wf _ _ h

@[simp] theorem loadResident_wf {s : State} (i : BootImage) (h : Memory.wf s.mem = true) : Memory.wf (s.loadResident i).mem = true := by
  unfold State.loadResident
  split
  · exact h
  · exact foldl_wf (fun _ _ hs => cacheLoad_wf _ _ _ _ _ hs) h

@[simp] theorem currentImages_wf {s : State} (h : Memory.wf s.mem = true) : Memory.wf s.currentImages.mem = true :=
  foldl_wf (fun _ _ hs => by exact loadResident_wf _ hs) h

@[simp] theorem savedCheck_wf {s : State} (h : Memory.wf s.mem = true) : Memory.wf s.savedCheck.mem = true := by
  unfold State.savedCheck
  simp only
  split
  · exact h
  · split
    · exact h
    · split
      · split <;> simp [h]
      · split
        · split <;> simp [h]
        · exact h

@[simp] theorem endOfFrame_wf {s : State} (f : Nat) (h : Memory.wf s.mem = true) : Memory.wf (s.endOfFrame f).mem = true := by
  simp [State.endOfFrame, h]

@[simp] theorem resumePlan_wf {s : State} (first : Bool) (h : Memory.wf s.mem = true) : Memory.wf (s.resumePlan first).mem = true := by
  simp [State.resumePlan, h]

@[simp] theorem openFrame_wf {s : State} (f : Nat) (missed : Bool) (h : Memory.wf s.mem = true) : Memory.wf (s.openFrame f missed).mem = true := by
  have hw := writeRingWindows_wf f (writeClassWindows_wf f (s := s.turnArenas) (by simpa using h))
  have hi := currentImages_wf (s := ((s.turnArenas.writeClassWindows f).writeRingWindows f).occupancy) (by simpa using hw)
  have hr := retireAtTick_wf (s := ((s.turnArenas.writeClassWindows f).writeRingWindows f).occupancy.currentImages.microTick.debugTick) (by simpa using hi)
  have hk : ∀ u : State, ({ u with repair := { u.repair with rotateDue := u.rotateAt } } : State).dropSets.fillImages.retryJobs.sysTry.mem = u.mem :=
    fun u => by simp
  unfold State.openFrame
  refine (congrArg Memory.wf ((hk _).trans (findTrigger_mem _ missed))).trans hr

@[simp] theorem startOfFrame_wf {s : State} (f : Nat) (missed : Bool) (w : TickFacts) (h : Memory.wf s.mem = true) :
    Memory.wf (s.startOfFrame f missed w).mem = true := by
  simp [State.startOfFrame, h]

-- ---------------------------------------------------------------- Reset.lean

@[simp] theorem coldReset_wf (s : State) (type : Nat) : Memory.wf (s.coldReset type).mem = true := reset_mem_wf

-- ---------------------------------------------------------------- Boot.lean

@[simp] theorem loadImages_wf {s : State} (h : Memory.wf s.mem = true) : Memory.wf s.loadImages.mem = true :=
  foldl_wf (fun _ _ hs => by exact loadResident_wf _ hs) h

@[simp] theorem bootRest_wf {s : State} (w : BootFacts) (h : Memory.wf s.mem = true) : Memory.wf (s.bootRest w).mem = true := by
  have hl : ∀ (u : State) (l : List Nat), (l.foldl State.powerLost u).mem = u.mem := fun u l => foldl_mem fun t d => by simp
  unfold State.bootRest
  simp only
  split
  · simpa using h
  · simp [hl, h]

-- ---------------------------------------------------------------- Ingress.lean

@[simp] theorem admitRecord_wf {s : State} (d : Datagram) (m : VrtMsg) (e : ClassEnt) (a : Arena) (h : Memory.wf s.mem = true) :
    Memory.wf (s.admitRecord d m e a).mem = true := by
  unfold State.admitRecord
  exact pokeRec_wf _ _ (by simpa using h)

@[simp] theorem judgeRec_wf (d : Datagram) (x : State × DgTally) (m : VrtMsg) (h : Memory.wf x.1.mem = true) :
    Memory.wf (State.judgeRec d x m).1.mem = true := by
  unfold State.judgeRec
  simp only
  split
  · simpa using h
  · split <;> simp [h]

theorem judgeRecs_wf (d : Datagram) (ms : List VrtMsg) (x : State × DgTally) (h : Memory.wf x.1.mem = true) :
    Memory.wf (ms.foldl (State.judgeRec d) x).1.mem = true := by
  induction ms generalizing x with
  | nil => exact h
  | cons m ms ih => exact ih _ (judgeRec_wf d x m h)

@[simp] theorem takeRecords_wf {s : State} (d : Datagram) (n : Nat) (ms : List VrtMsg) (h : Memory.wf s.mem = true) :
    Memory.wf (s.takeRecords d n ms).mem = true := by
  have hr := judgeRecs_wf d ms (s, ⟨false, 0, false⟩) h
  simp [State.takeRecords, hr]

@[simp] theorem takeQuery_wf {s : State} (port : Nat) (m : VrtMsg) (h : Memory.wf s.mem = true) : Memory.wf (s.takeQuery port m).mem = true := by
  unfold State.takeQuery
  simp only
  split
  · exact h
  · split
    · exact h
    · exact enginePoke_wf _ _ h

@[simp] theorem takeRequest_wf (d : Datagram) {s : State} (m : VrtMsg) (h : Memory.wf s.mem = true) :
    Memory.wf (State.takeRequest d s m).mem = true := by
  unfold State.takeRequest
  split
  · simpa using h
  · split
    · exact h
    · split <;> simp [h]

@[simp] theorem havocArena_wf {s : State} (u : Nat) (a : Arena) (h : Memory.wf s.mem = true) : Memory.wf (s.havocArena u a).mem = true := by
  have hc := foldl_wf (f := fun (t : State) i => t.fixBytes (t.cellPa a.dram i) (undefinedBytes u (2 ^ 40 + t.cellPa a.dram i) 64))
    (l := natRange a.base a.cells) (fun _ _ hs => fixBytes_wf _ _ hs) h
  unfold State.havocArena
  simp only
  split <;> exact hc

@[simp] theorem havocPartner_wf {s : State} (port n : Nat) (h : Memory.wf s.mem = true) : Memory.wf (s.havocPartner port n).mem = true := by
  unfold State.havocPartner
  simp only [freeRo_mem]
  exact foldl_wf (fun _ _ hs => by exact havocArena_wf _ _ hs) h

@[simp] theorem takeDatagram_wf {s : State} (d : Datagram) (k : DgKind) (m : VrtMsg) (t : List VrtMsg) (h : Memory.wf s.mem = true) :
    Memory.wf (s.takeDatagram d k m t).mem = true := by
  unfold State.takeDatagram
  split
  · simp [h]
  · split
    · exact takeRecords_wf _ _ _ h
    · simpa using h
    · exact foldl_wf (fun _ _ hs => by exact takeRequest_wf _ _ hs) h

-- ---------------------------------------------------------------- Egress.lean

@[simp] theorem judgeAgain_wf {s : State} (point : Nat) (r : Rec) (h : Memory.wf s.mem = true) : Memory.wf (s.judgeAgain point r).1.mem = true := by
  unfold State.judgeAgain
  simp only
  split
  · simpa using h
  · split
    · exact poke_wf _ _ (poke_wf _ _ (by simpa using h))
    · simpa using h

@[simp] theorem recordItems_wf {s : State} (l : List Found) (h : Memory.wf s.mem = true) : Memory.wf (s.recordItems l).1.mem = true := by
  induction l generalizing s with
  | nil => exact h
  | cons x l ih =>
    unfold State.recordItems
    split
    · refine ih ?_
      split <;> simp [h]
    · split
      · exact ih h
      · exact ih (by simpa using h)

@[simp] theorem imageItems_wf {s : State} (i : BootImage) (l : List Nat) (h : Memory.wf s.mem = true) :
    Memory.wf (s.imageItems i l).1.mem = true := by
  induction l generalizing s with
  | nil => exact h
  | cons b l ih =>
    unfold State.imageItems
    simp only
    split
    · simp [h]
    · split
      · simpa using h
      · exact ih (cacheLoad_wf _ _ _ _ _ (by simpa using h))

@[simp] theorem bufferLost_wf {s : State} (pa : Nat) (head : List Byte) (h : Memory.wf s.mem = true) :
    Memory.wf (s.bufferLost pa head).1.mem = true :=
  poke_wf _ _ (by simpa using h)

@[simp] theorem bufferItem_wf {s : State} (pa : Nat) (h : Memory.wf s.mem = true) : Memory.wf (s.bufferItem pa).1.mem = true := by
  unfold State.bufferItem
  simp only
  split
  · simp [h]
  · split
    · simpa using h
    · split <;> simp [h]

@[simp] theorem replyTo_wf {s : State} (q : Request) (h : Memory.wf s.mem = true) : Memory.wf (s.replyTo q).1.mem = true := by
  unfold State.replyTo
  split
  · exact h
  · split
    · simp [h]
    · split
      · exact h
      · simp only
        split
        · exact h
        · exact bufferItem_wf _ h
    · split
      · exact h
      · simp [h]

-- ---------------------------------------------------------------- Recovery.lean

@[simp] theorem loadImage_wf {s : State} (h : Memory.wf s.mem = true) : Memory.wf s.loadImage.mem = true :=
  foldl_wf (fun _ _ hs => by exact poke_wf _ _ hs) h

@[simp] theorem applyLine_wf {s : State} (frame : Nat) (d : Nat × DWord) (l : List Byte) (h : Memory.wf s.mem = true) :
    Memory.wf (s.applyLine frame d l).mem = true := by
  simp [State.applyLine, poke_wf, h]

@[simp] theorem applyLines_wf {s : State} (b : Block) (h : Memory.wf s.mem = true) : Memory.wf (s.applyLines b).mem = true :=
  foldl_wf (fun _ _ hs => by exact applyLine_wf _ _ _ hs) h

@[simp] theorem restorePages_wf {s : State} (bs : List Block) (h : Memory.wf s.mem = true) : Memory.wf (s.restorePages bs).mem = true := by
  refine dropVolatile_wf (foldl_wf (fun u b hu => ?_) (loadImage_wf h))
  simp [hu]

@[simp] theorem recover_wf {s : State} (ms : Nat) (h : Memory.wf s.mem = true) : Memory.wf (s.recover ms).mem = true := by
  have hc : ∀ (u : State) (l : List Scan), (l.foldl State.continueGroup u).mem = u.mem := fun u l => foldl_mem fun t c => by simp
  simp [State.recover, hc, h]

-- ---------------------------------------------------------------- Grinder.lean

@[simp] theorem takeFinding_wf {s : State} (cw : Nat) (f : EccFinding) (h : Memory.wf s.mem = true) : Memory.wf (s.takeFinding cw f).mem = true := by
  unfold State.takeFinding
  simp only
  split
  · exact h
  · split
    · exact h
    · split
      · exact h
      · exact memWriteBut_wf _ _ _ h

-- ---------------------------------------------------------------- Posting.lean

@[simp] theorem readLegs_wf {s : State} (c : Nat) (l : List Leg) (h : Memory.wf s.mem = true) : Memory.wf (s.readLegs c l).1.mem = true := by
  induction l generalizing s with
  | nil => exact h
  | cons g l ih =>
    have hr := loadPieces_wf c [g.line] h
    unfold State.readLegs
    simp only
    split
    · exact hr
    · split
      · exact hr
      · split <;> exact ih (by simpa using hr)

theorem readLegs_error {s : State} (c : Nat) (l : List Leg) {e : Res} (h : Memory.wf s.mem = true) (he : (s.readLegs c l).2 = .error e) :
    e.keeps State.Inv := by
  induction l generalizing s with
  | nil => exact nomatch he
  | cons g l ih =>
    have hr := loadPieces_wf c [g.line] h
    unfold State.readLegs at he
    simp only at he
    split at he
    · obtain rfl := Except.error.inj he; exact hr
    · split at he
      · obtain rfl := Except.error.inj he; exact hr
      · next hq =>
        split at he
        · next hq => exact ih (by simpa using hr) (hq.trans he)
        · exact nomatch he

-- ---------------------------------------------------------------- Strings.lean

@[simp] theorem lookup_wf {s : State} (c : Nat) (table : List Mapped) (l : List Byte) (h : Memory.wf s.mem = true) :
    Memory.wf (s.lookup c table l).1.mem = true := by
  induction l generalizing s with
  | nil => exact h
  | cons b l ih =>
    have hr := loadPieces_wf c [byteOf table b.toNat] h
    unfold State.lookup
    simp only
    split
    · exact hr
    · split <;> exact ih hr

@[simp] theorem editByte_wf {s : State} (c : Nat) (first : Option (Word × Nat)) (ea : Word) (h : Memory.wf s.mem = true) :
    Memory.wf (s.editByte c first ea).1.mem = true := by
  have hr : ∀ ms, Memory.wf (s.loadPieces c ms).1.mem = true := fun ms => loadPieces_wf c ms h
  unfold State.editByte
  simp only
  split
  · exact h
  · split
    · split
      · split
        · exact h
        · split <;> simp [hr]
      · split <;> simp [hr]
    · exact h

end Sys2Proof.Machine
end

section
/-!
PROOF. The canonical form through an instruction's run: fetch, guard, body and completion.
-/

namespace Sys2Proof.Machine

@[simp] theorem Res.late_keeps (p : State → Prop) (x : Cost) (r : Res) : (r.late x).keeps p ↔ r.keeps p := by cases r <;> rfl

theorem Res.notLast_keeps {p : State → Prop} (k : Core) (pc : Word) {r : Res} (h : r.keeps p) : (r.notLast k pc).keeps p := by
  unfold Res.notLast
  split
  · trivial
  · exact h

/-- What an outcome of a body makes of the machine is canonical when its state is, and the state it began in. -/
theorem finish_goes {s : State} (c : Nat) (ins : Instr) (pc : Word) (rep resumed : Bool) {r : Res} (h : Memory.wf s.mem = true)
    (hr : r.keeps State.Inv) : Goes State.Inv (s.finish c ins pc rep resumed r) := by
  have hu : Memory.wf (s.havoc c).mem = true := havoc_wf c h
  unfold State.finish
  cases r with
  | done u x => simp_all
  | jump u t x => simp_all
  | leave u x => simp_all
  | again u x => simp_all
  | trap u t => simp_all
  | trapLate u t x => simp_all
  | doneTrap u t x => simp_all
  | wait u w => simp_all
  | hold w => simpa using h
  | undef n => exact hu

/-- An instruction keeps the canonical form when its body does. -/
theorem runInstr_goes {s : State} {c : CoreId} {ins : Instr} {g : Guard} {enc : Option Nat} {resum xfer : Bool} {fcost : Cost} {body : State → Res}
    (h : Memory.wf s.mem = true) (hb : ∀ u : State, Memory.wf u.mem = true → (body u).keeps State.Inv) :
    Goes State.Inv (s.runInstr c ins g enc resum xfer fcost body) := by
  unfold State.runInstr
  simp only
  split
  · exact h
  · split
    · exact h
    · split
      · simpa [State.takeBreakpoint] using h
      · have hf : Memory.wf ((s.setCore c (s.core c).applyDue).fetch c ((s.setCore c (s.core c).applyDue).core c).pc).1.mem = true := by simpa using h
        split
        · next u t hu => rw [hu] at hf; simpa using hf
        · next u w hu =>
          rw [hu] at hf
          split
          · simpa using hf
          · split
            · simpa using hf
            · split
              · split
                · exact havoc_wf c hf
                · exact finish_goes _ _ _ _ _ hf hf
              · split
                · simpa using hf
                · exact finish_goes _ _ _ _ _ hf (hb u hf)

end Sys2Proof.Machine
end

section
/-!
PROOF. The canonical form through loads, stores, atomics, fences and the storage-key group.
-/

namespace Sys2Proof.Machine

theorem performLoad_keeps {s : State} (c : Nat) (ms : List Mapped) (h : Memory.wf s.mem = true) : (s.performLoad c ms).keeps State.Inv := by
  have hl := loadPieces_wf c ms h
  unfold State.performLoad
  split
  · trivial
  · split
    · split
      · split
        · trivial
        · exact (congrArg Memory.wf (devAfterRead_mem _ _ _)).trans (drainAll_wf c h)
      · trivial
    · simp only
      split
      · exact hl
      · exact (congrArg Memory.wf (mark_mem _ _ _)).trans hl

theorem performPut_keeps {s : State} (c : Nat) (ms : List Mapped) (v n : Nat) (h : Memory.wf s.mem = true) : (s.performPut c ms v n).keeps State.Inv := by
  have hp := performStore_wf c ms (leBytes n v) h
  unfold State.performPut
  split
  · split
    · split
      · trivial
      · exact (congrArg Memory.wf (devWrite_mem _ _ _ _)).trans (drainAll_wf c h)
    · trivial
  · split
    · next u hu => exact hp.ok hu
    · next u w hu => exact hp.wait hu
    · next u t hu => exact hp.trap hu
    · trivial

section
variable {s : State} {ins : Instr} {c : CoreId} {g : Guard}

theorem load_goes {rd base : Reg} {mode : BitVec 3} {f : BitVec 9} {n : Nat} {pair : Bool} {put : Core → Nat → Core} (h : Memory.wf s.mem = true) :
    Goes State.Inv (s.load ins c g rd base mode f n pair put) := by
  refine runInstr_goes h fun u hu => ?_
  simp only
  split
  · trivial
  · split
    · exact hu
    · next ms _ =>
      have hp := performLoad_keeps c ms hu
      split
      · next v t hv => exact hp.trap hv
      · trivial
      · next v x hv => simpa using hp.ok hv

theorem store_goes {rd base : Reg} {mode : BitVec 3} {f : BitVec 9} {n : Nat} {pair : Bool} {val : Core → Nat} (h : Memory.wf s.mem = true) :
    Goes State.Inv (s.store ins c g rd base mode f n pair val) := by
  refine runInstr_goes h fun u hu => ?_
  simp only
  split
  · trivial
  · split
    · exact hu
    · next ms _ =>
      have hp := performPut_keeps c ms (val (u.core c)) n hu
      split
      · next v t hv => exact hp.trap hv
      · trivial
      · next v w hv => exact hp.wait hv
      · next v hv => simpa using hp.ok hv

theorem execPush_goes {rs : Reg} (h : Memory.wf s.mem = true) : Goes State.Inv (execPush c g rs s) := by
  refine runInstr_goes h fun u hu => ?_
  simp only
  split
  · exact hu
  · next ms _ =>
    have hp := performPut_keeps c ms ((u.core c).reg rs).toNat 4 hu
    split
    · next v t hv => exact hp.trap hv
    · trivial
    · next v w hv => exact hp.wait hv
    · next v hv => simpa using hp.ok hv

theorem execPop_goes {rd : Reg} (h : Memory.wf s.mem = true) : Goes State.Inv (execPop c g rd s) := by
  refine runInstr_goes h fun u hu => ?_
  simp only
  split
  · exact hu
  · next ms _ =>
    have hp := performLoad_keeps c ms hu
    split
    · next v t hv => exact hp.trap hv
    · trivial
    · next v x hv => simpa using hp.ok hv

theorem atomic_goes {rs : Reg} {f : Core → Word → Option Word} {put : Core → Word → Core} (h : Memory.wf s.mem = true) :
    Goes State.Inv (s.atomic ins c g rs f put) := by
  refine runInstr_goes h fun u hu => ?_
  simp only
  split
  · exact hu
  · split
    · exact hu
    · next ms _ =>
      have hm : Memory.wf ((u.drainAll c).meetWords (ms.flatMap fun m => cwsOf m.pa m.n)).1.mem = true := by simpa using drainAll_wf c hu
      have hc := fun l => performCommit_wf c l hm
      have hd := performHeld_wf c ms hm
      split
      · exact hm
      · split
        · next v t hv =>
          split at hv
          · exact (hc _).trap hv
          · exact hd.trap hv
        · next v w hv =>
          split at hv
          · exact (hc _).wait hv
          · exact hd.wait hv
        · trivial
        · next v hv =>
          split at hv
          · simpa using (hc _).ok hv
          · simpa using hd.ok hv

theorem execFence_goes (h : Memory.wf s.mem = true) : Goes State.Inv (execFence c g s) :=
  runInstr_goes h fun _ hu => drainAll_wf _ hu

theorem execFencei_goes (h : Memory.wf s.mem = true) : Goes State.Inv (execFencei c g s) :=
  runInstr_goes h fun _ hu => drainAll_wf _ hu

theorem keyInstr_goes {enc : Option Nat} {most : Nat} {rs : Reg} {f : State → Nat → Cost → Res} (h : Memory.wf s.mem = true)
    (hf : ∀ (u : State) (pa : Nat) (x : Cost), Memory.wf u.mem = true → (f u pa x).keeps State.Inv) :
    Goes State.Inv (s.keyInstr ins c g enc most rs f) := by
  refine runInstr_goes h fun u hu => ?_
  simp only
  split
  · exact hu
  · split
    · exact hu
    · exact hf _ _ _ (by simpa using drainAll_wf c hu)

theorem execKrd_goes {rd rs : Reg} (h : Memory.wf s.mem = true) : Goes State.Inv (execKrd c g rd rs s) :=
  keyInstr_goes h fun _ _ _ hu => hu

theorem execKrref_goes {rd rs : Reg} (h : Memory.wf s.mem = true) : Goes State.Inv (execKrref c g rd rs s) :=
  keyInstr_goes h fun _ _ _ hu => hu

theorem kset_keeps {u : State} (c pa : Nat) (v : Word) (x : Cost) (h : Memory.wf u.mem = true) : (u.kset c pa v x).keeps State.Inv := by
  simp [State.kset, h]

theorem execKset_goes {rs rt : Reg} (h : Memory.wf s.mem = true) : Goes State.Inv (execKset c g rs rt s) :=
  keyInstr_goes h fun _ _ _ hu => kset_keeps _ _ _ _ hu

end

end Sys2Proof.Machine
end

section
/-!
PROOF. The canonical form through the other instructions of a core.
-/

namespace Sys2Proof.Machine

-- ---------------------------------------------------------------- shared: what a commit leaves

/-- Marking the pages of operands that are read changes no byte. -/
theorem markReads_mem (l : List (List Mapped × Bool)) (s : State) : (l.foldl (fun a m => if m.2 then a.mark false m.1 else a) s).mem = s.mem :=
  foldl_mem fun _ _ => by simp

section
variable {s : State} {ins : Instr} {c : CoreId} {g : Guard}

-- ---------------------------------------------------------------- decimal arithmetic and conversions

theorem decCommit_keeps (c : Nat) (pd : PredNo) (lw : Word) (p : DecPlan) (ms : List (List Mapped)) (a : Nat) (l : List Byte) (cls : Nat)
    (h : Memory.wf s.mem = true) : (s.decCommit c pd lw p ms a l cls).keeps State.Inv := by
  unfold State.decCommit
  simp only
  split
  · exact h
  · next m _ =>
    have hp := performCommit_wf c [(m, l)] h
    split
    · next u t hu => exact hp.trap hu
    · next u w hu => exact hp.wait hu
    · trivial
    · next u hu => simpa using hp.ok hu

theorem evalDecimal_keeps (c : Nat) (pd : PredNo) (lw op1 : Word) (p : DecPlan) (ms : List (List Mapped)) (a : Nat) (h : Memory.wf s.mem = true) :
    (s.evalDecimal c pd lw op1 p ms a).keeps State.Inv := by
  have hr := readAll_wf c (ms.zip p.reads) h
  have hm := (congrArg Memory.wf (markReads_mem (ms.zip p.reads) (s.readAll c (ms.zip p.reads)).1)).trans hr
  unfold State.evalDecimal
  simp only
  split
  · exact hr
  · split
    · exact hr
    · split
      · exact hr
      · split
        · exact hr
        · exact decCommit_keeps _ _ _ _ _ _ _ _ hm
      · exact decCommit_keeps _ _ _ _ _ _ _ _ hm

theorem runDecimal_keeps (c : Nat) (pd : PredNo) (lw op1 : Word) (p : DecPlan) (h : Memory.wf s.mem = true) :
    (s.runDecimal c pd lw op1 p).keeps State.Inv := by
  unfold State.runDecimal
  simp only
  split
  · exact h
  · split
    · trivial
    · split
      · trivial
      · split
        · exact h
        · exact (Res.late_keeps _ _ _).mpr (evalDecimal_keeps _ _ _ _ _ _ _ h)

theorem decimal_goes {enc : Option Nat} {pd : PredNo} {rd rt : Reg} {badLen : Word → Bool} {plan : Core → Word → DecPlan} (h : Memory.wf s.mem = true) :
    Goes State.Inv (s.decimal ins c g enc pd rd rt badLen plan) := by
  refine runInstr_goes h fun u hu => ?_
  simp only
  split
  · exact hu
  · exact runDecimal_keeps _ _ _ _ _ hu

theorem toBinary_keeps (c : Nat) (pd : PredNo) (rd rs : Reg) (lw : Word) (h : Memory.wf s.mem = true) : (s.toBinary c pd rd rs lw).keeps State.Inv := by
  have hr := fun ms => readAll_wf c ms h
  have hm : ∀ (ms : List (List Mapped)) (u : State), (ms.foldl (fun a m => a.mark false m) u).mem = u.mem := fun ms u => foldl_mem fun _ _ => by simp
  unfold State.toBinary
  simp only
  split
  · exact h
  · split
    · trivial
    · split
      · exact hr _
      · split
        · exact hr _
        · split
          · exact hr _
          · exact (congrArg Memory.wf (hm _ _)).trans (hr _)

-- ---------------------------------------------------------------- user microcode

theorem microMem_keeps (c limit : Nat) (x : NanoWord) (mar : Word) (mdr : DWord) (m : Micro) (h : Memory.wf s.mem = true) :
    (s.microMem c limit x mar mdr m).keeps State.Inv := by
  unfold State.microMem
  simp only
  split
  · split
    · exact h
    · next ms _ =>
      have hl := loadPieces_wf c ms h
      split
      · exact hl
      · exact (congrArg Memory.wf (mark_mem _ _ _)).trans hl
  · split
    · split <;> exact h
    · exact h

theorem applyMicro_keeps (c : Nat) (m : Micro) (h : Memory.wf s.mem = true) : (s.applyMicro c m).keeps State.Inv := by
  have hp : (if m.stores = [] then .ok s else s.performCommit c m.stores : StoreRes).keeps State.Inv := by
    split
    · exact h
    · exact performCommit_wf c m.stores h
  unfold State.applyMicro
  split
  · next u hu => simpa [StoreRes.keeps] using hp.ok hu
  · exact hp

theorem micro_keeps (c : Nat) (img : List Byte) (limit sum : Nat) (r : CustRegs) (f : Nat) : ∀ {s : State} (a : Nat) (committed : Bool) (touches : Nat)
    (m : Micro)
    (_ : Memory.wf s.mem = true), (s.micro_ c img limit sum r f a committed touches m).keeps State.Inv := by
  induction f with
  | zero => exact fun _ _ _ _ _ => trivial
  | succ f ih =>
    intro s a committed touches m h
    unfold State.micro_
    extract_lets w k
    split
    · trivial
    · rename_i x mar mdr _ m' fin go on _ _
      have hm := microMem_keeps c limit x mar mdr m' h
      split
      · next u t hu => exact hm.trap hu
      · next u m'' hu =>
        have hfin : ∀ (v : State) m t, Memory.wf v.mem = true → (fin v m t).keeps State.Inv := fun _ _ _ hv => hv
        have happ : ∀ (v : State) m, Memory.wf v.mem = true → (v.applyMicro c m).keeps State.Inv := fun v m hv => applyMicro_keeps c m hv
        have hon : ∀ (v : State) done t m, Memory.wf v.mem = true → (on v done t m).keeps State.Inv := by
          intro v done t m hv
          unfold on
          split
          · exact ih _ _ _ _ hv
          · exact ih _ _ _ _ hv
          · exact ih _ _ _ _ hv
          · split
            · exact ih _ _ _ _ hv
            · trivial
          · exact ih _ _ _ _ hv
          · split
            · exact hfin _ _ _ hv
            · extract_lets n
              split
              · next z hz => exact hfin _ _ _ ((happ _ _ hv).ok hz)
              · next z y hz => exact (happ _ _ hv).wait hz
              · next z e hz => exact (happ _ _ hv).trap hz
              · trivial
          · extract_lets n
            split
            · next z hz => simpa using (happ _ _ hv).ok hz
            · next z y hz => exact (happ _ _ hv).wait hz
            · next z e hz => exact (happ _ _ hv).trap hz
            · trivial
          · split
            · exact hv
            · trivial
        have hv := hm.ok hu
        split
        · extract_lets n
          split
          · next z hz => exact hon _ _ _ _ ((happ _ _ hv).ok hz)
          · next z y hz => exact (happ _ _ hv).wait hz
          · next z e hz => exact (happ _ _ hv).trap hz
          · trivial
        · exact hon _ _ _ _ hv

theorem runCust_keeps (c n : Nat) (r : CustRegs) (h : Memory.wf s.mem = true) : (s.runCust c n r).keeps State.Inv := by
  unfold State.runCust
  simp only
  split <;> exact micro_keeps _ _ _ _ _ _ _ _ _ _ h

theorem execCust_goes {n : BitVec 4} {sub : BitVec 3} {rd rs rt : Reg} (h : Memory.wf s.mem = true) :
    Goes State.Inv (execCust c g n sub rd rs rt s) :=
  runInstr_goes h fun _ hu => runCust_keeps _ _ _ hu

-- ---------------------------------------------------------------- transfers, loops and repeats

theorem spillOldest_keeps (c : Nat) (h : Memory.wf s.mem = true) : (s.spillOldest c).keeps State.Inv := by
  unfold State.spillOldest
  simp only
  split
  · exact h
  · split
    · exact h
    · next ms _ =>
      have hp := performPut_keeps c ms ((s.core c).rstack.getLastD 0).toNat 4 h
      split
      · next u t hu => exact hp.trap hu
      · trivial
      · next u w hu => exact hp.wait hu
      · next u hu => exact (congrArg Memory.wf (setCore_mem _ _ _)).trans (hp.ok hu)

theorem pushReturn_keeps (c : Nat) (ra : Word) (h : Memory.wf s.mem = true) : (s.pushReturn c ra).keeps State.Inv := by
  have hp := spillOldest_keeps c h
  unfold State.pushReturn
  simp only
  split
  · exact h
  · split
    · next u hu => exact (congrArg Memory.wf (setCore_mem _ _ _)).trans (hp.ok hu)
    · exact hp

theorem callTo_keeps (c : Nat) (g : Guard) (pc target : Word) (n : Nat) (h : Memory.wf s.mem = true) : (s.callTo c g pc target n).keeps State.Inv := by
  have hp := pushReturn_keeps c (pc + 4) h
  unfold State.callTo
  simp only
  split
  · next u hu => exact hp.ok hu
  · next u w hu => exact hp.wait hu
  · next u t hu => exact hp.trap hu
  · trivial

theorem execBr_goes {disp : BitVec 22} (h : Memory.wf s.mem = true) : Goes State.Inv (execBr c g disp s) :=
  runInstr_goes h fun _ hu => hu

theorem execCall_goes {disp : BitVec 22} (h : Memory.wf s.mem = true) : Goes State.Inv (execCall c g disp s) :=
  runInstr_goes h fun _ hu => Res.notLast_keeps _ _ (callTo_keeps _ _ _ _ _ hu)

theorem execJr_goes {rs : Reg} (h : Memory.wf s.mem = true) : Goes State.Inv (execJr c g rs s) :=
  runInstr_goes h fun _ hu => by simp [hu]

theorem execCallr_goes {rs : Reg} (h : Memory.wf s.mem = true) : Goes State.Inv (execCallr c g rs s) := by
  refine runInstr_goes h fun u hu => ?_
  simp only
  split
  · exact hu
  · exact Res.notLast_keeps _ _ (callTo_keeps _ _ _ _ _ hu)

theorem popReturn_keeps (c : Nat) (g : Guard) (h : Memory.wf s.mem = true) : (s.popReturn c g).keeps State.Inv := by
  unfold State.popReturn
  simp only
  split
  · exact h
  · split
    · exact h
    · split
      · exact h
      · next ms _ =>
        have hp := performLoad_keeps c ms h
        split
        · next u t hu => exact hp.trap hu
        · trivial
        · next u v hu =>
          have hu := hp.ok hu
          split <;> exact hu

theorem execRet_goes (h : Memory.wf s.mem = true) : Goes State.Inv (execRet c g s) :=
  runInstr_goes h fun _ hu => Res.notLast_keeps _ _ (popReturn_keeps _ _ hu)

theorem startLoop_keeps (c : Nat) (lvl : BitVec 2) (count : Word) (imm : Imm12) (h : Memory.wf s.mem = true) :
    (s.startLoop c lvl count imm).keeps State.Inv := by
  simp [State.startLoop, h]

theorem execLoop_goes {k : BitVec 2} {rs : Reg} {imm : Imm12} (h : Memory.wf s.mem = true) : Goes State.Inv (execLoop c g k rs imm s) :=
  runInstr_goes h fun _ hu => Res.notLast_keeps _ _ (startLoop_keeps _ _ _ _ hu)

theorem execLoopi_goes {k : BitVec 2} {count : BitVec 8} {imm : Imm12} (h : Memory.wf s.mem = true) : Goes State.Inv (execLoopi c g k count imm s) :=
  runInstr_goes h fun _ hu => Res.notLast_keeps _ _ (startLoop_keeps _ _ _ _ hu)

theorem startRpt_keeps (c : CoreId) (count : Nat) (h : Memory.wf s.mem = true) : (s.startRpt c count).keeps State.Inv := by
  have hf : Memory.wf (s.fetch c ((s.core c).pc + 4)).1.mem = true := by simpa using h
  unfold State.startRpt
  simp only
  split
  · next u t hu =>
    rw [hu] at hf
    split <;> exact hf
  · next u w hu =>
    rw [hu] at hf
    split
    · exact hf
    · split <;> exact hf

theorem execRpt_goes {rs : Reg} (h : Memory.wf s.mem = true) : Goes State.Inv (execRpt c g rs s) :=
  runInstr_goes h fun _ hu => Res.notLast_keeps _ _ (startRpt_keeps _ _ hu)

theorem execRpti_goes {count : BitVec 16} (h : Memory.wf s.mem = true) : Goes State.Inv (execRpti c g count s) :=
  runInstr_goes h fun _ hu => Res.notLast_keeps _ _ (startRpt_keeps _ _ hu)

-- ---------------------------------------------------------------- gates, returns and the end of a task

theorem execSysc_goes {gate : BitVec 4} (h : Memory.wf s.mem = true) : Goes State.Inv (execSysc c g gate s) :=
  runInstr_goes h fun _ hu => by simp [State.sysc, hu]

theorem return_keeps (c num : Nat) (ends : Core → Core) (h : Memory.wf s.mem = true) : (s.return_ c num ends).keeps State.Inv := by
  unfold State.return_
  simp only
  split
  · exact h
  · simp [h]

theorem runReturn_goes {num : Nat} {ends : Core → Core} (h : Memory.wf s.mem = true) : Goes State.Inv (s.runReturn ins c g num ends) :=
  runInstr_goes h fun _ hu => Res.notLast_keeps _ _ (return_keeps _ _ _ hu)

theorem execSret_goes (h : Memory.wf s.mem = true) : Goes State.Inv (execSret c g s) :=
  runInstr_goes h fun _ hu => Res.notLast_keeps _ _ (by simp [State.sret, hu])

theorem execTend_goes (h : Memory.wf s.mem = true) : Goes State.Inv (execTend c g s) :=
  runInstr_goes h fun _ hu => by simp [hu]

-- ---------------------------------------------------------------- floating point

-- ---------------------------------------------------------------- banks and special registers

theorem ctxsw_keeps (c n : Nat) (h : Memory.wf s.mem = true) : (s.ctxsw c n).keeps State.Inv := by
  unfold State.ctxsw
  simp only
  split
  · exact h
  · split
    · exact h
    · split
      · exact h
      · split
        · trivial
        · split <;> simpa using drainAll_wf c h

theorem execCtxsw_goes {rs : Reg} (h : Memory.wf s.mem = true) : Goes State.Inv (execCtxsw c g rs s) :=
  runInstr_goes h fun _ hu => ctxsw_keeps _ _ hu

theorem execMfb_goes {rd rs : Reg} (h : Memory.wf s.mem = true) : Goes State.Inv (execMfb c g rd rs s) := by
  refine runInstr_goes h fun u hu => ?_
  simp only
  split <;> exact hu

theorem execMtb_goes {rd rs : Reg} (h : Memory.wf s.mem = true) : Goes State.Inv (execMtb c g rd rs s) := by
  refine runInstr_goes h fun u hu => ?_
  simp only
  split
  · exact hu
  · simp [hu]

theorem spillAll_keeps (c n : Nat) : ∀ {s : State} (_ : Memory.wf s.mem = true), (s.spillAll c n).keeps State.Inv := by
  induction n with
  | zero => exact fun h => h
  | succ n ih =>
    intro s h
    have hp := spillOldest_keeps c h
    unfold State.spillAll
    split
    · next u hu => exact ih (hp.ok hu)
    · exact hp

theorem mfsRsp_keeps (c : Nat) (rd : Reg) (h : Memory.wf s.mem = true) : (s.mfsRsp c rd).keeps State.Inv := by
  have hp := spillAll_keeps c (s.core c).rstack.length h
  unfold State.mfsRsp
  simp only
  split
  · exact h
  · split
    · next u t hu => exact hp.trap hu
    · next u w hu => exact hp.wait hu
    · trivial
    · next u hu => simpa using hp.ok hu

theorem mfs_keeps (c n : Nat) (rd : Reg) (h : Memory.wf s.mem = true) : (s.mfs c n rd).keeps State.Inv := by
  unfold State.mfs
  simp only
  split
  · exact h
  · split
    · exact h
    · split
      · exact mfsRsp_keeps _ _ h
      · simpa using h

theorem execMfs_goes {rd : Reg} {num : Imm12} (h : Memory.wf s.mem = true) : Goes State.Inv (execMfs c g rd num s) :=
  runInstr_goes h fun _ hu => mfs_keeps _ _ _ hu

theorem mts_keeps (c n : Nat) (v : Word) (h : Memory.wf s.mem = true) : (s.mts c n v).keeps State.Inv := by
  simp [State.mts, State.mtsWrite, h]

theorem execMts_goes {rs : Reg} {num : Imm12} (h : Memory.wf s.mem = true) : Goes State.Inv (execMts c g rs num s) :=
  runInstr_goes h fun _ hu => mts_keeps _ _ _ hu

end

end Sys2Proof.Machine
end

section
/-!
PROOF. The canonical form through the string instructions, TCHK, the POST family, and what ends an instruction's wait.
-/

namespace Sys2Proof.Machine

section
variable {s : State} {ins : Instr} {c : CoreId} {g : Guard}

-- ---------------------------------------------------------------- string instructions

/-- What a chunk's reads answer carries a canonical memory. -/
theorem readChunk_wf (c : Nat) (ops : List Opnd) (h : Memory.wf s.mem = true) :
    (∀ r, s.readChunk c ops = .error r → r.keeps State.Inv) ∧ (∀ q, s.readChunk c ops = .ok q → Memory.wf q.1.mem = true) := by
  have hr := fun l => readAll_wf c l h
  unfold State.readChunk
  split
  · exact ⟨by rintro r ⟨rfl⟩; exact h, by rintro q ⟨⟩⟩
  · split
    · exact ⟨by rintro r ⟨rfl⟩; trivial, by rintro q ⟨⟩⟩
    · simp only
      split
      · exact ⟨by rintro r ⟨rfl⟩; exact hr _, by rintro q ⟨⟩⟩
      · exact ⟨by rintro r ⟨⟩, by rintro q ⟨rfl⟩; exact (congrArg Memory.wf (markReads_mem _ _)).trans (hr _)⟩

theorem tableChunk_wf (c : Nat) (rd rs : Reg) (acc : Access) (n : Nat) (h : Memory.wf s.mem = true) :
    (∀ r, s.tableChunk c rd rs acc n = .error r → r.keeps State.Inv) ∧ (∀ q, s.tableChunk c rd rs acc n = .ok q → Memory.wf q.1.mem = true) := by
  unfold State.tableChunk
  simp only
  split
  · exact ⟨by rintro r ⟨rfl⟩; exact h, by rintro q ⟨⟩⟩
  · split
    · next table str _ =>
      have hl := loadPieces_wf c str h
      have hk := fun l => lookup_wf c table l hl
      split
      · exact ⟨by rintro r ⟨rfl⟩; trivial, by rintro q ⟨⟩⟩
      · split
        · exact ⟨by rintro r ⟨rfl⟩; trivial, by rintro q ⟨⟩⟩
        · split
          · exact ⟨by rintro r ⟨rfl⟩; exact hl, by rintro q ⟨⟩⟩
          · split
            · exact ⟨by rintro r ⟨rfl⟩; exact hk _, by rintro q ⟨⟩⟩
            · exact ⟨by rintro r ⟨⟩, by rintro q ⟨rfl⟩; simpa using hk _⟩
    · exact ⟨by rintro r ⟨rfl⟩; trivial, by rintro q ⟨⟩⟩

theorem chunkEnd_keeps (more : Bool) (x : Cost) (h : Memory.wf s.mem = true) : (chunkEnd s more x).keeps State.Inv := by
  simp [chunkEnd, h]

theorem chunkCommit_keeps (c : Nat) (dst : List Mapped) (l : List Byte) (x : Cost) (more : Bool) (put : Core → Core) (h : Memory.wf s.mem = true) :
    (s.chunkCommit c dst l x more put).keeps State.Inv := by
  have hp := performCommit_wf c [(dst, l)] h
  unfold State.chunkCommit
  simp only
  split
  · next u t hu => exact hp.trap hu
  · next u w hu => exact hp.wait hu
  · trivial
  · next u hu => exact chunkEnd_keeps _ _ (by simpa using hp.ok hu)

theorem mvs_keeps (c : Nat) (rd rs : Reg) (h : Memory.wf s.mem = true) : (s.mvs c rd rs).keeps State.Inv := by
  unfold State.mvs
  simp only
  split
  · exact h
  · split
    · next r hr => exact (readChunk_wf c _ h).1 r hr
    · next u ms ls hr =>
      split
      · exact chunkCommit_keeps _ _ _ _ _ _ ((readChunk_wf c _ h).2 _ hr)
      · trivial

theorem mvsf_keeps (c : Nat) (rd rs rt : Reg) (h : Memory.wf s.mem = true) : (s.mvsf c rd rs rt).keeps State.Inv := by
  unfold State.mvsf
  simp only
  split
  · exact h
  · split
    · next r hr => exact (readChunk_wf c _ h).1 r hr
    · next u ms ls hr =>
      have hu := (readChunk_wf c _ h).2 _ hr
      split
      · exact chunkCommit_keeps _ _ _ _ _ _ hu
      · exact chunkCommit_keeps _ _ _ _ _ _ hu
      · trivial

theorem cmps_keeps (c : Nat) (rd rs rt : Reg) (h : Memory.wf s.mem = true) : (s.cmps c rd rs rt).keeps State.Inv := by
  unfold State.cmps
  simp only
  split
  · exact h
  · split
    · next r hr => exact (readChunk_wf c _ h).1 r hr
    · next u ms ls hr =>
      have hu : Memory.wf u.mem = true := (readChunk_wf c _ h).2 _ hr
      split
      · exact hu
      · simp [hu]

theorem scns_keeps (c : Nat) (rd rt : Reg) (h : Memory.wf s.mem = true) : (s.scns c rd rt).keeps State.Inv := by
  unfold State.scns
  simp only
  split
  · exact h
  · split
    · next r hr => exact (readChunk_wf c _ h).1 r hr
    · next u ms ls hr => exact chunkEnd_keeps _ _ ((readChunk_wf c _ h).2 _ hr)

theorem trs_keeps (c : Nat) (rd rs : Reg) (h : Memory.wf s.mem = true) : (s.trs c rd rs).keeps State.Inv := by
  unfold State.trs
  simp only
  split
  · exact h
  · split
    · next r hr => exact (tableChunk_wf c _ _ _ _ h).1 r hr
    · next u table str l x hr => exact chunkCommit_keeps _ _ _ _ _ _ ((tableChunk_wf c _ _ _ _ h).2 _ hr)

theorem trts_keeps (c : Nat) (rd rs rt : Reg) (h : Memory.wf s.mem = true) : (s.trts c rd rs rt).keeps State.Inv := by
  unfold State.trts
  simp only
  split
  · exact h
  · split
    · next r hr => exact (tableChunk_wf c _ _ _ _ h).1 r hr
    · next u table str l x hr =>
      have hu : Memory.wf u.mem = true := (tableChunk_wf c _ _ _ _ h).2 _ hr
      simp [hu]

theorem crcs_keeps (c : Nat) (rd : Reg) (h : Memory.wf s.mem = true) : (s.crcs c rd).keeps State.Inv := by
  unfold State.crcs
  simp only
  split
  · exact h
  · split
    · next r hr => exact (readChunk_wf c _ h).1 r hr
    · next u ms ls hr => exact chunkEnd_keeps _ _ ((readChunk_wf c _ h).2 _ hr)

theorem editWalk_keeps (c : Nat) (l : List (Word × Nat × Byte × Nat)) : ∀ {s : State} (first : Option (Word × Nat)) (st : EditSt) (done : List (Nat × Byte))
    (srcs : List Nat) (_ : Memory.wf s.mem = true), (s.editWalk c first st done srcs l).keeps State.Inv := by
  induction l with
  | nil => exact fun _ _ _ _ h => h
  | cons x l ih =>
    obtain ⟨ea, pa, old, dst⟩ := x
    intro s first st done srcs h
    unfold State.editWalk
    simp only
    split
    · split
      · exact h
      · have he := editByte_wf c first st.src h
        split
        · exact he
        · split
          · trivial
          · split
            · exact he
            · next b _ d st2 _ =>
              split
              · next u st3 out srcs' hu => exact (ih _ _ _ _ he).ok hu
              · exact ih _ _ _ _ he
    · split
      · next u st3 out srcs' hu => exact (ih _ _ _ _ h).ok hu
      · exact ih _ _ _ _ h

theorem edit_keeps (c : Nat) (rd rs rt : Reg) (h : Memory.wf s.mem = true) : (s.edit c rd rs rt).keeps State.Inv := by
  unfold State.edit
  simp only
  split
  · exact h
  · split
    · exact h
    · next pm _ =>
      split
      · trivial
      · have hl := loadPieces_wf c (pm.headD []) h
        split
        · exact hl
        · have hm : Memory.wf ((s.loadPieces c (pm.headD [])).1.mark false (pm.headD [])).mem = true := by simpa using hl
          split
          · split
            · next u e hu =>
              have hu := (editWalk_keeps c _ _ _ _ _ hm).trap hu
              split <;> exact hu
            · trivial
            · next u _ _ _ hu => exact (editWalk_keeps c _ _ _ _ _ hm).ok hu
          · split
            · trivial
            · split
              · next u e hu => exact (editWalk_keeps c _ _ _ _ _ hm).trap hu
              · trivial
              · next u st out srcs hu =>
                have hu := (editWalk_keeps c _ _ _ _ _ hm).ok hu
                split
                · trivial
                · exact chunkCommit_keeps _ _ _ _ _ _ hu

/-- A body that takes its time before it traps keeps what the body keeps. -/
theorem runLate_goes {enc : Option Nat} {resum xfer : Bool} {fcost : Cost} {body : State → Res} {x : State → Cost} (h : Memory.wf s.mem = true)
    (hb : ∀ u : State, Memory.wf u.mem = true → (body u).keeps State.Inv) :
    Goes State.Inv (s.runInstr c ins g enc resum xfer fcost fun u => (body u).late (x u)) :=
  runInstr_goes h fun u hu => (Res.late_keeps _ _ _).mpr (hb u hu)

-- ---------------------------------------------------------------- TCHK

theorem tchkRead_keeps (c ea : Nat) (h : Memory.wf s.mem = true) : (s.tchkRead c ea).keeps State.Inv := by
  have hl := fun ms => loadPieces_wf c ms h
  unfold State.tchkRead
  split
  · exact h
  · simp only
    split
    · exact hl _
    · split
      · exact hl _
      · split
        · exact hl _
        · have hq := fun ms ms' => loadPieces_wf c ms' (hl ms)
          split
          · exact hq _ _
          · exact (congrArg Memory.wf (mark_mem _ _ _)).trans (hq _ _)

theorem tchkVerify_keeps (c : Nat) (rd rs : Reg) (h : Memory.wf s.mem = true) : (s.tchkVerify c rd rs).keeps State.Inv := by
  have hr := tchkRead_keeps c ((s.core c).reg rs).toNat h
  unfold State.tchkVerify
  simp only
  split
  · next u t hu => exact hr.trap hu
  · next u ms l hu =>
    have hu : Memory.wf u.mem = true := hr.ok hu
    split
    · simp [hu]
    · have hp := fun ws => performAll_wf c ws hu
      split
      · next v t hv => exact (hp _).trap hv
      · next v w hv => exact (hp _).wait hv
      · trivial
      · have hp := fun ws => performAll_wf (s := (u.verifyAt 1 l).1) c ws (by simpa using hu)
        split
        · next v t hv => exact (hp _).trap hv
        · next v w hv => exact (hp _).wait hv
        · trivial
        · next v hv =>
          have hv : Memory.wf v.mem = true := (hp _).ok hv
          simp [hv]

theorem tchkForm_keeps (c : Nat) (rd rs : Reg) (h : Memory.wf s.mem = true) : (s.tchkForm c rd rs).keeps State.Inv := by
  have hr := tchkRead_keeps c ((s.core c).reg rs).toNat h
  unfold State.tchkForm
  simp only
  split
  · next u t hu => exact hr.trap hu
  · next u ms l hu =>
    have hp := fun ws => performAll_wf c ws (hr.ok hu)
    split
    · trivial
    · split
      · trivial
      · split
        · next v t hv => exact (hp _).trap hv
        · next v w hv => exact (hp _).wait hv
        · trivial
        · next v hv => simpa using (hp _).ok hv

-- ---------------------------------------------------------------- the POST family

theorem postLocked_keeps (c m : Nat) (rd rt : Reg) (partner : Nat) (legs : List Leg) (jl : Mapped) (h : Memory.wf s.mem = true) :
    (s.postLocked c m rd rt partner legs jl).keeps State.Inv := by
  have hr := readLegs_wf c legs h
  unfold State.postLocked
  simp only
  split
  · next e he => exact readLegs_error c legs h he
  · split
    · trivial
    · split
      · simpa using hr
      · have hp := fun ws => performCommit_wf c ws hr
        split
        · next v t hv => exact (hp _).trap hv
        · next v w hv => exact (hp _).wait hv
        · trivial
        · next v hv => simpa using (hp _).ok hv

theorem post_keeps (c n m : Nat) (rd rs rt : Reg) (h : Memory.wf s.mem = true) : (s.post c n m rd rs rt).keeps State.Inv := by
  unfold State.post
  simp only
  split
  · exact h
  · next lm _ =>
    have hl := loadPieces_wf c lm h
    split
    · exact hl
    · have hm : Memory.wf ((s.loadPieces c lm).1.mark false lm).mem = true := by simpa using hl
      split
      · exact hm
      · split
        · exact hm
        · split
          · exact hm
          · split
            · trivial
            · split
              · simpa using hl
              · split
                · trivial
                · exact postLocked_keeps _ _ _ _ _ _ _ (by simpa using hl)

theorem execPost_goes {m : BitVec 2} {rd rs rt : Reg} (h : Memory.wf s.mem = true) : Goes State.Inv (execPost c g m rd rs rt s) := by
  refine runInstr_goes h fun u hu => ?_
  split
  · exact hu
  · exact (Res.late_keeps _ _ _).mpr (post_keeps _ _ _ _ _ _ hu)

-- ---------------------------------------------------------------- the ends of waits

/-- Executing an instruction that has waited keeps the canonical form. -/
theorem runHeld_goes (i : Instr) (h : Memory.wf s.mem = true) : Goes State.Inv (runHeld i s) := by
  cases i with
  | stb c g rd base mode f => exact (store_goes h : Goes _ (execStb c g rd base mode f s))
  | sth c g rd base mode f => exact (store_goes h : Goes _ (execSth c g rd base mode f s))
  | stw c g rd base mode f => exact (store_goes h : Goes _ (execStw c g rd base mode f s))
  | std c g rd base mode f => exact (store_goes h : Goes _ (execStd c g rd base mode f s))
  | push c g rs => exact execPush_goes h
  | swpw c g rd rs rt => exact (atomic_goes h : Goes _ (execSwpw c g rd rs rt s))
  | casw c g rd rs rt => exact (atomic_goes h : Goes _ (execCasw c g rd rs rt s))
  | faddw c g rd rs rt => exact (atomic_goes h : Goes _ (execFaddw c g rd rs rt s))
  | call c g disp => exact execCall_goes h
  | callr c g rs => exact execCallr_goes h
  | mfs c g rd num => exact execMfs_goes h
  | kset c g rs rt => exact execKset_goes h
  | dadd c g pd rd rs rt => exact (decimal_goes h : Goes _ (execDadd c g pd rd rs rt s))
  | dsub c g pd rd rs rt => exact (decimal_goes h : Goes _ (execDsub c g pd rd rs rt s))
  | dzad c g pd rd rs rt => exact (decimal_goes h : Goes _ (execDzad c g pd rd rs rt s))
  | dcmp c g pd rd rs rt => exact (decimal_goes h : Goes _ (execDcmp c g pd rd rs rt s))
  | dmul c g pd rd rs rt => exact (decimal_goes h : Goes _ (execDmul c g pd rd rs rt s))
  | ddiv c g pd rd rs rt => exact (decimal_goes h : Goes _ (execDdiv c g pd rd rs rt s))
  | dsrp c g pd rd rt => exact (decimal_goes h : Goes _ (execDsrp c g pd rd rt s))
  | dtst c g pd rd rt => exact (decimal_goes h : Goes _ (execDtst c g pd rd rt s))
  | cvpz c g pd rd rs rt => exact (decimal_goes h : Goes _ (execCvpz c g pd rd rs rt s))
  | cvzp c g pd rd rs rt => exact (decimal_goes h : Goes _ (execCvzp c g pd rd rs rt s))
  | cvpb c g pd rd rs rt => exact (runInstr_goes h fun _ hu => toBinary_keeps _ _ _ _ _ hu : Goes _ (execCvpb c g pd rd rs rt s))
  | cvbp c g pd rd rs rt => exact (decimal_goes h : Goes _ (execCvbp c g pd rd rs rt s))
  | mvs c g rd rs => exact (runLate_goes h fun _ hu => mvs_keeps _ _ _ hu : Goes _ (execMvs c g rd rs s))
  | mvsf c g rd rs rt => exact (runLate_goes h fun _ hu => mvsf_keeps _ _ _ _ hu : Goes _ (execMvsf c g rd rs rt s))
  | cmps c g rd rs rt => exact (runLate_goes h fun _ hu => cmps_keeps _ _ _ _ hu : Goes _ (execCmps c g rd rs rt s))
  | scns c g rd rt => exact (runLate_goes h fun _ hu => scns_keeps _ _ _ hu : Goes _ (execScns c g rd rt s))
  | trs c g rd rs => exact (runLate_goes h fun _ hu => trs_keeps _ _ _ hu : Goes _ (execTrs c g rd rs s))
  | trts c g rd rs rt => exact (runLate_goes h fun _ hu => trts_keeps _ _ _ _ hu : Goes _ (execTrts c g rd rs rt s))
  | crcs c g rd => exact (runLate_goes h fun _ hu => crcs_keeps _ _ hu : Goes _ (execCrcs c g rd s))
  | edit c g rd rs rt => exact (runLate_goes h fun _ hu => edit_keeps _ _ _ _ hu : Goes _ (execEdit c g rd rs rt s))
  | tchkVerify c g rd rs => exact (runLate_goes h fun _ hu => tchkVerify_keeps _ _ _ hu : Goes _ (execTchkVerify c g rd rs s))
  | tchkForm c g rd rs => exact (runLate_goes h fun _ hu => tchkForm_keeps _ _ _ hu : Goes _ (execTchkForm c g rd rs s))
  | post c g m rd rs rt => exact execPost_goes h
  | post2 c g m rd rs rt => exact (runLate_goes h fun _ hu => post_keeps _ _ _ _ _ _ hu : Goes _ (execPost2 c g m rd rs rt s))
  | post4 c g m rd rs rt => exact (runLate_goes h fun _ hu => post_keeps _ _ _ _ _ _ hu : Goes _ (execPost4 c g m rd rs rt s))
  | cust c g n sub rd rs rt => exact execCust_goes h
  | _ => exact h

theorem endWait_goes (c : Nat) (now : WaitWhy → Bool) (h : Memory.wf s.mem = true) : Goes State.Inv (s.endWait c now) := by
  unfold State.endWait
  split
  · exact h
  · simp only
    split
    · split
      · exact runHeld_goes _ (by simpa using h)
      · simpa using h
    · exact h

end

end Sys2Proof.Machine
end

section
/-!
PROOF. The canonical form through the writes of objects and the dictionary protocol.
-/

namespace Sys2Proof.Machine

@[simp] theorem refuseShadow_keeps {s : State} (r : RefusalRec) (h : Memory.wf s.mem = true) : (s.refuseShadow r).keeps State.Inv := by
  simp [State.refuseShadow, h]

@[simp] theorem refuseLong_keeps {s : State} (h : Memory.wf s.mem = true) : s.refuseLong.keeps State.Inv := by
  simp [State.refuseLong, h]

@[simp] theorem writeShadow_keeps {s : State} (v : List Byte) (h : Memory.wf s.mem = true) : (s.writeShadow v).keeps State.Inv := by
  unfold State.writeShadow
  split
  · exact refuseLong_keeps h
  · split <;> simp [h]

@[simp] theorem commitPlan_keeps {s : State} (h : Memory.wf s.mem = true) : s.commitPlan.keeps State.Inv := by
  unfold State.commitPlan
  split
  · simp [h]
  · split
    · simp [h]
    · split
      · trivial
      · simp [h]
      · simp only
        split <;> simp [h]

@[simp] theorem discardShadow_keeps {s : State} (h : Memory.wf s.mem = true) : s.discardShadow.keeps State.Inv := by
  simp [State.discardShadow, h]

@[simp] theorem programImage_keeps {s : State} (i sub : Nat) (v : List Byte) (h : Memory.wf s.mem = true) :
    (s.programImage i sub v).keeps State.Inv := by
  simp [State.programImage, h]

@[simp] theorem storeImage_keeps {s : State} (n : Nat) (v : List Byte) (h : Memory.wf s.mem = true) : (s.storeImage n v).keeps State.Inv := by
  simp [State.storeImage, h]

@[simp] theorem refuseMicro_keeps {s : State} (code addr : Nat) (h : Memory.wf s.mem = true) : (s.refuseMicro code addr).keeps State.Inv := by
  simp [State.refuseMicro, h]

@[simp] theorem writeMicro_keeps {s : State} (v : List Byte) (h : Memory.wf s.mem = true) : (s.writeMicro v).keeps State.Inv := by
  unfold State.writeMicro
  split <;> simp [h]

@[simp] theorem unloadSlots_keeps {s : State} (mask : Nat) (h : Memory.wf s.mem = true) : (s.unloadSlots mask).keeps State.Inv := by
  simp [State.unloadSlots, h]

@[simp] theorem refuseUpdate_keeps {s : State} (code : Nat) (h : Memory.wf s.mem = true) : (s.refuseUpdate code).keeps State.Inv := by
  simp [State.refuseUpdate, h]

@[simp] theorem writeUpdate_keeps {s : State} (v : List Byte) (h : Memory.wf s.mem = true) : (s.writeUpdate v).keeps State.Inv := by
  simp [State.writeUpdate, h]

@[simp] theorem tryUpdate_keeps {s : State} (h : Memory.wf s.mem = true) : s.tryUpdate.keeps State.Inv := by
  simp [State.tryUpdate, h]

@[simp] theorem commitUpdate_keeps {s : State} (h : Memory.wf s.mem = true) : s.commitUpdate.keeps State.Inv := by
  simp [State.commitUpdate, h]

@[simp] theorem discardUpdate_keeps {s : State} (h : Memory.wf s.mem = true) : s.discardUpdate.keeps State.Inv := by
  simp [State.discardUpdate, h]

@[simp] theorem startRaw_keeps {s : State} (h : Memory.wf s.mem = true) : s.startRaw.keeps State.Inv := by
  simp [State.startRaw, h]

@[simp] theorem askRetire_keeps {s : State} (c : Nat) (h : Memory.wf s.mem = true) : (s.askRetire c).keeps State.Inv := by
  simp [State.askRetire, h]

@[simp] theorem askDomain_keeps {s : State} (d v : Nat) (h : Memory.wf s.mem = true) : (s.askDomain d v).keeps State.Inv := by
  simp [State.askDomain, setDomain_mem, h]

/-- The rule of an object keeps the canonical form: one rule for each object. -/
@[simp] theorem ruleOf_keeps {s : State} (i sub win : Nat) (v : List Byte) (h : Memory.wf s.mem = true) : (s.ruleOf i sub win v).keeps State.Inv := by
  simp [State.ruleOf, h]

@[simp] theorem judgeValue_keeps {s : State} (i sub win : Nat) (r : ORow) (v : List Byte) (h : Memory.wf s.mem = true) :
    (s.judgeValue i sub win r v).keeps State.Inv := by
  unfold State.judgeValue
  split
  · trivial
  · split <;> simp [h]

@[simp] theorem directWrite_goes {s : State} (i sub : Nat) (w : ObjWrite) (h : Memory.wf s.mem = true) : Goes State.Inv (s.directWrite i sub w) := by
  unfold State.directWrite
  split
  · exact h
  · next x hx =>
    split
    · exact h
    · split
      · simpa [State.result] using h
      · split
        · simpa [State.result] using h
        · next r hr =>
          split
          · simpa [State.result] using h
          · have hj := judgeValue_keeps i sub (s.winOf i sub) r w.value h
            simp only
            split
            · simpa [State.result] using h
            · next t a ht => simpa [State.result] using hj.abort ht
            · next t ht => simpa using hj.wait ht
            · next t ht => simpa [State.result] using hj.ok ht

@[simp] theorem commandWrite_goes {s : State} (i sub cmd : Nat) (w : ObjWrite) (h : Memory.wf s.mem = true) :
    Goes State.Inv (s.commandWrite i sub cmd w) := by
  simp [State.commandWrite, h]

@[simp] theorem writeValue_goes {s : State} (x : Session) (b : List Byte) (r : ORow) (v : List Byte) (h : Memory.wf s.mem = true) :
    Goes State.Inv (s.writeValue x b r v) := by
  have hj := judgeValue_keeps (mIndex b) (mSub b) (s.winOf (mIndex b) (mSub b)) r v h
  unfold State.writeValue
  simp only
  split
  · simpa using h
  · next t a ht => simpa using hj.abort ht
  · next t ht => simpa using hj.wait ht
  · next t ht =>
    have hu : Memory.wf t.mem = true := hj.ok ht
    split <;> simpa using hu

@[simp] theorem doWrite_goes {s : State} (x : Session) (b : List Byte) (h : Memory.wf s.mem = true) : Goes State.Inv (s.doWrite x b) := by
  unfold State.doWrite
  split
  · simpa using h
  · split <;> simp [h]

@[simp] theorem growTransfer_goes {s : State} (x : Session) (b : List Byte) (r : ORow) (data : List Byte) (h : Memory.wf s.mem = true) :
    Goes State.Inv (s.growTransfer x b r data) := by
  simp [State.growTransfer, h]

@[simp] theorem openTransfer_goes {s : State} (x : Session) (b : List Byte) (h : Memory.wf s.mem = true) : Goes State.Inv (s.openTransfer x b) := by
  unfold State.openTransfer
  simp only
  split
  · simpa using h
  · split
    · simpa using h
    · split
      · simpa using h
      · split
        · split
          · next t a ht => simpa using (refuseLong_keeps h).abort ht
          · exact h
        · simp [h]

@[simp] theorem doSegment_goes {s : State} (x : Session) (b : List Byte) (h : Memory.wf s.mem = true) : Goes State.Inv (s.doSegment x b) := by
  unfold State.doSegment
  split
  · simpa using h
  · split
    · exact openTransfer_goes x b h
    · split
      · simpa using h
      · split <;> simp [h]

@[simp] theorem perform_goes {s : State} (x : Session) (b : List Byte) (h : Memory.wf s.mem = true) : Goes State.Inv (s.perform x b) := by
  unfold State.perform
  split <;> simp [h]

@[simp] theorem serveRequest_goes {s : State} (src : Client) (b : List Byte) (h : Memory.wf s.mem = true) :
    Goes State.Inv (s.serveRequest src b) := by
  unfold State.serveRequest
  split <;> simp [h]

@[simp] theorem serveOpen_goes {s : State} (src : Client) (b : List Byte) (h : Memory.wf s.mem = true) : Goes State.Inv (s.serveOpen src b) := by
  simp [State.serveOpen, h]

@[simp] theorem serveProve_goes {s : State} (src : Client) (b : List Byte) (h : Memory.wf s.mem = true) : Goes State.Inv (s.serveProve src b) := by
  unfold State.serveProve
  split <;> simp [h]

@[simp] theorem serve_goes {s : State} (m : ZdpMsg) (h : Memory.wf s.mem = true) : Goes State.Inv (s.serve m) := by
  simp [State.serve, h]

@[simp] theorem receive_goes {s : State} (m : ZdpMsg) (h : Memory.wf s.mem = true) : Goes State.Inv (s.receive m) := by
  unfold State.receive
  split
  · exact h
  · split <;> simp [h]

@[simp] theorem receiveAll_goes {s : State} (l : List ZdpMsg) (h : Memory.wf s.mem = true) : Goes State.Inv (State.receiveAll l s) := by
  induction l generalizing s with
  | nil => exact h
  | cons m l ih =>
    have hm := receive_goes m h
    unfold State.receiveAll
    split
    · next t ht => exact ih (hm.of_next ht)
    · exact hm

@[simp] theorem serveWaiting_goes {s : State} (h : Memory.wf s.mem = true) : Goes State.Inv s.serveWaiting := by
  simp [State.serveWaiting, h]

@[simp] theorem receiveNext_goes {s : State} (m : ZdpMsg) (h : Memory.wf s.mem = true) : Goes State.Inv (s.receiveNext m) := by
  have hw := serveWaiting_goes h
  unfold State.receiveNext
  split
  · next t ht => exact receive_goes m (hw.of_next ht)
  · exact hw

@[simp] theorem receiveAs_goes {s : State} (cmd : Nat) (m : ZdpMsg) (h : Memory.wf s.mem = true) : Goes State.Inv (s.receiveAs cmd m) := by
  simp [State.receiveAs, h]

theorem execUnknownCommand_goes {s : State} (m : ZdpMsg) (h : Memory.wf s.mem = true) : Goes State.Inv (execUnknownCommand m s) := by
  simp [execUnknownCommand, h]

theorem execTransferTimeout_goes {s : State} (sid : Nat) (h : Memory.wf s.mem = true) : Goes State.Inv (execTransferTimeout sid s) := by
  unfold execTransferTimeout
  split <;> simp [h]

theorem execSessionIdleTimeout_goes {s : State} (sid : Nat) (h : Memory.wf s.mem = true) : Goes State.Inv (execSessionIdleTimeout sid s) := by
  unfold execSessionIdleTimeout
  split <;> simp [h]

theorem execPersistentStoreComplete_goes {s : State} (good : Bool) (h : Memory.wf s.mem = true) :
    Goes State.Inv (execPersistentStoreComplete good s) := by
  unfold execPersistentStoreComplete
  split
  · exact h
  · split
    · exact h
    · simp only
      refine serveWaiting_goes ?_
      split
      · simpa using h
      · split
        · simpa using h
        · split <;> simpa using h

@[simp] theorem endCan_goes {s : State} (l : List Byte) (h : Memory.wf s.mem = true) : Goes State.Inv (s.endCan l) := receiveNext_goes _ h

theorem execCanFdFrame_goes {s : State} (f : CanFrame) (h : Memory.wf s.mem = true) : Goes State.Inv (execCanFdFrame f s) := by
  unfold execCanFdFrame
  split
  · exact h
  · split
    · exact h
    · simp only
      split <;> simp [h]

theorem execCanReassemblyTimeout_goes {s : State} (h : Memory.wf s.mem = true) : Goes State.Inv (execCanReassemblyTimeout s) := by
  unfold execCanReassemblyTimeout
  split <;> simp [h]

theorem execCanFaultConfinement_goes {s : State} (st : CanState) (h : Memory.wf s.mem = true) : Goes State.Inv (execCanFaultConfinement st s) := by
  simp [execCanFaultConfinement, h]

theorem execCanBusOffRecovery_goes {s : State} (h : Memory.wf s.mem = true) : Goes State.Inv (execCanBusOffRecovery s) := by
  simp [execCanBusOffRecovery, h]

theorem execMediaOpComplete_goes {s : State} (id : Nat) (res : MediaResult) (data : List Byte) (h : Memory.wf s.mem = true) :
    Goes State.Inv (execMediaOpComplete id res data s) := by
  unfold execMediaOpComplete
  split
  · exact h
  · next o ho =>
    split
    · simpa using h
    · split
      · next t ht =>
        have hm : t.mem = s.mem := complete_mem ht
        simp [hm, h]
      · exact h

theorem execMediaOpTimeout_goes {s : State} (id : Nat) (h : Memory.wf s.mem = true) : Goes State.Inv (execMediaOpTimeout id s) := by
  unfold execMediaOpTimeout
  split <;> simp [h]

end Sys2Proof.Machine
end

section
/-!
PROOF. The canonical form through the events of the device: timer, ports, media, power, Grinder, Barista, repair, debug.
-/

namespace Sys2Proof.Machine

-- ---------------------------------------------------------------- Carafe.lean

theorem execCapacitanceTestStart_goes {s : State} (h : Memory.wf s.mem = true) : Goes State.Inv (execCapacitanceTestStart s) := by
  simp [execCapacitanceTestStart, h]

theorem execCapacitanceTestEnd_goes {s : State} (isense drop : Nat) (h : Memory.wf s.mem = true) :
    Goes State.Inv (execCapacitanceTestEnd isense drop s) := by
  simp [execCapacitanceTestEnd, h]

-- ---------------------------------------------------------------- Switch.lean

theorem execImagePlacement_goes {s : State} (h : Memory.wf s.mem = true) : Goes State.Inv (execImagePlacement s) := by
  unfold execImagePlacement
  (repeat' split) <;> simp [h]

-- ---------------------------------------------------------------- Repair.lean

theorem execFaultReplacement_goes {s : State} (l : LogId) (h : Memory.wf s.mem = true) : Goes State.Inv (execFaultReplacement l s) := by
  simp [execFaultReplacement, h]

theorem execRotation_goes {s : State} (h : Memory.wf s.mem = true) : Goes State.Inv (execRotation s) := by
  unfold execRotation
  simp only
  (repeat' split) <;> simp [h]

theorem execCoreSelfTest_goes {s : State} (p : CoreId) (pass : Bool) (h : Memory.wf s.mem = true) : Goes State.Inv (execCoreSelfTest p pass s) := by
  simp [execCoreSelfTest, h, moveScratch_wf]

theorem execSramRowRepair_goes {s : State} (kind : BitVec 4) (unit : BitVec 15) (h : Memory.wf s.mem = true) :
    Goes State.Inv (execSramRowRepair kind unit s) := by
  unfold execSramRowRepair
  simp only
  split
  · exact h
  · split <;> simp [h]

theorem execSramRowRepairComplete_goes {s : State} (kind : BitVec 4) (unit : BitVec 15) (h : Memory.wf s.mem = true) :
    Goes State.Inv (execSramRowRepairComplete kind unit s) := by
  unfold execSramRowRepairComplete
  simp only
  split <;> simp [h]

-- ---------------------------------------------------------------- Percolator.lean

theorem execPercolatorUnitEnqueue_goes {s : State} (grp : GroupId) (h : Memory.wf s.mem = true) :
    Goes State.Inv (execPercolatorUnitEnqueue grp s) := by
  unfold execPercolatorUnitEnqueue
  (repeat' split) <;> simp [h]

-- ---------------------------------------------------------------- DeviceRegs.lean

theorem execEgsbWaitEnd_goes {s : State} (c : CoreId) (h : Memory.wf s.mem = true) : Goes State.Inv (execEgsbWaitEnd c s) := by
  unfold execEgsbWaitEnd
  split <;> simp [h]

theorem execDerivedCopyComplete_goes {s : State} (id : Nat) (h : Memory.wf s.mem = true) : Goes State.Inv (execDerivedCopyComplete id s) := by
  simp [execDerivedCopyComplete, h]

-- ---------------------------------------------------------------- Microcode.lean

theorem execMicrocodeReloadComplete_goes {s : State} (c : CoreId) (h : Memory.wf s.mem = true) :
    Goes State.Inv (execMicrocodeReloadComplete c s) := by
  simp [execMicrocodeReloadComplete, h]

-- ---------------------------------------------------------------- FrameTick.lean

theorem execPlanSwitch_goes {s : State} (h : Memory.wf s.mem = true) : Goes State.Inv (execPlanSwitch s) := by
  simp [execPlanSwitch, h]

theorem execDegradedSwitch_goes {s : State} (h : Memory.wf s.mem = true) : Goes State.Inv (execDegradedSwitch s) := by
  unfold execDegradedSwitch
  split <;> simp [h]

@[simp] theorem frameTick_goes {s : State} (w : TickFacts) (h : Memory.wf s.mem = true) : Goes State.Inv (s.frameTick w) := by
  simp [State.frameTick, h]

-- ---------------------------------------------------------------- Reset.lean

theorem execPorstAssert_goes (s : State) : Goes State.Inv (execPorstAssert s) := by
  simp [execPorstAssert]

-- ---------------------------------------------------------------- Boot.lean

theorem execBoot_goes {s : State} (w : BootFacts) (h : Memory.wf s.mem = true) : Goes State.Inv (execBoot w s) := by
  unfold execBoot
  split
  · exact h
  · simp only
    split <;> simp [h]

theorem execBootResume_goes {s : State} (h : Memory.wf s.mem = true) : Goes State.Inv (execBootResume s) := by
  unfold execBootResume
  split <;> simp [h]

-- ---------------------------------------------------------------- Barista.lean

theorem execWatchdogExpiry_goes {s : State} (h : Memory.wf s.mem = true) : Goes State.Inv (execWatchdogExpiry s) := by
  simp [execWatchdogExpiry, h]

theorem execSensorSample_goes {s : State} (w : SensorFacts) (h : Memory.wf s.mem = true) : Goes State.Inv (execSensorSample w s) := by
  simp [execSensorSample, h]

theorem execPowerGoodLost_goes {s : State} (domain : Fin 112) (h : Memory.wf s.mem = true) : Goes State.Inv (execPowerGoodLost domain s) := by
  simp [execPowerGoodLost, h]

theorem execDomainPowerTimeout_goes {s : State} (domain : Fin 112) (h : Memory.wf s.mem = true) :
    Goes State.Inv (execDomainPowerTimeout domain s) := by
  simp [execDomainPowerTimeout, h]

theorem execNmiNAssert_goes {s : State} (h : Memory.wf s.mem = true) : Goes State.Inv (execNmiNAssert s) := by
  unfold execNmiNAssert
  simp only
  split <;> simp [h]

theorem execLogNandMirror_goes {s : State} (h : Memory.wf s.mem = true) : Goes State.Inv (execLogNandMirror s) := by
  unfold execLogNandMirror
  split <;> simp [h]

theorem execLogNorMirror_goes {s : State} (h : Memory.wf s.mem = true) : Goes State.Inv (execLogNorMirror s) := by
  unfold execLogNorMirror
  split
  · exact h
  · simp only
    split <;> simp [h]

theorem execAvsUpdate_goes {s : State} (targetMv : Nat) (h : Memory.wf s.mem = true) : Goes State.Inv (execAvsUpdate targetMv s) := by
  simp [execAvsUpdate, h]

theorem execPmbusRetry_goes {s : State} (ack : Bool) (status : PmbusStatus) (h : Memory.wf s.mem = true) :
    Goes State.Inv (execPmbusRetry ack status s) := by
  simp [execPmbusRetry, h]

-- ---------------------------------------------------------------- Ingress.lean

theorem execVrtDatagram_goes {s : State} (d : Datagram) (h : Memory.wf s.mem = true) : Goes State.Inv (execVrtDatagram d s) := by
  unfold execVrtDatagram
  (repeat' split) <;> simp [h]

theorem execArpRequest_goes {s : State} (port : NetPort) (target : BitVec 32) (h : Memory.wf s.mem = true) :
    Goes State.Inv (execArpRequest port target s) := by
  simp [execArpRequest, h]

theorem execNeighbourSolicitation_goes {s : State} (port : NetPort) (target : BitVec 128) (h : Memory.wf s.mem = true) :
    Goes State.Inv (execNeighbourSolicitation port target s) := by
  simp [execNeighbourSolicitation, h]

theorem execNonVrtFrame_goes {s : State} (port : NetPort) (why : NonVrt) (h : Memory.wf s.mem = true) :
    Goes State.Inv (execNonVrtFrame port why s) := by
  unfold execNonVrtFrame
  split <;> simp [h]

theorem execPortLinkChange_goes {s : State} (port : NetPort) (up : Bool) (sub : Option (Fin 4)) (h : Memory.wf s.mem = true) :
    Goes State.Inv (execPortLinkChange port up sub s) := by
  unfold execPortLinkChange
  split <;> simp [h]

-- ---------------------------------------------------------------- Egress.lean

theorem execReplyTransmit_goes {s : State} (port : PortId) (cls : Fin 64) (h : Memory.wf s.mem = true) :
    Goes State.Inv (execReplyTransmit port cls s) := by
  unfold execReplyTransmit
  simp only
  (repeat' split) <;> simp [h]

-- ---------------------------------------------------------------- Recovery.lean

theorem execRecovery_goes {s : State} (ms : Nat) (h : Memory.wf s.mem = true) : Goes State.Inv (execRecovery ms s) := by
  simp [execRecovery, h]

-- ---------------------------------------------------------------- MediaOps.lean

theorem execMediaOpIssue_goes {s : State} (id : Nat) (h : Memory.wf s.mem = true) : Goes State.Inv (execMediaOpIssue id s) := by
  unfold execMediaOpIssue
  (repeat' split) <;> simp [h]

theorem execLunRebuildComplete_goes {s : State} (n : Nat) (h : Memory.wf s.mem = true) : Goes State.Inv (execLunRebuildComplete n s) := by
  simp [execLunRebuildComplete, h]

-- ---------------------------------------------------------------- Timer.lean

theorem execPtpMessage_goes {s : State} (m : PtpFacts) (h : Memory.wf s.mem = true) : Goes State.Inv (execPtpMessage m s) := by
  unfold execPtpMessage
  split
  · exact h
  · split
    · split <;> simp [h]
    · simp [h]

theorem execPpsInEdge_goes {s : State} (offset : Int) (h : Memory.wf s.mem = true) : Goes State.Inv (execPpsInEdge offset s) := by
  simp [execPpsInEdge, h]

theorem execSourceLocked_goes {s : State} (h : Memory.wf s.mem = true) : Goes State.Inv (execSourceLocked s) := by
  simp [execSourceLocked, h]

theorem execSourceLost_goes {s : State} (h : Memory.wf s.mem = true) : Goes State.Inv (execSourceLost s) := by
  simp [execSourceLost, h]

theorem execHoldoverExpiry_goes {s : State} (h : Memory.wf s.mem = true) : Goes State.Inv (execHoldoverExpiry s) := by
  simp [execHoldoverExpiry, h]

theorem execPpsOut_goes {s : State} (h : Memory.wf s.mem = true) : Goes State.Inv (execPpsOut s) := by
  simp [execPpsOut, h]

-- ---------------------------------------------------------------- Objects.lean

theorem execUserImageLoaded_goes {s : State} (h : Memory.wf s.mem = true) : Goes State.Inv (execUserImageLoaded s) := by
  simp [execUserImageLoaded, h]

-- ---------------------------------------------------------------- Zdp.lean

theorem execOpenLockoutEnd_goes {s : State} (src : Client) (h : Memory.wf s.mem = true) : Goes State.Inv (execOpenLockoutEnd src s) := h

-- ---------------------------------------------------------------- Debug.lean

theorem execExtest_goes {s : State} (cells pins : List Bool) (h : Memory.wf s.mem = true) :
    Goes State.Inv (execExtest cells pins s) := by
  simp [execExtest, h]

theorem execSamplePreload_goes {s : State} (cells pins : List Bool) (h : Memory.wf s.mem = true) :
    Goes State.Inv (execSamplePreload cells pins s) := h

theorem execClamp_goes {s : State} (h : Memory.wf s.mem = true) : Goes State.Inv (execClamp s) := h

theorem execHighz_goes {s : State} (h : Memory.wf s.mem = true) : Goes State.Inv (execHighz s) := h

theorem execBypass_goes {s : State} (h : Memory.wf s.mem = true) : Goes State.Inv (execBypass s) := h

theorem execTapReset_goes {s : State} (h : Memory.wf s.mem = true) : Goes State.Inv (execTapReset s) := h

theorem execDebugHaltRequest_goes {s : State} (l : LogId) (h : Memory.wf s.mem = true) : Goes State.Inv (execDebugHaltRequest l s) := by
  simp [execDebugHaltRequest, h]

theorem execBreakpointSet_goes {s : State} (l : LogId) (n : BitVec 2) (enable : Bool) (ea : BitVec 30) (h : Memory.wf s.mem = true) :
    Goes State.Inv (execBreakpointSet l n enable ea s) := by
  simp [execBreakpointSet, h]

theorem execDebugMailboxIn_goes {s : State} (l : LogId) (word : Word) (full : Bool) (h : Memory.wf s.mem = true) :
    Goes State.Inv (execDebugMailboxIn l word full s) := by
  simp [execDebugMailboxIn, h]

theorem execDebugMailboxOut_goes {s : State} (l : LogId) (h : Memory.wf s.mem = true) : Goes State.Inv (execDebugMailboxOut l s) := by
  simp [execDebugMailboxOut, h]

-- ---------------------------------------------------------------- Grinder.lean

theorem execFoldSegment_goes {s : State} (grp : GroupId) (h : Memory.wf s.mem = true) : Goes State.Inv (execFoldSegment grp s) := by
  simp [execFoldSegment, h]

theorem execFlashScrubRead_goes {s : State} (area : FlashArea) (part : Nat) (item : Nat) (h : Memory.wf s.mem = true) :
    Goes State.Inv (execFlashScrubRead area part item s) := by
  simp [execFlashScrubRead, h]

theorem execRelocation_goes {s : State} (ref : FlashRef) (h : Memory.wf s.mem = true) : Goes State.Inv (execRelocation ref s) := by
  unfold execRelocation
  (repeat' split) <;> simp [h]

theorem execJournalErase_goes {s : State} (grp : GroupId) (bulk : Bool) (stripe : Nat) (h : Memory.wf s.mem = true) :
    Goes State.Inv (execJournalErase grp bulk stripe s) := by
  simp [execJournalErase, h]

theorem execWearLevelling_goes {s : State} (lun : Nat) (h : Memory.wf s.mem = true) : Goes State.Inv (execWearLevelling lun s) := by
  unfold execWearLevelling
  split
  · exact h
  · split <;> simp [h]

theorem execRecordExpiry_goes {s : State} (id : Nat) (h : Memory.wf s.mem = true) : Goes State.Inv (execRecordExpiry id s) := by
  unfold execRecordExpiry
  split
  · exact h
  · split <;> simp [h]

theorem execSramScrub_goes {s : State} (addr : BitVec 40) (found : EccFinding) (h : Memory.wf s.mem = true) :
    Goes State.Inv (execSramScrub addr found s) := by
  simp [execSramScrub, h]

theorem execDramScrub_goes {s : State} (addr : BitVec 40) (found : EccFinding) (h : Memory.wf s.mem = true) :
    Goes State.Inv (execDramScrub addr found s) := by
  simp [execDramScrub, h]

theorem execGrinderJobMiss_goes {s : State} (job : Fin 8) (shortfallMs : Nat) (h : Memory.wf s.mem = true) :
    Goes State.Inv (execGrinderJobMiss job shortfallMs s) := by
  simp [execGrinderJobMiss, h]

-- ---------------------------------------------------------------- Posting.lean

theorem execLineLockTimeout_goes {s : State} (c : CoreId) (h : Memory.wf s.mem = true) : Goes State.Inv (execLineLockTimeout c s) := by
  unfold execLineLockTimeout
  simp only
  split <;> simp [h]

-- ---------------------------------------------------------------- PowerLoss.lean

theorem execPfailAssert_goes {s : State} (h : Memory.wf s.mem = true) : Goes State.Inv (execPfailAssert s) := by
  simp [execPfailAssert, h]

theorem execVholdWarnTrigger_goes {s : State} (first : BitVec 16) (second : BitVec 16) (h : Memory.wf s.mem = true) :
    Goes State.Inv (execVholdWarnTrigger first second s) := by
  simp [execVholdWarnTrigger, h]

theorem execHoldtestDeassert_goes {s : State} (h : Memory.wf s.mem = true) : Goes State.Inv (execHoldtestDeassert s) := by
  simp [execHoldtestDeassert, h]

theorem execAdmissionStop_goes {s : State} (h : Memory.wf s.mem = true) : Goes State.Inv (execAdmissionStop s) := by
  simp [execAdmissionStop, h]

theorem execCoreStop_goes {s : State} (h : Memory.wf s.mem = true) : Goes State.Inv (execCoreStop s) := by
  simp [execCoreStop, h]

theorem execFlushBegin_goes {s : State} (mv : Nat) (h : Memory.wf s.mem = true) : Goes State.Inv (execFlushBegin mv s) := by
  simp [execFlushBegin, h, switchOff_wf]

theorem execFlushComplete_goes {s : State} (mv : Nat) (h : Memory.wf s.mem = true) : Goes State.Inv (execFlushComplete mv s) := by
  simp [execFlushComplete, h]

theorem execSafeAssert_goes {s : State} (h : Memory.wf s.mem = true) : Goes State.Inv (execSafeAssert s) := by
  simp [execSafeAssert, h, allOff_wf]

-- ---------------------------------------------------------------- System.lean

@[simp] theorem spillBack_goes {s : State} (c : Nat) (h : Memory.wf s.mem = true) : Goes State.Inv (s.spillBack c) := by
  unfold State.spillBack
  simp only
  (repeat' split) <;> simp [h, poke_wf]

theorem execSpillWriteback_goes {s : State} (c : CoreId) (h : Memory.wf s.mem = true) : Goes State.Inv (execSpillWriteback c s) := by
  simp [execSpillWriteback, h]

theorem execStoreBufferDrain_goes {s : State} (c : CoreId) (h : Memory.wf s.mem = true) : Goes State.Inv (execStoreBufferDrain c s) := by
  simp [execStoreBufferDrain, h, drainOne_wf]

theorem execModeShadowApply_goes {s : State} (c : CoreId) (h : Memory.wf s.mem = true) : Goes State.Inv (execModeShadowApply c s) := h

theorem execNmi_goes {s : State} (c : CoreId) (h : Memory.wf s.mem = true) : Goes State.Inv (execNmi c s) := by
  simp [execNmi, h]

theorem execDebugHalt_goes {s : State} (c : CoreId) (h : Memory.wf s.mem = true) : Goes State.Inv (execDebugHalt c s) := by
  simp [execDebugHalt, h]

theorem execFastInterrupt_goes {s : State} (c : CoreId) (h : Memory.wf s.mem = true) : Goes State.Inv (execFastInterrupt c s) := by
  simp [execFastInterrupt, h]

theorem execFrameBudgetOverrun_goes {s : State} (c : CoreId) (h : Memory.wf s.mem = true) : Goes State.Inv (execFrameBudgetOverrun c s) := by
  simp [execFrameBudgetOverrun, h]

theorem execInterrupt_goes {s : State} (c : CoreId) (h : Memory.wf s.mem = true) : Goes State.Inv (execInterrupt c s) := by
  simp [execInterrupt, h]

theorem execBreakpoint_goes {s : State} (c : CoreId) (h : Memory.wf s.mem = true) : Goes State.Inv (execBreakpoint c s) := by
  simp [execBreakpoint, h]

-- ---------------------------------------------------------------- Release.lean

theorem execTaskRelease_goes {s : State} (l : LogId) (h : Memory.wf s.mem = true) : Goes State.Inv (execTaskRelease l s) := by
  unfold execTaskRelease
  split
  · exact h
  · simp only
    split <;> simp [h]

-- ---------------------------------------------------------------- ticks, device registers, reserved words, instructions on registers alone

theorem execFrameTick_goes {s : State} (w : TickFacts) (h : Memory.wf s.mem = true) : Goes State.Inv (execFrameTick w s) := by
  have ht := frameTick_goes w h
  unfold execFrameTick
  split
  · next t e => exact serveWaiting_goes (ht.of_next e)
  · exact ht

theorem devRow_goes {s : State} (c : CoreId) {f : State → Host.Outcome State Fault Refusal} (h : Memory.wf s.mem = true)
    (hf : ∀ u : State, Memory.wf u.mem = true → Goes State.Inv (f u)) : Goes State.Inv (s.devRow c f) := by
  unfold State.devRow
  split
  · exact h
  · exact hf _ (drainAll_wf _ h)

theorem devWrite_goes {s : State} (c : Nat) (r : DevReg) (v : DWord) (p : Prop) [Decidable p] (h : Memory.wf s.mem = true) :
    Goes State.Inv (if p then .next (s.havoc c) else .next (s.devWrite c r v)) := by
  simp [h]

theorem execEgsbSubmit_goes {s : State} (c : CoreId) (v : DWord) (h : Memory.wf s.mem = true) : Goes State.Inv (execEgsbSubmit c v s) :=
  devRow_goes c h fun _ hu => devWrite_goes _ _ _ _ hu

theorem execDremEmission_goes {s : State} (c : CoreId) (v : DWord) (h : Memory.wf s.mem = true) : Goes State.Inv (execDremEmission c v s) :=
  devRow_goes c h fun _ hu => devWrite_goes _ _ _ _ hu

theorem execIraiseStore_goes {s : State} (c : CoreId) (v : Word) (h : Memory.wf s.mem = true) : Goes State.Inv (execIraiseStore c v s) :=
  devRow_goes c h fun _ hu => devWrite_goes _ _ _ _ hu

theorem execDbginLoad_goes {s : State} (c : CoreId) (rd : Reg) (h : Memory.wf s.mem = true) : Goes State.Inv (execDbginLoad c rd s) :=
  devRow_goes c h fun u hu => by simpa using hu

theorem execDbgoutStore_goes {s : State} (c : CoreId) (v : Word) (h : Memory.wf s.mem = true) : Goes State.Inv (execDbgoutStore c v s) :=
  devRow_goes c h fun u hu => by simpa using hu

theorem execDeviceRegisterWrite_goes {s : State} (c : CoreId) (addr : BitVec 40) (size : BitVec 4) (v : DWord) (h : Memory.wf s.mem = true) :
    Goes State.Inv (execDeviceRegisterWrite c addr size v s) := by
  unfold execDeviceRegisterWrite
  simp only
  split
  · exact h
  · exact devRow_goes c h fun _ hu => devWrite_goes _ _ _ _ hu

theorem execIllegalInstruction_goes {s : State} (c : CoreId) (w : Word) (h : Memory.wf s.mem = true) :
    Goes State.Inv (execIllegalInstruction c w s) := by
  unfold execIllegalInstruction
  split
  · exact h
  · split
    · exact h
    · simp only
      split
      · simpa using h
      · split
        · simpa [State.takeBreakpoint] using h
        · have hf :
              Memory.wf ((s.setCore c (s.core c).applyDue).fetch c ((s.setCore c (s.core c).applyDue).core c).pc).1.mem = true := by simpa using h
          split
          · next u t hu => rw [hu] at hf; simpa using hf
          · next u w hu => rw [hu] at hf; simpa using hf

theorem Res.Local.keeps {u : State} {c : Nat} {r : Res} (h : r.Local u c) (hu : Memory.wf u.mem = true) : r.keeps State.Inv := by
  cases h <;> exact hu

/-- An instruction that runs a body on registers alone keeps the canonical form. -/
theorem RunsLocal.goes {i : Instr} {c : Nat} {s : State} (hi : RunsLocal i c) (h : Memory.wf s.mem = true) : Goes State.Inv (exec i s) := by
  obtain ⟨d, g, enc, fcost, body, -, hrun, hbody⟩ := hi
  rw [hrun]
  exact runInstr_goes h fun u hu => (hbody u).keeps hu

theorem halfConst_goes {s : State} {i : Instr} {c : CoreId} {g : Guard} {rd : Reg} {imm : BitVec 17} {f : Word → Word → Word}
    (h : Memory.wf s.mem = true) : Goes State.Inv (s.halfConst i c g rd imm f) := by
  refine runInstr_goes h fun u hu => ?_
  split
  · trivial
  · exact hu

end Sys2Proof.Machine
end

section
/-!
PROOF. The canonical form through a step: the dispatch, arm by arm, and the queue.
-/

namespace Sys2Proof.Machine

/-- Every command keeps the canonical form. -/
theorem exec_goes (i : Instr) {s : State} (h : Memory.wf s.mem = true) : Goes State.Inv (exec i s) := by
  cases i with
  | add | sub | and | or | xor | andn | min | max | minu | maxu | neg | abs | mov | sextb | sexth | zextb | zexth | clz | popc | bswap | bswaph
  | addi | andi | ori | xori | li | shl | shr | sar | ror | rol | shli | shri | sari | rori | cmpeq | cmplt | cmpltu | cmple | cmpleu | tst
  | cmpeqi | cmplti | cmpltui | tsti | pand | pandn | por | pxor | mul | mulh | mulhu | div | divu | rem | remu | divqr | divqru | fadd | fsub
  | fmul | fdiv | fneg | fabs | fmov | fcmpeq | fcmplt | fcmple | fcvtf | fcvti | fcvtfi | fma | fms | fnma =>
    exact (registerCore_local rfl (by simp)).goes h
  | lih c g rd imm => exact (halfConst_goes h : Goes _ (execLih c g rd imm s))
  | lil c g rd imm => exact (halfConst_goes h : Goes _ (execLil c g rd imm s))
  | ldb c g rd base mode f => exact (load_goes h : Goes _ (execLdb c g rd base mode f s))
  | ldbu c g rd base mode f => exact (load_goes h : Goes _ (execLdbu c g rd base mode f s))
  | ldh c g rd base mode f => exact (load_goes h : Goes _ (execLdh c g rd base mode f s))
  | ldhu c g rd base mode f => exact (load_goes h : Goes _ (execLdhu c g rd base mode f s))
  | ldw c g rd base mode f => exact (load_goes h : Goes _ (execLdw c g rd base mode f s))
  | ldd c g rd base mode f => exact (load_goes h : Goes _ (execLdd c g rd base mode f s))
  | stb c g rd base mode f => exact runHeld_goes (.stb c g rd base mode f) h
  | sth c g rd base mode f => exact runHeld_goes (.sth c g rd base mode f) h
  | stw c g rd base mode f => exact runHeld_goes (.stw c g rd base mode f) h
  | std c g rd base mode f => exact runHeld_goes (.std c g rd base mode f) h
  | swpw c g rd rs rt => exact runHeld_goes (.swpw c g rd rs rt) h
  | casw c g rd rs rt => exact runHeld_goes (.casw c g rd rs rt) h
  | faddw c g rd rs rt => exact runHeld_goes (.faddw c g rd rs rt) h
  | fence => exact execFence_goes h
  | fencei => exact execFencei_goes h
  | br => exact execBr_goes h
  | call c g disp => exact runHeld_goes (.call c g disp) h
  | jr => exact execJr_goes h
  | callr c g rs => exact runHeld_goes (.callr c g rs) h
  | ret => exact execRet_goes h
  | loop => exact execLoop_goes h
  | loopi => exact execLoopi_goes h
  | rpt => exact execRpt_goes h
  | rpti => exact execRpti_goes h
  | sysc => exact execSysc_goes h
  | eret c g => exact (runReturn_goes h : Goes _ (execEret c g s))
  | fret c g => exact (runReturn_goes h : Goes _ (execFret c g s))
  | nret c g => exact (runReturn_goes h : Goes _ (execNret c g s))
  | mret c g => exact (runReturn_goes h : Goes _ (execMret c g s))
  | sret => exact execSret_goes h
  | tend => exact execTend_goes h
  | ctxsw => exact execCtxsw_goes h
  | push c g rs => exact runHeld_goes (.push c g rs) h
  | pop => exact execPop_goes h
  | mfb => exact execMfb_goes h
  | mtb => exact execMtb_goes h
  | mfs c g rd num => exact runHeld_goes (.mfs c g rd num) h
  | mts => exact execMts_goes h
  | modeShadowApply => exact execModeShadowApply_goes _ h
  | krd => exact execKrd_goes h
  | kset c g rs rt => exact runHeld_goes (.kset c g rs rt) h
  | krref => exact execKrref_goes h
  | dadd c g pd rd rs rt => exact runHeld_goes (.dadd c g pd rd rs rt) h
  | dsub c g pd rd rs rt => exact runHeld_goes (.dsub c g pd rd rs rt) h
  | dzad c g pd rd rs rt => exact runHeld_goes (.dzad c g pd rd rs rt) h
  | dcmp c g pd rd rs rt => exact runHeld_goes (.dcmp c g pd rd rs rt) h
  | dmul c g pd rd rs rt => exact runHeld_goes (.dmul c g pd rd rs rt) h
  | ddiv c g pd rd rs rt => exact runHeld_goes (.ddiv c g pd rd rs rt) h
  | dsrp c g pd rd rt => exact runHeld_goes (.dsrp c g pd rd rt) h
  | dtst c g pd rd rt => exact runHeld_goes (.dtst c g pd rd rt) h
  | cvpz c g pd rd rs rt => exact runHeld_goes (.cvpz c g pd rd rs rt) h
  | cvzp c g pd rd rs rt => exact runHeld_goes (.cvzp c g pd rd rs rt) h
  | cvpb c g pd rd rs rt => exact runHeld_goes (.cvpb c g pd rd rs rt) h
  | cvbp c g pd rd rs rt => exact runHeld_goes (.cvbp c g pd rd rs rt) h
  | mvs c g rd rs => exact runHeld_goes (.mvs c g rd rs) h
  | mvsf c g rd rs rt => exact runHeld_goes (.mvsf c g rd rs rt) h
  | cmps c g rd rs rt => exact runHeld_goes (.cmps c g rd rs rt) h
  | scns c g rd rt => exact runHeld_goes (.scns c g rd rt) h
  | trs c g rd rs => exact runHeld_goes (.trs c g rd rs) h
  | trts c g rd rs rt => exact runHeld_goes (.trts c g rd rs rt) h
  | crcs c g rd => exact runHeld_goes (.crcs c g rd) h
  | edit c g rd rs rt => exact runHeld_goes (.edit c g rd rs rt) h
  | tchkVerify c g rd rs => exact runHeld_goes (.tchkVerify c g rd rs) h
  | tchkForm c g rd rs => exact runHeld_goes (.tchkForm c g rd rs) h
  | post c g m rd rs rt => exact runHeld_goes (.post c g m rd rs rt) h
  | post2 c g m rd rs rt => exact runHeld_goes (.post2 c g m rd rs rt) h
  | post4 c g m rd rs rt => exact runHeld_goes (.post4 c g m rd rs rt) h
  | cust c g n sub rd rs rt => exact runHeld_goes (.cust c g n sub rd rs rt) h
  | interrupt => exact execInterrupt_goes _ h
  | fastInterrupt => exact execFastInterrupt_goes _ h
  | nmi => exact execNmi_goes _ h
  | frameBudgetOverrun => exact execFrameBudgetOverrun_goes _ h
  | debugHalt => exact execDebugHalt_goes _ h
  | breakpoint => exact execBreakpoint_goes _ h
  | storeBufferDrain => exact execStoreBufferDrain_goes _ h
  | spillWriteback => exact execSpillWriteback_goes _ h
  | carafeWaitEnd c => exact (endWait_goes c _ h : Goes _ (execCarafeWaitEnd c s))
  | captureSlotWaitEnd c => exact (endWait_goes c _ h : Goes _ (execCaptureSlotWaitEnd c s))
  | deferredSwapWaitEnd c => exact (endWait_goes c _ h : Goes _ (execDeferredSwapWaitEnd c s))
  | lineLockGrant c => exact (endWait_goes c _ h : Goes _ (execLineLockGrant c s))
  | lineLockTimeout => exact execLineLockTimeout_goes _ h
  | microcodeReloadComplete => exact execMicrocodeReloadComplete_goes _ h
  | egsbSubmit => exact execEgsbSubmit_goes _ _ h
  | egsbWaitEnd => exact execEgsbWaitEnd_goes _ h
  | dremEmission => exact execDremEmission_goes _ _ h
  | derivedCopyComplete => exact execDerivedCopyComplete_goes _ h
  | iraiseStore => exact execIraiseStore_goes _ _ h
  | dbginLoad => exact execDbginLoad_goes _ _ h
  | dbgoutStore => exact execDbgoutStore_goes _ _ h
  | deviceRegisterWrite => exact execDeviceRegisterWrite_goes _ _ _ _ h
  | frameTick => exact execFrameTick_goes _ h
  | taskRelease => exact execTaskRelease_goes _ h
  | planSwitch => exact execPlanSwitch_goes h
  | imagePlacement => exact execImagePlacement_goes h
  | degradedSwitch => exact execDegradedSwitch_goes h
  | rotation => exact execRotation_goes h
  | faultReplacement => exact execFaultReplacement_goes _ h
  | coreSelfTest => exact execCoreSelfTest_goes _ _ h
  | ptpMessage => exact execPtpMessage_goes _ h
  | sourceLocked => exact execSourceLocked_goes h
  | sourceLost => exact execSourceLost_goes h
  | holdoverExpiry => exact execHoldoverExpiry_goes h
  | ppsInEdge => exact execPpsInEdge_goes _ h
  | ppsOut => exact execPpsOut_goes h
  | vrtDatagram => exact execVrtDatagram_goes _ h
  | arpRequest => exact execArpRequest_goes _ _ h
  | neighbourSolicitation => exact execNeighbourSolicitation_goes _ _ h
  | nonVrtFrame => exact execNonVrtFrame_goes _ _ h
  | portLinkChange => exact execPortLinkChange_goes _ _ _ h
  | replyTransmit => exact execReplyTransmit_goes _ _ h
  | percolatorUnitEnqueue => exact execPercolatorUnitEnqueue_goes _ h
  | mediaOpIssue => exact execMediaOpIssue_goes _ h
  | mediaOpComplete => exact execMediaOpComplete_goes _ _ _ h
  | mediaOpTimeout => exact execMediaOpTimeout_goes _ h
  | pfailAssert => exact execPfailAssert_goes h
  | vholdWarnTrigger => exact execVholdWarnTrigger_goes _ _ h
  | holdtestDeassert => exact execHoldtestDeassert_goes h
  | admissionStop => exact execAdmissionStop_goes h
  | coreStop => exact execCoreStop_goes h
  | flushBegin => exact execFlushBegin_goes _ h
  | flushComplete => exact execFlushComplete_goes _ h
  | safeAssert => exact execSafeAssert_goes h
  | capacitanceTestStart => exact execCapacitanceTestStart_goes h
  | capacitanceTestEnd => exact execCapacitanceTestEnd_goes _ _ h
  | recovery => exact execRecovery_goes _ h
  | foldSegment => exact execFoldSegment_goes _ h
  | flashScrubRead => exact execFlashScrubRead_goes _ _ _ h
  | relocation => exact execRelocation_goes _ h
  | journalErase => exact execJournalErase_goes _ _ _ h
  | wearLevelling => exact execWearLevelling_goes _ h
  | recordExpiry => exact execRecordExpiry_goes _ h
  | sramScrub => exact execSramScrub_goes _ _ h
  | dramScrub => exact execDramScrub_goes _ _ h
  | grinderJobMiss => exact execGrinderJobMiss_goes _ _ h
  | sramRowRepair => exact execSramRowRepair_goes _ _ h
  | sramRowRepairComplete => exact execSramRowRepairComplete_goes _ _ h
  | lunRebuildComplete => exact execLunRebuildComplete_goes _ h
  | watchdogExpiry => exact execWatchdogExpiry_goes h
  | sensorSample => exact execSensorSample_goes _ h
  | powerGoodLost => exact execPowerGoodLost_goes _ h
  | nmiNAssert => exact execNmiNAssert_goes h
  | logNandMirror => exact execLogNandMirror_goes h
  | logNorMirror => exact execLogNorMirror_goes h
  | porstAssert => exact execPorstAssert_goes s
  | boot => exact execBoot_goes _ h
  | bootResume => exact execBootResume_goes h
  | domainPowerTimeout => exact execDomainPowerTimeout_goes _ h
  | avsUpdate => exact execAvsUpdate_goes _ h
  | pmbusRetry => exact execPmbusRetry_goes _ _ h
  | zdpOpen m => exact (receiveAs_goes _ m h : Goes _ (execZdpOpen m s))
  | zdpProve m => exact (receiveAs_goes _ m h : Goes _ (execZdpProve m s))
  | zdpClose m => exact (receiveAs_goes _ m h : Goes _ (execZdpClose m s))
  | zdpNop m => exact (receiveAs_goes _ m h : Goes _ (execZdpNop m s))
  | zdpRead m => exact (receiveAs_goes _ m h : Goes _ (execZdpRead m s))
  | zdpWrite m => exact (receiveAs_goes _ m h : Goes _ (execZdpWrite m s))
  | zdpWriteSeg m => exact (receiveAs_goes _ m h : Goes _ (execZdpWriteSeg m s))
  | zdpCancel m => exact (receiveAs_goes _ m h : Goes _ (execZdpCancel m s))
  | transferTimeout => exact execTransferTimeout_goes _ h
  | sessionIdleTimeout => exact execSessionIdleTimeout_goes _ h
  | openLockoutEnd => exact execOpenLockoutEnd_goes _ h
  | persistentStoreComplete => exact execPersistentStoreComplete_goes _ h
  | canReassemblyTimeout => exact execCanReassemblyTimeout_goes h
  | canBusOffRecovery => exact execCanBusOffRecovery_goes h
  | shadowPlanWrite w => exact (directWrite_goes _ _ w h : Goes _ (execShadowPlanWrite w s))
  | planCommit w => exact (commandWrite_goes _ _ _ w h : Goes _ (execPlanCommit w s))
  | shadowDiscard w => exact (commandWrite_goes _ _ _ w h : Goes _ (execShadowDiscard w s))
  | partnerConfigWrite w => exact (directWrite_goes _ _ w h : Goes _ (execPartnerConfigWrite w s))
  | partnerEntryWrite w => exact (directWrite_goes _ _ w h : Goes _ (execPartnerEntryWrite w s))
  | keyWrite w => exact (directWrite_goes _ _ w h : Goes _ (execKeyWrite w s))
  | keyErase w => exact (directWrite_goes _ _ w h : Goes _ (execKeyErase w s))
  | orderlyShutdown w => exact (directWrite_goes _ _ w h : Goes _ (execOrderlyShutdown w s))
  | portModeWrite port fec w => exact (directWrite_goes _ _ w h : Goes _ (execPortModeWrite port fec w s))
  | rawCommandStart w => exact (directWrite_goes _ _ w h : Goes _ (execRawCommandStart w s))
  | imageWrite w => exact (directWrite_goes _ _ w h : Goes _ (execImageWrite w s))
  | imageDelete w => exact (directWrite_goes _ _ w h : Goes _ (execImageDelete w s))
  | programImageWrite n set w => exact (directWrite_goes _ _ w h : Goes _ (execProgramImageWrite n set w s))
  | customerObjectWrite n w => exact (directWrite_goes _ _ w h : Goes _ (execCustomerObjectWrite n w s))
  | userImageWrite w => exact (directWrite_goes _ _ w h : Goes _ (execUserImageWrite w s))
  | userImageLoaded => exact execUserImageLoaded_goes h
  | slotUnload w => exact (directWrite_goes _ _ w h : Goes _ (execSlotUnload w s))
  | deviceRestart w => exact (directWrite_goes _ _ w h : Goes _ (execDeviceRestart w s))
  | updateImageWrite w => exact (directWrite_goes _ _ w h : Goes _ (execUpdateImageWrite w s))
  | updateTry w => exact (commandWrite_goes _ _ _ w h : Goes _ (execUpdateTry w s))
  | updateCommit w => exact (commandWrite_goes _ _ _ w h : Goes _ (execUpdateCommit w s))
  | updateDiscard w => exact (commandWrite_goes _ _ _ w h : Goes _ (execUpdateDiscard w s))
  | retireCore w => exact (directWrite_goes _ _ w h : Goes _ (execRetireCore w s))
  | retireLun w => exact (directWrite_goes _ _ w h : Goes _ (execRetireLun w s))
  | domainRequest w => exact (directWrite_goes _ _ w h : Goes _ (execDomainRequest w s))
  | raiseNmi w => exact (directWrite_goes _ _ w h : Goes _ (execRaiseNmi w s))
  | raiseBar w => exact (directWrite_goes _ _ w h : Goes _ (execRaiseBar w s))
  | credentialWrite ring w => exact (directWrite_goes _ _ w h : Goes _ (execCredentialWrite ring w s))
  | extest => exact execExtest_goes _ _ h
  | samplePreload => exact execSamplePreload_goes _ _ h
  | clamp => exact execClamp_goes h
  | highz => exact execHighz_goes h
  | bypass => exact execBypass_goes h
  | tapReset => exact execTapReset_goes h
  | debugHaltRequest => exact execDebugHaltRequest_goes _ h
  | breakpointSet => exact execBreakpointSet_goes _ _ _ _ h
  | debugMailboxIn => exact execDebugMailboxIn_goes _ _ _ h
  | debugMailboxOut => exact execDebugMailboxOut_goes _ h
  | illegalInstruction => exact execIllegalInstruction_goes _ _ h
  | unknownCommand => exact execUnknownCommand_goes _ h
  | canFdFrame => exact execCanFdFrame_goes _ h
  | canFaultConfinement => exact execCanFaultConfinement_goes _ h

/-- Settles O3: a step idles or runs one command, and each command keeps the canonical form. -/
theorem memoryStaysCanonical : Obligations.MemoryStaysCanonical := by
  intro s t h hstep
  unfold step at hstep
  split at hstep
  · cases hstep
    exact h
  · next i rest _ => exact (exec_goes (s := { s with pending := rest }) i h).of_next hstep

end Sys2Proof.Machine
end
